-- ==== Sys2Proof/Word.lean ====
section
/-! DEFINITION. The word types of the XB2080 model and their plainest arithmetic. -/

namespace Sys2Proof

/-- A register or table word: 32 bits, little-endian (R12). -/
abbrev W32 := BitVec 32

/-- An instant of troupe time in whole nanoseconds, TT_NS (R53). -/
abbrev TT := BitVec 64

/-- One byte. -/
abbrev Byte := BitVec 8

/-- A word of a fabric queue or of a x36 block RAM (R406). -/
abbrev W36 := BitVec 36

/-- A member ID of 12 bits (R4). -/
abbrev MemberId := BitVec 12

end Sys2Proof
end

