-- ==== Sys2Proof/Syntax.lean ====
section
/-! DEFINITION. The commands of the XB2080, one constructor of `Instr` per row of the opcode table, and the
data types of their operands. Every command names first the instant of TT (whole nanoseconds) at which it
happens. -/

namespace Sys2Proof

/-- The quality sideband of one sample (glossary of the scope chapter). -/
structure Marks where
  ovr : Bool
  suspect : Bool
  sat : Bool
  fill : Bool
  deriving DecidableEq, Repr

/-- One lane word with its sideband (R284). -/
structure Sample where
  word : BitVec 16
  marks : Marks
  deriving DecidableEq, Repr

/-- A slice: the lane words of up to 64 pixels in order (R46, R284). -/
abbrev Slice := List Sample

/-- The adaptive loops of the device whose setting a write may seed (R27, R33). -/
inductive LoopId where
  | eq (p : Fin 32)
  | servo
  | dcr (c : Fin 48)
  | dcb (c : Fin 48)
  | sleep (k : Fin 6)
  | carousel
  deriving DecidableEq, Repr

/-- The four reference sources with codes 1 to 4 (R59). -/
inductive RefSrc where
  | genlock
  | pps
  | axlink
  | observer
  deriving DecidableEq, Repr

/-- Where a record enters the cue engine (source table of the cue chapter). -/
inductive CueSource where
  | script
  | observer
  | axlink
  | event
  | engine
  deriving DecidableEq, Repr

/-- A cue record (R87). `origin` holds bytes 24-25 whole, reserved bits included. -/
structure CueRec where
  launch : BitVec 64
  target : W32
  action : Byte
  service : Byte
  flags : Byte
  eventSrc : Byte
  a : W32
  b : W32
  preroll : BitVec 16
  origin : BitVec 16
  seq : W32
  deriving DecidableEq, Repr

/-- The name of a cue held by the engine: origin and seq (R39, R108), and `sub`, 0 for the cue itself and
`i + 1` for the internal cue of scene entry `i` (R93). -/
structure CueId where
  origin : MemberId
  seq : W32
  sub : Nat
  deriving DecidableEq, Repr

/-- A record source of the intake rotation (R100): which record the engine takes next. -/
inductive Intake where
  | script (e : Fin 1024)
  | observer
  | axlink
  | event
  | engine
  deriving DecidableEq, Repr

/-- What the flash answered at discovery and directory reading (R160, R164, R165): its SFDP, density and addressing, the
read modes that it advertises with the maximum clock of each in MHz, and the bytes of the directories and headers. -/
structure FlashFound where
  sfdp : Bool
  sizeLog2 : Nat
  fourByte : Bool
  modes : List (Fin 5 × Nat)
  dir0 : List Byte
  dir1 : List Byte
  hdrA : List Byte
  hdrB : List Byte
  hdrG : List Byte
  deriving DecidableEq, Repr

/-- What the reading of one slot gave: its bytes, and whether a read timed out or a mode change failed
(step 10 of R174). -/
structure SlotRead where
  bytes : List Byte
  failed : Bool
  deriving DecidableEq, Repr

/-- What a line's EAV did against the flywheel (R204). -/
inductive EavSeen where
  | inPlace
  | missing
  | misplaced (pos : BitVec 16)
  deriving DecidableEq, Repr

/-- One received line (R205): its number, the outcome of its checks, and its slices. -/
structure LineData where
  number : BitVec 12
  crcBad : Bool
  lnBad : Bool
  slices : List Slice
  deriving DecidableEq, Repr

/-- What a port measures at a received frame start (R207, R208, R218). -/
structure RxFrame where
  offsetNs : BitVec 32
  pid : Option W32
  format : BitVec 6
  levelB : Bool
  freq : W32
  eye : BitVec 16
  deriving DecidableEq, Repr

/-- One entry of an Axlink frame header that the receiving rules read (R368). -/
structure AxHdr where
  retx : Bool
  replay : Bool
  source : MemberId
  dest : MemberId
  bcast : Bool
  seq : BitVec 16
  channel : BitVec 16
  offset : W32
  deriving DecidableEq, Repr

/-- The content of a HELLO (R380). -/
structure Hello where
  id : MemberId
  priority : Byte
  nonce : BitVec 64
  leadPriority : Byte
  leadId : MemberId
  hops : BitVec 6
  epoch : BitVec 16
  parent : Option MemberId
  asym : BitVec 16
  acked : Bool
  deriving DecidableEq, Repr

/-- The retransmitted classes with their codes of R368 and R369. -/
inductive AxClass where
  | cue
  | iso
  | bulk
  | mgmt
  deriving DecidableEq, Repr

/-- Why a received frame is discarded (R368). -/
inductive BadFrame where
  | crc
  | uncorrectable
  | corrected
  deriving DecidableEq, Repr

/-- The local-memory errors that an activation met (R311): words corrected, an uncorrectable word of its data, and
an uncorrectable word of its bank or descriptor. -/
structure ActEnd where
  corrected : Nat
  uncorrectable : Bool
  badBank : Bool
  badDescriptor : Bool
  deriving DecidableEq, Repr

/-- What reading a line from frame memory met (R338, R339). -/
structure LineCheck where
  corrected : Nat
  uncorrectable : Nat
  crcBad : Bool
  deriving DecidableEq, Repr

/-- A level in microvolts, as a tap presents it (R269). -/
abbrev MicroVolt := Int

/-- An access of 8, 16 or 32 bits, or one 64-bit unit (R462). -/
inductive Size where
  | s8
  | s16
  | s32
  | s64
  deriving DecidableEq, Repr

/-- The ten monitored environment conditions beyond the rails are numbered as KEEP_VIOLn (R154, R457). -/
abbrev MonitorIx := Fin 16

/-- A TIME pin function (R421). -/
inductive TimeFn where
  | pps
  | wclk48
  | wclk96
  | wclk192
  | clk10m
  deriving DecidableEq, Repr

/-- An I/O bank: GPIO banks PA-PD or fabric I/O banks 0-3. -/
inductive Bank where
  | gpio (b : Fin 4)
  | fio (j : Fin 4)
  deriving DecidableEq, Repr

/-- The commands: the rows of the opcode table, in its order. -/
inductive Instr where
  -- registers and loops
  | registerWrite (at_ : TT) (addr val : W32)
  | clearingRead (at_ : TT) (addr : W32)
  | pairLoRead (at_ : TT) (addr : W32) (wide : Bool)
  | ttSnapshotRead (at_ : TT) (wide : Bool)
  | loopSeedWrite (at_ : TT) (l : LoopId) (val : W32)
  | resourceReady (at_ : TT) (r : Fin 127) (locked : Bool)
  -- timebase
  | genlockFrame (at_ : TT) (format : BitVec 6) (err : BitVec 64)
  | ppsEdge (at_ : TT) (err : BitVec 64)
  | sourceRequalify (at_ : TT) (src : RefSrc)
  | srcLoss (at_ : TT) (src : RefSrc) (cause : TT)
  | tbSrcPrioWrite (at_ : TT) (val : W32)
  | servoUpdate (at_ : TT)
  | todArm (at_ : TT) (val : W32)
  | todDiscard (at_ : TT)
  | ageingFit (at_ : TT)
  | frameStart (at_ : TT) (rg : Fin 16)
  | lineStart (at_ : TT) (rg : Fin 16)
  | rgnCtlWrite (at_ : TT) (rg : Fin 16) (offset : Bool) (val : W32)
  | btnCtlWrite (at_ : TT) (bt : Fin 32) (val : W32)
  | btWindowEdge (at_ : TT) (bt : Fin 32) (opens : Bool)
  -- cues
  | mailboxSubmit (at_ : TT) (val : W32)
  | cueAccept (at_ : TT) (src : Intake)
  | prerollWake (at_ : TT) (id : CueId)
  | cueHandover (at_ : TT) (id : CueId)
  | nop (at_ : TT) (id : CueId)
  | writeField (at_ : TT) (id : CueId)
  | setBits (at_ : TT) (id : CueId)
  | clearBits (at_ : TT) (id : CueId)
  | scene (at_ : TT) (id : CueId)
  | route (at_ : TT) (id : CueId)
  | gainStep (at_ : TT) (id : CueId)
  | direction (at_ : TT) (id : CueId)
  | pin (at_ : TT) (id : CueId)
  | streamArm (at_ : TT) (id : CueId)
  | barrier (at_ : TT) (id : CueId)
  | freeze (at_ : TT) (id : CueId)
  | release (at_ : TT) (id : CueId)
  | wake (at_ : TT) (id : CueId)
  | wakeHoldExpire (at_ : TT) (r : Fin 127)
  | cancel (at_ : TT) (id : CueId)
  | notify (at_ : TT) (id : CueId)
  | chainSuccessorRelease (at_ : TT) (id : CueId)
  | dedupEntryExpire (at_ : TT) (origin : MemberId)
  | scriptEntryEnable (at_ : TT) (e : Fin 1024)
  | scriptEntryDisable (at_ : TT) (e : Fin 1024)
  | scriptInstanceRetry (at_ : TT) (e : Fin 1024)
  -- device states
  | reqStandby (at_ : TT)
  | reqRun (at_ : TT)
  | reqReload (at_ : TT)
  | reqInspect (at_ : TT)
  | reqReset (at_ : TT)
  | mainSupplyLost (at_ : TT)
  | powerOff (at_ : TT)
  | mainRailsUp (at_ : TT) (mode a1 a0 : Bool)
  | resetNAssert (at_ : TT)
  | resetRelease (at_ : TT)
  | flashDiscovery (at_ : TT) (found : FlashFound)
  | slotCheckComplete (at_ : TT) (read : SlotRead)
  | startCalibrationDone (at_ : TT) (quads : BitVec 12) (ports : W32)
  | windExit (at_ : TT)
  | drainTEnd (at_ : TT)
  | drainComplete (at_ : TT)
  | ttAlarm (at_ : TT)
  | autoSleepUpdate (at_ : TT)
  | keepAwakeWrite (at_ : TT) (k : Fin 4) (val : W32)
  -- battery
  | batterySwitch (at_ : TT) (toVbat : Bool)
  | batViolClrWrite (at_ : TT) (val : W32)
  | batUserLockWrite (at_ : TT) (val : W32)
  -- fuses, rollback, readback
  | fuseProgramKeyHash (at_ : TT)
  | fuseProgramAesKey (at_ : TT)
  | fuseRequireSeal (at_ : TT)
  | fuseRequireEncrypt (at_ : TT)
  | fusePrivateJtagOff (at_ : TT)
  | fuseLock (at_ : TT)
  | rollbackAdvance (at_ : TT) (val : W32)
  | rollbackStep (at_ : TT)
  | readbackSelect (at_ : TT) (val : W32)
  -- line ports
  | lpModeWrite (at_ : TT) (p : Fin 32) (val : W32)
  | eqUpdate (at_ : TT) (p : Fin 32) (computed : Int)
  | cdrLock (at_ : TT) (p : Fin 32)
  | cdrLockLoss (at_ : TT) (p : Fin 32) (cause : TT)
  | autoRateTrialEnd (at_ : TT) (p : Fin 32)
  | lpKeepEqUpdate (at_ : TT) (p : Fin 32)
  | signalLoss (at_ : TT) (p : Fin 32)
  | signalReturn (at_ : TT) (p : Fin 32)
  | eavReceived (at_ : TT) (p : Fin 32) (seen : EavSeen)
  | lineReceived (at_ : TT) (p : Fin 32) (line : LineData)
  | rxFrameStart (at_ : TT) (p : Fin 32) (f : RxFrame)
  -- analogue cells and chains
  | directionChangeComplete (at_ : TT) (c : Fin 48)
  | dcRestoreUpdate (at_ : TT) (c : Fin 48) (level : BitVec 12)
  | overRangeBegin (at_ : TT) (c : Fin 48)
  | overRangeEnd (at_ : TT) (c : Fin 48)
  | suspectIntervalEnd (at_ : TT) (c : Fin 48)
  | calStale (at_ : TT) (c : Fin 48)
  | dcBlockUpdate (at_ : TT) (c : Fin 48) (up : Bool)
  | dacInputUnderrun (at_ : TT) (c : Fin 48)
  -- window monitors
  | monitorReady (at_ : TT) (m : Fin 96)
  | monitorTransition (at_ : TT) (m : Fin 96) (level : MicroVolt)
  | monitorHoldEnd (at_ : TT) (m : Fin 96) (level : MicroVolt)
  | latchClearWrite (at_ : TT) (m : Fin 96) (val : W32)
  -- stream engines
  | activationReady (at_ : TT) (se : Fin 16) (slot : Fin 64) (cancelled : Bool)
  | activationEnd (at_ : TT) (se : Fin 16) (obs : ActEnd)
  | transferGrant (at_ : TT) (cycle : Nat)
  | transferComplete (at_ : TT) (init : Fin 24)
  | paramWrite (at_ : TT) (se : Fin 16) (val : W32)
  | taskCancel (at_ : TT) (se : Fin 16) (half : Bool) (val : W32)
  | carouselStep (at_ : TT)
  -- streams and frame memory
  | streamEnable (at_ : TT) (ds : Fin 1024) (val : W32)
  | streamDisable (at_ : TT) (ds : Fin 1024) (val : W32)
  | streamUnitStart (at_ : TT) (ds : Fin 1024)
  | bandwidthWindow (at_ : TT) (above : List (Fin 1024)) (held : Bool) (heldPorts : BitVec 4)
  | fmLineRead (at_ : TT) (ds : Fin 1024) (line : BitVec 16) (check : LineCheck)
  | scrubRead (at_ : TT) (corrected uncorrectable : Bool)
  | fmWindowAccess (at_ : TT) (write : Bool) (size : Size) (addr : W32) (val : BitVec 64) (served : Bool)
  -- services
  | quotaWrite (at_ : TT) (svc : Fin 256) (val : W32)
  -- axlink
  | axAlign (at_ : TT) (p : Fin 4)
  | noAlignTimeout (at_ : TT) (p : Fin 4)
  | axLockLoss (at_ : TT) (p : Fin 4) (cause : TT)
  | axSilenceTimeout (at_ : TT) (p : Fin 4)
  | helloTimer (at_ : TT) (p : Fin 4)
  | hello (at_ : TT) (p : Fin 4) (h : Hello)
  | leadEpochTick (at_ : TT)
  | advertStale (at_ : TT) (p : Fin 4)
  | ack (at_ : TT) (p : Fin 4) (cls : AxClass) (seq : BitVec 16)
  | nak (at_ : TT) (p : Fin 4) (cls : AxClass) (seq : BitVec 16)
  | retxTimeout (at_ : TT) (p : Fin 4) (cls : AxClass)
  | credit (at_ : TT) (p : Fin 4) (cueFrames mgmtUnits bulkUnits : Nat)
  | creditTimer (at_ : TT) (p : Fin 4)
  | join (at_ : TT) (p : Fin 4) (id : MemberId) (nonce : BitVec 64)
  | roster (at_ : TT) (p : Fin 4) (id : MemberId) (nonce : BitVec 64)
  | leave (at_ : TT) (p : Fin 4)
  | timeExchangeStart (at_ : TT) (p : Fin 4) (t1Frac : BitVec 16)
  | timeReq (at_ : TT) (p : Fin 4) (t2Frac : BitVec 16) (t3 : TT) (t3Frac : BitVec 16)
  | timeResp (at_ : TT) (p : Fin 4) (t2 : TT) (t2Frac : BitVec 16) (t3 : TT) (t3Frac : BitVec 16)
      (t4Frac : BitVec 16)
  | timeExchangeMiss (at_ : TT) (p : Fin 4)
  | cueRecord (at_ : TT) (p : Fin 4) (h : AxHdr) (r : CueRec)
  | replayReq (at_ : TT) (p : Fin 4) (h : AxHdr)
  | isoLine (at_ : TT) (p : Fin 4) (h : AxHdr) (bytes : List Byte) (lineDone : Bool)
  | isoUnit (at_ : TT) (p : Fin 4) (h : AxHdr) (bytes : List Byte) (lineDone : Bool)
  | bulkStart (at_ : TT) (val : W32)
  | bulkRequest (at_ : TT) (p : Fin 4) (h : AxHdr) (raddr length : W32)
  | bulkGrant (at_ : TT) (p : Fin 4) (h : AxHdr)
  | bulkConfirm (at_ : TT) (p : Fin 4) (h : AxHdr)
  | bulkRelease (at_ : TT) (p : Fin 4) (h : AxHdr)
  | bulkData (at_ : TT) (p : Fin 4) (h : AxHdr) (raddr : W32) (bytes : List Byte)
  | bulkDone (at_ : TT) (p : Fin 4) (h : AxHdr) (refused : Bool)
  | rmtAccessStart (at_ : TT) (val : W32)
  | mgmtRead (at_ : TT) (p : Fin 4) (h : AxHdr) (addr : W32)
  | mgmtWrite (at_ : TT) (p : Fin 4) (h : AxHdr) (addr val : W32)
  | mgmtResponse (at_ : TT) (p : Fin 4) (h : AxHdr) (status : Byte) (data : W32)
  | rmtTimeout (at_ : TT)
  | mgmtLog (at_ : TT) (p : Fin 4) (h : AxHdr) (payload : List Byte)
  -- fabric
  | fifoPush (at_ : TT) (k : Fin 128) (bridge : Bool) (data : W36) (stale : Bool)
  | fifoPop (at_ : TT) (k : Fin 128) (bridge : Bool) (stale : Bool)
  | fifoFlush (at_ : TT) (k : Fin 128)
  | fioTapIncrement (at_ : TT) (m : Fin 96)
  | fioTapDecrement (at_ : TT) (m : Fin 96)
  | bridgeNop (at_ : TT) (c : Fin 32)
  | bridgeCue (at_ : TT) (c : Fin 32)
  | bridgeBarrier (at_ : TT) (c : Fin 32)
  | bridgeFmWrite (at_ : TT) (c : Fin 32)
  | bridgeFmRead (at_ : TT) (c : Fin 32)
  | bridgeBulk (at_ : TT) (c : Fin 32)
  | bridgeCommandComplete (at_ : TT) (c : Fin 32)
  -- pins
  | gpioOutWrite (at_ : TT) (b : Fin 4) (size : Size) (byteOff : Fin 4) (val : W32)
  | gpioInSnapshotRead (at_ : TT) (pads : BitVec 64)
  | pelEvent (at_ : TT) (k : Fin 16) (rises : Bool) (cause : TT)
  | pelGlitch (at_ : TT) (k : Fin 16)
  | pelkCtlWrite (at_ : TT) (k : Fin 16) (val : W32)
  -- event log
  | eventCommit (at_ : TT)
  | elTailWrite (at_ : TT) (val : W32)
  | elRecordWord0Read (at_ : TT) (slot : Fin 4096)
  | violationEpisodeStart (at_ : TT) (m : MonitorIx) (value : BitVec 16) (cause : TT)
  | violationEpisodeEnd (at_ : TT) (m : MonitorIx)
  -- observer port and JTAG
  | obsRead (at_ : TT) (op len : Byte) (addr : W32) (full : List Nat)
  | obsWrite (at_ : TT) (op len : Byte) (addr : W32) (data : List Byte) (full : List Nat)
  | obsStat (at_ : TT) (op len : Byte) (addr : W32)
  | obsCsAbort (at_ : TT) (bytes : List Byte) (full : List Nat)
  | i2cStatusRead (at_ : TT)
  | tapReset (at_ : TT)
  | extest (at_ : TT) (pads shiftIn : BitVec 546)
  | samplePreload (at_ : TT) (pads shiftIn : BitVec 546)
  | idcode (at_ : TT)
  | highz (at_ : TT)
  | clamp (at_ : TT)
  | obsAccess (at_ : TT) (dr : BitVec 72) (full : Bool)
  | rbScan (at_ : TT)
  | bypass (at_ : TT) (code : Byte) (tdi : Bool)
  -- further timed steps
  | eqAcquireStep (at_ : TT) (p : Fin 32) (code : BitVec 10)
  | chainOutputSample (at_ : TT) (c : Fin 48) (value : Int)
  | activationDeadlinePass (at_ : TT) (se : Fin 16) (slot : Fin 64)
  | domainSwitchedOff (at_ : TT) (r : Fin 127)
  | axBadFrame (at_ : TT) (p : Fin 4) (why : BadFrame)
  | fclkEdge (at_ : TT) (fioRise fioFall : BitVec 96) (gpio : BitVec 64)
  | timeOutputEdge (at_ : TT) (f : TimeFn) (rises : Bool)
  | bankSupplyLoss (at_ : TT) (b : Bank)
  | bankSupplyReturn (at_ : TT) (b : Bank)
  | aoclkSecond (at_ : TT)
  deriving DecidableEq, Repr

end Sys2Proof
end

