-- ==== Sys2Proof/Decode.lean ====
section
/-! DEFINITION. The command that a word spells. No row of the opcode table of this block gives bits, so no word spells
a command. -/

namespace Sys2Proof

/-- The command that `nbits` bits spell by the opcode table: none, since its rows give none. -/
def decodeTableWord (_nbits _w : Nat) : Option Instr := none

end Sys2Proof
end

