-- ==== Sys2Proof/Config.lean ====
section
/-! DEFINITION. What an implementation fixes and the spec does not state: the free values of the model, each an
uninterpreted constant with no body (DESIGN CHOICE, notes/assumptions/1 and 2). -/

namespace Sys2Proof.Config

/-- A fresh unstated value for each value of the counter that a step reads and advances: a value the spec leaves
undefined or gives only by a bound (DESIGN CHOICE, notes/assumptions/1). -/
opaque freeValue : Nat → BitVec 64

/-- CRC-32 over bytes where the spec names no bit order for the register that shows it (BAT_KEEP_CRC, R157). -/
opaque keepCrc : List W32 → W32

/-- The lane word of a component of a raster format at black level: the format code and the component (R206, R210). The
formats' standards give it; the spec names it only. -/
opaque blackLevel : Nat → Nat → BitVec 16

/-- The value that a ROM response computes from the samples before it, newest first, in 2⁻²⁴ of full scale: the response's
index and as many samples as it reaches (R253, R264). The spec gives the responses by their pass and stop bands only. -/
opaque response : Nat → List Int → Int

/-- A sample delayed by a number of 1/64 of a sample, from the samples before it, newest first (R256). -/
opaque delayed : Nat → List Int → Int

/-- The DAC code of one converter period after a sample, as the response and the interpolating and noise-shaping stages
compute it: the response's index, the samples, newest first, and the period (R251, R259). -/
opaque interpolated : Nat → List Int → Nat → Int

/-- Where a boundary cell lies in the boundary register: the ball's input, output and enable cell, by 3 · ball + 0, 1 or 2. The
BSDL description gives it; the spec only names the balls (R481). -/
opaque boundaryCell : Nat → Nat

/-- How many slices beyond 32 a consumer of a ring channel holds before its producer waits (R285). -/
opaque sliceRoom : Nat

/-- Whether a sample position of a line lies in the active picture of a raster format: the format code, the line and
the sample of the line. The formats' standards place it; the spec gives only its size (R76). -/
opaque activeSample : Nat → Nat → Nat → Bool

end Sys2Proof.Config
end

