-- ==== Sys2Proof/Machine/Regs.lean ====
section
/-! DEFINITION. The register map of the device: every register of the address map (R484) with its address,
access code (R15), reset value and fields, as the register tables of the chapters give them; and the words of
the stream descriptors, barriers and event-log ring (R485), which are reached the same way. -/

namespace Sys2Proof.Machine

/-- The access codes of R15. `rwl`, `rol` and `wol` are RW, RO and WO joined with L. -/
inductive Acc where
  | rw | ro | wo | w1c | rc | rwl | rol | wol
  deriving DecidableEq, Repr

/-- One field of a register: its bits, its access code, and the values it admits (`[]`: every value; R18). -/
structure FieldDesc where
  hi : Nat
  lo : Nat
  acc : Acc
  admits : List (Nat × Nat)
  deriving DecidableEq, Repr

/-- One row of a register table: `count` registers from offset `off`, `step` bytes apart. -/
structure RegRow where
  off : Nat
  count : Nat
  step : Nat
  reset : Nat
  /-- Held in the battery domain (code K). -/
  keep : Bool
  /-- Accepts 8-bit and 16-bit writes (code B). -/
  bytes : Bool
  fields : List FieldDesc
  deriving DecidableEq, Repr

/-- A field of one register, by address. -/
structure Fld where
  addr : Nat
  hi : Nat
  lo : Nat
  deriving DecidableEq, Repr

/-- The blocks of the address map (R484), the bare port half of GPIO apart from its shared half, and the
tables of R485 but for frame memory. -/
inductive Block where
  | sys
  | bat
  | tb
  | cue
  | cfg
  | lp
  | ac
  | amx
  | wm
  | fc
  | se
  | sv
  | fm
  | ax
  | gp
  | gpio
  | qc
  | el
  | ds
  | ba
  | ring
  deriving DecidableEq, Repr

/-- Rows of block SYS (R156). -/
def sysRows : List RegRow := [
  ⟨0x0, 1, 4, 0x208054B1, false, false, [⟨31, 0, .ro, []⟩]⟩,
  ⟨0x4, 1, 4, 0xB0, false, false, [⟨31, 0, .ro, []⟩]⟩,
  ⟨0x8, 1, 4, 0x2, false, false, [⟨15, 12, .ro, []⟩, ⟨8, 8, .ro, []⟩, ⟨3, 0, .ro, []⟩]⟩,
  ⟨0xC, 1, 4, 0x0, false, false, [⟨2, 0, .wo, [(1, 5)]⟩]⟩,
  ⟨0x10, 1, 4, 0x0, false, false, [⟨5, 4, .ro, []⟩, ⟨2, 0, .ro, []⟩]⟩,
  ⟨0x14, 1, 4, 0x0, false, false, [⟨31, 0, .ro, []⟩]⟩,
  ⟨0x18, 1, 4, 0x0, false, false, [⟨7, 4, .ro, []⟩, ⟨2, 2, .ro, []⟩, ⟨1, 1, .ro, []⟩, ⟨0, 0, .ro, []⟩]⟩,
  ⟨0x1C, 1, 4, 0x0, false, false, [⟨31, 0, .ro, []⟩]⟩,
  ⟨0x20, 1, 4, 0x0, false, false, [⟨31, 0, .ro, []⟩]⟩,
  ⟨0x24, 1, 4, 0x0, false, false, [⟨3, 0, .rw, []⟩]⟩,
  ⟨0x28, 1, 4, 0x0, false, false, [⟨3, 3, .ro, []⟩, ⟨2, 0, .ro, []⟩]⟩,
  ⟨0x2C, 1, 4, 0x0, false, false, [⟨16, 16, .rw, []⟩, ⟨15, 0, .rw, []⟩]⟩,
  ⟨0x30, 1, 4, 0x0, false, false, [⟨31, 0, .rw, []⟩]⟩,
  ⟨0x34, 1, 4, 0x0, false, false, [⟨31, 0, .rw, []⟩]⟩,
  ⟨0x38, 1, 4, 0x0, false, false, [⟨15, 0, .rwl, []⟩]⟩,
  ⟨0x3C, 1, 4, 0x0, false, false, [⟨31, 31, .ro, []⟩, ⟨0, 0, .ro, []⟩]⟩,
  ⟨0x40, 4, 4, 0x0, false, false, [⟨31, 0, .rw, []⟩]⟩,
  ⟨0x50, 4, 4, 0x0, false, false, [⟨31, 0, .ro, []⟩]⟩,
  ⟨0x60, 4, 4, 0x0, false, false, [⟨31, 0, .ro, []⟩]⟩,
  ⟨0x70, 6, 4, 0x3FF00400, false, false, [⟨29, 20, .rw, []⟩, ⟨19, 10, .rw, [(1, 1023)]⟩, ⟨1, 0, .rw, [(0, 2)]⟩]⟩,
  ⟨0x88, 6, 4, 0x10, false, false, [⟨9, 0, .rw, []⟩]⟩,
  ⟨0xA0, 6, 4, 0x0, false, false, [⟨2, 2, .ro, []⟩, ⟨1, 1, .ro, []⟩, ⟨0, 0, .w1c, []⟩]⟩,
  ⟨0xB8, 6, 4, 0x0, false, false, [⟨31, 0, .rc, []⟩]⟩,
  ⟨0xD0, 1, 4, 0x0, false, false, [⟨31, 0, .rc, []⟩]⟩,
  ⟨0xD4, 1, 4, 0x0, false, false, [⟨31, 0, .rc, []⟩]⟩,
  ⟨0xD8, 1, 4, 0x0, false, false, [⟨31, 0, .rc, []⟩]⟩,
  ⟨0xDC, 1, 4, 0x0, false, false, [⟨31, 0, .rc, []⟩]⟩,
  ⟨0xE0, 1, 4, 0x0, false, false, [⟨31, 0, .rc, []⟩]⟩,
  ⟨0xE4, 1, 4, 0x0, false, false, [⟨31, 0, .rc, []⟩]⟩,
  ⟨0xE8, 1, 4, 0x0, false, false, [⟨31, 0, .rc, []⟩]⟩,
  ⟨0xEC, 1, 4, 0x0, false, false, [⟨31, 0, .ro, []⟩]⟩,
  ⟨0xF0, 1, 4, 0x0, false, false, [⟨31, 0, .ro, []⟩]⟩,
  ⟨0xF4, 1, 4, 0x0, false, false, [⟨31, 0, .ro, []⟩]⟩,
  ⟨0xF8, 1, 4, 0x0, false, false, [⟨31, 0, .ro, []⟩]⟩,
  ⟨0xFC, 1, 4, 0x0, false, false, [⟨31, 0, .ro, []⟩]⟩]

/-- Rows of block BAT (R157). -/
def batRows : List RegRow := [
  ⟨0x0, 1, 4, 0x1, true, false, [⟨4, 4, .w1c, []⟩, ⟨3, 3, .ro, []⟩, ⟨2, 2, .ro, []⟩, ⟨1, 1, .w1c, []⟩, ⟨0, 0, .w1c, []⟩]⟩,
  ⟨0x4, 1, 4, 0x1, true, false, [⟨0, 0, .rw, []⟩]⟩,
  ⟨0x8, 1, 4, 0x0, false, false, [⟨31, 0, .ro, []⟩]⟩,
  ⟨0xC, 1, 4, 0x0, false, false, [⟨31, 0, .ro, []⟩]⟩,
  ⟨0x10, 1, 4, 0x0, true, false, [⟨31, 0, .rc, []⟩]⟩,
  ⟨0x14, 1, 4, 0x0, false, false, [⟨15, 0, .wo, []⟩]⟩,
  ⟨0x18, 1, 4, 0x0, false, false, [⟨31, 0, .ro, []⟩]⟩,
  ⟨0x1C, 1, 4, 0x0, true, false, [⟨7, 0, .rw, []⟩]⟩,
  ⟨0x20, 1, 4, 0x0, false, false, [⟨31, 0, .ro, []⟩]⟩,
  ⟨0x24, 1, 4, 0x80, true, false, [⟨7, 0, .rw, []⟩]⟩,
  ⟨0x28, 1, 4, 0x0, false, false, [⟨31, 0, .rc, []⟩]⟩,
  ⟨0x2C, 1, 4, 0x0, true, false, [⟨11, 8, .ro, []⟩, ⟨3, 0, .ro, []⟩]⟩,
  ⟨0x30, 1, 4, 0x0, true, false, [⟨31, 0, .ro, []⟩]⟩,
  ⟨0x34, 1, 4, 0x0, true, false, [⟨31, 0, .ro, []⟩]⟩,
  ⟨0x38, 1, 4, 0x0, true, false, [⟨31, 0, .rc, []⟩]⟩,
  ⟨0x3C, 1, 4, 0x0, true, false, [⟨31, 0, .ro, []⟩]⟩,
  ⟨0x80, 1, 4, 0x0, true, false, [⟨31, 31, .rw, []⟩, ⟨23, 16, .rw, []⟩, ⟨11, 0, .rw, []⟩]⟩,
  ⟨0x84, 1, 4, 0x0, true, false, [⟨31, 0, .rw, []⟩]⟩,
  ⟨0x88, 1, 4, 0x0, true, false, [⟨31, 0, .ro, []⟩]⟩,
  ⟨0x8C, 1, 4, 0x0, true, false, [⟨1, 0, .ro, []⟩]⟩,
  ⟨0x90, 1, 4, 0x0, true, false, [⟨31, 0, .ro, []⟩]⟩,
  ⟨0x94, 1, 4, 0x0, true, false, [⟨31, 0, .ro, []⟩]⟩,
  ⟨0x98, 1, 4, 0x0, true, false, [⟨11, 8, .ro, []⟩, ⟨3, 0, .ro, []⟩]⟩,
  ⟨0x9C, 1, 4, 0x0, true, false, [⟨31, 0, .ro, []⟩]⟩,
  ⟨0xA0, 16, 4, 0x0, true, false, [⟨31, 0, .ro, []⟩]⟩,
  ⟨0xE0, 8, 4, 0x0, true, false, [⟨31, 0, .rw, []⟩]⟩]

/-- Rows of block TB (R86). -/
def tbRows : List RegRow := [
  ⟨0x0, 1, 4, 0x1, false, false, [⟨1, 0, .rwl, [(1, 3)]⟩]⟩,
  ⟨0x4, 1, 4, 0x0, false, false, [⟨7, 5, .ro, []⟩, ⟨4, 3, .ro, []⟩, ⟨0, 0, .ro, []⟩]⟩,
  ⟨0x8, 1, 4, 0x0, false, false, [⟨31, 0, .ro, []⟩]⟩,
  ⟨0xC, 1, 4, 0x0, false, false, [⟨31, 0, .ro, []⟩]⟩,
  ⟨0x10, 1, 4, 0x0, false, false, [⟨31, 0, .ro, []⟩]⟩,
  ⟨0x14, 1, 4, 0x0, false, false, [⟨12, 12, .rw, []⟩, ⟨11, 9, .rw, [(0, 4)]⟩, ⟨8, 6, .rw, [(0, 4)]⟩, ⟨5, 3, .rw, [(0, 4)]⟩, ⟨2, 0, .rw, [(0, 4)]⟩]⟩,
  ⟨0x18, 1, 4, 0x0, false, false, [⟨31, 0, .ro, []⟩]⟩,
  ⟨0x1C, 1, 4, 0xA, false, false, [⟨7, 0, .rw, [(1, 255)]⟩]⟩,
  ⟨0x20, 1, 4, 0x0, false, false, [⟨1, 0, .rw, [(0, 2)]⟩]⟩,
  ⟨0x24, 1, 4, 0x0, false, false, [⟨2, 2, .ro, []⟩, ⟨1, 1, .ro, []⟩, ⟨0, 0, .w1c, []⟩]⟩,
  ⟨0x28, 1, 4, 0xC8, false, false, [⟨8, 0, .rw, []⟩]⟩,
  ⟨0x2C, 1, 4, 0xE60000, false, false, [⟨24, 16, .rw, []⟩, ⟨8, 0, .rw, []⟩]⟩,
  ⟨0x30, 1, 4, 0x640000, false, false, [⟨24, 16, .rw, []⟩, ⟨8, 0, .rw, []⟩]⟩,
  ⟨0x34, 1, 4, 0x1900000, false, false, [⟨24, 16, .rw, []⟩, ⟨8, 0, .rw, []⟩]⟩,
  ⟨0x38, 1, 4, 0x0, false, false, [⟨31, 0, .rc, []⟩]⟩,
  ⟨0x3C, 1, 4, 0x0, false, false, [⟨31, 0, .ro, []⟩]⟩,
  ⟨0x40, 1, 4, 0x0, false, false, [⟨31, 0, .ro, []⟩]⟩,
  ⟨0x44, 1, 4, 0x64000A, false, false, [⟨31, 16, .rw, []⟩, ⟨15, 0, .rw, []⟩]⟩,
  ⟨0x48, 1, 4, 0x7D003E8, false, false, [⟨31, 17, .rw, [(1, 32767)]⟩, ⟨16, 0, .rw, [(1, 100000)]⟩]⟩,
  ⟨0x4C, 1, 4, 0x0, false, false, [⟨31, 0, .rw, []⟩]⟩,
  ⟨0x50, 1, 4, 0x0, false, false, [⟨31, 0, .rw, []⟩]⟩,
  ⟨0x54, 1, 4, 0x0, false, false, [⟨2, 2, .ro, []⟩, ⟨1, 1, .rw, []⟩, ⟨0, 0, .wo, []⟩]⟩,
  ⟨0x58, 1, 4, 0x10400, false, false, [⟨16, 16, .rw, []⟩, ⟨12, 0, .rw, [(16, 4096)]⟩]⟩,
  ⟨0x5C, 1, 4, 0x0, false, false, [⟨31, 31, .ro, []⟩, ⟨30, 0, .ro, []⟩]⟩,
  ⟨0x60, 1, 4, 0x0, false, false, [⟨30, 24, .rwl, []⟩, ⟨21, 16, .rwl, []⟩, ⟨5, 0, .rwl, [(1, 16)]⟩]⟩,
  ⟨0x64, 1, 4, 0x0, false, false, [⟨0, 0, .rwl, []⟩]⟩,
  ⟨0x68, 1, 4, 0x0, false, false, [⟨31, 0, .rc, []⟩]⟩,
  ⟨0x6C, 1, 4, 0x0, false, false, [⟨31, 0, .rc, []⟩]⟩,
  ⟨0x70, 1, 4, 0x0, false, false, [⟨31, 0, .rc, []⟩]⟩,
  ⟨0x74, 1, 4, 0x0, false, false, [⟨31, 0, .ro, []⟩]⟩,
  ⟨0x78, 1, 4, 0x0, false, false, [⟨31, 0, .ro, []⟩]⟩,
  ⟨0x7C, 1, 4, 0x0, false, false, [⟨31, 0, .rc, []⟩]⟩,
  ⟨0x100, 16, 8, 0x0, false, false, [⟨31, 31, .rw, []⟩, ⟨5, 0, .rw, [(0, 27)]⟩]⟩,
  ⟨0x104, 16, 8, 0x0, false, false, [⟨31, 0, .rw, []⟩]⟩,
  ⟨0x200, 32, 4, 0x0, false, false, [⟨31, 31, .rw, []⟩, ⟨30, 29, .rw, [(0, 2)]⟩, ⟨28, 25, .rw, []⟩, ⟨24, 12, .rw, []⟩, ⟨11, 0, .rw, []⟩]⟩]

/-- Rows of block CUE (R127). -/
def cueRows : List RegRow := [
  ⟨0x0, 1, 4, 0x1, false, false, [⟨19, 16, .rwl, []⟩, ⟨0, 0, .rwl, []⟩]⟩,
  ⟨0x4, 1, 4, 0x0, false, false, [⟨31, 0, .ro, []⟩]⟩,
  ⟨0x8, 1, 4, 0x0, false, false, [⟨31, 0, .ro, []⟩]⟩,
  ⟨0xC, 1, 4, 0x0, false, false, [⟨31, 0, .ro, []⟩]⟩,
  ⟨0x10, 1, 4, 0x0, false, false, [⟨10, 8, .wo, []⟩, ⟨2, 0, .wo, []⟩]⟩,
  ⟨0x14, 1, 4, 0x0, false, false, [⟨31, 0, .ro, []⟩]⟩,
  ⟨0x18, 8, 4, 0x0, false, false, [⟨31, 0, .ro, []⟩]⟩,
  ⟨0x38, 1, 4, 0x0, false, false, [⟨31, 0, .rc, []⟩]⟩,
  ⟨0x3C, 1, 4, 0x0, false, false, [⟨31, 0, .rc, []⟩]⟩,
  ⟨0x40, 1, 4, 0x0, false, false, [⟨31, 0, .rc, []⟩]⟩,
  ⟨0x44, 1, 4, 0x0, false, false, [⟨31, 0, .rc, []⟩]⟩,
  ⟨0x48, 1, 4, 0x0, false, false, [⟨31, 0, .rc, []⟩]⟩,
  ⟨0x4C, 1, 4, 0x0, false, false, [⟨31, 0, .rc, []⟩]⟩,
  ⟨0x50, 1, 4, 0x0, false, false, [⟨31, 0, .rc, []⟩]⟩,
  ⟨0x54, 1, 4, 0x0, false, false, [⟨31, 0, .rc, []⟩]⟩,
  ⟨0x58, 5, 4, 0x0, false, false, [⟨31, 0, .ro, []⟩]⟩,
  ⟨0x6C, 1, 4, 0x0, false, false, [⟨31, 0, .rc, []⟩]⟩,
  ⟨0x70, 1, 4, 0x0, false, false, [⟨31, 0, .ro, []⟩]⟩,
  ⟨0x74, 1, 4, 0x0, false, false, [⟨31, 0, .ro, []⟩]⟩,
  ⟨0x78, 1, 4, 0x0, false, false, [⟨15, 8, .ro, []⟩, ⟨3, 0, .ro, []⟩]⟩,
  ⟨0x7C, 1, 4, 0x0, false, false, [⟨31, 0, .ro, []⟩]⟩,
  ⟨0x80, 32, 4, 0x0, false, false, [⟨31, 0, .rw, []⟩]⟩,
  ⟨0x100, 64, 4, 0x0, false, false, [⟨31, 0, .rw, []⟩]⟩]

/-- Rows of block CFG (R186). The reset value of CFG_STAT is that of its bit table, slot 0b11, where the register table gives
0 (DESIGN CHOICE, notes/assumptions/71). -/
def cfgRows : List RegRow := [
  ⟨0x0, 1, 4, 0xC000000, false, false, [⟨31, 31, .ro, []⟩, ⟨30, 30, .ro, []⟩, ⟨29, 29, .ro, []⟩, ⟨28, 28, .ro, []⟩, ⟨27, 26, .ro, []⟩, ⟨25, 24, .ro, []⟩, ⟨14, 8, .ro, []⟩]⟩,
  ⟨0x4, 1, 4, 0x0, false, false, [⟨31, 0, .ro, []⟩]⟩,
  ⟨0x8, 1, 4, 0x0, false, false, [⟨31, 0, .ro, []⟩]⟩,
  ⟨0xC, 1, 4, 0x0, false, false, [⟨31, 24, .ro, []⟩, ⟨9, 8, .ro, []⟩, ⟨2, 0, .ro, []⟩]⟩,
  ⟨0x10, 1, 4, 0x0, false, false, [⟨31, 0, .ro, []⟩]⟩,
  ⟨0x14, 1, 4, 0x0, false, false, [⟨1, 1, .ro, []⟩, ⟨0, 0, .ro, []⟩]⟩,
  ⟨0x18, 1, 4, 0x0, false, false, [⟨31, 0, .ro, []⟩]⟩,
  ⟨0x1C, 3, 4, 0x0, false, false, [⟨31, 24, .ro, []⟩, ⟨23, 0, .ro, []⟩]⟩,
  ⟨0x28, 1, 4, 0x0, false, false, [⟨31, 0, .ro, []⟩]⟩,
  ⟨0x2C, 1, 4, 0x0, false, false, [⟨31, 31, .ro, []⟩, ⟨11, 0, .ro, []⟩]⟩,
  ⟨0x30, 1, 4, 0x0, false, false, [⟨31, 0, .ro, []⟩]⟩,
  ⟨0x34, 1, 4, 0x0, false, false, [⟨31, 0, .ro, []⟩]⟩,
  ⟨0x38, 1, 4, 0x0, false, false, [⟨31, 0, .rc, []⟩]⟩,
  ⟨0x3C, 1, 4, 0x0, false, false, [⟨31, 0, .rc, []⟩]⟩,
  ⟨0x40, 1, 4, 0x0, false, false, [⟨31, 0, .rc, []⟩]⟩,
  ⟨0x44, 1, 4, 0x0, false, false, [⟨31, 0, .rc, []⟩]⟩,
  ⟨0x48, 1, 4, 0x0, false, false, [⟨31, 0, .rc, []⟩]⟩,
  ⟨0x4C, 1, 4, 0x0, false, false, [⟨31, 31, .ro, []⟩, ⟨30, 30, .ro, []⟩, ⟨29, 29, .ro, []⟩, ⟨28, 28, .ro, []⟩, ⟨27, 27, .ro, []⟩, ⟨26, 26, .ro, []⟩, ⟨6, 0, .ro, []⟩]⟩,
  ⟨0x50, 1, 4, 0x0, false, false, [⟨3, 0, .wo, [(1, 6)]⟩]⟩,
  ⟨0x54, 1, 4, 0x0, false, false, [⟨31, 16, .ro, []⟩, ⟨1, 0, .ro, []⟩]⟩,
  ⟨0x58, 1, 4, 0x0, false, false, [⟨31, 0, .wo, []⟩]⟩,
  ⟨0x5C, 1, 4, 0x0, false, false, [⟨0, 0, .rw, []⟩]⟩,
  ⟨0x60, 12, 4, 0x0, false, false, [⟨31, 0, .ro, []⟩]⟩,
  ⟨0x90, 12, 4, 0x0, false, false, [⟨31, 0, .wo, []⟩]⟩,
  ⟨0xC0, 12, 4, 0x0, false, false, [⟨31, 0, .ro, []⟩]⟩,
  ⟨0xF0, 1, 4, 0x0, false, false, [⟨9, 0, .rw, [(0, 639)]⟩]⟩,
  ⟨0xF4, 1, 4, 0x0, false, false, [⟨31, 0, .ro, []⟩]⟩,
  ⟨0xF8, 1, 4, 0x0, false, false, [⟨31, 0, .ro, []⟩]⟩,
  ⟨0xFC, 1, 4, 0x0, false, false, [⟨31, 0, .ro, []⟩]⟩]

/-- Rows of block LP (R218). -/
def lpRows : List RegRow := [
  ⟨0x0, 1, 4, 0x0, false, false, [⟨2, 0, .rw, [(0, 4)]⟩]⟩,
  ⟨0x4, 1, 4, 0xF, false, false, [⟨31, 31, .rw, []⟩, ⟨30, 30, .rw, []⟩, ⟨29, 26, .rw, []⟩, ⟨23, 13, .rw, []⟩, ⟨12, 4, .rw, [(0, 240)]⟩, ⟨3, 0, .rw, [(1, 11), (15, 15)]⟩]⟩,
  ⟨0x8, 1, 4, 0x2, false, false, [⟨31, 31, .rw, []⟩, ⟨29, 28, .rw, [(0, 2)]⟩, ⟨24, 24, .rw, []⟩, ⟨19, 16, .rw, []⟩, ⟨3, 0, .rw, [(1, 11)]⟩]⟩,
  ⟨0xC, 1, 4, 0x0, false, false, [⟨11, 10, .rw, []⟩, ⟨9, 0, .rw, []⟩]⟩,
  ⟨0x10, 1, 4, 0x0, false, false, [⟨11, 10, .rw, [(0, 2)]⟩, ⟨9, 0, .rw, []⟩]⟩,
  ⟨0x14, 1, 4, 0x0, false, false, [⟨31, 0, .rw, []⟩]⟩,
  ⟨0x18, 1, 4, 0x0, false, false, [⟨0, 0, .rwl, []⟩]⟩,
  ⟨0x1C, 1, 4, 0xF00000, false, false, [⟨25, 16, .rw, []⟩, ⟨13, 4, .rw, []⟩, ⟨1, 0, .rw, [(0, 2)]⟩]⟩,
  ⟨0x20, 1, 4, 0x0, false, false, [⟨9, 0, .rw, []⟩]⟩,
  ⟨0x24, 1, 4, 0x0, false, false, [⟨2, 2, .ro, []⟩, ⟨1, 1, .ro, []⟩, ⟨0, 0, .w1c, []⟩]⟩,
  ⟨0x28, 1, 4, 0x0, false, false, [⟨31, 0, .rc, []⟩]⟩,
  ⟨0x2C, 1, 4, 0x0, true, false, [⟨31, 31, .rw, []⟩, ⟨19, 16, .rw, []⟩, ⟨9, 0, .rw, []⟩]⟩,
  ⟨0x30, 1, 4, 0x0, false, false, [⟨9, 8, .rw, []⟩, ⟨7, 4, .rw, []⟩, ⟨3, 2, .rw, [(0, 2)]⟩]⟩,
  ⟨0x34, 1, 4, 0x0, false, false, [⟨31, 31, .ro, []⟩, ⟨12, 12, .ro, []⟩, ⟨11, 11, .ro, []⟩, ⟨10, 10, .ro, []⟩, ⟨9, 9, .ro, []⟩, ⟨8, 8, .ro, []⟩, ⟨7, 7, .ro, []⟩, ⟨3, 0, .ro, []⟩]⟩,
  ⟨0x38, 1, 4, 0x0, false, false, [⟨8, 8, .w1c, []⟩, ⟨7, 7, .w1c, []⟩, ⟨6, 6, .w1c, []⟩, ⟨5, 5, .w1c, []⟩, ⟨4, 4, .w1c, []⟩, ⟨3, 3, .w1c, []⟩, ⟨2, 2, .w1c, []⟩, ⟨1, 1, .w1c, []⟩, ⟨0, 0, .w1c, []⟩]⟩,
  ⟨0x3C, 1, 4, 0x0, false, false, [⟨31, 0, .ro, []⟩]⟩,
  ⟨0x40, 1, 4, 0x0, false, false, [⟨8, 8, .ro, []⟩, ⟨5, 0, .ro, []⟩]⟩,
  ⟨0x44, 1, 4, 0x0, false, false, [⟨31, 0, .ro, []⟩]⟩,
  ⟨0x48, 1, 4, 0x0, false, false, [⟨31, 0, .ro, []⟩]⟩,
  ⟨0x4C, 1, 4, 0x0, false, false, [⟨31, 0, .ro, []⟩]⟩,
  ⟨0x50, 1, 4, 0x0, false, false, [⟨31, 0, .ro, []⟩]⟩,
  ⟨0x54, 1, 4, 0x0, false, false, [⟨31, 0, .rc, []⟩]⟩,
  ⟨0x58, 1, 4, 0x0, false, false, [⟨31, 0, .rc, []⟩]⟩,
  ⟨0x5C, 1, 4, 0x0, false, false, [⟨31, 0, .rc, []⟩]⟩,
  ⟨0x60, 1, 4, 0x0, false, false, [⟨31, 0, .rc, []⟩]⟩,
  ⟨0x64, 1, 4, 0x0, false, false, [⟨31, 0, .rc, []⟩]⟩,
  ⟨0x68, 1, 4, 0x0, false, false, [⟨31, 0, .rc, []⟩]⟩,
  ⟨0x6C, 1, 4, 0x0, false, false, [⟨31, 0, .rc, []⟩]⟩,
  ⟨0x70, 1, 4, 0x0, false, false, [⟨31, 0, .rc, []⟩]⟩,
  ⟨0x74, 1, 4, 0x0, false, false, [⟨31, 0, .rc, []⟩]⟩,
  ⟨0x78, 1, 4, 0x0, false, false, [⟨31, 0, .rc, []⟩]⟩,
  ⟨0x7C, 1, 4, 0x0, false, false, [⟨31, 0, .rc, []⟩]⟩,
  ⟨0x80, 1, 4, 0x0, false, false, [⟨31, 0, .rc, []⟩]⟩,
  ⟨0x84, 1, 4, 0x0, false, false, [⟨31, 0, .rc, []⟩]⟩,
  ⟨0x88, 1, 4, 0x0, false, false, [⟨31, 0, .ro, []⟩]⟩,
  ⟨0x8C, 1, 4, 0x0, false, false, [⟨31, 0, .ro, []⟩]⟩,
  ⟨0x90, 1, 4, 0x0, false, false, [⟨5, 4, .rw, []⟩, ⟨1, 1, .rw, []⟩, ⟨0, 0, .rw, []⟩]⟩,
  ⟨0x94, 1, 4, 0x0, false, false, [⟨31, 0, .rc, []⟩]⟩,
  ⟨0x98, 1, 4, 0x0, false, false, [⟨31, 0, .ro, []⟩]⟩,
  ⟨0x9C, 1, 4, 0x0, false, false, [⟨31, 0, .ro, []⟩]⟩]

/-- Rows of block AC (R248). -/
def acRows : List RegRow := [
  ⟨0x0, 1, 4, 0x0, false, false, [⟨31, 31, .rw, []⟩, ⟨20, 16, .rw, []⟩]⟩,
  ⟨0x4, 1, 4, 0x0, false, false, [⟨5, 4, .rw, []⟩, ⟨0, 0, .rol, []⟩]⟩,
  ⟨0x8, 1, 4, 0xF000F0, false, false, [⟨25, 16, .rw, [(0, 720)]⟩, ⟨9, 0, .rw, [(0, 720)]⟩]⟩,
  ⟨0xC, 1, 4, 0x0, false, false, [⟨31, 31, .ro, []⟩, ⟨16, 16, .ro, []⟩, ⟨15, 0, .ro, []⟩]⟩,
  ⟨0x10, 1, 4, 0x10036F, false, false, [⟨31, 29, .rw, [(0, 4)]⟩, ⟨22, 16, .rw, [(8, 128)]⟩, ⟨9, 0, .rw, [(0, 879)]⟩]⟩,
  ⟨0x14, 1, 4, 0x7FE00000, false, false, [⟨31, 22, .rw, []⟩, ⟨21, 12, .rw, []⟩, ⟨1, 0, .rw, [(0, 2)]⟩]⟩,
  ⟨0x18, 1, 4, 0x800, false, false, [⟨11, 0, .rw, []⟩]⟩,
  ⟨0x1C, 1, 4, 0x0, false, false, [⟨9, 0, .rw, []⟩]⟩,
  ⟨0x20, 1, 4, 0x0, false, false, [⟨2, 2, .ro, []⟩, ⟨1, 1, .ro, []⟩, ⟨0, 0, .w1c, []⟩]⟩,
  ⟨0x24, 1, 4, 0x0, false, false, [⟨31, 0, .rc, []⟩]⟩,
  ⟨0x28, 1, 4, 0x0, false, false, [⟨31, 31, .ro, []⟩, ⟨8, 8, .ro, []⟩, ⟨7, 7, .ro, []⟩, ⟨4, 4, .ro, []⟩, ⟨3, 3, .ro, []⟩, ⟨2, 2, .ro, []⟩]⟩,
  ⟨0x2C, 1, 4, 0x0, false, false, [⟨5, 5, .w1c, []⟩, ⟨4, 4, .w1c, []⟩, ⟨3, 3, .w1c, []⟩, ⟨2, 2, .w1c, []⟩, ⟨1, 1, .w1c, []⟩, ⟨0, 0, .w1c, []⟩]⟩,
  ⟨0x30, 1, 4, 0x0, false, false, [⟨31, 0, .rc, []⟩]⟩,
  ⟨0x34, 1, 4, 0x0, false, false, [⟨31, 0, .rc, []⟩]⟩,
  ⟨0x38, 1, 4, 0x0, false, false, [⟨31, 0, .rc, []⟩]⟩,
  ⟨0x3C, 1, 4, 0x0, false, false, [⟨31, 0, .rc, []⟩]⟩,
  ⟨0x40, 1, 4, 0x0, false, false, [⟨31, 0, .rc, []⟩]⟩,
  ⟨0x44, 1, 4, 0x0, false, false, [⟨31, 0, .rc, []⟩]⟩,
  ⟨0x48, 1, 4, 0x0, false, false, [⟨31, 0, .ro, []⟩]⟩,
  ⟨0x4C, 1, 4, 0x0, false, false, [⟨31, 0, .ro, []⟩]⟩,
  ⟨0x50, 1, 4, 0x0, false, false, [⟨31, 0, .ro, []⟩]⟩,
  ⟨0x54, 1, 4, 0x0, false, false, [⟨31, 0, .rc, []⟩]⟩,
  ⟨0x58, 1, 4, 0x0, false, false, [⟨31, 0, .ro, []⟩]⟩,
  ⟨0x5C, 1, 4, 0x0, false, false, [⟨31, 0, .ro, []⟩]⟩,
  ⟨0x60, 1, 4, 0x0, false, false, [⟨31, 0, .ro, []⟩]⟩,
  ⟨0x64, 1, 4, 0x0, false, false, [⟨31, 0, .ro, []⟩]⟩,
  ⟨0x68, 1, 4, 0x0, false, false, [⟨1, 1, .rw, []⟩, ⟨0, 0, .rwl, []⟩]⟩,
  ⟨0x6C, 1, 4, 0x0, false, false, [⟨31, 31, .ro, []⟩, ⟨15, 0, .ro, []⟩]⟩,
  ⟨0x70, 1, 4, 0x0, false, false, [⟨31, 0, .ro, []⟩]⟩,
  ⟨0x74, 1, 4, 0x0, false, false, [⟨31, 0, .rc, []⟩]⟩,
  ⟨0x78, 1, 4, 0x0, false, false, [⟨31, 0, .ro, []⟩]⟩,
  ⟨0x7C, 1, 4, 0x0, false, false, [⟨31, 0, .rc, []⟩]⟩]

/-- Rows of block AMX (R249). -/
def amxRows : List RegRow := [
  ⟨0x0, 16, 4, 0x0, false, false, [⟨7, 0, .rw, [(0, 96), (128, 175)]⟩]⟩,
  ⟨0x40, 16, 4, 0x0, false, false, [⟨28, 25, .rw, []⟩, ⟨12, 0, .rw, []⟩]⟩,
  ⟨0x80, 16, 4, 0x0, false, false, [⟨31, 16, .ro, []⟩, ⟨8, 8, .ro, []⟩, ⟨7, 0, .ro, []⟩]⟩,
  ⟨0x100, 96, 4, 0x0, false, false, [⟨31, 31, .w1c, []⟩, ⟨30, 30, .ro, []⟩, ⟨21, 16, .rw, [(0, 0), (16, 31)]⟩, ⟨9, 8, .rw, [(0, 2)]⟩, ⟨4, 4, .rw, []⟩]⟩,
  ⟨0x280, 48, 4, 0x0, false, false, [⟨5, 0, .rw, [(0, 2), (16, 31)]⟩]⟩]

/-- Rows of block WM (R280). -/
def wmRows : List RegRow := [
  ⟨0x0, 1, 4, 0x0, false, false, [⟨31, 31, .rw, []⟩, ⟨30, 30, .rw, []⟩, ⟨29, 28, .rw, [(0, 2)]⟩, ⟨27, 27, .rw, []⟩, ⟨26, 26, .rw, []⟩, ⟨25, 21, .rw, []⟩, ⟨20, 17, .rw, []⟩, ⟨15, 14, .rw, [(0, 2)]⟩, ⟨6, 0, .rw, []⟩]⟩,
  ⟨0x4, 1, 4, 0x3FF0000, false, false, [⟨25, 16, .rw, []⟩, ⟨9, 0, .rw, []⟩]⟩,
  ⟨0x8, 1, 4, 0x0, false, false, [⟨31, 31, .ro, []⟩, ⟨30, 30, .ro, []⟩, ⟨29, 29, .ro, []⟩, ⟨28, 28, .ro, []⟩, ⟨27, 27, .ro, []⟩, ⟨2, 2, .w1c, []⟩, ⟨1, 1, .w1c, []⟩, ⟨0, 0, .w1c, []⟩]⟩,
  ⟨0xC, 1, 4, 0x0, false, false, [⟨31, 0, .rc, []⟩]⟩]

/-- Rows of block FC (R267). -/
def fcRows : List RegRow := [
  ⟨0x0, 1, 4, 0x40000009, false, false, [⟨31, 29, .rw, []⟩, ⟨28, 28, .rw, []⟩, ⟨27, 27, .rw, []⟩, ⟨26, 26, .rw, []⟩, ⟨4, 0, .rw, []⟩]⟩,
  ⟨0x4, 1, 4, 0x0, false, false, [⟨11, 10, .rw, [(0, 2)]⟩, ⟨9, 0, .rw, []⟩]⟩,
  ⟨0x8, 1, 4, 0x0, false, false, [⟨11, 0, .rw, []⟩]⟩,
  ⟨0xC, 1, 4, 0x7FE00060, false, false, [⟨31, 22, .rw, []⟩, ⟨21, 12, .rw, []⟩, ⟨7, 4, .rw, []⟩, ⟨1, 0, .rw, [(0, 2)]⟩]⟩,
  ⟨0x10, 1, 4, 0x0, false, false, [⟨17, 0, .rw, []⟩]⟩,
  ⟨0x14, 1, 4, 0x0, false, false, [⟨2, 2, .ro, []⟩, ⟨1, 1, .ro, []⟩, ⟨0, 0, .w1c, []⟩]⟩,
  ⟨0x18, 1, 4, 0x0, false, false, [⟨31, 0, .rc, []⟩]⟩,
  ⟨0x1C, 1, 4, 0x0, false, false, [⟨31, 31, .ro, []⟩, ⟨30, 30, .ro, []⟩, ⟨29, 29, .ro, []⟩, ⟨28, 28, .ro, []⟩, ⟨27, 27, .ro, []⟩, ⟨12, 8, .ro, []⟩, ⟨2, 0, .ro, []⟩]⟩,
  ⟨0x20, 1, 4, 0x0, false, false, [⟨4, 4, .w1c, []⟩, ⟨3, 3, .w1c, []⟩, ⟨2, 2, .w1c, []⟩, ⟨1, 1, .w1c, []⟩]⟩,
  ⟨0x24, 1, 4, 0x0, false, false, [⟨31, 0, .rc, []⟩]⟩,
  ⟨0x28, 1, 4, 0x0, false, false, [⟨31, 0, .rc, []⟩]⟩,
  ⟨0x2C, 1, 4, 0x0, false, false, [⟨31, 0, .ro, []⟩]⟩]

/-- Rows of block SE (R312), part 1. -/
def seRows1 : List RegRow := [
  ⟨0x0, 1, 4, 0x0, false, false, [⟨31, 31, .ro, []⟩, ⟨29, 24, .ro, []⟩, ⟨22, 16, .ro, []⟩, ⟨14, 12, .ro, []⟩, ⟨11, 8, .ro, []⟩, ⟨0, 0, .ro, []⟩]⟩,
  ⟨0x4, 2, 4, 0x0, false, false, [⟨31, 0, .rw, []⟩]⟩,
  ⟨0xC, 2, 4, 0x0, false, false, [⟨31, 0, .rw, []⟩]⟩,
  ⟨0x14, 2, 4, 0x0, false, false, [⟨31, 0, .wo, []⟩]⟩,
  ⟨0x1C, 2, 4, 0x0, false, false, [⟨31, 0, .ro, []⟩]⟩,
  ⟨0x24, 2, 4, 0x0, false, false, [⟨31, 0, .ro, []⟩]⟩,
  ⟨0x2C, 1, 4, 0x0, false, false, [⟨5, 0, .rw, []⟩]⟩,
  ⟨0x30, 1, 4, 0x0, false, false, [⟨31, 0, .ro, []⟩]⟩,
  ⟨0x34, 1, 4, 0x0, false, false, [⟨31, 0, .ro, []⟩]⟩,
  ⟨0x38, 1, 4, 0x0, false, false, [⟨31, 0, .rc, []⟩]⟩,
  ⟨0x3C, 1, 4, 0x0, false, false, [⟨13, 8, .rw, []⟩, ⟨4, 4, .rw, []⟩, ⟨3, 0, .rw, []⟩]⟩,
  ⟨0x40, 1, 4, 0x0, false, false, [⟨31, 0, .rw, []⟩]⟩,
  ⟨0x44, 1, 4, 0x3FF00400, false, false, [⟨31, 31, .rol, []⟩, ⟨29, 20, .rw, []⟩, ⟨19, 10, .rw, [(1, 1023)]⟩, ⟨1, 0, .rw, [(0, 2)]⟩]⟩,
  ⟨0x48, 1, 4, 0x40, false, false, [⟨9, 0, .rw, []⟩]⟩,
  ⟨0x4C, 1, 4, 0x0, false, false, [⟨2, 2, .ro, []⟩, ⟨1, 1, .ro, []⟩, ⟨0, 0, .w1c, []⟩]⟩,
  ⟨0x50, 1, 4, 0x0, false, false, [⟨31, 0, .rc, []⟩]⟩,
  ⟨0x54, 1, 4, 0x0, false, false, [⟨31, 0, .ro, []⟩]⟩,
  ⟨0x58, 1, 4, 0x0, false, false, [⟨31, 0, .ro, []⟩]⟩,
  ⟨0x5C, 1, 4, 0x0, false, false, [⟨31, 0, .ro, []⟩]⟩,
  ⟨0x60, 1, 4, 0x0, false, false, [⟨31, 0, .rc, []⟩]⟩,
  ⟨0x64, 1, 4, 0x0, false, false, [⟨31, 0, .rc, []⟩]⟩,
  ⟨0x68, 1, 4, 0x0, false, false, [⟨31, 0, .rc, []⟩]⟩,
  ⟨0x6C, 1, 4, 0x0, false, false, [⟨31, 0, .rc, []⟩]⟩,
  ⟨0x70, 1, 4, 0x0, false, false, [⟨31, 0, .rc, []⟩]⟩,
  ⟨0x74, 1, 4, 0x0, false, false, [⟨31, 0, .rc, []⟩]⟩,
  ⟨0x78, 1, 4, 0x0, false, false, [⟨31, 0, .rc, []⟩]⟩,
  ⟨0x7C, 1, 4, 0x0, false, false, [⟨31, 0, .rc, []⟩]⟩,
  ⟨0x80, 1, 4, 0x0, false, false, [⟨31, 0, .rc, []⟩]⟩,
  ⟨0x84, 1, 4, 0x0, false, false, [⟨31, 0, .rc, []⟩]⟩,
  ⟨0x88, 1, 4, 0x0, false, false, [⟨31, 0, .rc, []⟩]⟩,
  ⟨0x8C, 1, 4, 0x0, false, false, [⟨31, 0, .ro, []⟩]⟩,
  ⟨0x90, 1, 4, 0x0, false, false, [⟨31, 0, .rc, []⟩]⟩,
  ⟨0x94, 1, 4, 0x0, false, false, [⟨31, 0, .rc, []⟩]⟩,
  ⟨0x98, 1, 4, 0x0, false, false, [⟨31, 0, .rc, []⟩]⟩,
  ⟨0x9C, 1, 4, 0x0, false, false, [⟨5, 5, .w1c, []⟩, ⟨4, 4, .w1c, []⟩, ⟨3, 3, .w1c, []⟩, ⟨2, 2, .w1c, []⟩, ⟨1, 1, .w1c, []⟩, ⟨0, 0, .w1c, []⟩]⟩,
  ⟨0xA0, 16, 4, 0x0, false, false, [⟨31, 0, .ro, []⟩]⟩,
  ⟨0xE0, 1, 4, 0x0, false, false, [⟨31, 0, .ro, []⟩]⟩,
  ⟨0xE4, 1, 4, 0x0, false, false, [⟨31, 0, .ro, []⟩]⟩,
  ⟨0xE8, 1, 4, 0x0, false, false, [⟨31, 0, .ro, []⟩]⟩,
  ⟨0xEC, 1, 4, 0x0, false, false, [⟨31, 0, .ro, []⟩]⟩]

/-- Rows of block SE (R312), part 2. -/
def seRows2 : List RegRow := [
  ⟨0xF0, 1, 4, 0x0, false, false, [⟨31, 0, .ro, []⟩]⟩,
  ⟨0xF4, 1, 4, 0x0, false, false, [⟨31, 0, .ro, []⟩]⟩,
  ⟨0xF8, 1, 4, 0x0, false, false, [⟨31, 0, .ro, []⟩]⟩,
  ⟨0xFC, 1, 4, 0x0, false, false, [⟨31, 0, .ro, []⟩]⟩]

/-- All rows of block SE (R312). -/
def seRows : List RegRow := seRows1 ++ seRows2

/-- Rows of block SV (R360). -/
def svRows : List RegRow := [
  ⟨0x0, 1, 4, 0xC0000000, false, false, [⟨31, 30, .rwl, []⟩, ⟨28, 16, .rw, [(0, 4096)]⟩, ⟨12, 0, .ro, []⟩]⟩,
  ⟨0x4, 1, 4, 0x0, false, false, [⟨31, 24, .wol, [(1, 12)]⟩, ⟨23, 12, .wol, []⟩, ⟨11, 0, .wol, []⟩]⟩,
  ⟨0x8, 1, 4, 0x0, false, false, [⟨31, 16, .rc, []⟩, ⟨15, 0, .rc, []⟩]⟩,
  ⟨0xC, 1, 4, 0x0, false, false, [⟨31, 24, .rc, []⟩, ⟨23, 16, .rc, []⟩, ⟨15, 0, .rc, []⟩]⟩]

/-- Rows of block FM (R341). -/
def fmRows : List RegRow := [
  ⟨0x0, 1, 4, 0x1, false, false, [⟨0, 0, .rwl, []⟩]⟩,
  ⟨0x4, 1, 4, 0x0, false, false, [⟨31, 31, .ro, []⟩, ⟨30, 30, .ro, []⟩, ⟨29, 29, .ro, []⟩, ⟨7, 0, .ro, []⟩]⟩,
  ⟨0x8, 1, 4, 0x0, false, false, [⟨31, 0, .ro, []⟩]⟩,
  ⟨0xC, 1, 4, 0x0, false, false, [⟨31, 0, .ro, []⟩]⟩,
  ⟨0x10, 1, 4, 0x0, false, false, [⟨4, 4, .w1c, []⟩, ⟨3, 3, .w1c, []⟩, ⟨2, 2, .w1c, []⟩, ⟨1, 1, .w1c, []⟩, ⟨0, 0, .w1c, []⟩]⟩,
  ⟨0x14, 1, 4, 0x0, false, false, [⟨31, 0, .rc, []⟩]⟩,
  ⟨0x18, 1, 4, 0x0, false, false, [⟨31, 0, .rc, []⟩]⟩,
  ⟨0x1C, 1, 4, 0x0, false, false, [⟨31, 0, .rc, []⟩]⟩,
  ⟨0x20, 1, 4, 0x0, false, false, [⟨31, 0, .rc, []⟩]⟩,
  ⟨0x24, 1, 4, 0x0, false, false, [⟨31, 0, .rc, []⟩]⟩,
  ⟨0x28, 1, 4, 0x0, false, false, [⟨31, 0, .rc, []⟩]⟩,
  ⟨0x2C, 1, 4, 0x0, false, false, [⟨31, 0, .rc, []⟩]⟩,
  ⟨0x30, 1, 4, 0x0, false, false, [⟨31, 0, .rc, []⟩]⟩,
  ⟨0x34, 1, 4, 0x0, false, false, [⟨31, 0, .rc, []⟩]⟩,
  ⟨0x38, 1, 4, 0x0, false, false, [⟨31, 0, .rc, []⟩]⟩,
  ⟨0x3C, 1, 4, 0x0, false, false, [⟨31, 0, .rc, []⟩]⟩,
  ⟨0x40, 1, 4, 0x0, false, false, [⟨31, 0, .ro, []⟩]⟩,
  ⟨0x44, 1, 4, 0x0, false, false, [⟨31, 0, .ro, []⟩]⟩,
  ⟨0x48, 1, 4, 0x0, false, false, [⟨31, 0, .ro, []⟩]⟩,
  ⟨0x4C, 1, 4, 0x0, false, false, [⟨31, 0, .ro, []⟩]⟩,
  ⟨0x50, 1, 4, 0x0, false, false, [⟨31, 0, .ro, []⟩]⟩,
  ⟨0x54, 1, 4, 0x0, false, false, [⟨31, 0, .ro, []⟩]⟩,
  ⟨0x58, 1, 4, 0x0, false, false, [⟨31, 0, .rc, []⟩]⟩,
  ⟨0x5C, 1, 4, 0x0, false, false, [⟨31, 0, .ro, []⟩]⟩,
  ⟨0x60, 8, 4, 0x0, false, false, [⟨31, 31, .ro, []⟩, ⟨22, 16, .ro, []⟩, ⟨15, 0, .ro, []⟩]⟩,
  ⟨0x80, 32, 4, 0x0, false, false, [⟨31, 0, .ro, []⟩]⟩,
  ⟨0x100, 32, 4, 0x0, false, false, [⟨31, 0, .w1c, []⟩]⟩]

/-- Rows of block AX (R398). -/
def axRows : List RegRow := [
  ⟨0x0, 1, 4, 0x0, false, false, [⟨31, 31, .rw, []⟩, ⟨30, 30, .rwl, []⟩, ⟨29, 29, .rwl, []⟩, ⟨28, 28, .rwl, []⟩, ⟨27, 24, .rwl, []⟩]⟩,
  ⟨0x4, 1, 4, 0x0, false, false, [⟨31, 31, .ro, []⟩, ⟨30, 28, .ro, []⟩, ⟨27, 24, .ro, []⟩, ⟨23, 23, .ro, []⟩, ⟨22, 22, .ro, []⟩, ⟨21, 21, .ro, []⟩, ⟨20, 20, .ro, []⟩, ⟨11, 0, .ro, []⟩]⟩,
  ⟨0x8, 1, 4, 0x0, false, false, [⟨5, 5, .w1c, []⟩, ⟨4, 4, .w1c, []⟩, ⟨3, 3, .w1c, []⟩, ⟨2, 2, .w1c, []⟩, ⟨1, 1, .w1c, []⟩, ⟨0, 0, .w1c, []⟩]⟩,
  ⟨0xC, 1, 4, 0x0, false, false, [⟨15, 0, .rw, []⟩]⟩,
  ⟨0x10, 1, 4, 0x0, false, false, [⟨31, 0, .ro, []⟩]⟩,
  ⟨0x14, 1, 4, 0x0, false, false, [⟨31, 0, .ro, []⟩]⟩,
  ⟨0x18, 1, 4, 0x0, false, false, [⟨31, 26, .ro, []⟩, ⟨23, 16, .ro, []⟩, ⟨11, 0, .ro, []⟩]⟩,
  ⟨0x1C, 1, 4, 0x0, false, false, [⟨30, 24, .ro, []⟩, ⟨20, 12, .ro, []⟩, ⟨10, 0, .ro, []⟩]⟩,
  ⟨0x20, 1, 4, 0x0, false, false, [⟨31, 0, .ro, []⟩]⟩,
  ⟨0x24, 1, 4, 0x0, false, false, [⟨31, 0, .ro, []⟩]⟩,
  ⟨0x28, 1, 4, 0x0, false, false, [⟨31, 0, .ro, []⟩]⟩,
  ⟨0x2C, 1, 4, 0x0, false, false, [⟨31, 0, .rc, []⟩]⟩,
  ⟨0x30, 1, 4, 0x0, false, false, [⟨31, 0, .rc, []⟩]⟩,
  ⟨0x34, 1, 4, 0x0, false, false, [⟨31, 0, .rc, []⟩]⟩,
  ⟨0x38, 1, 4, 0x0, false, false, [⟨31, 0, .rc, []⟩]⟩,
  ⟨0x3C, 1, 4, 0x0, false, false, [⟨31, 0, .rc, []⟩]⟩,
  ⟨0x40, 1, 4, 0x0, false, false, [⟨31, 0, .rc, []⟩]⟩,
  ⟨0x44, 1, 4, 0x0, false, false, [⟨31, 0, .rc, []⟩]⟩,
  ⟨0x48, 1, 4, 0x0, false, false, [⟨31, 0, .rc, []⟩]⟩,
  ⟨0x4C, 1, 4, 0x0, false, false, [⟨31, 16, .ro, []⟩, ⟨7, 4, .ro, []⟩, ⟨3, 0, .ro, []⟩]⟩,
  ⟨0x50, 8, 8, 0x0, false, false, [⟨31, 31, .rw, []⟩, ⟨30, 30, .rwl, []⟩, ⟨29, 20, .rwl, []⟩, ⟨19, 8, .rwl, []⟩, ⟨7, 0, .rwl, []⟩]⟩,
  ⟨0x54, 8, 8, 0x0, false, false, [⟨13, 0, .rwl, [(0, 10000)]⟩]⟩,
  ⟨0x90, 1, 4, 0x0, false, false, [⟨31, 31, .ro, []⟩, ⟨30, 30, .ro, []⟩, ⟨29, 29, .ro, []⟩, ⟨28, 28, .ro, []⟩, ⟨27, 26, .ro, []⟩, ⟨25, 20, .ro, []⟩, ⟨19, 12, .ro, []⟩, ⟨11, 0, .ro, []⟩]⟩,
  ⟨0x94, 1, 4, 0x0, false, false, [⟨31, 16, .ro, []⟩, ⟨12, 0, .ro, []⟩]⟩,
  ⟨0x98, 1, 4, 0x0, false, false, [⟨31, 0, .rc, []⟩]⟩,
  ⟨0x9C, 1, 4, 0x0, false, false, [⟨31, 0, .rc, []⟩]⟩,
  ⟨0xA0, 1, 4, 0x0, false, false, [⟨31, 31, .wo, []⟩, ⟨30, 30, .rw, []⟩, ⟨11, 0, .rw, []⟩]⟩,
  ⟨0xA4, 1, 4, 0x0, false, false, [⟨31, 0, .rw, []⟩]⟩,
  ⟨0xA8, 1, 4, 0x0, false, false, [⟨31, 0, .rw, []⟩]⟩,
  ⟨0xAC, 1, 4, 0x0, false, false, [⟨31, 31, .ro, []⟩, ⟨7, 0, .ro, []⟩]⟩,
  ⟨0xB0, 1, 4, 0x0, false, false, [⟨31, 0, .rw, []⟩]⟩,
  ⟨0xB4, 1, 4, 0x0, false, false, [⟨31, 0, .rw, []⟩]⟩,
  ⟨0xB8, 1, 4, 0x0, false, false, [⟨31, 31, .wo, []⟩, ⟨27, 16, .rw, []⟩, ⟨15, 0, .rw, []⟩]⟩,
  ⟨0xBC, 1, 4, 0x0, false, false, [⟨31, 16, .ro, []⟩, ⟨2, 0, .ro, []⟩]⟩]

/-- Rows of block GP (R442). -/
def gpRows : List RegRow := [
  ⟨0x0, 1, 4, 0x0, false, true, [⟨15, 0, .rw, []⟩]⟩,
  ⟨0x4, 1, 4, 0x0, false, false, [⟨15, 0, .rw, []⟩]⟩,
  ⟨0x8, 1, 4, 0x0, false, false, [⟨31, 0, .ro, []⟩]⟩,
  ⟨0xC, 1, 4, 0xFFFF0000, false, false, [⟨31, 16, .ro, []⟩, ⟨0, 0, .rwl, []⟩]⟩,
  ⟨0x10, 1, 4, 0x0, false, false, [⟨31, 0, .rw, []⟩]⟩,
  ⟨0x14, 1, 4, 0x0, false, false, [⟨31, 16, .rw, []⟩, ⟨15, 0, .rw, []⟩]⟩,
  ⟨0x18, 4, 4, 0x1010101, false, false, [⟨31, 0, .rw, []⟩]⟩,
  ⟨0x28, 4, 4, 0x0, false, false, [⟨31, 0, .ro, []⟩]⟩,
  ⟨0x38, 1, 4, 0x0, false, false, [⟨15, 0, .w1c, []⟩]⟩,
  ⟨0x3C, 1, 4, 0x0, false, false, [⟨31, 0, .rc, []⟩]⟩]

/-- Rows of block GPIO (R442). -/
def gpioRows : List RegRow := [
  ⟨0x0, 16, 4, 0x1008000, false, false, [⟨31, 31, .rw, []⟩, ⟨29, 28, .rw, []⟩, ⟨25, 24, .rw, [(1, 3)]⟩, ⟨23, 16, .ro, []⟩, ⟨15, 15, .ro, []⟩, ⟨7, 0, .rw, []⟩]⟩,
  ⟨0x40, 16, 4, 0x0, false, false, [⟨31, 16, .rc, []⟩, ⟨15, 0, .rc, []⟩]⟩,
  ⟨0x80, 1, 4, 0x0, false, false, [⟨31, 31, .ro, []⟩, ⟨9, 8, .ro, []⟩, ⟨7, 4, .ro, []⟩, ⟨3, 0, .ro, []⟩]⟩,
  ⟨0x84, 1, 4, 0x0, false, false, [⟨31, 0, .ro, []⟩]⟩,
  ⟨0x88, 1, 4, 0x0, false, false, [⟨31, 0, .ro, []⟩]⟩,
  ⟨0x8C, 1, 4, 0x0, false, false, [⟨31, 0, .ro, []⟩]⟩,
  ⟨0x90, 1, 4, 0x0, false, false, [⟨31, 0, .ro, []⟩]⟩,
  ⟨0x94, 1, 4, 0x0, false, false, [⟨31, 0, .ro, []⟩]⟩,
  ⟨0x98, 1, 4, 0x0, false, false, [⟨31, 0, .rc, []⟩]⟩,
  ⟨0x9C, 1, 4, 0x0, false, false, [⟨31, 0, .ro, []⟩]⟩,
  ⟨0xA0, 1, 4, 0x0, false, false, [⟨31, 0, .ro, []⟩]⟩,
  ⟨0xA4, 1, 4, 0x0, false, false, [⟨31, 0, .ro, []⟩]⟩,
  ⟨0xA8, 1, 4, 0x0, false, false, [⟨31, 0, .ro, []⟩]⟩,
  ⟨0xAC, 1, 4, 0x0, false, false, [⟨15, 0, .w1c, []⟩]⟩,
  ⟨0xB0, 1, 4, 0x0, false, false, [⟨15, 0, .w1c, []⟩]⟩,
  ⟨0xB4, 1, 4, 0x0, false, false, [⟨31, 0, .ro, []⟩]⟩,
  ⟨0xB8, 1, 4, 0x0, false, false, [⟨31, 0, .ro, []⟩]⟩,
  ⟨0xBC, 1, 4, 0x0, false, false, [⟨31, 0, .ro, []⟩]⟩]

/-- Rows of block QC (R420). -/
def qcRows : List RegRow := [
  ⟨0x0, 1, 4, 0x2000000, false, false, [⟨31, 31, .ro, []⟩, ⟨30, 29, .ro, []⟩, ⟨28, 28, .wo, []⟩, ⟨27, 27, .ro, []⟩, ⟨26, 26, .ro, []⟩, ⟨25, 13, .rw, [(0, 4096)]⟩, ⟨12, 0, .rw, [(0, 4096)]⟩]⟩,
  ⟨0x4, 1, 4, 0x4000, false, false, [⟨31, 24, .rc, []⟩, ⟨23, 16, .rc, []⟩, ⟨15, 15, .ro, []⟩, ⟨14, 14, .ro, []⟩, ⟨13, 13, .rc, []⟩, ⟨12, 0, .ro, []⟩]⟩]

/-- Rows of block EL (R459). -/
def elRows : List RegRow := [
  ⟨0x0, 1, 4, 0x0, false, false, [⟨31, 31, .rw, []⟩, ⟨27, 16, .rw, []⟩, ⟨1, 0, .rw, []⟩]⟩,
  ⟨0x4, 1, 4, 0x0, false, false, [⟨31, 0, .ro, []⟩]⟩,
  ⟨0x8, 1, 4, 0x0, false, false, [⟨31, 0, .ro, []⟩]⟩,
  ⟨0xC, 1, 4, 0x0, false, false, [⟨31, 0, .rw, []⟩]⟩,
  ⟨0x10, 1, 4, 0x0, false, false, [⟨31, 0, .rc, []⟩]⟩,
  ⟨0x14, 1, 4, 0x0, false, false, [⟨31, 0, .rc, []⟩]⟩,
  ⟨0x18, 1, 4, 0x0, false, false, [⟨31, 0, .rc, []⟩]⟩,
  ⟨0x1C, 4, 4, 0x0, false, false, [⟨31, 0, .ro, []⟩]⟩,
  ⟨0x2C, 1, 4, 0x0, false, false, [⟨31, 0, .ro, []⟩]⟩,
  ⟨0x30, 1, 4, 0x0, false, false, [⟨31, 0, .rc, []⟩]⟩,
  ⟨0x34, 1, 4, 0xC, false, false, [⟨31, 31, .rw, []⟩, ⟨4, 0, .rw, [(12, 20)]⟩]⟩,
  ⟨0x38, 1, 4, 0x0, false, false, [⟨31, 0, .rw, []⟩]⟩,
  ⟨0x3C, 1, 4, 0x0, false, false, [⟨31, 0, .ro, []⟩]⟩,
  ⟨0x40, 1, 4, 0x0, false, false, [⟨31, 0, .ro, []⟩]⟩,
  ⟨0x44, 10, 4, 0x0, false, false, [⟨31, 0, .ro, []⟩]⟩,
  ⟨0x6C, 1, 4, 0x0, false, false, [⟨31, 0, .rc, []⟩]⟩,
  ⟨0x70, 1, 4, 0x0, false, false, [⟨31, 0, .rc, []⟩]⟩,
  ⟨0x74, 1, 4, 0x0, false, false, [⟨31, 0, .ro, []⟩]⟩,
  ⟨0x78, 1, 4, 0x0, false, false, [⟨31, 28, .ro, []⟩, ⟨27, 0, .ro, []⟩]⟩,
  ⟨0x7C, 1, 4, 0x0, false, false, [⟨31, 0, .ro, []⟩]⟩,
  ⟨0x80, 1, 4, 0x0, false, false, [⟨31, 0, .ro, []⟩]⟩,
  ⟨0x84, 1, 4, 0x0, false, false, [⟨31, 0, .rc, []⟩]⟩,
  ⟨0x88, 1, 4, 0x0, false, false, [⟨31, 0, .rc, []⟩]⟩,
  ⟨0x8C, 1, 4, 0x0, false, false, [⟨31, 0, .ro, []⟩]⟩,
  ⟨0x90, 1, 4, 0x0, false, false, [⟨23, 16, .ro, []⟩, ⟨12, 8, .ro, []⟩, ⟨3, 0, .ro, []⟩]⟩,
  ⟨0x94, 1, 4, 0x0, false, false, [⟨31, 0, .rc, []⟩]⟩,
  ⟨0x98, 1, 4, 0x0, false, false, [⟨31, 0, .rc, []⟩]⟩,
  ⟨0x9C, 1, 4, 0x0, false, false, [⟨31, 0, .rc, []⟩]⟩,
  ⟨0xA0, 24, 4, 0x0, false, false, [⟨31, 0, .ro, []⟩]⟩,
  ⟨0x100, 64, 4, 0x0, false, false, [⟨31, 0, .rc, []⟩]⟩]

/-- Rows of block DS (R318). -/
def dsRows : List RegRow := [
  ⟨0x0, 1, 4, 0x0, false, false, [⟨31, 31, .rw, []⟩, ⟨30, 30, .rwl, []⟩, ⟨29, 29, .rwl, []⟩, ⟨28, 28, .rwl, []⟩, ⟨27, 26, .rwl, []⟩, ⟨25, 24, .rwl, []⟩, ⟨23, 20, .rwl, []⟩, ⟨19, 19, .rwl, []⟩, ⟨15, 8, .rwl, []⟩, ⟨7, 0, .rwl, []⟩]⟩,
  ⟨0x4, 1, 4, 0x0, false, false, [⟨31, 16, .rwl, []⟩, ⟨15, 0, .rwl, []⟩]⟩,
  ⟨0x8, 4, 4, 0x0, false, false, [⟨31, 0, .rwl, []⟩]⟩,
  ⟨0x18, 1, 4, 0x0, false, false, [⟨18, 0, .rwl, [(0, 400000)]⟩]⟩,
  ⟨0x1C, 1, 4, 0x0, false, false, [⟨16, 16, .rwl, []⟩, ⟨15, 0, .rwl, []⟩]⟩,
  ⟨0x20, 1, 4, 0x0, false, false, [⟨31, 16, .rwl, []⟩, ⟨15, 0, .rwl, []⟩]⟩,
  ⟨0x24, 1, 4, 0x0, false, false, [⟨31, 30, .ro, []⟩, ⟨29, 28, .ro, []⟩, ⟨27, 26, .ro, []⟩, ⟨25, 23, .ro, []⟩, ⟨12, 0, .ro, []⟩]⟩,
  ⟨0x28, 1, 4, 0x0, false, false, [⟨31, 0, .ro, []⟩]⟩,
  ⟨0x2C, 1, 4, 0x0, false, false, [⟨31, 16, .rc, []⟩, ⟨15, 0, .rc, []⟩]⟩,
  ⟨0x30, 1, 4, 0x0, false, false, [⟨31, 0, .ro, []⟩]⟩,
  ⟨0x34, 1, 4, 0x0, false, false, [⟨31, 16, .rc, []⟩, ⟨15, 0, .rc, []⟩]⟩,
  ⟨0x38, 1, 4, 0x0, false, false, [⟨15, 0, .rc, []⟩]⟩,
  ⟨0x3C, 1, 4, 0x0, false, false, [⟨31, 0, .ro, []⟩]⟩]

/-- Rows of block BA (R325). -/
def baRows : List RegRow := [
  ⟨0x0, 1, 4, 0x0, false, false, [⟨31, 31, .rwl, []⟩, ⟨29, 28, .rwl, [(0, 2)]⟩, ⟨27, 27, .rwl, []⟩, ⟨25, 16, .rwl, []⟩, ⟨15, 8, .rwl, []⟩]⟩,
  ⟨0x4, 1, 4, 0x0, false, false, [⟨31, 16, .rwl, []⟩, ⟨15, 0, .rw, []⟩]⟩,
  ⟨0x8, 1, 4, 0x0, false, false, [⟨31, 31, .ro, []⟩, ⟨30, 30, .ro, []⟩, ⟨0, 0, .w1c, []⟩]⟩,
  ⟨0xC, 1, 4, 0x0, false, false, [⟨31, 16, .ro, []⟩, ⟨15, 0, .ro, []⟩]⟩]

/-- Rows of block RING (R452). -/
def ringRows : List RegRow := [
  ⟨0x0, 4, 4, 0x0, false, false, [⟨31, 0, .ro, []⟩]⟩]

/-- The rows of a block. -/
def Block.rows : Block → List RegRow
  | .sys => sysRows
  | .bat => batRows
  | .tb => tbRows
  | .cue => cueRows
  | .cfg => cfgRows
  | .lp => lpRows
  | .ac => acRows
  | .amx => amxRows
  | .wm => wmRows
  | .fc => fcRows
  | .se => seRows
  | .sv => svRows
  | .fm => fmRows
  | .ax => axRows
  | .gp => gpRows
  | .gpio => gpioRows
  | .qc => qcRows
  | .el => elRows
  | .ds => dsRows
  | .ba => baRows
  | .ring => ringRows

/-- Base address of a block. -/
def Block.base : Block → Nat
  | .sys => 0x0
  | .bat => 0x4000
  | .tb => 0x10000
  | .cue => 0x20000
  | .cfg => 0x30000
  | .lp => 0x100000
  | .ac => 0x200000
  | .amx => 0x300000
  | .wm => 0x340000
  | .fc => 0x380000
  | .se => 0x400000
  | .sv => 0x500000
  | .fm => 0x600000
  | .ax => 0x700000
  | .gp => 0x800000
  | .gpio => 0x800100
  | .qc => 0x900000
  | .el => 0xA00000
  | .ds => 0xC00000
  | .ba => 0xC80000
  | .ring => 0xB00000

/-- Instances of a block. -/
def Block.count : Block → Nat
  | .sys => 1
  | .bat => 1
  | .tb => 1
  | .cue => 1
  | .cfg => 1
  | .lp => 32
  | .ac => 48
  | .amx => 1
  | .wm => 96
  | .fc => 48
  | .se => 16
  | .sv => 256
  | .fm => 1
  | .ax => 4
  | .gp => 4
  | .gpio => 1
  | .qc => 128
  | .el => 1
  | .ds => 1024
  | .ba => 256
  | .ring => 4096

/-- Distance in bytes between two instances of a block. -/
def Block.stride : Block → Nat
  | .sys => 0x100
  | .bat => 0x100
  | .tb => 0x400
  | .cue => 0x200
  | .cfg => 0x100
  | .lp => 0x1000
  | .ac => 0x400
  | .amx => 0x400
  | .wm => 0x10
  | .fc => 0x40
  | .se => 0x1000
  | .sv => 0x10
  | .fm => 0x200
  | .ax => 0x1000
  | .gp => 0x40
  | .gpio => 0xC0
  | .qc => 0x10
  | .el => 0x200
  | .ds => 0x40
  | .ba => 0x10
  | .ring => 0x10

/-- The blocks in the order of the map. -/
def Block.all : List Block :=
  [.sys, .bat, .tb, .cue, .cfg, .lp, .ac, .amx, .wm, .fc, .se, .sv, .fm, .ax, .gp, .gpio, .qc, .el, .ds, .ba, .ring]

abbrev SYS_ID : Nat := 0x0
abbrev SYS_STEP : Nat := 0x4
abbrev SYS_STATE : Nat := 0x8
abbrev SYS_STATE_prev : Fld := ⟨SYS_STATE, 15, 12⟩
abbrev SYS_STATE_lead : Fld := ⟨SYS_STATE, 8, 8⟩
abbrev SYS_STATE_state : Fld := ⟨SYS_STATE, 3, 0⟩
abbrev SYS_STATE_REQ : Nat := 0xC
abbrev SYS_STATE_REQ_req : Fld := ⟨SYS_STATE_REQ, 2, 0⟩
abbrev SYS_REQ_STAT : Nat := 0x10
abbrev SYS_REQ_STAT_outcome : Fld := ⟨SYS_REQ_STAT, 5, 4⟩
abbrev SYS_REQ_STAT_req : Fld := ⟨SYS_REQ_STAT, 2, 0⟩
abbrev SYS_RESET_CAUSE : Nat := 0x14
abbrev SYS_WAKE_CAUSE : Nat := 0x18
abbrev SYS_WAKE_CAUSE_line : Fld := ⟨SYS_WAKE_CAUSE, 7, 4⟩
abbrev SYS_WAKE_CAUSE_pin : Fld := ⟨SYS_WAKE_CAUSE, 2, 2⟩
abbrev SYS_WAKE_CAUSE_alarm : Fld := ⟨SYS_WAKE_CAUSE, 1, 1⟩
abbrev SYS_WAKE_CAUSE_run : Fld := ⟨SYS_WAKE_CAUSE, 0, 0⟩
abbrev SYS_STATE_TT_LO : Nat := 0x1C
abbrev SYS_STATE_TT_HI : Nat := 0x20
abbrev SYS_DRAIN_CTL : Nat := 0x24
abbrev SYS_DRAIN_CTL_rg : Fld := ⟨SYS_DRAIN_CTL, 3, 0⟩
abbrev SYS_DRAIN_STAT : Nat := 0x28
abbrev SYS_DRAIN_STAT_busy : Fld := ⟨SYS_DRAIN_STAT, 3, 3⟩
abbrev SYS_DRAIN_STAT_target : Fld := ⟨SYS_DRAIN_STAT, 2, 0⟩
abbrev SYS_WAKE_SRC : Nat := 0x2C
abbrev SYS_WAKE_SRC_tt_alarm : Fld := ⟨SYS_WAKE_SRC, 16, 16⟩
abbrev SYS_WAKE_SRC_lines : Fld := ⟨SYS_WAKE_SRC, 15, 0⟩
abbrev SYS_WAKE_AT_LO : Nat := 0x30
abbrev SYS_WAKE_AT_HI : Nat := 0x34
abbrev SYS_WIND_CTL : Nat := 0x38
abbrev SYS_WIND_CTL_free_s : Fld := ⟨SYS_WIND_CTL, 15, 0⟩
abbrev SYS_PLL_STAT : Nat := 0x3C
abbrev SYS_PLL_STAT_kclk : Fld := ⟨SYS_PLL_STAT, 31, 31⟩
abbrev SYS_PLL_STAT_fpll : Fld := ⟨SYS_PLL_STAT, 0, 0⟩
abbrev SYS_KA (i : Nat) : Nat := 0x40 + i * 4
abbrev SYS_AWAKE (i : Nat) : Nat := 0x50 + i * 4
abbrev SYS_CLAIM (i : Nat) : Nat := 0x60 + i * 4
abbrev SYS_SLEEP_CTL (i : Nat) : Nat := 0x70 + i * 4
abbrev SYS_SLEEP_CTL_dly_max (i : Nat) : Fld := ⟨SYS_SLEEP_CTL i, 29, 20⟩
abbrev SYS_SLEEP_CTL_dly_min (i : Nat) : Fld := ⟨SYS_SLEEP_CTL i, 19, 10⟩
abbrev SYS_SLEEP_CTL_mode (i : Nat) : Fld := ⟨SYS_SLEEP_CTL i, 1, 0⟩
abbrev SYS_SLEEP_DLY (i : Nat) : Nat := 0x88 + i * 4
abbrev SYS_SLEEP_DLY_d (i : Nat) : Fld := ⟨SYS_SLEEP_DLY i, 9, 0⟩
abbrev SYS_SLEEP_STAT (i : Nat) : Nat := 0xA0 + i * 4
abbrev SYS_SLEEP_STAT_side (i : Nat) : Fld := ⟨SYS_SLEEP_STAT i, 2, 2⟩
abbrev SYS_SLEEP_STAT_pressing (i : Nat) : Fld := ⟨SYS_SLEEP_STAT i, 1, 1⟩
abbrev SYS_SLEEP_STAT_bound_sticky (i : Nat) : Fld := ⟨SYS_SLEEP_STAT i, 0, 0⟩
abbrev SYS_SLEEP_BOUND_CNT (i : Nat) : Nat := 0xB8 + i * 4
abbrev SYS_WIND_CNT : Nat := 0xD0
abbrev SYS_SLEEP_CNT : Nat := 0xD4
abbrev SYS_NAP_CNT : Nat := 0xD8
abbrev SYS_REQ_REFUSE_CNT : Nat := 0xDC
abbrev SYS_DRAIN_DROP_CNT : Nat := 0xE0
abbrev SYS_STATE_CHANGE_CNT : Nat := 0xE4
abbrev SYS_STANDBY_CNT : Nat := 0xE8
abbrev SYS_WIND_LAST : Nat := 0xEC
abbrev SYS_POWER_EST : Nat := 0xF0
abbrev SYS_TEMP : Nat := 0xF4
abbrev SYS_HOLD_STAT : Nat := 0xF8
abbrev SYS_DOMAIN_STAT : Nat := 0xFC
abbrev BAT_STAT : Nat := 0x4000
abbrev BAT_STAT_keep_err : Fld := ⟨BAT_STAT, 4, 4⟩
abbrev BAT_STAT_aoclk_ok : Fld := ⟨BAT_STAT, 3, 3⟩
abbrev BAT_STAT_vbat_low : Fld := ⟨BAT_STAT, 2, 2⟩
abbrev BAT_STAT_keep_seen : Fld := ⟨BAT_STAT, 1, 1⟩
abbrev BAT_STAT_fresh : Fld := ⟨BAT_STAT, 0, 0⟩
abbrev BAT_CTL : Nat := 0x4004
abbrev BAT_CTL_sec_en : Fld := ⟨BAT_CTL, 0, 0⟩
abbrev BAT_VBAT_MV : Nat := 0x4008
abbrev BAT_VDDAO_MV : Nat := 0x400C
abbrev BAT_SWITCH_CNT : Nat := 0x4010
abbrev BAT_VIOL_CLR : Nat := 0x4014
abbrev BAT_VIOL_CLR_clr : Fld := ⟨BAT_VIOL_CLR, 15, 0⟩
abbrev BAT_VIOL_SUM : Nat := 0x4018
abbrev BAT_USER_LOCK : Nat := 0x401C
abbrev BAT_USER_LOCK_lock : Fld := ⟨BAT_USER_LOCK, 7, 0⟩
abbrev BAT_KEEP_CRC : Nat := 0x4020
abbrev BAT_AO_TRIM : Nat := 0x4024
abbrev BAT_AO_TRIM_trim : Fld := ⟨BAT_AO_TRIM, 7, 0⟩
abbrev BAT_WR_REFUSE_CNT : Nat := 0x4028
abbrev BAT_VIOL_LAST : Nat := 0x402C
abbrev BAT_VIOL_LAST_state : Fld := ⟨BAT_VIOL_LAST, 11, 8⟩
abbrev BAT_VIOL_LAST_index : Fld := ⟨BAT_VIOL_LAST, 3, 0⟩
abbrev BAT_VIOL_TT_LO : Nat := 0x4030
abbrev BAT_VIOL_TT_HI : Nat := 0x4034
abbrev BAT_SCRUB_CNT : Nat := 0x4038
abbrev BAT_KEEP_STAT : Nat := 0x403C
abbrev KEEP_MEMBER : Nat := 0x4080
abbrev KEEP_MEMBER_valid : Fld := ⟨KEEP_MEMBER, 31, 31⟩
abbrev KEEP_MEMBER_priority : Fld := ⟨KEEP_MEMBER, 23, 16⟩
abbrev KEEP_MEMBER_id : Fld := ⟨KEEP_MEMBER, 11, 0⟩
abbrev KEEP_OSC_AGEING : Nat := 0x4084
abbrev KEEP_AGE_FITS : Nat := 0x4088
abbrev KEEP_IMG_SLOT : Nat := 0x408C
abbrev KEEP_IMG_SLOT_slot : Fld := ⟨KEEP_IMG_SLOT, 1, 0⟩
abbrev KEEP_AO_SEC_LO : Nat := 0x4090
abbrev KEEP_AO_SEC_HI : Nat := 0x4094
abbrev KEEP_LAST_STATE : Nat := 0x4098
abbrev KEEP_LAST_STATE_cause : Fld := ⟨KEEP_LAST_STATE, 11, 8⟩
abbrev KEEP_LAST_STATE_state : Fld := ⟨KEEP_LAST_STATE, 3, 0⟩
abbrev KEEP_ENTRY_CNT : Nat := 0x409C
abbrev KEEP_VIOL (i : Nat) : Nat := 0x40A0 + i * 4
abbrev KEEP_USER (i : Nat) : Nat := 0x40E0 + i * 4
abbrev TB_CTL : Nat := 0x10000
abbrev TB_CTL_refclk_sel : Fld := ⟨TB_CTL, 1, 0⟩
abbrev TB_STAT : Nat := 0x10004
abbrev TB_STAT_src : Fld := ⟨TB_STAT, 7, 5⟩
abbrev TB_STAT_tb_state : Fld := ⟨TB_STAT, 4, 3⟩
abbrev TB_STAT_tt_valid : Fld := ⟨TB_STAT, 0, 0⟩
abbrev TB_TT_NS_LO : Nat := 0x10008
abbrev TB_TT_NS_HI : Nat := 0x1000C
abbrev TB_TT_FRAC : Nat := 0x10010
abbrev TB_SRC_PRIO : Nat := 0x10014
abbrev TB_SRC_PRIO_revert : Fld := ⟨TB_SRC_PRIO, 12, 12⟩
abbrev TB_SRC_PRIO_slot3 : Fld := ⟨TB_SRC_PRIO, 11, 9⟩
abbrev TB_SRC_PRIO_slot2 : Fld := ⟨TB_SRC_PRIO, 8, 6⟩
abbrev TB_SRC_PRIO_slot1 : Fld := ⟨TB_SRC_PRIO, 5, 3⟩
abbrev TB_SRC_PRIO_slot0 : Fld := ⟨TB_SRC_PRIO, 2, 0⟩
abbrev TB_SRC_STAT : Nat := 0x10018
abbrev TB_SRC_QUAL : Nat := 0x1001C
abbrev TB_SRC_QUAL_requal_s : Fld := ⟨TB_SRC_QUAL, 7, 0⟩
abbrev TB_SERVO_CTL : Nat := 0x10020
abbrev TB_SERVO_CTL_mode : Fld := ⟨TB_SERVO_CTL, 1, 0⟩
abbrev TB_SERVO_STAT : Nat := 0x10024
abbrev TB_SERVO_STAT_side : Fld := ⟨TB_SERVO_STAT, 2, 2⟩
abbrev TB_SERVO_STAT_pressing : Fld := ⟨TB_SERVO_STAT, 1, 1⟩
abbrev TB_SERVO_STAT_bound_sticky : Fld := ⟨TB_SERVO_STAT, 0, 0⟩
abbrev TB_SERVO_BW : Nat := 0x10028
abbrev TB_SERVO_BW_b : Fld := ⟨TB_SERVO_BW, 8, 0⟩
abbrev TB_SERVO_WIN (i : Nat) : Nat := 0x1002C + i * 4
abbrev TB_SERVO_WIN_bw_max (i : Nat) : Fld := ⟨TB_SERVO_WIN i, 24, 16⟩
abbrev TB_SERVO_WIN_bw_min (i : Nat) : Fld := ⟨TB_SERVO_WIN i, 8, 0⟩
abbrev TB_SERVO_BOUND_CNT : Nat := 0x10038
abbrev TB_PHASE_ERR : Nat := 0x1003C
abbrev TB_FREQ_ADJ : Nat := 0x10040
abbrev TB_LOCK_CTL : Nat := 0x10044
abbrev TB_LOCK_CTL_unlock_ns : Fld := ⟨TB_LOCK_CTL, 31, 16⟩
abbrev TB_LOCK_CTL_lock_ns : Fld := ⟨TB_LOCK_CTL, 15, 0⟩
abbrev TB_SLEW_CTL : Nat := 0x10048
abbrev TB_SLEW_CTL_large_us : Fld := ⟨TB_SLEW_CTL, 31, 17⟩
abbrev TB_SLEW_CTL_rate : Fld := ⟨TB_SLEW_CTL, 16, 0⟩
abbrev TB_TOD_LO : Nat := 0x1004C
abbrev TB_TOD_HI : Nat := 0x10050
abbrev TB_TOD_CTL : Nat := 0x10054
abbrev TB_TOD_CTL_armed : Fld := ⟨TB_TOD_CTL, 2, 2⟩
abbrev TB_TOD_CTL_at_pps : Fld := ⟨TB_TOD_CTL, 1, 1⟩
abbrev TB_TOD_CTL_arm : Fld := ⟨TB_TOD_CTL, 0, 0⟩
abbrev TB_HO_CTL : Nat := 0x10058
abbrev TB_HO_CTL_use_ageing : Fld := ⟨TB_HO_CTL, 16, 16⟩
abbrev TB_HO_CTL_avg_s : Fld := ⟨TB_HO_CTL, 12, 0⟩
abbrev TB_HO_STAT : Nat := 0x1005C
abbrev TB_HO_STAT_learned : Fld := ⟨TB_HO_STAT, 31, 31⟩
abbrev TB_HO_STAT_secs : Fld := ⟨TB_HO_STAT, 30, 0⟩
abbrev TB_GEN_CTL : Nat := 0x10060
abbrev TB_GEN_CTL_wm : Fld := ⟨TB_GEN_CTL, 30, 24⟩
abbrev TB_GEN_CTL_cell : Fld := ⟨TB_GEN_CTL, 21, 16⟩
abbrev TB_GEN_CTL_format : Fld := ⟨TB_GEN_CTL, 5, 0⟩
abbrev TB_PPS_CTL : Nat := 0x10064
abbrev TB_PPS_CTL_edge : Fld := ⟨TB_PPS_CTL, 0, 0⟩
abbrev TB_SRC_SWITCH_CNT : Nat := 0x10068
abbrev TB_SRC_LOSS_CNT : Nat := 0x1006C
abbrev TB_XSVC_REFUSE_CNT : Nat := 0x10070
abbrev TB_RG_STAT : Nat := 0x10074
abbrev TB_BT_STAT : Nat := 0x10078
abbrev TB_OFFSET_LARGE_CNT : Nat := 0x1007C
abbrev TB_RG_CTL (i : Nat) : Nat := 0x10100 + i * 8
abbrev TB_RG_CTL_enable (i : Nat) : Fld := ⟨TB_RG_CTL i, 31, 31⟩
abbrev TB_RG_CTL_format (i : Nat) : Fld := ⟨TB_RG_CTL i, 5, 0⟩
abbrev TB_RG_OFFSET (i : Nat) : Nat := 0x10104 + i * 8
abbrev TB_BT_CTL (i : Nat) : Nat := 0x10200 + i * 4
abbrev TB_BT_CTL_enable (i : Nat) : Fld := ⟨TB_BT_CTL i, 31, 31⟩
abbrev TB_BT_CTL_period (i : Nat) : Fld := ⟨TB_BT_CTL i, 30, 29⟩
abbrev TB_BT_CTL_rg (i : Nat) : Fld := ⟨TB_BT_CTL i, 28, 25⟩
abbrev TB_BT_CTL_start (i : Nat) : Fld := ⟨TB_BT_CTL i, 24, 12⟩
abbrev TB_BT_CTL_length (i : Nat) : Fld := ⟨TB_BT_CTL i, 11, 0⟩
abbrev CUE_CTL : Nat := 0x20000
abbrev CUE_CTL_late_rg : Fld := ⟨CUE_CTL, 19, 16⟩
abbrev CUE_CTL_bcast_rx : Fld := ⟨CUE_CTL, 0, 0⟩
abbrev CUE_STAT : Nat := 0x20004
abbrev CUE_SEQ : Nat := 0x20008
abbrev CUE_MEMBER : Nat := 0x2000C
abbrev CUE_MBX_SUBMIT : Nat := 0x20010
abbrev CUE_MBX_SUBMIT_count : Fld := ⟨CUE_MBX_SUBMIT, 10, 8⟩
abbrev CUE_MBX_SUBMIT_first : Fld := ⟨CUE_MBX_SUBMIT, 2, 0⟩
abbrev CUE_MBX_STAT : Nat := 0x20014
abbrev CUE_MBX_SEQ (i : Nat) : Nat := 0x20018 + i * 4
abbrev CUE_REJECT_CNT : Nat := 0x20038
abbrev CUE_LATE_CNT : Nat := 0x2003C
abbrev CUE_DISCARD_CNT : Nat := 0x20040
abbrev CUE_CANCEL_CNT : Nat := 0x20044
abbrev CUE_CANCEL_MISS_CNT : Nat := 0x20048
abbrev CUE_QUOTA_CNT : Nat := 0x2004C
abbrev CUE_DUP_CNT : Nat := 0x20050
abbrev CUE_CHAIN_DROP_CNT : Nat := 0x20054
abbrev CUE_ACCEPT_CNT (i : Nat) : Nat := 0x20058 + i * 4
abbrev CUE_PEAK : Nat := 0x2006C
abbrev CUE_ARMED : Nat := 0x20070
abbrev CUE_LAST_REJECT : Nat := 0x20074
abbrev CUE_LAST_REJECT_WHY : Nat := 0x20078
abbrev CUE_LAST_REJECT_WHY_service : Fld := ⟨CUE_LAST_REJECT_WHY, 15, 8⟩
abbrev CUE_LAST_REJECT_WHY_reason : Fld := ⟨CUE_LAST_REJECT_WHY, 3, 0⟩
abbrev CUE_SCRIPT_STAT : Nat := 0x2007C
abbrev CUE_SCRIPT_EN (i : Nat) : Nat := 0x20080 + i * 4
abbrev CUE_MBX (i : Nat) : Nat := 0x20100 + i * 4
abbrev CFG_STAT : Nat := 0x30000
abbrev CFG_STAT_loading : Fld := ⟨CFG_STAT, 31, 31⟩
abbrev CFG_STAT_sealed : Fld := ⟨CFG_STAT, 30, 30⟩
abbrev CFG_STAT_encrypted : Fld := ⟨CFG_STAT, 29, 29⟩
abbrev CFG_STAT_signed : Fld := ⟨CFG_STAT, 28, 28⟩
abbrev CFG_STAT_slot : Fld := ⟨CFG_STAT, 27, 26⟩
abbrev CFG_STAT_start_state : Fld := ⟨CFG_STAT, 25, 24⟩
abbrev CFG_STAT_security_version : Fld := ⟨CFG_STAT, 14, 8⟩
abbrev CFG_BUILD : Nat := 0x30004
abbrev CFG_IMG_LEN : Nat := 0x30008
abbrev CFG_FLASH_STAT : Nat := 0x3000C
abbrev CFG_FLASH_STAT_mhz : Fld := ⟨CFG_FLASH_STAT, 31, 24⟩
abbrev CFG_FLASH_STAT_addr_bytes : Fld := ⟨CFG_FLASH_STAT, 9, 8⟩
abbrev CFG_FLASH_STAT_mode : Fld := ⟨CFG_FLASH_STAT, 2, 0⟩
abbrev CFG_FLASH_SIZE : Nat := 0x30010
abbrev CFG_DIR_STAT : Nat := 0x30014
abbrev CFG_DIR_STAT_copy : Fld := ⟨CFG_DIR_STAT, 1, 1⟩
abbrev CFG_DIR_STAT_found : Fld := ⟨CFG_DIR_STAT, 0, 0⟩
abbrev CFG_TRY_ORDER : Nat := 0x30018
abbrev CFG_RESULT (i : Nat) : Nat := 0x3001C + i * 4
abbrev CFG_RESULT_cause (i : Nat) : Fld := ⟨CFG_RESULT i, 31, 24⟩
abbrev CFG_RESULT_detail (i : Nat) : Fld := ⟨CFG_RESULT i, 23, 0⟩
abbrev CFG_LOAD_TIME : Nat := 0x30028
abbrev CFG_CAL_STAT : Nat := 0x3002C
abbrev CFG_CAL_STAT_run : Fld := ⟨CFG_CAL_STAT, 31, 31⟩
abbrev CFG_CAL_STAT_quads : Fld := ⟨CFG_CAL_STAT, 11, 0⟩
abbrev CFG_CAL_TIME : Nat := 0x30030
abbrev CFG_SECT_STAT : Nat := 0x30034
abbrev CFG_LOAD_CNT : Nat := 0x30038
abbrev CFG_REFUSE_CNT : Nat := 0x3003C
abbrev CFG_GOLDEN_CNT : Nat := 0x30040
abbrev CFG_ROLLBACK_REFUSE_CNT : Nat := 0x30044
abbrev CFG_CHAN_REFUSE_CNT : Nat := 0x30048
abbrev CFG_FUSE_STAT : Nat := 0x3004C
abbrev CFG_FUSE_STAT_key_hash_set : Fld := ⟨CFG_FUSE_STAT, 31, 31⟩
abbrev CFG_FUSE_STAT_aes_key_set : Fld := ⟨CFG_FUSE_STAT, 30, 30⟩
abbrev CFG_FUSE_STAT_require_seal : Fld := ⟨CFG_FUSE_STAT, 29, 29⟩
abbrev CFG_FUSE_STAT_require_encrypt : Fld := ⟨CFG_FUSE_STAT, 28, 28⟩
abbrev CFG_FUSE_STAT_private_jtag_off : Fld := ⟨CFG_FUSE_STAT, 27, 27⟩
abbrev CFG_FUSE_STAT_fuse_lock : Fld := ⟨CFG_FUSE_STAT, 26, 26⟩
abbrev CFG_FUSE_STAT_rollback : Fld := ⟨CFG_FUSE_STAT, 6, 0⟩
abbrev CFG_FUSE_CMD : Nat := 0x30050
abbrev CFG_FUSE_CMD_cmd : Fld := ⟨CFG_FUSE_CMD, 3, 0⟩
abbrev CFG_FUSE_RESULT : Nat := 0x30054
abbrev CFG_FUSE_RESULT_kcv : Fld := ⟨CFG_FUSE_RESULT, 31, 16⟩
abbrev CFG_FUSE_RESULT_last : Fld := ⟨CFG_FUSE_RESULT, 1, 0⟩
abbrev CFG_ROLLBACK_ADV : Nat := 0x30058
abbrev CFG_CHAN_CTL : Nat := 0x3005C
abbrev CFG_CHAN_CTL_en : Fld := ⟨CFG_CHAN_CTL, 0, 0⟩
abbrev CFG_KEY_HASH (i : Nat) : Nat := 0x30060 + i * 4
abbrev CFG_FUSE_DATA (i : Nat) : Nat := 0x30090 + i * 4
abbrev CFG_CAL_Q (i : Nat) : Nat := 0x300C0 + i * 4
abbrev CFG_RB_CTL : Nat := 0x300F0
abbrev CFG_RB_CTL_index : Fld := ⟨CFG_RB_CTL, 9, 0⟩
abbrev CFG_RB_DATA : Nat := 0x300F4
abbrev CFG_LINE_TRIM_STAT : Nat := 0x300F8
abbrev CFG_AO_SEC_AT_LOAD : Nat := 0x300FC
abbrev LP_MODE_CTL (n : Nat) : Nat := 0x100000 + n * 0x1000
abbrev LP_MODE_CTL_mode (n : Nat) : Fld := ⟨LP_MODE_CTL n, 2, 0⟩
abbrev LP_RX_CTL (n : Nat) : Nat := 0x100004 + n * 0x1000
abbrev LP_RX_CTL_sync (n : Nat) : Fld := ⟨LP_RX_CTL n, 31, 31⟩
abbrev LP_RX_CTL_fill (n : Nat) : Fld := ⟨LP_RX_CTL n, 30, 30⟩
abbrev LP_RX_CTL_rg (n : Nat) : Fld := ⟨LP_RX_CTL n, 29, 26⟩
abbrev LP_RX_CTL_auto_mask (n : Nat) : Fld := ⟨LP_RX_CTL n, 23, 13⟩
abbrev LP_RX_CTL_win_ns (n : Nat) : Fld := ⟨LP_RX_CTL n, 12, 4⟩
abbrev LP_RX_CTL_rate (n : Nat) : Fld := ⟨LP_RX_CTL n, 3, 0⟩
abbrev LP_TX_CTL (n : Nat) : Nat := 0x100008 + n * 0x1000
abbrev LP_TX_CTL_level_b (n : Nat) : Fld := ⟨LP_TX_CTL n, 31, 31⟩
abbrev LP_TX_CTL_pid_src (n : Nat) : Fld := ⟨LP_TX_CTL n, 29, 28⟩
abbrev LP_TX_CTL_underrun_fill (n : Nat) : Fld := ⟨LP_TX_CTL n, 24, 24⟩
abbrev LP_TX_CTL_rg (n : Nat) : Fld := ⟨LP_TX_CTL n, 19, 16⟩
abbrev LP_TX_CTL_rate (n : Nat) : Fld := ⟨LP_TX_CTL n, 3, 0⟩
abbrev LP_TX_SRC (n : Nat) : Nat := 0x10000C + n * 0x1000
abbrev LP_TX_SRC_kind (n : Nat) : Fld := ⟨LP_TX_SRC n, 11, 10⟩
abbrev LP_TX_SRC_index (n : Nat) : Fld := ⟨LP_TX_SRC n, 9, 0⟩
abbrev LP_RX_DEST (n : Nat) : Nat := 0x100010 + n * 0x1000
abbrev LP_RX_DEST_kind (n : Nat) : Fld := ⟨LP_RX_DEST n, 11, 10⟩
abbrev LP_RX_DEST_index (n : Nat) : Fld := ⟨LP_RX_DEST n, 9, 0⟩
abbrev LP_TX_PID (n : Nat) : Nat := 0x100014 + n * 0x1000
abbrev LP_GROUP_CTL (n : Nat) : Nat := 0x100018 + n * 0x1000
abbrev LP_GROUP_CTL_family (n : Nat) : Fld := ⟨LP_GROUP_CTL n, 0, 0⟩
abbrev LP_EQ_CTL (n : Nat) : Nat := 0x10001C + n * 0x1000
abbrev LP_EQ_CTL_eq_max (n : Nat) : Fld := ⟨LP_EQ_CTL n, 25, 16⟩
abbrev LP_EQ_CTL_eq_min (n : Nat) : Fld := ⟨LP_EQ_CTL n, 13, 4⟩
abbrev LP_EQ_CTL_mode (n : Nat) : Fld := ⟨LP_EQ_CTL n, 1, 0⟩
abbrev LP_EQ_SET (n : Nat) : Nat := 0x100020 + n * 0x1000
abbrev LP_EQ_SET_code (n : Nat) : Fld := ⟨LP_EQ_SET n, 9, 0⟩
abbrev LP_EQ_STAT (n : Nat) : Nat := 0x100024 + n * 0x1000
abbrev LP_EQ_STAT_side (n : Nat) : Fld := ⟨LP_EQ_STAT n, 2, 2⟩
abbrev LP_EQ_STAT_pressing (n : Nat) : Fld := ⟨LP_EQ_STAT n, 1, 1⟩
abbrev LP_EQ_STAT_bound_sticky (n : Nat) : Fld := ⟨LP_EQ_STAT n, 0, 0⟩
abbrev LP_EQ_BOUND_CNT (n : Nat) : Nat := 0x100028 + n * 0x1000
abbrev LP_KEEP_EQ (n : Nat) : Nat := 0x10002C + n * 0x1000
abbrev LP_KEEP_EQ_valid (n : Nat) : Fld := ⟨LP_KEEP_EQ n, 31, 31⟩
abbrev LP_KEEP_EQ_rate (n : Nat) : Fld := ⟨LP_KEEP_EQ n, 19, 16⟩
abbrev LP_KEEP_EQ_eq_code (n : Nat) : Fld := ⟨LP_KEEP_EQ n, 9, 0⟩
abbrev LP_DRV_CTL (n : Nat) : Nat := 0x100030 + n * 0x1000
abbrev LP_DRV_CTL_preemph (n : Nat) : Fld := ⟨LP_DRV_CTL n, 9, 8⟩
abbrev LP_DRV_CTL_amp_trim (n : Nat) : Fld := ⟨LP_DRV_CTL n, 7, 4⟩
abbrev LP_DRV_CTL_slew (n : Nat) : Fld := ⟨LP_DRV_CTL n, 3, 2⟩
abbrev LP_STAT (n : Nat) : Nat := 0x100034 + n * 0x1000
abbrev LP_STAT_ready (n : Nat) : Fld := ⟨LP_STAT n, 31, 31⟩
abbrev LP_STAT_loop_out (n : Nat) : Fld := ⟨LP_STAT n, 12, 12⟩
abbrev LP_STAT_misaligned (n : Nat) : Fld := ⟨LP_STAT n, 11, 11⟩
abbrev LP_STAT_pid_valid (n : Nat) : Fld := ⟨LP_STAT n, 10, 10⟩
abbrev LP_STAT_trs_locked (n : Nat) : Fld := ⟨LP_STAT n, 9, 9⟩
abbrev LP_STAT_cdr_locked (n : Nat) : Fld := ⟨LP_STAT n, 8, 8⟩
abbrev LP_STAT_signal (n : Nat) : Fld := ⟨LP_STAT n, 7, 7⟩
abbrev LP_STAT_rx_rate (n : Nat) : Fld := ⟨LP_STAT n, 3, 0⟩
abbrev LP_STICKY (n : Nat) : Nat := 0x100038 + n * 0x1000
abbrev LP_STICKY_fmt_mismatch (n : Nat) : Fld := ⟨LP_STICKY n, 8, 8⟩
abbrev LP_STICKY_underrun (n : Nat) : Fld := ⟨LP_STICKY n, 7, 7⟩
abbrev LP_STICKY_tx_sat (n : Nat) : Fld := ⟨LP_STICKY n, 6, 6⟩
abbrev LP_STICKY_tx_fill (n : Nat) : Fld := ⟨LP_STICKY n, 5, 5⟩
abbrev LP_STICKY_misalign (n : Nat) : Fld := ⟨LP_STICKY n, 4, 4⟩
abbrev LP_STICKY_pid_change (n : Nat) : Fld := ⟨LP_STICKY n, 3, 3⟩
abbrev LP_STICKY_trs_err (n : Nat) : Fld := ⟨LP_STICKY n, 2, 2⟩
abbrev LP_STICKY_crc_err (n : Nat) : Fld := ⟨LP_STICKY n, 1, 1⟩
abbrev LP_STICKY_lock_lost (n : Nat) : Fld := ⟨LP_STICKY n, 0, 0⟩
abbrev LP_RX_PID (n : Nat) : Nat := 0x10003C + n * 0x1000
abbrev LP_RX_FMT (n : Nat) : Nat := 0x100040 + n * 0x1000
abbrev LP_RX_FMT_level_b (n : Nat) : Fld := ⟨LP_RX_FMT n, 8, 8⟩
abbrev LP_RX_FMT_format (n : Nat) : Fld := ⟨LP_RX_FMT n, 5, 0⟩
abbrev LP_RX_ALIGN (n : Nat) : Nat := 0x100044 + n * 0x1000
abbrev LP_RX_FREQ (n : Nat) : Nat := 0x100048 + n * 0x1000
abbrev LP_EYE (n : Nat) : Nat := 0x10004C + n * 0x1000
abbrev LP_LOCK_TIME (n : Nat) : Nat := 0x100050 + n * 0x1000
abbrev LP_LOCK_LOSS_CNT (n : Nat) : Nat := 0x100054 + n * 0x1000
abbrev LP_LOS_CNT (n : Nat) : Nat := 0x100058 + n * 0x1000
abbrev LP_CRC_ERR_CNT (n : Nat) : Nat := 0x10005C + n * 0x1000
abbrev LP_LN_ERR_CNT (n : Nat) : Nat := 0x100060 + n * 0x1000
abbrev LP_TRS_ERR_CNT (n : Nat) : Nat := 0x100064 + n * 0x1000
abbrev LP_ERR_SEC_CNT (n : Nat) : Nat := 0x100068 + n * 0x1000
abbrev LP_PID_CHANGE_CNT (n : Nat) : Nat := 0x10006C + n * 0x1000
abbrev LP_MISALIGN_CNT (n : Nat) : Nat := 0x100070 + n * 0x1000
abbrev LP_RX_FILL_CNT (n : Nat) : Nat := 0x100074 + n * 0x1000
abbrev LP_TX_FILL_CNT (n : Nat) : Nat := 0x100078 + n * 0x1000
abbrev LP_TX_SAT_CNT (n : Nat) : Nat := 0x10007C + n * 0x1000
abbrev LP_UNDERRUN_CNT (n : Nat) : Nat := 0x100080 + n * 0x1000
abbrev LP_FRAME_ADJ_CNT (n : Nat) : Nat := 0x100084 + n * 0x1000
abbrev LP_RX_FRAME_CNT (n : Nat) : Nat := 0x100088 + n * 0x1000
abbrev LP_TX_FRAME_CNT (n : Nat) : Nat := 0x10008C + n * 0x1000
abbrev LP_PRBS_CTL (n : Nat) : Nat := 0x100090 + n * 0x1000
abbrev LP_PRBS_CTL_pattern (n : Nat) : Fld := ⟨LP_PRBS_CTL n, 5, 4⟩
abbrev LP_PRBS_CTL_check (n : Nat) : Fld := ⟨LP_PRBS_CTL n, 1, 1⟩
abbrev LP_PRBS_CTL_gen (n : Nat) : Fld := ⟨LP_PRBS_CTL n, 0, 0⟩
abbrev LP_PRBS_ERR_CNT (n : Nat) : Nat := 0x100094 + n * 0x1000
abbrev LP_ERR_LINE (n : Nat) : Nat := 0x100098 + n * 0x1000
abbrev LP_OWNER (n : Nat) : Nat := 0x10009C + n * 0x1000
abbrev AC_CTL (n : Nat) : Nat := 0x200000 + n * 0x400
abbrev AC_CTL_enable (n : Nat) : Fld := ⟨AC_CTL n, 31, 31⟩
abbrev AC_CTL_key_bt (n : Nat) : Fld := ⟨AC_CTL n, 20, 16⟩
abbrev AC_CONV_CTL (n : Nat) : Nat := 0x200004 + n * 0x400
abbrev AC_CONV_CTL_out_mode (n : Nat) : Fld := ⟨AC_CONV_CTL n, 5, 4⟩
abbrev AC_CONV_CTL_dir (n : Nat) : Fld := ⟨AC_CONV_CTL n, 0, 0⟩
abbrev AC_GAIN (n : Nat) : Nat := 0x200008 + n * 0x400
abbrev AC_GAIN_gain_b (n : Nat) : Fld := ⟨AC_GAIN n, 25, 16⟩
abbrev AC_GAIN_gain_a (n : Nat) : Fld := ⟨AC_GAIN n, 9, 0⟩
abbrev AC_RAMP_STAT (n : Nat) : Nat := 0x20000C + n * 0x400
abbrev AC_RAMP_STAT_ramping (n : Nat) : Fld := ⟨AC_RAMP_STAT n, 31, 31⟩
abbrev AC_RAMP_STAT_pga (n : Nat) : Fld := ⟨AC_RAMP_STAT n, 16, 16⟩
abbrev AC_RAMP_STAT_left (n : Nat) : Fld := ⟨AC_RAMP_STAT n, 15, 0⟩
abbrev AC_FILT_CTL (n : Nat) : Nat := 0x200010 + n * 0x400
abbrev AC_FILT_CTL_type (n : Nat) : Fld := ⟨AC_FILT_CTL n, 31, 29⟩
abbrev AC_FILT_CTL_q (n : Nat) : Fld := ⟨AC_FILT_CTL n, 22, 16⟩
abbrev AC_FILT_CTL_f0 (n : Nat) : Fld := ⟨AC_FILT_CTL n, 9, 0⟩
abbrev AC_DCR_CTL (n : Nat) : Nat := 0x200014 + n * 0x400
abbrev AC_DCR_CTL_dcr_max (n : Nat) : Fld := ⟨AC_DCR_CTL n, 31, 22⟩
abbrev AC_DCR_CTL_dcr_min (n : Nat) : Fld := ⟨AC_DCR_CTL n, 21, 12⟩
abbrev AC_DCR_CTL_mode (n : Nat) : Fld := ⟨AC_DCR_CTL n, 1, 0⟩
abbrev AC_DCR_TARGET (n : Nat) : Nat := 0x200018 + n * 0x400
abbrev AC_DCR_TARGET_target (n : Nat) : Fld := ⟨AC_DCR_TARGET n, 11, 0⟩
abbrev AC_DCR_SET (n : Nat) : Nat := 0x20001C + n * 0x400
abbrev AC_DCR_SET_offset (n : Nat) : Fld := ⟨AC_DCR_SET n, 9, 0⟩
abbrev AC_DCR_STAT (n : Nat) : Nat := 0x200020 + n * 0x400
abbrev AC_DCR_STAT_side (n : Nat) : Fld := ⟨AC_DCR_STAT n, 2, 2⟩
abbrev AC_DCR_STAT_pressing (n : Nat) : Fld := ⟨AC_DCR_STAT n, 1, 1⟩
abbrev AC_DCR_STAT_bound_sticky (n : Nat) : Fld := ⟨AC_DCR_STAT n, 0, 0⟩
abbrev AC_DCR_BOUND_CNT (n : Nat) : Nat := 0x200024 + n * 0x400
abbrev AC_STAT (n : Nat) : Nat := 0x200028 + n * 0x400
abbrev AC_STAT_ready (n : Nat) : Fld := ⟨AC_STAT n, 31, 31⟩
abbrev AC_STAT_changing (n : Nat) : Fld := ⟨AC_STAT n, 8, 8⟩
abbrev AC_STAT_dir (n : Nat) : Fld := ⟨AC_STAT n, 7, 7⟩
abbrev AC_STAT_cal_stale (n : Nat) : Fld := ⟨AC_STAT n, 4, 4⟩
abbrev AC_STAT_ovr_now (n : Nat) : Fld := ⟨AC_STAT n, 3, 3⟩
abbrev AC_STAT_suspect_now (n : Nat) : Fld := ⟨AC_STAT n, 2, 2⟩
abbrev AC_STICKY (n : Nat) : Nat := 0x20002C + n * 0x400
abbrev AC_STICKY_cal_stale (n : Nat) : Fld := ⟨AC_STICKY n, 5, 5⟩
abbrev AC_STICKY_dir_unblanked (n : Nat) : Fld := ⟨AC_STICKY n, 4, 4⟩
abbrev AC_STICKY_dac_clamp (n : Nat) : Fld := ⟨AC_STICKY n, 3, 3⟩
abbrev AC_STICKY_clamp (n : Nat) : Fld := ⟨AC_STICKY n, 2, 2⟩
abbrev AC_STICKY_suspect (n : Nat) : Fld := ⟨AC_STICKY n, 1, 1⟩
abbrev AC_STICKY_ovr (n : Nat) : Fld := ⟨AC_STICKY n, 0, 0⟩
abbrev AC_OVR_CNT (n : Nat) : Nat := 0x200030 + n * 0x400
abbrev AC_SUSPECT_CNT (n : Nat) : Nat := 0x200034 + n * 0x400
abbrev AC_CLAMP_CNT (n : Nat) : Nat := 0x200038 + n * 0x400
abbrev AC_DAC_CLAMP_CNT (n : Nat) : Nat := 0x20003C + n * 0x400
abbrev AC_DIR_CNT (n : Nat) : Nat := 0x200040 + n * 0x400
abbrev AC_DIR_UNBLANKED_CNT (n : Nat) : Nat := 0x200044 + n * 0x400
abbrev AC_OVR_TT_LO (n : Nat) : Nat := 0x200048 + n * 0x400
abbrev AC_OVR_TT_HI (n : Nat) : Nat := 0x20004C + n * 0x400
abbrev AC_OVR_LEN (n : Nat) : Nat := 0x200050 + n * 0x400
abbrev AC_PEAK (n : Nat) : Nat := 0x200054 + n * 0x400
abbrev AC_TRIM_CONV (n : Nat) : Nat := 0x200058 + n * 0x400
abbrev AC_TRIM_PGA (n : Nat) : Nat := 0x20005C + n * 0x400
abbrev AC_TRIM_F0 (n : Nat) : Nat := 0x200060 + n * 0x400
abbrev AC_CAL_UPD_CNT (n : Nat) : Nat := 0x200064 + n * 0x400
abbrev AC_QUAD_CTL (n : Nat) : Nat := 0x200068 + n * 0x400
abbrev AC_QUAD_CTL_bgcal_hold (n : Nat) : Fld := ⟨AC_QUAD_CTL n, 1, 1⟩
abbrev AC_QUAD_CTL_family (n : Nat) : Fld := ⟨AC_QUAD_CTL n, 0, 0⟩
abbrev AC_QUAD_STAT (n : Nat) : Nat := 0x20006C + n * 0x400
abbrev AC_QUAD_STAT_ref_ready (n : Nat) : Fld := ⟨AC_QUAD_STAT n, 31, 31⟩
abbrev AC_QUAD_STAT_temp (n : Nat) : Fld := ⟨AC_QUAD_STAT n, 15, 0⟩
abbrev AC_DIR_TIME (n : Nat) : Nat := 0x200070 + n * 0x400
abbrev AC_FILT_CHG_CNT (n : Nat) : Nat := 0x200074 + n * 0x400
abbrev AC_OWNER (n : Nat) : Nat := 0x200078 + n * 0x400
abbrev AC_GAIN_CUE_CNT (n : Nat) : Nat := 0x20007C + n * 0x400
abbrev AMX_AB_SRC (i : Nat) : Nat := 0x300000 + i * 4
abbrev AMX_AB_SRC_src (i : Nat) : Fld := ⟨AMX_AB_SRC i, 7, 0⟩
abbrev AMX_AB_TIME (i : Nat) : Nat := 0x300040 + i * 4
abbrev AMX_AB_TIME_rg (i : Nat) : Fld := ⟨AMX_AB_TIME i, 28, 25⟩
abbrev AMX_AB_TIME_h_pos (i : Nat) : Fld := ⟨AMX_AB_TIME i, 12, 0⟩
abbrev AMX_AB_STAT (i : Nat) : Nat := 0x300080 + i * 4
abbrev AMX_AB_STAT_switches (i : Nat) : Fld := ⟨AMX_AB_STAT i, 31, 16⟩
abbrev AMX_AB_STAT_settled (i : Nat) : Fld := ⟨AMX_AB_STAT i, 8, 8⟩
abbrev AMX_AB_STAT_src (i : Nat) : Fld := ⟨AMX_AB_STAT i, 7, 0⟩
abbrev AMX_AP_CTL (i : Nat) : Nat := 0x300100 + i * 4
abbrev AMX_AP_CTL_ov (i : Nat) : Fld := ⟨AMX_AP_CTL i, 31, 31⟩
abbrev AMX_AP_CTL_driving (i : Nat) : Fld := ⟨AMX_AP_CTL i, 30, 30⟩
abbrev AMX_AP_CTL_drv (i : Nat) : Fld := ⟨AMX_AP_CTL i, 21, 16⟩
abbrev AMX_AP_CTL_use (i : Nat) : Fld := ⟨AMX_AP_CTL i, 9, 8⟩
abbrev AMX_AP_CTL_term (i : Nat) : Fld := ⟨AMX_AP_CTL i, 4, 4⟩
abbrev AMX_CIN (i : Nat) : Nat := 0x300280 + i * 4
abbrev AMX_CIN_input (i : Nat) : Fld := ⟨AMX_CIN i, 5, 0⟩
abbrev WM_CTL (n : Nat) : Nat := 0x340000 + n * 0x10
abbrev WM_CTL_enable (n : Nat) : Fld := ⟨WM_CTL n, 31, 31⟩
abbrev WM_CTL_mode (n : Nat) : Fld := ⟨WM_CTL n, 30, 30⟩
abbrev WM_CTL_lclr (n : Nat) : Fld := ⟨WM_CTL n, 29, 28⟩
abbrev WM_CTL_bl_en (n : Nat) : Fld := ⟨WM_CTL n, 27, 27⟩
abbrev WM_CTL_bl_sense (n : Nat) : Fld := ⟨WM_CTL n, 26, 26⟩
abbrev WM_CTL_bt (n : Nat) : Fld := ⟨WM_CTL n, 25, 21⟩
abbrev WM_CTL_hyst (n : Nat) : Fld := ⟨WM_CTL n, 20, 17⟩
abbrev WM_CTL_src_kind (n : Nat) : Fld := ⟨WM_CTL n, 15, 14⟩
abbrev WM_CTL_src_idx (n : Nat) : Fld := ⟨WM_CTL n, 6, 0⟩
abbrev WM_THR (n : Nat) : Nat := 0x340004 + n * 0x10
abbrev WM_THR_high (n : Nat) : Fld := ⟨WM_THR n, 25, 16⟩
abbrev WM_THR_low (n : Nat) : Fld := ⟨WM_THR n, 9, 0⟩
abbrev WM_STAT (n : Nat) : Nat := 0x340008 + n * 0x10
abbrev WM_STAT_ready (n : Nat) : Fld := ⟨WM_STAT n, 31, 31⟩
abbrev WM_STAT_live (n : Nat) : Fld := ⟨WM_STAT n, 30, 30⟩
abbrev WM_STAT_side (n : Nat) : Fld := ⟨WM_STAT n, 29, 29⟩
abbrev WM_STAT_blanked (n : Nat) : Fld := ⟨WM_STAT n, 28, 28⟩
abbrev WM_STAT_src_dead (n : Nat) : Fld := ⟨WM_STAT n, 27, 27⟩
abbrev WM_STAT_fall (n : Nat) : Fld := ⟨WM_STAT n, 2, 2⟩
abbrev WM_STAT_rise (n : Nat) : Fld := ⟨WM_STAT n, 1, 1⟩
abbrev WM_STAT_latched (n : Nat) : Fld := ⟨WM_STAT n, 0, 0⟩
abbrev WM_EXIT_CNT (n : Nat) : Nat := 0x34000C + n * 0x10
abbrev FC_CTL (n : Nat) : Nat := 0x380000 + n * 0x40
abbrev FC_CTL_preset (n : Nat) : Fld := ⟨FC_CTL n, 31, 29⟩
abbrev FC_CTL_vbits (n : Nat) : Fld := ⟨FC_CTL n, 28, 28⟩
abbrev FC_CTL_dcb_en (n : Nat) : Fld := ⟨FC_CTL n, 27, 27⟩
abbrev FC_CTL_under_fill (n : Nat) : Fld := ⟨FC_CTL n, 26, 26⟩
abbrev FC_CTL_resp (n : Nat) : Fld := ⟨FC_CTL n, 4, 0⟩
abbrev FC_LINK (n : Nat) : Nat := 0x380004 + n * 0x40
abbrev FC_LINK_kind (n : Nat) : Fld := ⟨FC_LINK n, 11, 10⟩
abbrev FC_LINK_index (n : Nat) : Fld := ⟨FC_LINK n, 9, 0⟩
abbrev FC_PHASE (n : Nat) : Nat := 0x380008 + n * 0x40
abbrev FC_PHASE_steps (n : Nat) : Fld := ⟨FC_PHASE n, 11, 0⟩
abbrev FC_DCB_CTL (n : Nat) : Nat := 0x38000C + n * 0x40
abbrev FC_DCB_CTL_dcb_max (n : Nat) : Fld := ⟨FC_DCB_CTL n, 31, 22⟩
abbrev FC_DCB_CTL_dcb_min (n : Nat) : Fld := ⟨FC_DCB_CTL n, 21, 12⟩
abbrev FC_DCB_CTL_k (n : Nat) : Fld := ⟨FC_DCB_CTL n, 7, 4⟩
abbrev FC_DCB_CTL_mode (n : Nat) : Fld := ⟨FC_DCB_CTL n, 1, 0⟩
abbrev FC_DCB_SET (n : Nat) : Nat := 0x380010 + n * 0x40
abbrev FC_DCB_SET_e (n : Nat) : Fld := ⟨FC_DCB_SET n, 17, 0⟩
abbrev FC_DCB_STAT (n : Nat) : Nat := 0x380014 + n * 0x40
abbrev FC_DCB_STAT_side (n : Nat) : Fld := ⟨FC_DCB_STAT n, 2, 2⟩
abbrev FC_DCB_STAT_pressing (n : Nat) : Fld := ⟨FC_DCB_STAT n, 1, 1⟩
abbrev FC_DCB_STAT_bound_sticky (n : Nat) : Fld := ⟨FC_DCB_STAT n, 0, 0⟩
abbrev FC_DCB_BOUND_CNT (n : Nat) : Nat := 0x380018 + n * 0x40
abbrev FC_STAT (n : Nat) : Nat := 0x38001C + n * 0x40
abbrev FC_STAT_ready (n : Nat) : Fld := ⟨FC_STAT n, 31, 31⟩
abbrev FC_STAT_interp (n : Nat) : Fld := ⟨FC_STAT n, 30, 30⟩
abbrev FC_STAT_settling (n : Nat) : Fld := ⟨FC_STAT n, 29, 29⟩
abbrev FC_STAT_dcb_suspended (n : Nat) : Fld := ⟨FC_STAT n, 28, 28⟩
abbrev FC_STAT_grid_free (n : Nat) : Fld := ⟨FC_STAT n, 27, 27⟩
abbrev FC_STAT_resp (n : Nat) : Fld := ⟨FC_STAT n, 12, 8⟩
abbrev FC_STAT_preset (n : Nat) : Fld := ⟨FC_STAT n, 2, 0⟩
abbrev FC_STICKY (n : Nat) : Nat := 0x380020 + n * 0x40
abbrev FC_STICKY_grid (n : Nat) : Fld := ⟨FC_STICKY n, 4, 4⟩
abbrev FC_STICKY_underrun (n : Nat) : Fld := ⟨FC_STICKY n, 3, 3⟩
abbrev FC_STICKY_in_sat (n : Nat) : Fld := ⟨FC_STICKY n, 2, 2⟩
abbrev FC_STICKY_in_fill (n : Nat) : Fld := ⟨FC_STICKY n, 1, 1⟩
abbrev FC_RESP_CHG_CNT (n : Nat) : Nat := 0x380024 + n * 0x40
abbrev FC_UNDERRUN_CNT (n : Nat) : Nat := 0x380028 + n * 0x40
abbrev FC_SAMPLE_CNT (n : Nat) : Nat := 0x38002C + n * 0x40
abbrev SE_STAT (n : Nat) : Nat := 0x400000 + n * 0x1000
abbrev SE_STAT_ready (n : Nat) : Fld := ⟨SE_STAT n, 31, 31⟩
abbrev SE_STAT_running (n : Nat) : Fld := ⟨SE_STAT n, 29, 24⟩
abbrev SE_STAT_nready (n : Nat) : Fld := ⟨SE_STAT n, 22, 16⟩
abbrev SE_STAT_xfers (n : Nat) : Fld := ⟨SE_STAT n, 14, 12⟩
abbrev SE_STAT_part (n : Nat) : Fld := ⟨SE_STAT n, 11, 8⟩
abbrev SE_STAT_transit (n : Nat) : Fld := ⟨SE_STAT n, 0, 0⟩
abbrev SE_TASK_EN (n : Nat) (i : Nat) : Nat := 0x400004 + n * 0x1000 + i * 4
abbrev SE_TASK_BANK (n : Nat) (i : Nat) : Nat := 0x40000C + n * 0x1000 + i * 4
abbrev SE_TASK_CANCEL (n : Nat) (i : Nat) : Nat := 0x400014 + n * 0x1000 + i * 4
abbrev SE_TASK_READY (n : Nat) (i : Nat) : Nat := 0x40001C + n * 0x1000 + i * 4
abbrev SE_TASK_WAIT (n : Nat) (i : Nat) : Nat := 0x400024 + n * 0x1000 + i * 4
abbrev SE_TASK_SEL (n : Nat) : Nat := 0x40002C + n * 0x1000
abbrev SE_TASK_SEL_slot (n : Nat) : Fld := ⟨SE_TASK_SEL n, 5, 0⟩
abbrev SE_TASK_STAT (n : Nat) : Nat := 0x400030 + n * 0x1000
abbrev SE_TASK_ACT_CNT (n : Nat) : Nat := 0x400034 + n * 0x1000
abbrev SE_TASK_SHED_CNT (n : Nat) : Nat := 0x400038 + n * 0x1000
abbrev SE_PARAM_ADDR (n : Nat) : Nat := 0x40003C + n * 0x1000
abbrev SE_PARAM_ADDR_slot (n : Nat) : Fld := ⟨SE_PARAM_ADDR n, 13, 8⟩
abbrev SE_PARAM_ADDR_bank (n : Nat) : Fld := ⟨SE_PARAM_ADDR n, 4, 4⟩
abbrev SE_PARAM_ADDR_word (n : Nat) : Fld := ⟨SE_PARAM_ADDR n, 3, 0⟩
abbrev SE_PARAM_DATA (n : Nat) : Nat := 0x400040 + n * 0x1000
abbrev SE_CAR_CTL (n : Nat) : Nat := 0x400044 + n * 0x1000
abbrev SE_CAR_CTL_en (n : Nat) : Fld := ⟨SE_CAR_CTL n, 31, 31⟩
abbrev SE_CAR_CTL_d_max (n : Nat) : Fld := ⟨SE_CAR_CTL n, 29, 20⟩
abbrev SE_CAR_CTL_d_min (n : Nat) : Fld := ⟨SE_CAR_CTL n, 19, 10⟩
abbrev SE_CAR_CTL_mode (n : Nat) : Fld := ⟨SE_CAR_CTL n, 1, 0⟩
abbrev SE_CAR_DWELL (n : Nat) : Nat := 0x400048 + n * 0x1000
abbrev SE_CAR_DWELL_d (n : Nat) : Fld := ⟨SE_CAR_DWELL n, 9, 0⟩
abbrev SE_CAR_STAT (n : Nat) : Nat := 0x40004C + n * 0x1000
abbrev SE_CAR_STAT_side (n : Nat) : Fld := ⟨SE_CAR_STAT n, 2, 2⟩
abbrev SE_CAR_STAT_pressing (n : Nat) : Fld := ⟨SE_CAR_STAT n, 1, 1⟩
abbrev SE_CAR_STAT_bound_sticky (n : Nat) : Fld := ⟨SE_CAR_STAT n, 0, 0⟩
abbrev SE_CAR_BOUND_CNT (n : Nat) : Nat := 0x400050 + n * 0x1000
abbrev SE_CAR_MOVES (n : Nat) : Nat := 0x400054 + n * 0x1000
abbrev SE_RING_STAT (n : Nat) : Nat := 0x400058 + n * 0x1000
abbrev SE_UTIL (n : Nat) : Nat := 0x40005C + n * 0x1000
abbrev SE_ACC_SAT_CNT (n : Nat) : Nat := 0x400060 + n * 0x1000
abbrev SE_CLIP_CNT (n : Nat) : Nat := 0x400064 + n * 0x1000
abbrev SE_TASK_RACE_CNT (n : Nat) : Nat := 0x400068 + n * 0x1000
abbrev SE_CANCEL_CNT (n : Nat) : Nat := 0x40006C + n * 0x1000
abbrev SE_CANCEL_MISS_CNT (n : Nat) : Nat := 0x400070 + n * 0x1000
abbrev SE_SHED_CNT (n : Nat) : Nat := 0x400074 + n * 0x1000
abbrev SE_LATE_SWITCH_CNT (n : Nat) : Nat := 0x400078 + n * 0x1000
abbrev SE_CAR_WAIT_CNT (n : Nat) : Nat := 0x40007C + n * 0x1000
abbrev SE_RING_AGE_CNT (n : Nat) : Nat := 0x400080 + n * 0x1000
abbrev SE_RING_WAIT_MAX (n : Nat) : Nat := 0x400084 + n * 0x1000
abbrev SE_FILL_OUT_CNT (n : Nat) : Nat := 0x400088 + n * 0x1000
abbrev SE_CUE_OUT_CNT (n : Nat) : Nat := 0x40008C + n * 0x1000
abbrev SE_LM_CORR_CNT (n : Nat) : Nat := 0x400090 + n * 0x1000
abbrev SE_LM_UNCORR_CNT (n : Nat) : Nat := 0x400094 + n * 0x1000
abbrev SE_PARAM_REFUSE_CNT (n : Nat) : Nat := 0x400098 + n * 0x1000
abbrev SE_STICKY (n : Nat) : Nat := 0x40009C + n * 0x1000
abbrev SE_STICKY_lm_uncorr (n : Nat) : Fld := ⟨SE_STICKY n, 5, 5⟩
abbrev SE_STICKY_sat (n : Nat) : Fld := ⟨SE_STICKY n, 4, 4⟩
abbrev SE_STICKY_shed (n : Nat) : Fld := ⟨SE_STICKY n, 3, 3⟩
abbrev SE_STICKY_race (n : Nat) : Fld := ⟨SE_STICKY n, 2, 2⟩
abbrev SE_STICKY_car_wait (n : Nat) : Fld := ⟨SE_STICKY n, 1, 1⟩
abbrev SE_STICKY_clip (n : Nat) : Fld := ⟨SE_STICKY n, 0, 0⟩
abbrev SE_RESULT (n : Nat) (i : Nat) : Nat := 0x4000A0 + n * 0x1000 + i * 4
abbrev SE_ACT_CNT (n : Nat) : Nat := 0x4000E0 + n * 0x1000
abbrev SE_SLICE_IN_CNT (n : Nat) : Nat := 0x4000E4 + n * 0x1000
abbrev SE_SLICE_OUT_CNT (n : Nat) : Nat := 0x4000E8 + n * 0x1000
abbrev SE_XFER_CNT (n : Nat) : Nat := 0x4000EC + n * 0x1000
abbrev SE_LAST_SHED (n : Nat) : Nat := 0x4000F0 + n * 0x1000
abbrev SE_LAST_SAT (n : Nat) : Nat := 0x4000F4 + n * 0x1000
abbrev SE_LAST_RACE (n : Nat) : Nat := 0x4000F8 + n * 0x1000
abbrev SE_PARAM_STAT (n : Nat) : Nat := 0x4000FC + n * 0x1000
abbrev SV_CTL (n : Nat) : Nat := 0x500000 + n * 0x10
abbrev SV_CTL_class (n : Nat) : Fld := ⟨SV_CTL n, 31, 30⟩
abbrev SV_CTL_quota (n : Nat) : Fld := ⟨SV_CTL n, 28, 16⟩
abbrev SV_CTL_occupancy (n : Nat) : Fld := ⟨SV_CTL n, 12, 0⟩
abbrev SV_CLAIM (n : Nat) : Nat := 0x500004 + n * 0x10
abbrev SV_CLAIM_kind (n : Nat) : Fld := ⟨SV_CLAIM n, 31, 24⟩
abbrev SV_CLAIM_first (n : Nat) : Fld := ⟨SV_CLAIM n, 23, 12⟩
abbrev SV_CLAIM_last (n : Nat) : Fld := ⟨SV_CLAIM n, 11, 0⟩
abbrev SV_CUE_CNT (n : Nat) : Nat := 0x500008 + n * 0x10
abbrev SV_CUE_CNT_quota (n : Nat) : Fld := ⟨SV_CUE_CNT n, 31, 16⟩
abbrev SV_CUE_CNT_late (n : Nat) : Fld := ⟨SV_CUE_CNT n, 15, 0⟩
abbrev SV_MEDIA_CNT (n : Nat) : Nat := 0x50000C + n * 0x10
abbrev SV_MEDIA_CNT_sat (n : Nat) : Fld := ⟨SV_MEDIA_CNT n, 31, 24⟩
abbrev SV_MEDIA_CNT_yoyo (n : Nat) : Fld := ⟨SV_MEDIA_CNT n, 23, 16⟩
abbrev SV_MEDIA_CNT_shed (n : Nat) : Fld := ⟨SV_MEDIA_CNT n, 15, 0⟩
abbrev FM_CTL : Nat := 0x600000
abbrev FM_CTL_scrub_en : Fld := ⟨FM_CTL, 0, 0⟩
abbrev FM_STAT : Nat := 0x600004
abbrev FM_STAT_ready : Fld := ⟨FM_STAT, 31, 31⟩
abbrev FM_STAT_self_refresh : Fld := ⟨FM_STAT, 30, 30⟩
abbrev FM_STAT_initialised : Fld := ⟨FM_STAT, 29, 29⟩
abbrev FM_STAT_channels : Fld := ⟨FM_STAT, 7, 0⟩
abbrev FM_RES_SUM : Nat := 0x600008
abbrev FM_UTIL : Nat := 0x60000C
abbrev FM_STICKY : Nat := 0x600010
abbrev FM_STICKY_held : Fld := ⟨FM_STICKY, 4, 4⟩
abbrev FM_STICKY_over_res : Fld := ⟨FM_STICKY, 3, 3⟩
abbrev FM_STICKY_crc : Fld := ⟨FM_STICKY, 2, 2⟩
abbrev FM_STICKY_uncorr : Fld := ⟨FM_STICKY, 1, 1⟩
abbrev FM_STICKY_barrier_sat : Fld := ⟨FM_STICKY, 0, 0⟩
abbrev FM_CORR_CNT : Nat := 0x600014
abbrev FM_UNCORR_CNT : Nat := 0x600018
abbrev FM_CRC_ERR_CNT : Nat := 0x60001C
abbrev FM_SUBST_CNT : Nat := 0x600020
abbrev FM_SCRUB_UNCORR_CNT : Nat := 0x600024
abbrev FM_YOYO_DROP_CNT : Nat := 0x600028
abbrev FM_YOYO_REPEAT_CNT : Nat := 0x60002C
abbrev FM_OVER_RES_CNT : Nat := 0x600030
abbrev FM_HELD_CNT : Nat := 0x600034
abbrev FM_BARRIER_SAT_CNT : Nat := 0x600038
abbrev FM_XSVC_REFUSE_CNT : Nat := 0x60003C
abbrev FM_LAST_ERR_ADDR : Nat := 0x600040
abbrev FM_LAST_ERR_INFO : Nat := 0x600044
abbrev FM_LAST_ERR_TT_LO : Nat := 0x600048
abbrev FM_LAST_ERR_TT_HI : Nat := 0x60004C
abbrev FM_SCRUB_POS : Nat := 0x600050
abbrev FM_SCRUB_PASS_CNT : Nat := 0x600054
abbrev FM_WIN_BUSY_CNT : Nat := 0x600058
abbrev FM_STREAMS_ON : Nat := 0x60005C
abbrev FM_CH_STAT (i : Nat) : Nat := 0x600060 + i * 4
abbrev FM_CH_STAT_ready (i : Nat) : Fld := ⟨FM_CH_STAT i, 31, 31⟩
abbrev FM_CH_STAT_util (i : Nat) : Fld := ⟨FM_CH_STAT i, 22, 16⟩
abbrev FM_CH_STAT_corr (i : Nat) : Fld := ⟨FM_CH_STAT i, 15, 0⟩
abbrev FM_STREAM_EN (i : Nat) : Nat := 0x600080 + i * 4
abbrev FM_STREAM_OVER (i : Nat) : Nat := 0x600100 + i * 4
abbrev AX_CTL (n : Nat) : Nat := 0x700000 + n * 0x1000
abbrev AX_CTL_enable (n : Nat) : Fld := ⟨AX_CTL n, 31, 31⟩
abbrev AX_CTL_fec (n : Nat) : Fld := ⟨AX_CTL n, 30, 30⟩
abbrev AX_CTL_mgmt_rx (n : Nat) : Fld := ⟨AX_CTL n, 29, 29⟩
abbrev AX_CTL_bulk_rx (n : Nat) : Fld := ⟨AX_CTL n, 28, 28⟩
abbrev AX_CTL_pol (n : Nat) : Fld := ⟨AX_CTL n, 27, 24⟩
abbrev AX_STAT (n : Nat) : Nat := 0x700004 + n * 0x1000
abbrev AX_STAT_ready (n : Nat) : Fld := ⟨AX_STAT n, 31, 31⟩
abbrev AX_STAT_state (n : Nat) : Fld := ⟨AX_STAT n, 30, 28⟩
abbrev AX_STAT_lanes (n : Nat) : Fld := ⟨AX_STAT n, 27, 24⟩
abbrev AX_STAT_fec_active (n : Nat) : Fld := ⟨AX_STAT n, 23, 23⟩
abbrev AX_STAT_tree (n : Nat) : Fld := ⟨AX_STAT n, 22, 22⟩
abbrev AX_STAT_parent (n : Nat) : Fld := ⟨AX_STAT n, 21, 21⟩
abbrev AX_STAT_time_ok (n : Nat) : Fld := ⟨AX_STAT n, 20, 20⟩
abbrev AX_STAT_neighbour (n : Nat) : Fld := ⟨AX_STAT n, 11, 0⟩
abbrev AX_STICKY (n : Nat) : Nat := 0x700008 + n * 0x1000
abbrev AX_STICKY_iso_stray (n : Nat) : Fld := ⟨AX_STICKY n, 5, 5⟩
abbrev AX_STICKY_asym_mismatch (n : Nat) : Fld := ⟨AX_STICKY n, 4, 4⟩
abbrev AX_STICKY_no_align (n : Nat) : Fld := ⟨AX_STICKY n, 3, 3⟩
abbrev AX_STICKY_retx_limit (n : Nat) : Fld := ⟨AX_STICKY n, 2, 2⟩
abbrev AX_STICKY_crc (n : Nat) : Fld := ⟨AX_STICKY n, 1, 1⟩
abbrev AX_STICKY_down (n : Nat) : Fld := ⟨AX_STICKY n, 0, 0⟩
abbrev AX_ASYM (n : Nat) : Nat := 0x70000C + n * 0x1000
abbrev AX_ASYM_asym (n : Nat) : Fld := ⟨AX_ASYM n, 15, 0⟩
abbrev AX_DELAY (n : Nat) : Nat := 0x700010 + n * 0x1000
abbrev AX_OFFSET (n : Nat) : Nat := 0x700014 + n * 0x1000
abbrev AX_NEIGH (n : Nat) : Nat := 0x700018 + n * 0x1000
abbrev AX_NEIGH_hops (n : Nat) : Fld := ⟨AX_NEIGH n, 31, 26⟩
abbrev AX_NEIGH_priority (n : Nat) : Fld := ⟨AX_NEIGH n, 23, 16⟩
abbrev AX_NEIGH_lead (n : Nat) : Fld := ⟨AX_NEIGH n, 11, 0⟩
abbrev AX_CREDIT (n : Nat) : Nat := 0x70001C + n * 0x1000
abbrev AX_CREDIT_cue (n : Nat) : Fld := ⟨AX_CREDIT n, 30, 24⟩
abbrev AX_CREDIT_mgmt (n : Nat) : Fld := ⟨AX_CREDIT n, 20, 12⟩
abbrev AX_CREDIT_bulk (n : Nat) : Fld := ⟨AX_CREDIT n, 10, 0⟩
abbrev AX_UTIL (n : Nat) : Nat := 0x700020 + n * 0x1000
abbrev AX_TX_FRAME_CNT (n : Nat) : Nat := 0x700024 + n * 0x1000
abbrev AX_RX_FRAME_CNT (n : Nat) : Nat := 0x700028 + n * 0x1000
abbrev AX_CRC_ERR_CNT (n : Nat) : Nat := 0x70002C + n * 0x1000
abbrev AX_RETX_CNT (n : Nat) : Nat := 0x700030 + n * 0x1000
abbrev AX_FEC_CORR_CNT (n : Nat) : Nat := 0x700034 + n * 0x1000
abbrev AX_FEC_UNCORR_CNT (n : Nat) : Nat := 0x700038 + n * 0x1000
abbrev AX_DOWN_CNT (n : Nat) : Nat := 0x70003C + n * 0x1000
abbrev AX_TIME_MISS_CNT (n : Nat) : Nat := 0x700040 + n * 0x1000
abbrev AX_HOLD_CNT (n : Nat) : Nat := 0x700044 + n * 0x1000
abbrev AX_ISO_FILL_CNT (n : Nat) : Nat := 0x700048 + n * 0x1000
abbrev AX_LANE_STAT (n : Nat) : Nat := 0x70004C + n * 0x1000
abbrev AX_LANE_STAT_skew (n : Nat) : Fld := ⟨AX_LANE_STAT n, 31, 16⟩
abbrev AX_LANE_STAT_align (n : Nat) : Fld := ⟨AX_LANE_STAT n, 7, 4⟩
abbrev AX_LANE_STAT_block (n : Nat) : Fld := ⟨AX_LANE_STAT n, 3, 0⟩
abbrev AX_ISO_CTL (n : Nat) (i : Nat) : Nat := 0x700050 + n * 0x1000 + i * 8
abbrev AX_ISO_CTL_enable (n : Nat) (i : Nat) : Fld := ⟨AX_ISO_CTL n i, 31, 31⟩
abbrev AX_ISO_CTL_dir (n : Nat) (i : Nat) : Fld := ⟨AX_ISO_CTL n i, 30, 30⟩
abbrev AX_ISO_CTL_stream (n : Nat) (i : Nat) : Fld := ⟨AX_ISO_CTL n i, 29, 20⟩
abbrev AX_ISO_CTL_peer (n : Nat) (i : Nat) : Fld := ⟨AX_ISO_CTL n i, 19, 8⟩
abbrev AX_ISO_CTL_service (n : Nat) (i : Nat) : Fld := ⟨AX_ISO_CTL n i, 7, 0⟩
abbrev AX_ISO_RES (n : Nat) (i : Nat) : Nat := 0x700054 + n * 0x1000 + i * 8
abbrev AX_ISO_RES_res (n : Nat) (i : Nat) : Fld := ⟨AX_ISO_RES n i, 13, 0⟩
abbrev AX_TROUPE_STAT (n : Nat) : Nat := 0x700090 + n * 0x1000
abbrev AX_TROUPE_STAT_member (n : Nat) : Fld := ⟨AX_TROUPE_STAT n, 31, 31⟩
abbrev AX_TROUPE_STAT_lead (n : Nat) : Fld := ⟨AX_TROUPE_STAT n, 30, 30⟩
abbrev AX_TROUPE_STAT_conflict (n : Nat) : Fld := ⟨AX_TROUPE_STAT n, 29, 29⟩
abbrev AX_TROUPE_STAT_parent_valid (n : Nat) : Fld := ⟨AX_TROUPE_STAT n, 28, 28⟩
abbrev AX_TROUPE_STAT_parent_port (n : Nat) : Fld := ⟨AX_TROUPE_STAT n, 27, 26⟩
abbrev AX_TROUPE_STAT_hops (n : Nat) : Fld := ⟨AX_TROUPE_STAT n, 25, 20⟩
abbrev AX_TROUPE_STAT_priority (n : Nat) : Fld := ⟨AX_TROUPE_STAT n, 19, 12⟩
abbrev AX_TROUPE_STAT_lead_id (n : Nat) : Fld := ⟨AX_TROUPE_STAT n, 11, 0⟩
abbrev AX_ROSTER (n : Nat) : Nat := 0x700094 + n * 0x1000
abbrev AX_ROSTER_epoch (n : Nat) : Fld := ⟨AX_ROSTER n, 31, 16⟩
abbrev AX_ROSTER_members (n : Nat) : Fld := ⟨AX_ROSTER n, 12, 0⟩
abbrev AX_LEAD_CHG_CNT (n : Nat) : Nat := 0x700098 + n * 0x1000
abbrev AX_PARENT_CHG_CNT (n : Nat) : Nat := 0x70009C + n * 0x1000
abbrev AX_RMT_CTL (n : Nat) : Nat := 0x7000A0 + n * 0x1000
abbrev AX_RMT_CTL_go (n : Nat) : Fld := ⟨AX_RMT_CTL n, 31, 31⟩
abbrev AX_RMT_CTL_write (n : Nat) : Fld := ⟨AX_RMT_CTL n, 30, 30⟩
abbrev AX_RMT_CTL_target (n : Nat) : Fld := ⟨AX_RMT_CTL n, 11, 0⟩
abbrev AX_RMT_ADDR (n : Nat) : Nat := 0x7000A4 + n * 0x1000
abbrev AX_RMT_DATA (n : Nat) : Nat := 0x7000A8 + n * 0x1000
abbrev AX_RMT_STAT (n : Nat) : Nat := 0x7000AC + n * 0x1000
abbrev AX_RMT_STAT_busy (n : Nat) : Fld := ⟨AX_RMT_STAT n, 31, 31⟩
abbrev AX_RMT_STAT_status (n : Nat) : Fld := ⟨AX_RMT_STAT n, 7, 0⟩
abbrev AX_BULK_LADDR (n : Nat) : Nat := 0x7000B0 + n * 0x1000
abbrev AX_BULK_RADDR (n : Nat) : Nat := 0x7000B4 + n * 0x1000
abbrev AX_BULK_CTL (n : Nat) : Nat := 0x7000B8 + n * 0x1000
abbrev AX_BULK_CTL_go (n : Nat) : Fld := ⟨AX_BULK_CTL n, 31, 31⟩
abbrev AX_BULK_CTL_target (n : Nat) : Fld := ⟨AX_BULK_CTL n, 27, 16⟩
abbrev AX_BULK_CTL_length (n : Nat) : Fld := ⟨AX_BULK_CTL n, 15, 0⟩
abbrev AX_BULK_STAT (n : Nat) : Nat := 0x7000BC + n * 0x1000
abbrev AX_BULK_STAT_aged (n : Nat) : Fld := ⟨AX_BULK_STAT n, 31, 16⟩
abbrev AX_BULK_STAT_status (n : Nat) : Fld := ⟨AX_BULK_STAT n, 2, 0⟩
abbrev GP_OUT (n : Nat) : Nat := 0x800000 + n * 0x40
abbrev GP_OUT_level (n : Nat) : Fld := ⟨GP_OUT n, 15, 0⟩
abbrev GP_OE (n : Nat) : Nat := 0x800004 + n * 0x40
abbrev GP_OE_oe (n : Nat) : Fld := ⟨GP_OE n, 15, 0⟩
abbrev GP_IN (n : Nat) : Nat := 0x800008 + n * 0x40
abbrev GP_CTL (n : Nat) : Nat := 0x80000C + n * 0x40
abbrev GP_CTL_hk (n : Nat) : Fld := ⟨GP_CTL n, 31, 16⟩
abbrev GP_CTL_merge (n : Nat) : Fld := ⟨GP_CTL n, 0, 0⟩
abbrev GP_PULL (n : Nat) : Nat := 0x800010 + n * 0x40
abbrev GP_DRV (n : Nat) : Nat := 0x800014 + n * 0x40
abbrev GP_DRV_od (n : Nat) : Fld := ⟨GP_DRV n, 31, 16⟩
abbrev GP_DRV_strong (n : Nat) : Fld := ⟨GP_DRV n, 15, 0⟩
abbrev GP_FSEL (n : Nat) (i : Nat) : Nat := 0x800018 + n * 0x40 + i * 4
abbrev GP_OWNER (n : Nat) (i : Nat) : Nat := 0x800028 + n * 0x40 + i * 4
abbrev GP_CONFLICT (n : Nat) : Nat := 0x800038 + n * 0x40
abbrev GP_CONFLICT_pin_conflict (n : Nat) : Fld := ⟨GP_CONFLICT n, 15, 0⟩
abbrev GP_CONFLICT_CNT (n : Nat) : Nat := 0x80003C + n * 0x40
abbrev PEL_CTL (i : Nat) : Nat := 0x800100 + i * 4
abbrev PEL_CTL_enable (i : Nat) : Fld := ⟨PEL_CTL i, 31, 31⟩
abbrev PEL_CTL_bank (i : Nat) : Fld := ⟨PEL_CTL i, 29, 28⟩
abbrev PEL_CTL_edge (i : Nat) : Fld := ⟨PEL_CTL i, 25, 24⟩
abbrev PEL_CTL_owner (i : Nat) : Fld := ⟨PEL_CTL i, 23, 16⟩
abbrev PEL_CTL_hk (i : Nat) : Fld := ⟨PEL_CTL i, 15, 15⟩
abbrev PEL_CTL_deb (i : Nat) : Fld := ⟨PEL_CTL i, 7, 0⟩
abbrev PEL_CNT (i : Nat) : Nat := 0x800140 + i * 4
abbrev PEL_CNT_glitch (i : Nat) : Fld := ⟨PEL_CNT i, 31, 16⟩
abbrev PEL_CNT_events (i : Nat) : Fld := ⟨PEL_CNT i, 15, 0⟩
abbrev GPIO_STAT : Nat := 0x800180
abbrev GPIO_STAT_pport : Fld := ⟨GPIO_STAT, 31, 31⟩
abbrev GPIO_STAT_last_bank : Fld := ⟨GPIO_STAT, 9, 8⟩
abbrev GPIO_STAT_bank_ok : Fld := ⟨GPIO_STAT, 7, 4⟩
abbrev GPIO_STAT_held : Fld := ⟨GPIO_STAT, 3, 0⟩
abbrev GPIO_IN_LO : Nat := 0x800184
abbrev GPIO_IN_HI : Nat := 0x800188
abbrev GPIO_CONFLICT_SUM : Nat := 0x80018C
abbrev GPIO_PIN_CUE_CNT : Nat := 0x800190
abbrev GPIO_WRITE_CNT : Nat := 0x800194
abbrev GPIO_XSVC_REFUSE_CNT : Nat := 0x800198
abbrev GPIO_LAST_PIN : Nat := 0x80019C
abbrev GPIO_LAST_PIN_TT_LO : Nat := 0x8001A0
abbrev GPIO_LAST_PIN_TT_HI : Nat := 0x8001A4
abbrev PEL_STAT : Nat := 0x8001A8
abbrev PEL_RISE : Nat := 0x8001AC
abbrev PEL_RISE_rise : Fld := ⟨PEL_RISE, 15, 0⟩
abbrev PEL_FALL : Nat := 0x8001B0
abbrev PEL_FALL_fall : Fld := ⟨PEL_FALL, 15, 0⟩
abbrev PEL_LAST : Nat := 0x8001B4
abbrev PEL_LAST_TT_LO : Nat := 0x8001B8
abbrev PEL_LAST_TT_HI : Nat := 0x8001BC
abbrev QC_CTL (n : Nat) : Nat := 0x900000 + n * 0x10
abbrev QC_CTL_use (n : Nat) : Fld := ⟨QC_CTL n, 31, 31⟩
abbrev QC_CTL_width (n : Nat) : Fld := ⟨QC_CTL n, 30, 29⟩
abbrev QC_CTL_flush (n : Nat) : Fld := ⟨QC_CTL n, 28, 28⟩
abbrev QC_CTL_push_side (n : Nat) : Fld := ⟨QC_CTL n, 27, 27⟩
abbrev QC_CTL_pop_side (n : Nat) : Fld := ⟨QC_CTL n, 26, 26⟩
abbrev QC_CTL_af_level (n : Nat) : Fld := ⟨QC_CTL n, 25, 13⟩
abbrev QC_CTL_ae_level (n : Nat) : Fld := ⟨QC_CTL n, 12, 0⟩
abbrev QC_STAT (n : Nat) : Nat := 0x900004 + n * 0x10
abbrev QC_STAT_ovf_cnt (n : Nat) : Fld := ⟨QC_STAT n, 31, 24⟩
abbrev QC_STAT_unf_cnt (n : Nat) : Fld := ⟨QC_STAT n, 23, 16⟩
abbrev QC_STAT_af (n : Nat) : Fld := ⟨QC_STAT n, 15, 15⟩
abbrev QC_STAT_ae (n : Nat) : Fld := ⟨QC_STAT n, 14, 14⟩
abbrev QC_STAT_refused (n : Nat) : Fld := ⟨QC_STAT n, 13, 13⟩
abbrev QC_STAT_level (n : Nat) : Fld := ⟨QC_STAT n, 12, 0⟩
abbrev EL_CTL : Nat := 0xA00000
abbrev EL_CTL_stream_en : Fld := ⟨EL_CTL, 31, 31⟩
abbrev EL_CTL_collector : Fld := ⟨EL_CTL, 27, 16⟩
abbrev EL_CTL_min_sev : Fld := ⟨EL_CTL, 1, 0⟩
abbrev EL_STAT : Nat := 0xA00004
abbrev EL_HEAD : Nat := 0xA00008
abbrev EL_TAIL : Nat := 0xA0000C
abbrev EL_LOST_CNT : Nat := 0xA00010
abbrev EL_FILTER_CNT : Nat := 0xA00014
abbrev EL_FULL_CNT : Nat := 0xA00018
abbrev EL_SEV_CNT (i : Nat) : Nat := 0xA0001C + i * 4
abbrev EL_STREAM_POS : Nat := 0xA0002C
abbrev EL_STREAM_LOST_CNT : Nat := 0xA00030
abbrev EL_COLLECT_CTL : Nat := 0xA00034
abbrev EL_COLLECT_CTL_enable : Fld := ⟨EL_COLLECT_CTL, 31, 31⟩
abbrev EL_COLLECT_CTL_size : Fld := ⟨EL_COLLECT_CTL, 4, 0⟩
abbrev EL_COLLECT_BASE : Nat := 0xA00038
abbrev EL_COLLECT_HEAD : Nat := 0xA0003C
abbrev VM_STAT : Nat := 0xA00040
abbrev VM_RAIL_MV (i : Nat) : Nat := 0xA00044 + i * 4
abbrev VM_TEMP_MAX : Nat := 0xA0006C
abbrev VM_TEMP_MIN : Nat := 0xA00070
abbrev VM_REFCLK_PPM : Nat := 0xA00074
abbrev VM_LAST_LEN : Nat := 0xA00078
abbrev VM_LAST_LEN_monitor : Fld := ⟨VM_LAST_LEN, 31, 28⟩
abbrev VM_LAST_LEN_us : Fld := ⟨VM_LAST_LEN, 27, 0⟩
abbrev VM_AOCLK_PPM : Nat := 0xA0007C
abbrev FB_CMD_CNT : Nat := 0xA00080
abbrev FB_REJECT_CNT : Nat := 0xA00084
abbrev FB_USE_REFUSE_CNT : Nat := 0xA00088
abbrev FB_BUSY : Nat := 0xA0008C
abbrev FB_LAST_REJECT : Nat := 0xA00090
abbrev FB_LAST_REJECT_service : Fld := ⟨FB_LAST_REJECT, 23, 16⟩
abbrev FB_LAST_REJECT_channel : Fld := ⟨FB_LAST_REJECT, 12, 8⟩
abbrev FB_LAST_REJECT_reason : Fld := ⟨FB_LAST_REJECT, 3, 0⟩
abbrev EL_COLLECT_DROP_CNT : Nat := 0xA00094
abbrev EL_PEND_MAX : Nat := 0xA00098
abbrev EL_LAG_MAX : Nat := 0xA0009C
abbrev SUM (i : Nat) : Nat := 0xA000A0 + i * 4
abbrev EL_CODE_CNT (i : Nat) : Nat := 0xA00100 + i * 4
abbrev DS_CTL (n : Nat) : Nat := 0xC00000 + n * 0x40
abbrev DS_CTL_enable (n : Nat) : Fld := ⟨DS_CTL n, 31, 31⟩
abbrev DS_CTL_rotate (n : Nat) : Fld := ⟨DS_CTL n, 30, 30⟩
abbrev DS_CTL_timing (n : Nat) : Fld := ⟨DS_CTL n, 29, 29⟩
abbrev DS_CTL_pair (n : Nat) : Fld := ⟨DS_CTL n, 28, 28⟩
abbrev DS_CTL_nb (n : Nat) : Fld := ⟨DS_CTL n, 27, 26⟩
abbrev DS_CTL_lag (n : Nat) : Fld := ⟨DS_CTL n, 25, 24⟩
abbrev DS_CTL_rg (n : Nat) : Fld := ⟨DS_CTL n, 23, 20⟩
abbrev DS_CTL_bar_en (n : Nat) : Fld := ⟨DS_CTL n, 19, 19⟩
abbrev DS_CTL_service (n : Nat) : Fld := ⟨DS_CTL n, 15, 8⟩
abbrev DS_CTL_bar (n : Nat) : Fld := ⟨DS_CTL n, 7, 0⟩
abbrev DS_GEOM (n : Nat) : Nat := 0xC00004 + n * 0x40
abbrev DS_GEOM_stride (n : Nat) : Fld := ⟨DS_GEOM n, 31, 16⟩
abbrev DS_GEOM_lines (n : Nat) : Fld := ⟨DS_GEOM n, 15, 0⟩
abbrev DS_BASE (n : Nat) (i : Nat) : Nat := 0xC00008 + n * 0x40 + i * 4
abbrev DS_RES (n : Nat) : Nat := 0xC00018 + n * 0x40
abbrev DS_RES_res (n : Nat) : Fld := ⟨DS_RES n, 18, 0⟩
abbrev DS_FILL (n : Nat) : Nat := 0xC0001C + n * 0x40
abbrev DS_FILL_fill (n : Nat) : Fld := ⟨DS_FILL n, 16, 16⟩
abbrev DS_FILL_c0 (n : Nat) : Fld := ⟨DS_FILL n, 15, 0⟩
abbrev DS_BLACK (n : Nat) : Nat := 0xC00020 + n * 0x40
abbrev DS_BLACK_c2 (n : Nat) : Fld := ⟨DS_BLACK n, 31, 16⟩
abbrev DS_BLACK_c1 (n : Nat) : Fld := ⟨DS_BLACK n, 15, 0⟩
abbrev DS_STAT (n : Nat) : Nat := 0xC00024 + n * 0x40
abbrev DS_STAT_state (n : Nat) : Fld := ⟨DS_STAT n, 31, 30⟩
abbrev DS_STAT_widx (n : Nat) : Fld := ⟨DS_STAT n, 29, 28⟩
abbrev DS_STAT_ridx (n : Nat) : Fld := ⟨DS_STAT n, 27, 26⟩
abbrev DS_STAT_k (n : Nat) : Fld := ⟨DS_STAT n, 25, 23⟩
abbrev DS_STAT_line (n : Nat) : Fld := ⟨DS_STAT n, 12, 0⟩
abbrev DS_UNITS (n : Nat) : Nat := 0xC00028 + n * 0x40
abbrev DS_YOYO (n : Nat) : Nat := 0xC0002C + n * 0x40
abbrev DS_YOYO_drops (n : Nat) : Fld := ⟨DS_YOYO n, 31, 16⟩
abbrev DS_YOYO_repeats (n : Nat) : Fld := ⟨DS_YOYO n, 15, 0⟩
abbrev DS_RATE (n : Nat) : Nat := 0xC00030 + n * 0x40
abbrev DS_ERR (n : Nat) : Nat := 0xC00034 + n * 0x40
abbrev DS_ERR_subst (n : Nat) : Fld := ⟨DS_ERR n, 31, 16⟩
abbrev DS_ERR_corr (n : Nat) : Fld := ⟨DS_ERR n, 15, 0⟩
abbrev DS_OVER (n : Nat) : Nat := 0xC00038 + n * 0x40
abbrev DS_OVER_over (n : Nat) : Fld := ⟨DS_OVER n, 15, 0⟩
abbrev DS_RSV (n : Nat) : Nat := 0xC0003C + n * 0x40
abbrev BA_CTL (n : Nat) : Nat := 0xC80000 + n * 0x10
abbrev BA_CTL_enable (n : Nat) : Fld := ⟨BA_CTL n, 31, 31⟩
abbrev BA_CTL_gran (n : Nat) : Fld := ⟨BA_CTL n, 29, 28⟩
abbrev BA_CTL_src (n : Nat) : Fld := ⟨BA_CTL n, 27, 27⟩
abbrev BA_CTL_stream (n : Nat) : Fld := ⟨BA_CTL n, 25, 16⟩
abbrev BA_CTL_service (n : Nat) : Fld := ⟨BA_CTL n, 15, 8⟩
abbrev BA_COUNT (n : Nat) : Nat := 0xC80004 + n * 0x10
abbrev BA_COUNT_limit (n : Nat) : Fld := ⟨BA_COUNT n, 31, 16⟩
abbrev BA_COUNT_count (n : Nat) : Fld := ⟨BA_COUNT n, 15, 0⟩
abbrev BA_STAT (n : Nat) : Nat := 0xC80008 + n * 0x10
abbrev BA_STAT_pwait (n : Nat) : Fld := ⟨BA_STAT n, 31, 31⟩
abbrev BA_STAT_cwait (n : Nat) : Fld := ⟨BA_STAT n, 30, 30⟩
abbrev BA_STAT_sat (n : Nat) : Fld := ⟨BA_STAT n, 0, 0⟩
abbrev BA_UNITS (n : Nat) : Nat := 0xC8000C + n * 0x10
abbrev BA_UNITS_produced (n : Nat) : Fld := ⟨BA_UNITS n, 31, 16⟩
abbrev BA_UNITS_consumed (n : Nat) : Fld := ⟨BA_UNITS n, 15, 0⟩
abbrev RING_W (n : Nat) (i : Nat) : Nat := 0xB00000 + n * 0x10 + i * 4

/-- The block, instance and offset of an address, or none where no block of the map spans it. -/
def locateIn : List Block → Nat → Option (Block × Nat × Nat)
  | [], _ => none
  | b :: bs, a =>
    if b.base ≤ a ∧ a < b.base + b.count * b.stride then
      some (b, (a - b.base) / b.stride, (a - b.base) % b.stride)
    else locateIn bs a

/-- The block, instance and offset of an address. -/
def locate (a : Nat) : Option (Block × Nat × Nat) := locateIn Block.all a

/-- Whether a row holds a register at a block offset. -/
def RegRow.has (r : RegRow) (off : Nat) : Bool :=
  r.off ≤ off && off < r.off + r.count * r.step && (off - r.off) % r.step == 0

/-- The row of the register at a word address; none where the address is reserved (R472). -/
def rowOf (a : Nat) : Option RegRow :=
  match locate a with
  | none => none
  | some (b, _, off) => b.rows.find? (·.has off)

/-- The reset value of the word at an address (R19); 0 at an address that names no register. -/
def resetOf (a : Nat) : W32 :=
  match rowOf a with
  | none => 0
  | some r => BitVec.ofNat 32 r.reset

/-- Whether the word at an address is held in the battery domain (code K). -/
def keepAddr (a : Nat) : Bool :=
  match rowOf a with
  | none => false
  | some r => r.keep

end Sys2Proof.Machine
end

