-- ==== Sys2Proof/Machine/State.lean ====
section
/-! DEFINITION. The state of the device: the queue of waiting commands, the register words, and every piece of
state the chapters give that no register shows. All of it is plain data. -/

namespace Sys2Proof.Machine

/-- Why a step stops with a fault. No meaning of this model raises one: the spec gives every command of the table
an effect in every state, if only to be answered with a refusal status of the device's own. Safe. -/
inductive Fault where
  /-- Raised by no meaning; kept for an environment outside its specification (R3). Safe. -/
  | environment
  deriving DecidableEq, Repr

/-- Why a command has no meaning in the model. -/
inductive Refusal where
  /-- The command's meaning is not written yet; raised only by an arm of `exec`. Safe. -/
  | notModelled (mnemonic : String)
  deriving DecidableEq, Repr

/-- A finite map as a list of keys and values; a key that is not listed holds the map's default value. -/
abbrev Tab (α : Type) := List (Nat × α)

/-- The value at a key. -/
def Tab.get {α : Type} (t : Tab α) (d : α) (k : Nat) : α :=
  match t.lookup k with
  | some v => v
  | none => d

/-- The map with a key set, any earlier entry of the key removed. -/
def Tab.set {α : Type} (t : Tab α) (k : Nat) (v : α) : Tab α :=
  (k, v) :: t.filter (fun e => e.1 != k)

/-- The twelve device states in the order of their codes (R130). -/
inductive DevState where
  | off | keep | reset | load | inert | standby | wind | lead | follow | holdover | drain | inspect
  deriving DecidableEq, Repr

/-- Troupe time: TT_NS, the fraction in 2⁻³² ns (R53), the nanoseconds run since the timebase started, which no
step of TT changes (the elapsed TT of R446), and the value of the last forward step of TT (R56, R446). -/
structure Clock where
  ns : BitVec 64
  sub : W32
  elapsed : Nat
  stepTo : Option Nat
  deriving DecidableEq, Repr

/-- What the timebase holds of one reference source (source table, R60, R61). -/
structure SourceSt where
  /-- Consecutive good reference events seen. -/
  run : Nat
  /-- Elapsed time at which continuous presence began. -/
  since : Option Nat
  /-- Consecutive missed reference events while qualified. -/
  misses : Nat
  /-- Whether requal_s applies before the source qualifies (R60). -/
  requal : Bool
  /-- Elapsed time of the last reference event. -/
  lastAt : Option Nat
  /-- TT minus the source's time at its last reference event, in 2⁻⁸ ns. -/
  err : Int
  deriving DecidableEq, Repr

/-- One raster generator as it runs: the settings in force, the frame begun last, and its line. -/
structure RasterSt where
  running : Bool
  waiting : Bool
  format : Nat
  offset : Int
  frame : Nat
  /-- Instant of the last frame start in whole ns of TT, and its fraction in 2⁻¹⁶ ns (R77). -/
  frameAt : Nat
  frameFrac : Nat
  line : Nat
  lineAt : Nat
  /-- The next frame start of the generator: its number and its instant in whole ns (R77). -/
  nextFrame : Nat
  nextAt : Nat
  /-- Whether a change of RGn_CTL or RGn_OFFSET waits for the next frame start (R80). -/
  change : Bool
  /-- Start of the change's interval, when one is in progress (R80). -/
  interval : Option Nat
  /-- A step of TT has ended the frame in progress: the generator waits as in an interval (R58). -/
  stepped : Bool
  deriving DecidableEq, Repr

/-- One blanking timer as it runs: the setting in force, whether its window is open, and the instant of its last
opening. -/
structure TimerSt where
  ctl : W32
  open_ : Bool
  openAt : Option Nat
  change : Bool
  deriving DecidableEq, Repr

/-- The timebase beside its registers. -/
structure TimebaseSt where
  src : Tab SourceSt
  /-- The last 64 phase samples, newest first, in 2⁻⁸ ns (R71). -/
  samples : List Int
  /-- The 1 s means of the frequency adjustment, newest first, at most 17 (R71). -/
  means : List Int
  /-- Sum of the frequency adjustment over the present second, weighted by ns, and the elapsed time up to which it
  runs. -/
  meanAcc : Int
  meanFrom : Nat
  /-- Elapsed times of the last 1 s update of the servo and of the last ageing fit. -/
  secondAt : Nat
  fitAt : Nat
  lockRun : Nat
  unlockRun : Nat
  /-- Means of the seconds spent LOCKED since RESET, newest first, at most 4,096 (R73). -/
  lockedSecs : List Int
  /-- The mean y0 taken on entry to HOLD and the elapsed time of the entry (R73); the elapsed time from which the
  adjustment follows y0 + a·t, in HOLD and under OBSERVER (R67, R73). -/
  holdY0 : Int
  holdFrom : Nat
  driftFrom : Nat
  /-- Elapsed time since which lock is continuous, and hourly means of the frequency adjustment (R74). -/
  lockSince : Option Nat
  hourMeans : List Int
  /-- Armed time of day, waiting for a PPS edge, and the elapsed time of its arming (R68). -/
  tod : Option (BitVec 64 × Nat)
  /-- Phase that TT has still to be slewed by towards the target of an accepted time-of-day write while OBSERVER is
  active (R67), in 10⁻⁹ ns. -/
  phaseTarget : Int
  /-- The rate in ns/s by which the servo's phase correction changes the rate of TT (R57). -/
  slew : Int
  rasters : Tab RasterSt
  timers : Tab TimerSt
  deriving DecidableEq, Repr

/-- Where a cue stands in the engine (R97, R111, R115, R92). -/
inductive Stage where
  | armed
  | fired (cause : Nat)
  | parked (after : CueId)
  | released (effect : Nat)
  | queued
  | handed
  deriving DecidableEq, Repr

/-- One entry of the cue engine. Internal cues of a scene are entries with `sub > 0` and count against no quota
(R93). -/
structure Entry where
  id : CueId
  src : CueSource
  /-- The record with origin and seq assigned; `launch` is absolute once queued, the delay while armed or parked. -/
  rec_ : CueRec
  stage : Stage
  late : Bool
  /-- The quantum begins at or after this instant (R94, R106). -/
  earliest : Nat
  /-- For NEXT_QUANTUM_FRAME, a frame start at or after this instant has to begin first (R106). -/
  frameFrom : Option Nat
  claims : List Nat
  script : Option Nat
  /-- Order of acceptance at this member, the last tie-break of R90. -/
  order : Nat
  /-- TT of acceptance (R105, R113), and TT at which it became late (R105). -/
  acceptedAt : Nat
  lateAt : Nat
  /-- Handed over while what gives its quantum was not running: it takes effect at the cue-engine cycle (R94, R231,
  R245). -/
  atCycle : Bool
  deriving DecidableEq, Repr

/-- One script entry of the image (R122) with its instance counter. -/
structure ScriptSt where
  template : CueRec
  period : Nat
  unit : Nat
  rg : Nat
  count : Nat
  /-- TT of instance 0 in unit ns, or frame k₀ in unit frames (R124). -/
  base : Nat
  /-- The next instance to insert, and the instances inserted. -/
  next : Nat
  inserted : Nat
  /-- A retry waits after a refusal for quota (R125, R126): not before this elapsed time. -/
  retryAt : Option Nat
  deriving DecidableEq, Repr

/-- One scene of the image's scene table (R171). -/
structure SceneSt where
  service : Nat
  entries : List (W32 × Byte × W32 × W32)
  deriving DecidableEq, Repr

/-- One origin of the de-duplication table (R119). -/
structure DedupSt where
  origin : MemberId
  highest : W32
  window : BitVec 64
  heardAt : Nat
  deriving DecidableEq, Repr

/-- The cue engine beside its registers. -/
structure CueSt where
  entries : List Entry
  /-- Mailbox slots submitted and not yet taken, one list per submission in order of arrival (R129). -/
  mailbox : List (List Nat)
  axIn : List CueRec
  /-- Batches of the kernels and the bridge, with the owner stamped on each record (R101). -/
  engIn : List (Nat × List CueRec)
  /-- Script entries whose next instance waits to be taken by the intake. -/
  scriptIn : List Nat
  scripts : List ScriptSt
  scenes : List SceneSt
  dedup : List DedupSt
  order : Nat
  /-- The source whose turn of the intake comes first, and one more than the cue-engine cycle of elapsed TT in which a
  record was last taken (R100). -/
  turn : Nat
  takenCycle : Nat
  /-- Records taken of a chain that is not yet complete (R115, R116): the mailbox slots, the records of an engine or
  bridge batch, and the script entry with the number taken. -/
  slotsTaken : List Nat
  engTaken : List CueRec
  scriptTaken : Nat × Nat
  /-- By service, the cue-engine cycle in which its quota was last written, and the quota before it (R352). -/
  quotaWas : Tab (Nat × Nat)
  deriving DecidableEq, Repr

/-- Power of a resource (R138, R143). -/
inductive Power where
  | asleep
  | winding (from_ : Nat) (resumed : Bool)
  | ready
  | switching (from_ : Nat)
  deriving DecidableEq, Repr

/-- One resource of the sleep classes, by its bit of the SYS_KAn layout. -/
structure ResSt where
  power : Power
  idleFrom : Option Nat
  holdUs : Nat
  holdUntil : Option Nat
  fellAt : Option Nat
  /-- Elapsed time at which it became ready last (R106). -/
  readyAt : Nat
  deriving DecidableEq, Repr

/-- A drain in progress (R146): the request, the entry instant, the frame starts of SYS_DRAIN_CTL.rg seen, and
T_end once it is known. -/
structure DrainSt where
  req : Nat
  from_ : Nat
  frames : Nat
  tEnd : Option Nat
  dropped : Nat
  /-- What comes about at T_end has come about. -/
  cut : Bool
  deriving DecidableEq, Repr

/-- The device state and the power of its parts. -/
structure PowerSt where
  state : DevState
  res : Tab ResSt
  resetN : Bool
  railsUp : Bool
  mainLost : Bool
  onVbat : Bool
  causes : BitVec 4
  enteredAt : Nat
  drain : Option DrainSt
  wakeLatched : Option W32
  /-- Short naps that no update of their class has taken, by class, with the elapsed time of the wake; updates made
  since WIND, and per class the updates made since the last short nap (R144). -/
  naps : List (Nat × Nat)
  updates : Nat
  sinceNap : Tab Nat
  /-- Frame memory has been initialised since LOAD (R136). -/
  fmReady : Bool
  /-- Elapsed times of the last entry to WIND, from which KCLK is locked, and from which the pad banks release
  (wake sequence, R437). -/
  windAt : Nat
  kclkAt : Nat
  releaseAt : Nat
  /-- The last 1 ms update instant of TT. -/
  lastUpdate : Nat
  /-- Latched levels, enables, drive and pulls of the pads of a bank (R147, R438): GPIO banks 0–3, fabric I/O banks
  4–7. -/
  latch : Tab (BitVec 96)
  /-- Errors that stand in KEEP words, by word, battery block first and then the equalizer words: whether the error is
  uncorrectable (R152). -/
  softErrs : Tab Bool
  deriving DecidableEq, Repr

/-- One event record before it is committed (R446). -/
structure LogRec where
  cause : Nat
  code : Nat
  service : Nat
  severity : Nat
  detail : W32
  arrived : Nat
  deriving DecidableEq, Repr

/-- The event log beside its ring: the commit stage, and the slot whose words 1–3 are held (R452). -/
structure LogSt where
  stage : List LogRec
  snap : Option (Nat × W32 × W32 × W32)
  /-- Open episodes: per monitor the elapsed time of its start. -/
  episodes : Tab Nat
  deriving DecidableEq, Repr

/-- The observer port (R460–R483). -/
structure ObsSt where
  i2c : Bool
  addrLow : BitVec 2
  /-- The held _LO value of R474 with its address, and the _HI snapshots by address of their _LO registers. -/
  heldLo : Option (Nat × W32)
  snapHi : Tab W32
  snapFrac : Option W32
  /-- The eight counters of R468 and the address of the last unit counted. -/
  counts : Tab Nat
  lastAddr : W32
  /-- Status and index of the last write frame (R466), and whether a header has followed it. -/
  wrStatus : Byte
  wrIndex : Byte
  /-- Bytes that the port answers last (status, index and data). -/
  answer : List Byte
  deriving DecidableEq, Repr

/-- The test access port (R481–R483). -/
structure TapSt where
  ir : Byte
  /-- Three cells for each of the 182 balls that have them: input, output and output enable. The places of the cells in the
  register are not stated (Config.boundaryCell). -/
  boundary : BitVec 546
  /-- Whether the pads are taken by EXTEST, HIGHZ or CLAMP (R482). -/
  padsTaken : Bool
  highz : Bool
  bypassBit : Bool
  dr : BitVec 72
  scan : List Bool
  deriving DecidableEq, Repr

/-- One Axlink frame as it is handed to the wire (R368): class and type codes, header fields, and the payload in
32-bit words. -/
structure AxFrame where
  cls : Nat
  typ : Nat
  replay : Bool
  retx : Bool
  source : MemberId
  dest : MemberId
  bcast : Bool
  seq : Nat
  channel : Nat
  offset : Nat
  body : List W32
  deriving DecidableEq, Repr

/-- The last advertisement of a neighbour (R380), and the elapsed time at which its epoch last advanced. -/
structure AdvertSt where
  id : MemberId
  nonce : BitVec 64
  leadPrio : Nat
  leadId : MemberId
  hops : Nat
  epoch : Nat
  parent : Option MemberId
  epochAt : Nat
  deriving DecidableEq, Repr

/-- One Axlink port beside its registers. -/
structure PortSt where
  /-- HELLO frames received and acknowledged since the port waits for its neighbour (R365). -/
  helloRx : Nat
  helloAck : Nat
  /-- Elapsed time of the last frame received, and of the end of the last wake (R363, R366). -/
  lastRx : Nat
  alignFrom : Nat
  advert : Option AdvertSt
  /-- Next seq to send and next seq expected, by class (R370). -/
  txSeq : Tab Nat
  rxSeq : Tab Nat
  nakSent : Tab Bool
  /-- Frames sent and not acknowledged, oldest first, by class; resends of the oldest; elapsed time at which the
  acknowledgement last advanced. -/
  unacked : Tab (List AxFrame)
  resends : Tab Nat
  ackAt : Tab Nat
  /-- Frames that wait for credit, oldest first, by class (R372). -/
  held : Tab (List AxFrame)
  /-- Credit to return to the neighbour, by class. -/
  owed : Tab Nat
  /-- Time exchange in progress: t₁ in 2⁻¹⁶ ns and the elapsed time of its start (R373). -/
  exchange : Option (Nat × Nat)
  okRun : Nat
  missRun : Nat
  /-- The last 16 one-way delays in ps, newest first (R374). -/
  delays : List Int
  /-- A frame has been held for want of credit in the present window (R372). -/
  heldSeen : Bool
  /-- Bytes of the frames sent and received in the present millisecond (AXn_UTIL). -/
  txBytes : Nat
  rxBytes : Nat
  deriving DecidableEq, Repr

/-- One BULK transfer known to a member, by initiator and tag (R393). -/
structure BulkSt where
  initiator : MemberId
  tag : Nat
  target : MemberId
  laddr : Nat
  raddr : Nat
  length : Nat
  sent : Nat
  since : Nat
  /-- 1 waiting, 2 granted to the initiator, 3 running, 4 done and not acknowledged. -/
  phase : Nat
  /-- The bridge channel that issued it, if one did (R416). -/
  channel : Option Nat
  deriving DecidableEq, Repr

/-- One ISO channel of a port (R390, R391). -/
structure IsoSt where
  inUnit : Bool
  line : Nat
  bytes : Nat
  skip : Bool
  /-- Frames that wait for the channel's reservation, and the bytes it has sent in the present window (R369). -/
  queue : List AxFrame
  spent : Nat
  deriving DecidableEq, Repr

/-- Axlink beside its registers. -/
structure AxSt where
  ports : Tab PortSt
  /-- Frames handed to the wire by the last command, with their port (not a store of the device: its output). -/
  wire : List (Nat × AxFrame)
  nonce : BitVec 64
  /-- The device has been refused by the lead (R383). -/
  refused : Bool
  /-- Route table: member, port, nonce (R382). -/
  routes : List (MemberId × Nat × BitVec 64)
  parent : Option Nat
  leadPrio : Nat
  leadId : MemberId
  hops : Nat
  epoch : Nat
  /-- Elapsed time at which this member, as the lead, last advanced its epoch, or became the lead (R380). -/
  epochAt : Nat
  elected : Bool
  /-- CUE records sent or forwarded, newest first, with the elapsed time of sending (R388). -/
  replay : List (Nat × CueRec)
  /-- The remote access outstanding: its tag and elapsed time of start (R395). -/
  rmt : Option (Nat × Nat)
  tag : Nat
  bulk : List BulkSt
  iso : Tab IsoSt
  deriving DecidableEq, Repr

/-- The eFuse array (R176): it keeps its content for good. -/
structure FuseSt where
  keyHash : Option (List Byte)
  aesKey : Option (List Byte)
  rollback : Nat
  requireSeal : Bool
  requireEncrypt : Bool
  privateJtagOff : Bool
  fuseLock : Bool
  deriving DecidableEq, Repr

/-- The configuration controller beside its registers (R158–R186). -/
structure CfgSt where
  fuses : FuseSt
  /-- CFG_FUSE_DATA words, which read 0 (R176). -/
  fuseData : Tab W32
  /-- What discovery found: that it is over, the slots to try in order (0 A, 1 B, 2 golden), and the slot size. -/
  found : Bool
  /-- The read modes that the flash advertises, with the maximum clock of each in MHz (R161). -/
  modes : Tab Nat
  slots : List Nat
  slotSize : Nat
  /-- The accepted slot, until calibration ends. -/
  accepted : Option Nat
  startStandby : Bool
  allowAdvance : Bool
  secVersion : Nat
  hasFabric : Bool
  /-- Script entries of the image that are enabled at the end of LOAD (R122). -/
  enables : List Nat
  /-- Rollback steps are being programmed up to this count (R178). -/
  advanceTo : Option Nat
  /-- The trims of start-up calibration that no register shows: amplitude and termination of each line-port driver, and
  the offset of each monitor's threshold DAC (R179); unlisted, the nominal trim. -/
  driverTrims : Tab W32
  thresholdTrims : Tab W32
  deriving DecidableEq, Repr

/-- Lines that a producer has made available, by number of lines so far, the last of them, and the slices of the
line in progress (ring channels, streams and the receive paths of line ports). -/
structure LineFeed where
  seq : Nat
  line : List Slice
  cur : List Slice
  deriving DecidableEq, Repr

/-- A slice that waits at a consumer: its lane words, the line it belongs to, and whether it ends that line. -/
structure QSlice where
  data : Slice
  line : Nat
  last : Bool
  deriving DecidableEq, Repr

/-- One stream beside its descriptor words (R318–R334). -/
structure StreamSt where
  /-- Base that a STREAM_ARM has set for the next unit start (R322). -/
  arm : Option Nat
  /-- Instant of the last unit start. -/
  unitAt : Option Nat
  /-- The second frame of a pair unit is being written (R319). -/
  second : Bool
  /-- Last line of the present unit written, and last line of the unit in reading asked for, 0 for none (R40). -/
  line : Nat
  lineRead : Nat
  /-- Lane words of each slice of a line, as last written, and whether they are audio. -/
  shape : List Nat
  audio : Bool
  /-- Bases with complete unread units, oldest first, and the base being read (R329, R330). -/
  unread : List Nat
  reading : Option Nat
  /-- Lines delivered to the stream's readers. -/
  feed : LineFeed
  /-- Lines substituted in the unit being read (R339). -/
  subst : Nat
  /-- Instants of the last 1,025 unit starts, newest first (R334). -/
  starts : List Nat
  /-- A joint lies before the next samples delivered: the base of the samples that would have continued (R333). -/
  joint : Option Nat
  /-- The writer has released a unit that was not read: the next unit read does not follow the last (R330). -/
  gap : Bool
  /-- Yo-yo: repeats in a row, and the unit in progress is fallback fill (R329, R331). -/
  repeats : Nat
  filling : Bool
  deriving DecidableEq, Repr

/-- A task by its engine and slot; a carousel task by its part and slot 56 + c (R301). -/
abbrev TaskId := Nat × Nat

/-- A task descriptor (R283). -/
structure TaskDesc where
  id : TaskId
  kernel : Nat
  service : Nat
  repeatLine : Bool
  half : Bool
  rg : Nat
  /-- Kind and index of in0–in3 and out0–out3: 0 none, 1 RING, 2 STREAM. -/
  ins : List (Nat × Nat)
  outs : List (Nat × Nat)
  budget : Nat
  width : Nat
  table : Nat
  tableLen : Nat
  black : List (BitVec 16)
  deriving DecidableEq, Repr

/-- One activation (R285): its inputs, the line and place of the slice that it delivers, the bank it runs with (R291), its
readiness and deadline in ns, and what it still waits for. -/
structure Act where
  task : TaskId
  ins : List QSlice
  place : QSlice
  bank : Nat
  readyAt : Nat
  deadline : Nat
  /-- Transfers not yet complete (R288), and whether an engine has switched past it. -/
  xfers : Nat
  passed : Bool
  /-- Waits for its part to become resident (R300). -/
  partWait : Bool
  /-- Is not computed: its fill is delivered when the slices of its slot before it have been (R40, R290). -/
  fill : Bool
  deriving DecidableEq, Repr

/-- What one task keeps between activations. -/
structure TaskSt where
  /-- Enable and bank in force (R291). -/
  on : Bool
  bank : Nat
  /-- The line at which they came into force, and the enable and the bank before it, for slices of earlier lines (R291). -/
  old : Option (Nat × Bool × Nat)
  /-- The previous line of out0, the line in progress, and the slices so far in the line of a kernel that counts them. -/
  prev : List Slice
  cur : List Slice
  pos : Nat
  /-- One more than the instant of the first pixel of the last slice of a task without inputs (R285). -/
  genTo : Nat
  /-- Sums of K17 per lane with their pins, extremes, samples summed, frames of the window (R294, R296). -/
  lanes : List (Int × Bool)
  hi : Nat
  lo : Nat
  count : Nat
  frames : Nat
  /-- K18 counts below low and above high; K19 samples marked and marks seen in the scope. -/
  below : Nat
  above : Nat
  marked : Nat
  seen : Marks
  /-- Lines held by K11, newest first, and the line coming in. -/
  delay : List (List Slice)
  held : List Slice
  /-- Whether the result watched by K21 lay inside its window at its last write; none before the first (R295). -/
  inside : Option Bool
  clipping : Bool
  acts : Nat
  /-- A parameter or descriptor word was uncorrectable (R311): 0 none, 1 bank, 2 descriptor; the bank, and the words of
  it rewritten since. -/
  bad : Nat
  badBank : Nat
  rewritten : List Nat
  deriving DecidableEq, Repr

/-- A transfer on the engine ring (R306): initiating stop, the two ports, request cycle, bytes, the engine whose
activation waits, and the cycle to which it holds its ports once granted. -/
structure Xfer where
  init : Nat
  ports : Nat × Nat
  hops : Nat
  at_ : Nat
  bytes : Nat
  task : Option TaskId
  until_ : Option Nat
  deriving DecidableEq, Repr

/-- The stream engines and the ring beside their registers. -/
structure SeSt where
  tasks : List TaskDesc
  taskSt : Tab TaskSt
  /-- Local memory words, by 131,072 · engine + word offset; the parts of the carousel from 16 · 131,072 on, by
  32,768 · part + word offset. Unlisted words are 0. -/
  lm : Tab W32
  /-- Activations ready or waiting, and the one each engine runs with its start in sixths of a ns. -/
  acts : List Act
  running : Tab (Act × Nat)
  /-- Slices that wait at each consumer, and slices pushed so far. -/
  queues : Tab (List QSlice)
  xfers : List Xfer
  /-- Steps since the last move, whether the parts move in this step, and moves so far (R300). -/
  steps : Nat
  moving : Bool
  moves : Nat
  /-- Carousel activations that ran and that waited, for each of the last 256 steps, newest first (R302). -/
  ran : List Nat
  waited : List Nat
  /-- Per slot sheds (SEn_TASK_SHED_CNT), by 64 · engine + slot. -/
  sheds : Tab Nat
  /-- Cycles that each engine has run activations in the present millisecond (SEn_UTIL). -/
  busy : Tab Nat
  deriving DecidableEq, Repr

/-- What an access to frame memory brings about once it is served (R336): a line read for a stream's readers, with what its
checks found; a line written, by base, place, address and bytes; bytes received by BULK; the going on of the member's
own BULK transfer, or of the copy of a bridge channel. -/
inductive FmWork where
  | read (base line : Nat) (check : LineCheck)
  | write (base pos addr : Nat) (bytes : List Byte)
  | bulkIn (initiator : MemberId) (tag addr : Nat) (bytes : List Byte)
  | bulkOut
  | bridge (channel : Nat)
  | entry (bytes : List Byte)
  deriving DecidableEq, Repr

/-- An access that waits for its turn (R336, R337): its stream, none for BULK and the bridge, the bytes that it moves, and
what it brings about. -/
structure FmReq where
  stream : Option Nat
  bytes : Nat
  work : FmWork
  deriving DecidableEq, Repr

/-- Frame memory (R313–R317): its bytes in rising order of address, none 0; and the account of the present window of 1 µs
of TT (R335–R337). -/
structure FmSt where
  bytes : List Host.Cell
  /-- The window, by TT in µs. -/
  window : Nat
  /-- Bytes that each stream's accesses have taken of its credit in the window, and the bytes that its lines in progress
  still take, with what they take in a whole window. -/
  asked : Tab Nat
  flows : Tab (List (Nat × Nat))
  /-- The streams that have gone beyond their credit in the window, and those that did in the window before it. -/
  beyond : List Nat
  wentOver : List Nat
  /-- Bytes that each channel has served in the window, and in the present millisecond. -/
  chan : Tab Nat
  used : Tab Nat
  /-- Accesses held, in the order in which they were requested (R337). -/
  wait : List FmReq
  deriving DecidableEq, Repr

/-- A gain ramp of a PGA: its first and last code, its length and the samples done (R221). -/
structure Ramp where
  g0 : Nat
  g1 : Nat
  len : Nat
  done : Nat
  deriving DecidableEq, Repr

/-- What sets the level at a cell's output buffer: the modulator's last value in ADC direction or the code in the DAC,
with the gains and the filter setting in force (R225, R229). -/
structure BufLevel where
  dac : Bool
  value : Int
  gainA : Nat
  gainB : Nat
  filt : W32
  deriving DecidableEq, Repr

/-- One analogue cell beside its registers. -/
structure CellSt where
  rampA : Option Ramp
  rampB : Option Ramp
  /-- A direction change in progress: the instant it began and its new direction (R228). -/
  changing : Option (Nat × Nat)
  /-- Over-range: the start of the open episode, and the instant to which OVR marks run (R234). -/
  ovrFrom : Option Nat
  ovrTo : Nat
  /-- The instant to which SUSPECT marks run for the neighbours' episodes (R236), and for a filter change or a switch
  of the matrix (R224, R246). -/
  suspTo : Nat
  markTo : Nat
  /-- A filter setting waits for the keying raster's next line, or for the cell to be ready (R139, R224); the setting in
  force. -/
  filtWait : Bool
  filt : W32
  /-- For how long the keying window was open in the present line, up to the elapsed time from which it is open now
  (R232), and whether a marked sample fell in it (R233). -/
  keyedNs : Nat
  keyedFrom : Option Nat
  lineMarked : Bool
  /-- The line just ended makes an update of the clamp, or skips it because a sample of its window was marked (R232,
  R233). -/
  lineDue : Option Bool
  /-- The level that the output buffer holds during a direction change (R229). -/
  heldOut : Option BufLevel
  /-- Elapsed time of the last trim update, or of the wake (R240). -/
  trimAt : Nat
  deriving DecidableEq, Repr

/-- The samples of an input slice that a chain has not used yet: the line and the place in it of the first of them, and
whether the slice ends its line. -/
structure DacIn where
  data : List Sample
  line : Nat
  pos : Nat
  last : Bool
  deriving DecidableEq, Repr

/-- One filter chain beside its registers. -/
structure ChainSt where
  link : W32
  phase : Nat
  /-- The slice in progress and the line it belongs to. -/
  acc : List Sample
  line : Nat
  /-- The values that the response works on and those that the phase delay works on, newest first, in 2⁻²⁴ of full
  scale. -/
  hist : List Int
  past : List Int
  /-- Samples that still carry a stretched mark (R264, R254, R256, R265). -/
  ovrLeft : Nat
  suspLeft : Nat
  fillLeft : Nat
  settleLeft : Nat
  /-- DC block: samples since the last 256, their sum before subtraction in 2⁻²⁴ of full scale, and whether one was
  marked; the sum and the mark of 256 samples whose update is due (R262, R263). -/
  dcbCount : Nat
  dcbSum : Int
  dcbMarked : Bool
  dcbDue : Option (Int × Bool)
  /-- Runs of clamped codes at the format stage and at the DAC, and of substituted samples. -/
  clampRun : Bool
  dacRun : Bool
  underRun : Bool
  /-- The lane words of the last input sample received (R260), the input slice in use, and the place of the present sample in
  its line. -/
  lastIn : List Sample
  input : DacIn
  pos : Nat
  /-- The code that the DAC converts (R225, R238). -/
  dacOut : Int
  deriving DecidableEq, Repr

/-- One window monitor beside its registers. -/
structure MonSt where
  /-- Elapsed time of enabling. -/
  from_ : Nat
  /-- The level at the tap, in microvolts, so far as it is known; the comparators' own outcome, before blanking, and its
  side. -/
  level : Int
  out : Bool
  outSide : Bool
  /-- Elapsed time to which the live output is held after a change (R273). -/
  holdTo : Option Nat
  /-- The live output was 1 at some instant of the present line or frame (R276). -/
  seen : Bool
  /-- The instants of the last rise and the last fall of the live output (R276, R277). -/
  riseAt : Option Nat
  fallAt : Option Nat
  deriving DecidableEq, Repr

/-- One line port beside its registers (R187–R217). -/
structure LpSt where
  /-- Mode and driver settings in force, and whether written ones wait for the port's line quantum (R191, R215, R216). -/
  mode : Nat
  drv : W32
  lineWait : Bool
  /-- Transmit source in force (R211). -/
  src : W32
  /-- Nothing is sent: the format is not carried (R190), or a rate change waits for a frame start (R215). -/
  mismatch : Bool
  rateWait : Bool
  rateNow : Nat
  sending : Bool
  /-- Marked slices of the frame being sent, and the marks seen (R213). -/
  marked : Nat
  satSeen : Bool
  fillSeen : Bool
  /-- The line being sent: its number, 0 for none (R209). -/
  lineNow : Nat
  /-- The last line that the driver carried: its content, its kind, its number and the payload ID inserted. Kinds: 0
  none, 1 source, 2 underrun fill, 3 extra blanking, 4 test pattern, 5 the partner's received bits (R192, R209–R217). -/
  lastSent : List Slice
  sentKind : Nat
  sentLine : Nat
  sentPid : Option W32
  /-- Lines of the source in force, and of the one written, that wait to be sent: the source as LPn_TX_SRC names it, the
  line number and the slices (R40, R210). -/
  wait : List (Nat × Nat × List Slice)
  /-- Flywheel: a misplaced position and how often it was seen in a row (R204). -/
  offPos : Nat
  offRun : Nat
  posRun : Nat
  /-- Sync = 1: aligned, or waiting for a whole frame inside the window (R207). -/
  aligned : Bool
  frameInside : Bool
  /-- Sync = 0: a frame is being delivered; the last line number delivered. -/
  delivering : Bool
  lastLine : Nat
  lastRx : List Slice
  /-- Payload ID seen last, how often in a row, and frames without one (R208). -/
  pidSeen : Option W32
  pidRun : Nat
  pidMiss : Nat
  /-- The last second of TT that held an errored line, plus one (R205). -/
  errSecond : Nat
  lockSince : Option Nat
  /-- Elapsed time of the isolation release or signal return, from which the lock time counts (R200). -/
  searchFrom : Nat
  /-- AUTO: the index of the present trial, its rate and its start (R201). -/
  trial : Nat
  trialRate : Nat
  trialFrom : Nat
  /-- The sweep of acquisition: the code it started from, and how far above and below it has come (R197). -/
  sweep : Option (Nat × Nat × Nat)
  /-- The warm-start word of a lock that OFF ended, which is written when the port falls asleep (R199). -/
  warmWord : Option W32
  deriving DecidableEq, Repr

/-- One logic cell (R399, R405). -/
structure CellCfg where
  table : BitVec 16
  nets : List Nat
  registered : Bool
  ceEn : Bool
  rstEn : Bool
  rstVal : Bool
  ceLine : Nat
  rstLine : Nat
  deriving DecidableEq, Repr

/-- One fabric I/O cell as its frame configures it (R405, R412). -/
structure FioCfg where
  inDdr : Bool
  outDdr : Bool
  delayOut : Bool
  pullUp : Bool
  pullDown : Bool
  drive : Nat
  fast : Bool
  tap0 : Nat
  out0 : Bool
  oe0 : Bool
  /-- Sinks: output at the rising and at the falling edge, output enable, tap increment and decrement. -/
  sinks : List Nat
  deriving DecidableEq, Repr

/-- A frame-memory command that a bridge channel is carrying out (R416): its direction, the block, whether the
block is a queue, the next RAM word and frame-memory address, and the 32-bit words still to copy. -/
structure BridgeCopy where
  toFm : Bool
  block : Nat
  fifo : Bool
  ramWord : Nat
  addr : Nat
  left : Nat
  deriving DecidableEq, Repr

/-- One bridge channel (R416). -/
structure BridgeSt where
  enabled : Bool
  block : Nat
  hold : Nat
  busy : Bool
  done : Bool
  error : Bool
  /-- The words of the command in progress as far as they are popped, and how many it still takes; a command with all its
  words that has not begun its effect waits for the BULK initiator (R416, R418). -/
  words : List W36
  need : Nat
  waits : Bool
  /-- How the last command ended, until the FCLK edge that shows it: done, else error. -/
  ended : Option Bool
  /-- The CUE commands that a CHAIN flag holds open (R115). -/
  batch : List CueRec
  copy : Option BridgeCopy
  /-- The command in progress is a BULK transfer, or was rejected. -/
  bulk : Bool
  rejected : Bool
  /-- The outcome of its BULK transfer, once it has ended: whether it is DONE. -/
  outcome : Option Bool
  deriving DecidableEq, Repr

/-- The logic fabric beside its registers. The use, width and sides of a block RAM stand in QCn_CTL. -/
structure FabSt where
  fclkMhz : Nat
  bankVolt : List Nat
  gc : List Nat
  cells : Tab CellCfg
  ff : Tab Bool
  bramSinks : Tab (List Nat)
  /-- RAM words by 4,096 · block + word, the queues, their head words when empty, and the read registers of the two
  ports of a RAM. -/
  data : Tab W36
  queue : Tab (List W36)
  head : Tab W36
  readA : Tab W36
  readB : Tab W36
  /-- When the bridge last pushed or popped a queue, within the three FCLK cycles in which the fabric may not see it yet
  (R410), and when the fabric last did. -/
  bridgeAt : Tab (List Nat)
  fabricAt : Tab Nat
  /-- The queues whose fabric side does not see those acts of the bridge in this cycle. -/
  lag : BitVec 128
  /-- When a write last flushed a queue (R411). -/
  flushAt : Tab Nat
  ovf : Tab Bool
  unf : Tab Bool
  fio : Tab FioCfg
  /-- Inputs shown for the rising and the falling edge, the last capture at a rising edge, and the output registers for
  the two phases and the enable. -/
  fioIn : Tab (Bool × Bool)
  fioCap : Tab Bool
  fioOut : Tab (Bool × Bool × Bool)
  tap : Tab Nat
  bridge : Tab BridgeSt
  gpioSinks : Tab (Nat × Nat)
  gpioOut : Tab (Bool × Bool)
  /-- Strobes that wait for an FCLK edge, and those that are 1 in this cycle: 2g frame and 2g + 1 line of RGg. -/
  strobeNext : List Nat
  strobe : List Nat
  window : Tab Bool
  deriving DecidableEq, Repr

/-- The pins beside their registers. -/
structure PinSt where
  /-- Levels that stand at the GPIO pads from outside, as last seen. -/
  outside : BitVec 64
  /-- Levels of the TIME functions 0–4, as their last edges, the entry to WIND or a step of TT left them (R422). -/
  time : BitVec 5
  /-- Pins in a conflicting cycle (R425). -/
  conflict : BitVec 64
  /-- Banks whose supply is present: GPIO PA–PD, then fabric I/O 0–3. -/
  supply : BitVec 8
  /-- When the debounced level of each pin event line last changed, or its run was discarded (R433, R436). -/
  pelAt : Tab Nat
  deriving DecidableEq, Repr

/-- What the last update of an adaptive loop replaced, with the elapsed time of the update: the setting, the status and
counter registers, and the run of pressing updates. A write of the setting, or an entry to FROZEN, in the same cycle
discards that update (R34). -/
structure LoopUndo where
  at_ : Nat
  setting : Nat
  stat : W32
  cnt : W32
  press : Nat × Bool
  deriving DecidableEq, Repr

/-- Ownership given by the SVn_CLAIM records of the image (R342): kind, first, last, service. -/
abbrev Claims := List (Nat × Nat × Nat × Nat)

/-- The whole machine. -/
structure State where
  /-- Commands that wait, first in, first out. -/
  pending : List Instr
  /-- Register, descriptor, barrier and ring words: strictly rising addresses, no word at its reset value. -/
  cells : List (Nat × W32)
  /-- Next fresh free value (the model's own, DESIGN CHOICE, notes/assumptions/1). -/
  free : Nat
  clock : Clock
  tb : TimebaseSt
  cue : CueSt
  pwr : PowerSt
  log : LogSt
  obs : ObsSt
  tap : TapSt
  ax : AxSt
  cfg : CfgSt
  lp : Tab LpSt
  cell : Tab CellSt
  /-- By bus: the quantum of its last switch, the source and the count of switches before it; by pin, the instant at which
  its driver was last switched (R246). -/
  bus : Tab (Nat × Nat × Nat)
  apAt : Tab Nat
  fc : Tab ChainSt
  wm : Tab MonSt
  se : SeSt
  ds : Tab StreamSt
  fm : FmSt
  fab : FabSt
  pin : PinSt
  /-- Ring channels (R305). -/
  ring : Tab LineFeed
  /-- By chain, the instant of its last output sample (R94). -/
  sampleAt : Tab Nat
  claims : Claims
  /-- Loops pressing a bound: by status register, the consecutive pressing updates and the side (R29). -/
  press : Tab (Nat × Bool)
  /-- Loops whose setting was written: by status register, one more than the elapsed time of the write (corner of
  R32). -/
  seeded : Tab Nat
  /-- By status register, what the last update of its loop replaced (R34). -/
  undo : Tab LoopUndo
  deriving DecidableEq, Repr

/-- The machine right after its first entry to RESET: every register at its reset value, the battery domain
started from OFF, the supplies up and the straps low, nothing in progress (DESIGN CHOICE, notes/assumptions/4). -/
def State.reset : State := {
  pending := [], cells := [], free := 0,
  clock := ⟨0, 0, 0, none⟩,
  tb := { src := [], samples := [], means := [], meanAcc := 0, meanFrom := 0, secondAt := 0, fitAt := 0, lockRun := 0, unlockRun := 0,
          lockedSecs := [], holdY0 := 0, holdFrom := 0, driftFrom := 0, lockSince := none, hourMeans := [], tod := none,
          phaseTarget := 0, slew := 0, rasters := [], timers := [] },
  cue := { entries := [], mailbox := [], axIn := [], engIn := [], scriptIn := [], scripts := [], scenes := [],
           dedup := [], order := 0, turn := 0, takenCycle := 0, slotsTaken := [], engTaken := [], scriptTaken := (0, 0), quotaWas := [] },
  pwr := { state := .reset, res := [], resetN := true, railsUp := true, mainLost := false, onVbat := false,
           causes := 1, enteredAt := 0, drain := none, wakeLatched := none, naps := [], updates := 0,
           sinceNap := [], fmReady := false, windAt := 0, kclkAt := 0, releaseAt := 0, lastUpdate := 0, latch := [],
           softErrs := [] },
  log := { stage := [], snap := none, episodes := [] },
  obs := { i2c := false, addrLow := 0, heldLo := none, snapHi := [], snapFrac := none, counts := [],
           lastAddr := 0, wrStatus := 0, wrIndex := 0, answer := [] },
  tap := { ir := 2, boundary := 0, padsTaken := false, highz := false, bypassBit := false, dr := 0, scan := [] },
  ax := { ports := [], wire := [], nonce := 0, refused := false, routes := [], parent := none, leadPrio := 0,
          leadId := 0, hops := 0, epoch := 0, epochAt := 0, elected := false, replay := [], rmt := none, tag := 0, bulk := [],
          iso := [] },
  cfg := { fuses := ⟨none, none, 0, false, false, false, false⟩, fuseData := [], found := false, modes := [], slots := [],
           slotSize := 0, accepted := none, startStandby := false, allowAdvance := false, secVersion := 0,
           hasFabric := false, enables := [], advanceTo := none,
           driverTrims := [], thresholdTrims := [] },
  lp := [], cell := [], bus := [], apAt := [], fc := [], wm := [],
  se := { tasks := [], taskSt := [], lm := [], acts := [], running := [], queues := [], xfers := [], steps := 0,
          moving := false, moves := 0, ran := [], waited := [], sheds := [], busy := [] },
  ds := [], fm := { bytes := [], window := 0, asked := [], flows := [], beyond := [], wentOver := [], chan := [], used := [],
                    wait := [] },
  fab := { fclkMhz := 0, bankVolt := [], gc := [], cells := [], ff := [], bramSinks := [], data := [], queue := [],
           head := [], readA := [], readB := [], bridgeAt := [], fabricAt := [], lag := 0, flushAt := [], ovf := [], unf := [], fio := [], fioIn := [], fioCap := [], fioOut := [], tap := [],
           bridge := [], gpioSinks := [], gpioOut := [], strobeNext := [], strobe := [], window := [] },
  pin := { outside := 0, time := 0, conflict := 0, supply := 255, pelAt := [] },
  ring := [], sampleAt := [], claims := [], press := [], seeded := [], undo := []
}

end Sys2Proof.Machine
end

