-- ==== Sys2Proof/Machine/Ops.lean ====
section
/-! DEFINITION. The named operations that the meanings share: register words and fields, counters, free values,
the clock, event records, and the wake and sleep of resources. -/

namespace Sys2Proof.Machine

/-! ### Register words -/

/-- The word at an address: the listed one, else its reset value. -/
def cellGet : List (Nat × W32) → Nat → W32
  | [], a => resetOf a
  | (k, v) :: t, a => if k = a then v else cellGet t a

/-- The words with one of them set, kept in canonical form: rising addresses, no word at its reset value. -/
def cellPut (a : Nat) (v : W32) : List (Nat × W32) → List (Nat × W32)
  | [] => if v = resetOf a then [] else [(a, v)]
  | (k, w) :: t =>
    if k < a then (k, w) :: cellPut a v t
    else
      let rest := ((k, w) :: t).filter (fun c => c.1 != a)
      if v = resetOf a then rest else (a, v) :: rest

/-- Canonical form of the register words: every address above the given bound and rising, no word at its reset
value. -/
def cellsFrom : Nat → List (Nat × W32) → Bool
  | _, [] => true
  | n, (k, v) :: t => decide (n ≤ k) && decide (v ≠ resetOf k) && cellsFrom (k + 1) t

/-- The canonical form of the register words. -/
abbrev cellsWf (c : List (Nat × W32)) : Prop := cellsFrom 0 c = true

/-- The stored word at an address. -/
def State.rd (s : State) (a : Nat) : W32 := cellGet s.cells a

/-- The state with the stored word at an address set. -/
def State.wr (s : State) (a : Nat) (v : W32) : State := { s with cells := cellPut a v s.cells }

/-- The value of a field in a word. -/
def Fld.of (f : Fld) (w : W32) : Nat := w.toNat / 2 ^ f.lo % 2 ^ (f.hi + 1 - f.lo)

/-- A word with a field replaced; the value is taken modulo the field's width. -/
def Fld.put (f : Fld) (w : W32) (v : Nat) : W32 :=
  let m : W32 := BitVec.ofNat 32 ((2 ^ (f.hi + 1 - f.lo) - 1) * 2 ^ f.lo)
  (w &&& ~~~m) ||| (BitVec.ofNat 32 (v % 2 ^ (f.hi + 1 - f.lo) * 2 ^ f.lo))

/-- The largest value of a field. -/
def Fld.max (f : Fld) : Nat := 2 ^ (f.hi + 1 - f.lo) - 1

/-- The stored value of a field. -/
def State.g (s : State) (f : Fld) : Nat := f.of (s.rd f.addr)

/-- A one-bit field as a truth value. -/
def State.bit (s : State) (f : Fld) : Bool := s.g f != 0

/-- The state with a field set. -/
def State.p (s : State) (f : Fld) (v : Nat) : State := s.wr f.addr (f.put (s.rd f.addr) v)

/-- The state with a one-bit field set or cleared. -/
def State.pb (s : State) (f : Fld) (b : Bool) : State := s.p f (if b then 1 else 0)

/-- A whole register as a field. -/
def word (a : Nat) : Fld := ⟨a, 31, 0⟩

/-- Bits hi–lo of a word as a number. -/
def bitsOf (w : W32) (hi lo : Nat) : Nat := w.toNat / 2 ^ lo % 2 ^ (hi + 1 - lo)

/-- The indices of the bits of a word. -/
def bitList (w : W32) : List Nat := (List.range 32).filter (fun i => w.getLsbD i)

/-- A 16-bit counter in the low half of its register (R20). -/
def cnt16 (a : Nat) : Fld := ⟨a, 15, 0⟩

/-- Whether bit `i` of a register is set. -/
def State.bitOf (s : State) (a i : Nat) : Bool := (s.rd a).getLsbD i

/-- The state with bit `i` of a register set or cleared. -/
def State.setBitOf (s : State) (a i : Nat) (b : Bool) : State := s.pb ⟨a, i, i⟩ b

/-- A saturating counter field counts `n` (R20). -/
def State.addSat (s : State) (f : Fld) (n : Nat) : State := s.p f (min (s.g f + n) f.max)

/-- A saturating counter field counts once (R20). -/
def State.inc (s : State) (f : Fld) : State := s.addSat f 1

/-- A wrapping counter field counts once. -/
def State.incWrap (s : State) (f : Fld) : State := s.p f (s.g f + 1)

/-- A wrapping counter field counts `n`. -/
def State.addWrap (s : State) (f : Fld) (n : Nat) : State := s.p f (s.g f + n)

/-- A register that holds the highest value seen takes a value. -/
def State.raise (s : State) (f : Fld) (v : Nat) : State := s.p f (Nat.max (s.g f) (min v f.max))

/-- A 64-bit value written to a pair of registers, lower half at the lower address (R12). -/
def State.wr64 (s : State) (lo : Nat) (v : BitVec 64) : State :=
  (s.wr lo (v.truncate 32)).wr (lo + 4) ((v >>> 32).truncate 32)

/-- A 64-bit value read from a pair of registers (R12). -/
def State.rd64 (s : State) (lo : Nat) : BitVec 64 := (s.rd (lo + 4)) ++ (s.rd lo)

/-- A signed integer as a 32-bit word. -/
def sword (i : Int) : W32 := BitVec.ofInt 32 i

/-- The value of a signed field of `w` bits. -/
def signedField (w v : Nat) : Int := if v < 2 ^ (w - 1) then (v : Int) else (v : Int) - 2 ^ w

/-- An integer held within bounds. -/
def clampInt (lo hi x : Int) : Int := if x < lo then lo else if hi < x then hi else x

/-- Apply an operation for each key in turn. -/
def State.each {α : Type} (s : State) (l : List α) (f : State → α → State) : State := l.foldl f s

/-- Apply an operation when a condition holds. -/
def State.when (s : State) (b : Bool) (f : State → State) : State := if b then f s else s

/-- A list cut into pieces of `n`, the last perhaps shorter; `fuel` bounds how many. -/
def pieces {α : Type} (n : Nat) : Nat → List α → List (List α)
  | 0, _ => []
  | f + 1, l => if l.isEmpty then [] else l.take n :: pieces n f (l.drop n)

/-! ### KEEP words -/

/-- The address of a KEEP word: those of the battery block, then the equalizer words of the line ports (R152). -/
def keepWordAt (n : Nat) : Nat := if n < 32 then KEEP_MEMBER + 4 * n else LP_KEEP_EQ (n - 32)

/-- The value that a KEEP word reads as: its reset value where an uncorrectable error stands in it (R152). -/
def State.keepValue (s : State) (n : Nat) (w : W32) : W32 :=
  if s.pwr.softErrs.lookup n = some true then resetOf (keepWordAt n) else w

/-- KEEP word `n` as it reads. -/
def State.keepRd (s : State) (n : Nat) : W32 := s.keepValue n (s.rd (keepWordAt n))

/-! ### Line ports -/

/-- A line port as after reset. -/
def LpSt.initial : LpSt :=
  { mode := 0, drv := 0, lineWait := false, src := 0, mismatch := false, rateWait := false, rateNow := 2,
    sending := false, marked := 0, satSeen := false, fillSeen := false, lineNow := 0, lastSent := [], sentKind := 0,
    sentLine := 0, sentPid := none, wait := [], offPos := 0, offRun := 0, posRun := 0, aligned := false,
    frameInside := false, delivering := false, lastLine := 0, lastRx := [], pidSeen := none, pidRun := 0,
    pidMiss := 0, errSecond := 0, lockSince := none, searchFrom := 0, trial := 0, trialRate := 0, trialFrom := 0,
    sweep := none, warmWord := none }

/-- A line port. -/
def State.lpSt (s : State) (p : Nat) : LpSt := s.lp.get LpSt.initial p

/-- The state with a line port set. -/
def State.setLp (s : State) (p : Nat) (x : LpSt) : State := { s with lp := s.lp.set p x }

/-- The mode in force of a port (R191): 0 OFF, 1 RX, 2 TX, 3 DUPLEX, 4 LOOP. -/
def State.lpMode (s : State) (p : Nat) : Nat := (s.lpSt p).mode

/-- The other port of a pair (R191). -/
def partner (p : Nat) : Nat := if p % 2 = 0 then p + 1 else p - 1

/-- Whether a port's mode is a given one, in force or written. -/
def State.lpModeIs (s : State) (p : Nat) (l : List Nat) : Bool :=
  l.contains (s.lpMode p) || l.contains (s.g (LP_MODE_CTL_mode p))

/-! ### Free values -/

/-- A fresh free value, and the state with the counter advanced (DESIGN CHOICE, notes/assumptions/1). -/
def State.draw (s : State) : BitVec 64 × State := (Config.freeValue s.free, { s with free := s.free + 1 })

/-- A fresh free natural number between two bounds, both included. -/
def State.drawIn (s : State) (lo hi : Nat) : Nat × State :=
  let (v, t) := s.draw
  (lo + v.toNat % (hi + 1 - lo), t)

/-- A fresh free integer between two bounds, both included. -/
def State.drawInt (s : State) (lo hi : Int) : Int × State :=
  let (v, t) := s.draw
  (lo + (v.toNat % (hi + 1 - lo).toNat : Nat), t)

/-! ### Device state and clock -/

/-- The code of a device state (R130). -/
def DevState.code : DevState → Nat
  | .off => 0 | .keep => 1 | .reset => 2 | .load => 3 | .inert => 4 | .standby => 5
  | .wind => 6 | .lead => 7 | .follow => 8 | .holdover => 9 | .drain => 10 | .inspect => 11

/-- LEAD, FOLLOW and HOLDOVER are the running states (R130). -/
def DevState.running : DevState → Bool
  | .lead | .follow | .holdover => true
  | _ => false

/-- The states in which resources are awake one by one (R130, power-domain table). -/
def DevState.active : DevState → Bool
  | .wind | .lead | .follow | .holdover | .drain => true
  | _ => false

/-- The states in which the timebase runs (R54, R447). -/
def DevState.timed : DevState → Bool
  | .standby | .wind | .lead | .follow | .holdover | .drain | .inspect => true
  | _ => false

/-- The states in which the observer port answers: every one but OFF and KEEP. -/
def DevState.powered : DevState → Bool
  | .off | .keep => false
  | _ => true

/-- The present device state. -/
abbrev State.dev (s : State) : DevState := s.pwr.state

/-- TT_NS as a number. -/
def State.now (s : State) : Nat := s.clock.ns.toNat

/-- Nanoseconds run since the timebase started. -/
def State.elapsed (s : State) : Nat := s.clock.elapsed

/-- An integer brought nearer to 0 by at most `n`. -/
def towardsZero (x : Int) (n : Nat) : Int := if 0 ≤ x then max 0 (x - n) else min 0 (x + n)

/-- Time passes to an instant of TT: TT_NS takes it when it lies ahead and the timebase runs (R54, R57); it never
runs backwards (DESIGN CHOICE, notes/assumptions/3). The phase target of OBSERVER, source code 4, is approached at
TB_SLEW_CTL.rate, 10⁻⁹ ns in each ns for 1 ns/s (R57, R67). -/
def State.passTo (s : State) (t : TT) : State :=
  if s.dev.timed && decide (s.now < t.toNat) then
    let d := t.toNat - s.now
    let go := if s.g TB_STAT_src = 4 then towardsZero s.tb.phaseTarget (s.g TB_SLEW_CTL_rate * d) else s.tb.phaseTarget
    { s with
      clock := { s.clock with ns := t, sub := 0, elapsed := s.elapsed + d }, tb := { s.tb with phaseTarget := go } }
  else s

/-- Whether KCLK is locked: it runs in LOAD, and from its wind-up on in the states in which resources run (power-domain
table, R136). -/
def State.kclkLocked (s : State) : Bool :=
  s.dev == .load || (s.dev.active && decide (s.pwr.kclkAt ≤ s.elapsed))

/-- Whether FPLL is locked, 4.0 µs after its wake on entry to WIND; an image without a FABRIC section leaves it stopped
(R138, R142, R156). -/
def State.fpllLocked (s : State) : Bool :=
  s.cfg.hasFabric && s.dev.active && decide (s.pwr.windAt + 4000 ≤ s.elapsed)

/-- Whether the pad latches of a bank hold its pads: GPIO banks PA–PD are 0–3, fabric I/O banks 4–7. On entry to WIND the
banks release in this order, one per cue-engine cycle of 2.5 ns (R147, R148, R437, wake sequence). -/
def State.bankHeld (s : State) (b : Nat) : Bool :=
  (s.pwr.latch.lookup b).isSome &&
    (s.dev == .standby || (s.dev.active && decide (s.elapsed < s.pwr.releaseAt + (5 * b + 1) / 2)))

/-- Whether the pads of a bank show what is configured: they leave quiet, or their latches, bank by bank (R437). -/
def State.bankLive (s : State) (b : Nat) : Bool :=
  s.dev.active && decide (s.pwr.releaseAt + (5 * b + 1) / 2 ≤ s.elapsed)

/-- Whether every bank has left quiet or its latches, as it has before any cue takes effect (R148, R437). -/
def State.banksLive (s : State) : Bool := s.bankLive 7

/-- One microsecond in ns. -/
def usNs : Nat := 1000

/-- One millisecond in ns. -/
def msNs : Nat := 1000000

/-- One second in ns. -/
def secNs : Nat := 1000000000

/-! ### Event records -/

/-- Severity of an event code (R449): 0 INFO, 1 NOTICE, 2 FAULT, 3 VIOLATION. -/
def severityOf (code : Nat) : Nat :=
  if [0x00, 0x01, 0x02, 0x12, 0x14, 0x19, 0x1C, 0x2A, 0x31, 0x32].contains code then 0
  else if [0x03, 0x04, 0x1E, 0x24, 0x2B, 0x2C, 0x33].contains code then 2
  else if code = 0x3C then 3
  else 1

/-- The order of records in the ring (R42, R446): cause time, code, service byte, detail. -/
def LogRec.before (a b : LogRec) : Bool :=
  if a.cause ≠ b.cause then a.cause < b.cause
  else if a.code ≠ b.code then a.code < b.code
  else if a.service ≠ b.service then a.service < b.service
  else a.detail.toNat < b.detail.toNat

/-- A record placed among those of the commit stage, behind every one that goes before it. -/
def logInsert (r : LogRec) : List LogRec → List LogRec
  | [] => [r]
  | x :: xs => if r.before x then r :: x :: xs else x :: logInsert r xs

/-- The four words of a committed record (R516). -/
def LogRec.words (r : LogRec) : W32 × W32 × W32 × W32 :=
  let tt := BitVec.ofNat 64 r.cause
  (tt.truncate 32, (tt >>> 32).truncate 32, r.detail,
    BitVec.ofNat 32 (r.service % 256 * 2 ^ 16 + r.severity % 4 * 2 ^ 8 + r.code % 64))

/-- One record goes into the ring at EL_HEAD; a slot that EL_TAIL has not passed is counted lost (R451). -/
def State.commitRec (s : State) (r : LogRec) : State :=
  let head := s.rd EL_HEAD
  let slot := head.toNat % 4096
  let (w0, w1, w2, w3) := r.words
  let s := if 4096 ≤ (head - s.rd EL_TAIL).toNat then
      (s.inc (cnt16 EL_LOST_CNT)).wr EL_TAIL (s.rd EL_TAIL + 1) else s
  let s := (((s.wr (RING_W slot 0) w0).wr (RING_W slot 1) w1).wr (RING_W slot 2) w2).wr (RING_W slot 3) w3
  (s.wr EL_HEAD (head + 1)).incWrap (word (EL_SEV_CNT r.severity))

/-- An event record of a code arises with its service byte, detail and cause time: counted by code, filtered by
severity, refused for room, else held in the commit stage; in INERT it commits at once (R446–R448). -/
def State.event (s : State) (code service : Nat) (detail : W32) (cause : Nat) : State :=
  if !s.dev.powered then s else
  let sev := severityOf code
  let cause := if s.dev.timed then cause else 0
  let s := s.inc (cnt16 (EL_CODE_CNT code))
  if sev < 3 && sev < s.g EL_CTL_min_sev then s.inc (cnt16 EL_FILTER_CNT)
  else if 1024 ≤ s.log.stage.length then s.inc (cnt16 EL_FULL_CNT)
  else
    let r : LogRec := ⟨cause, code, service, sev, detail, s.now⟩
    if s.dev = .inert then s.commitRec r
    else
      let s := { s with log := { s.log with stage := logInsert r s.log.stage } }
      (s.raise ⟨EL_PEND_MAX, 10, 0⟩ s.log.stage.length).raise (cnt16 EL_LAG_MAX) ((s.now - cause) / usNs)

/-- An event record whose cause is the present instant. -/
def State.eventNow (s : State) (code service : Nat) (detail : W32) : State := s.event code service detail s.now

/-! ### Ownership -/

/-- Owner of a resource of a claim kind (R342, R344). -/
inductive Owner where
  | svc (n : Nat)
  | pool
  deriving DecidableEq, Repr

/-- The owner that the claims give an index of a kind (R342). -/
def State.ownerOf (s : State) (kind idx : Nat) : Owner :=
  match s.claims.find? (fun c => c.1 == kind && decide (c.2.1 ≤ idx) && decide (idx ≤ c.2.2.1)) with
  | some c => .svc c.2.2.2
  | none => .pool

/-- The service byte of a record about a resource: its owner, 0 for the pool (R449). -/
def Owner.byte : Owner → Nat
  | .svc n => n
  | .pool => 0

/-- Whether a setting of a resource may name another resource (R345, R346). -/
def Owner.mayName : Owner → Owner → Bool
  | _, .pool => true
  | .svc a, .svc b => a == b
  | .pool, .svc _ => false

/-- The claim kinds (claim table of the service chapter). -/
def kLpRx : Nat := 1
def kLpTx : Nat := 2
def kQuad : Nat := 3
def kPin : Nat := 4
def kBus : Nat := 5
def kWm : Nat := 6
def kBt : Nat := 7
def kRg : Nat := 8
def kGpio : Nat := 9
def kPel : Nat := 10
def kBr : Nat := 11
def kFb : Nat := 12

/-- Number of resources of a claim kind, 0 for an unlisted kind. -/
def kindCount (k : Nat) : Nat :=
  match k with
  | 1 => 32 | 2 => 32 | 3 => 12 | 4 => 96 | 5 => 16 | 6 => 96 | 7 => 32 | 8 => 16 | 9 => 64 | 10 => 16
  | 11 => 128 | 12 => 32 | _ => 0

/-! ### Resources of the sleep classes -/

/-- Resources by their bit in the SYS_KAn layout: line ports from 0, cells from 32, engines from 80, Axlink ports
from 96, frame memory, and the PLLs. -/
def rLp (n : Nat) : Nat := n
def rAc (n : Nat) : Nat := 32 + n
def rSe (n : Nat) : Nat := 80 + n
def rAx (n : Nat) : Nat := 96 + n
def rFm : Nat := 100
def rLpll (k : Nat) : Nat := 101 + k
def rCpll (k : Nat) : Nat := 109 + k
def rEpll : Nat := 121
def rMpll : Nat := 122
def rXpll (k : Nat) : Nat := 123 + k

/-- The sleep class of a resource (R142). -/
def classOf (r : Nat) : Nat :=
  if r < 32 then 0 else if r < 80 then 1 else if r < 96 then 2 else if r < 100 then 4 else if r = 100 then 3 else 5

/-- The PLL on which a resource depends (dependency table, R24). -/
def pllOf (r : Nat) : Option Nat :=
  if r < 32 then some (rLpll (r / 4))
  else if r < 80 then some (rCpll ((r - 32) / 4))
  else if r < 96 then some rEpll
  else if r < 100 then some (rXpll (r - 96))
  else if r = 100 then some rMpll
  else none

/-- The resources that depend on a PLL. -/
def dependants (r : Nat) : List Nat :=
  if r < 101 then []
  else if r < 109 then (List.range 4).map (fun i => 4 * (r - 101) + i)
  else if r < 121 then (List.range 4).map (fun i => 32 + 4 * (r - 109) + i)
  else if r = 121 then (List.range 16).map rSe
  else if r = 122 then [rFm]
  else [rAx (r - 123)]

/-- A resource asleep, as after reset. -/
def ResSt.initial : ResSt := ⟨.asleep, none, 0, none, none, 0⟩

/-- The power state of a resource. -/
def State.res (s : State) (r : Nat) : ResSt := s.pwr.res.get ResSt.initial r

/-- The state with a resource's power state set. -/
def State.setRes (s : State) (r : Nat) (x : ResSt) : State :=
  { s with pwr := { s.pwr with res := s.pwr.res.set r x } }

/-- Whether a resource is ready (R138). -/
def State.isReady (s : State) (r : Nat) : Bool := (s.res r).power == .ready

/-- Whether a resource is awake: from its wake, winding up included, until its domain is switched off (R156). -/
def State.isAwake (s : State) (r : Nat) : Bool := (s.res r).power != .asleep

/-- Whether a resource winds up or is ready, and does not go to sleep. -/
def State.isUp (s : State) (r : Nat) : Bool :=
  match (s.res r).power with
  | .winding _ _ | .ready => true
  | _ => false

/-- Whether some queued cue claims a resource (R103). -/
def State.isClaimed (s : State) (r : Nat) : Bool := s.cue.entries.any (fun e => e.claims.contains r)

/-- Delay d of a sleep class in ms (R144). -/
def State.sleepDelay (s : State) (k : Nat) : Nat := s.g (SYS_SLEEP_DLY_d k)

/-- One resource is woken: a sleeping domain closes its switch, a domain going to sleep turns back; a wake within
4 × d of a sleep is a short nap (R138, R144). -/
def State.wakeOne (s : State) (r : Nat) : State :=
  let x := s.res r
  let nap := match x.fellAt with
    | some t => decide (s.elapsed - t < 4 * s.sleepDelay (classOf r) * msNs)
    | none => false
  let count (s : State) : State := s.when nap (fun s =>
    let s := s.inc (cnt16 SYS_NAP_CNT)
    { s with pwr := { s.pwr with naps := (classOf r, s.elapsed) :: s.pwr.naps } })
  match x.power with
  | .asleep => count (s.setRes r { x with power := .winding s.elapsed false, fellAt := none, idleFrom := none })
  | .switching _ => count (s.setRes r { x with power := .winding s.elapsed true, fellAt := none, idleFrom := none })
  | _ => s

/-- The descriptor of a task. -/
def State.task (s : State) (t : TaskId) : Option TaskDesc := s.se.tasks.find? (fun d => d.id == t)

/-- Whether a task is not a Direct one: one of its inputs or outputs is a stream, held in frame memory (R47, R283). -/
def TaskDesc.usesFm (t : TaskDesc) : Bool := t.ins.any (fun x => x.1 == 2) || t.outs.any (fun x => x.1 == 2)

/-- Whether an engine depends on frame memory: it holds the descriptor of a task that is not Direct, whether or not that
task is enabled (dependency table, R24; DESIGN CHOICE, notes/assumptions/64). -/
def State.engineNeedsFm (s : State) (n : Nat) : Bool := s.se.tasks.any (fun t => t.id.1 == n && t.usesFm)

/-- The fast-clocked resources on which a resource depends (dependency table, R24): its PLL, and for an engine with
tasks that are not Direct frame memory with its PLL. -/
def State.dependencies (s : State) (r : Nat) : List Nat :=
  (pllOf r).toList ++ (if 80 ≤ r ∧ r < 96 ∧ s.engineNeedsFm (r - 80) then [rFm, rMpll] else [])

/-- The resources woken with a target: itself and its dependencies (R24). -/
def State.wakeSet (s : State) (r : Nat) : List Nat := r :: s.dependencies r

/-- A target is woken with every dependency that is not running, all at one instant (R24). Nothing wakes outside
the states in which resources run. -/
def State.wake (s : State) (r : Nat) : State :=
  if s.dev.active then s.each (s.wakeSet r) (fun s x => s.wakeOne x) else s

end Sys2Proof.Machine
end

