-- ==== Sys2Proof/Machine/Crypto.lean ====
section
/-! DEFINITION. The cryptographic functions that R174 and R176 name by their standards: SHA-384 (FIPS 180-4), AES-256
(FIPS 197), GCM decryption (SP 800-38D) and the verification of an ECDSA P-384 signature (FIPS 186-5). The spec cites the
standards and restates none of them (PRESUMED, notes/assumptions/67). -/

namespace Sys2Proof.Machine

/-- The number that bytes spell, most significant first (R168: the cryptographic fields are big-endian). -/
def bigNum (b : List Byte) : Nat := b.foldl (fun n x => 256 * n + x.toNat) 0

/-- `n` bytes that spell a number, most significant first. -/
def bigBytes (n x : Nat) : List Byte := (List.range n).map (fun i => BitVec.ofNat 8 (x / 256 ^ (n - 1 - i)))

/-! ### SHA-384 -/

/-- The 80 round constants (FIPS 180-4, 4.2.3). -/
def shaK : List (BitVec 64) :=
  [ 0x428a2f98d728ae22, 0x7137449123ef65cd, 0xb5c0fbcfec4d3b2f, 0xe9b5dba58189dbbc, 0x3956c25bf348b538,
    0x59f111f1b605d019, 0x923f82a4af194f9b, 0xab1c5ed5da6d8118, 0xd807aa98a3030242, 0x12835b0145706fbe,
    0x243185be4ee4b28c, 0x550c7dc3d5ffb4e2, 0x72be5d74f27b896f, 0x80deb1fe3b1696b1, 0x9bdc06a725c71235,
    0xc19bf174cf692694, 0xe49b69c19ef14ad2, 0xefbe4786384f25e3, 0x0fc19dc68b8cd5b5, 0x240ca1cc77ac9c65 ] ++
  [ 0x2de92c6f592b0275, 0x4a7484aa6ea6e483, 0x5cb0a9dcbd41fbd4, 0x76f988da831153b5, 0x983e5152ee66dfab,
    0xa831c66d2db43210, 0xb00327c898fb213f, 0xbf597fc7beef0ee4, 0xc6e00bf33da88fc2, 0xd5a79147930aa725,
    0x06ca6351e003826f, 0x142929670a0e6e70, 0x27b70a8546d22ffc, 0x2e1b21385c26c926, 0x4d2c6dfc5ac42aed,
    0x53380d139d95b3df, 0x650a73548baf63de, 0x766a0abb3c77b2a8, 0x81c2c92e47edaee6, 0x92722c851482353b ] ++
  [ 0xa2bfe8a14cf10364, 0xa81a664bbc423001, 0xc24b8b70d0f89791, 0xc76c51a30654be30, 0xd192e819d6ef5218,
    0xd69906245565a910, 0xf40e35855771202a, 0x106aa07032bbd1b8, 0x19a4c116b8d2d0c8, 0x1e376c085141ab53,
    0x2748774cdf8eeb99, 0x34b0bcb5e19b48a8, 0x391c0cb3c5c95a63, 0x4ed8aa4ae3418acb, 0x5b9cca4f7763e373,
    0x682e6ff3d6b2b8a3, 0x748f82ee5defb2fc, 0x78a5636f43172f60, 0x84c87814a1f0ab72, 0x8cc702081a6439ec ] ++
  [ 0x90befffa23631e28, 0xa4506cebde82bde9, 0xbef9a3f7b2c67915, 0xc67178f2e372532b, 0xca273eceea26619c,
    0xd186b8c721c0c207, 0xeada7dd6cde0eb1e, 0xf57d4f7fee6ed178, 0x06f067aa72176fba, 0x0a637dc5a2c898a6,
    0x113f9804bef90dae, 0x1b710b35131c471b, 0x28db77f523047d84, 0x32caab7b40c72493, 0x3c9ebe0a15c9bebc,
    0x431d67c49c100d4c, 0x4cc5d4becb3e42b6, 0x597f299cfc657e2a, 0x5fcb6fab3ad6faec, 0x6c44198c4a475817 ]

/-- The initial hash value of SHA-384 (FIPS 180-4, 5.3.4). -/
def shaInit : List (BitVec 64) :=
  [ 0xcbbb9d5dc1059ed8, 0x629a292a367cd507, 0x9159015a3070dd17, 0x152fecd8f70e5939, 0x67332667ffc00b31,
    0x8eb44a8768581511, 0xdb0c2e0d64f98fa7, 0x47b5481dbefa4fa4 ]

/-- The functions of a round (FIPS 180-4, 4.1.3). -/
def shaSum0 (x : BitVec 64) : BitVec 64 := x.rotateRight 28 ^^^ x.rotateRight 34 ^^^ x.rotateRight 39
def shaSum1 (x : BitVec 64) : BitVec 64 := x.rotateRight 14 ^^^ x.rotateRight 18 ^^^ x.rotateRight 41
def shaLow0 (x : BitVec 64) : BitVec 64 := x.rotateRight 1 ^^^ x.rotateRight 8 ^^^ (x >>> 7)
def shaLow1 (x : BitVec 64) : BitVec 64 := x.rotateRight 19 ^^^ x.rotateRight 61 ^^^ (x >>> 6)

/-- One round on the eight working variables, with the next 16 words of the message schedule beside them. -/
def shaRound (v : List (BitVec 64) × List (BitVec 64)) (k : BitVec 64) : List (BitVec 64) × List (BitVec 64) :=
  match v with
  | ([a, b, c, d, e, f, g, h], w) =>
    let w0 := w.headD 0
    let t1 := h + shaSum1 e + ((e &&& f) ^^^ (~~~e &&& g)) + k + w0
    let t2 := shaSum0 a + ((a &&& b) ^^^ (a &&& c) ^^^ (b &&& c))
    ([t1 + t2, a, b, c, d + t1, e, f, g],
      w.tail ++ [shaLow1 (w.getD 14 0) + w.getD 9 0 + shaLow0 (w.getD 1 0) + w0])
  | v => v

/-- One 128-byte block is taken into the hash value (FIPS 180-4, 6.4.2). -/
def shaBlock (h : List (BitVec 64)) (b : List Byte) : List (BitVec 64) :=
  let w := (pieces 8 16 b).map (fun x => BitVec.ofNat 64 (bigNum x))
  List.zipWith (· + ·) h (shaK.foldl shaRound (h, w)).1

/-- The message with its padding (FIPS 180-4, 5.1.2). -/
def shaPad (m : List Byte) : List Byte :=
  m ++ [0x80] ++ List.replicate ((239 - m.length % 128) % 128) 0 ++ bigBytes 16 (8 * m.length)

/-- SHA-384 of a byte string. -/
def sha384 (m : List Byte) : List Byte :=
  let p := shaPad m
  (((pieces 128 (p.length / 128 + 1) p).foldl shaBlock shaInit).take 6).flatMap (fun x => bigBytes 8 x.toNat)

/-! ### AES-256 -/

/-- Multiplication by x in GF(2⁸) (FIPS 197, 4.2). -/
def gfX (a : Byte) : Byte := if a.getLsbD 7 then (a <<< 1) ^^^ 0x1B else a <<< 1

/-- Multiplication in GF(2⁸). -/
def gfMul (a b : Byte) : Byte :=
  ((List.range 8).foldl (fun (r : Byte × Byte) i => (if b.getLsbD i then r.1 ^^^ r.2 else r.1, gfX r.2)) (0, a)).1

/-- The inverse in GF(2⁸), 0 for 0: the power 254. -/
def gfInv (a : Byte) : Byte := (List.range 7).foldl (fun r _ => gfMul (gfMul r r) a) 1 |> fun r => gfMul r r

/-- SBOX of a byte (FIPS 197, 5.1.1). -/
def sboxOf (a : Byte) : Byte :=
  let b := gfInv a
  b ^^^ b.rotateLeft 1 ^^^ b.rotateLeft 2 ^^^ b.rotateLeft 3 ^^^ b.rotateLeft 4 ^^^ 0x63

/-- The table of SBOX. -/
def sboxTable : List Byte := (List.range 256).map (fun i => sboxOf (BitVec.ofNat 8 i))

/-- SBOX read from the table. -/
def sbox (a : Byte) : Byte := sboxTable.getD a.toNat 0

/-- Bytes added in GF(2⁸). -/
def xorBytes (a b : List Byte) : List Byte := List.zipWith (· ^^^ ·) a b

/-- The next word of the key schedule of AES-256, `i` counting from 8 (FIPS 197, 5.2); the words stand latest first. -/
def keyNext (w : List (List Byte)) (i : Nat) : List (List Byte) :=
  let t := w.headD []
  let t := if i % 8 = 0 then
      let r := (t.drop 1 ++ t.take 1).map sbox
      xorBytes r [(List.range (i / 8 - 1)).foldl (fun c _ => gfX c) 1, 0, 0, 0]
    else if i % 8 = 4 then t.map sbox else t
  xorBytes (w.getD 7 []) t :: w

/-- The 15 round keys of a 32-byte key. -/
def roundKeys (key : List Byte) : List (List Byte) :=
  let w := ((List.range 52).foldl (fun w i => keyNext w (i + 8)) (pieces 4 8 key).reverse).reverse
  (pieces 4 15 w).map (·.flatten)

/-- ShiftRows of a state held column by column (FIPS 197, 5.1.2). -/
def shiftRows (s : List Byte) : List Byte := (List.range 16).map (fun i => s.getD ((5 * i) % 16) 0)

/-- MixColumns (FIPS 197, 5.1.3). -/
def mixColumns (s : List Byte) : List Byte :=
  (pieces 4 4 s).flatMap (fun c => (List.range 4).map (fun i =>
    gfX (c.getD i 0) ^^^ gfX (c.getD ((i + 1) % 4) 0) ^^^ c.getD ((i + 1) % 4) 0 ^^^ c.getD ((i + 2) % 4) 0 ^^^
      c.getD ((i + 3) % 4) 0))

/-- AES-256 of one 16-byte block under the round keys of a key (FIPS 197, 5.1). -/
def aesBlock (keys : List (List Byte)) (b : List Byte) : List Byte :=
  let round (s : List Byte) (k : List Byte) : List Byte := xorBytes (mixColumns (shiftRows (s.map sbox))) k
  let s := ((keys.drop 1).take 13).foldl round (xorBytes b (keys.headD []))
  xorBytes (shiftRows (s.map sbox)) (keys.getD 14 [])

/-- The key check value (R176): the first 16 bits of the encryption of an all-zero block. -/
def keyCheckValue (key : List Byte) : Nat := bigNum ((aesBlock (roundKeys key) (List.replicate 16 0)).take 2)

/-! ### GCM -/

/-- Multiplication of blocks (SP 800-38D, 6.3). -/
def ghashMul (x y : BitVec 128) : BitVec 128 :=
  ((List.range 128).foldl (fun (r : BitVec 128 × BitVec 128) i =>
    (if x.getMsbD i then r.1 ^^^ r.2 else r.1,
      if r.2.getLsbD 0 then (r.2 >>> 1) ^^^ (0xE1#128 <<< 120) else r.2 >>> 1)) (0, y)).1

/-- GHASH of whole blocks (SP 800-38D, 6.4). -/
def ghash (h : BitVec 128) (l : List (List Byte)) : BitVec 128 :=
  l.foldl (fun y b => ghashMul (y ^^^ BitVec.ofNat 128 (bigNum b)) h) 0

/-- A byte string cut into blocks of 16, the last filled with zeros. -/
def blocksOf (b : List Byte) : List (List Byte) :=
  (pieces 16 (b.length / 16 + 1) b).map (fun x => x ++ List.replicate (16 - x.length) 0)

/-- AES-256-GCM decryption with a 96-bit IV and a 128-bit tag (SP 800-38D, 7.2): the plaintext, or none where the tag
does not verify. -/
def gcmDecrypt (key iv aad text tag : List Byte) : Option (List Byte) :=
  let keys := roundKeys key
  let counter (n : Nat) : List Byte := aesBlock keys (iv ++ bigBytes 4 n)
  let h := BitVec.ofNat 128 (bigNum (aesBlock keys (List.replicate 16 0)))
  let sum := ghash h (blocksOf aad ++ blocksOf text ++ [bigBytes 8 (8 * aad.length) ++ bigBytes 8 (8 * text.length)])
  if xorBytes (bigBytes 16 sum.toNat) (counter 1) = tag then
    some ((pieces 16 (text.length / 16 + 1) text).zipIdx.flatMap (fun x => xorBytes x.1 (counter (x.2 + 2))))
  else none

/-! ### ECDSA P-384 -/

/-- The prime, the order and the coefficient of the curve, and its base point (FIPS 186-5 by SP 800-186). -/
def ecP : Nat := 2 ^ 384 - 2 ^ 128 - 2 ^ 96 + 2 ^ 32 - 1
def ecN : Nat := 0xffffffffffffffffffffffffffffffffffffffffffffffffc7634d81f4372ddf581a0db248b0a77aecec196accc52973
def ecB : Nat := 0xb3312fa7e23ee7e4988e056be3f82d19181d9c6efe8141120314088f5013875ac656398d8a2ed19d2a85c8edd3ec2aef
def ecG : Option (Nat × Nat) := some
  (0xaa87ca22be8b05378eb1c71ef320ad746e1d3b628ba79b9859f741e082542a385502f25dbf55296c3a545e3872760ab7,
   0x3617de4a96262c6f5d9e98bf9292dc29f8f41dbd289a147ce9da3113b5f0b8c00a60b1ce1d7e819d7a431d7c90ea0e5f)

/-- A power modulo `m`, the exponent of at most `fuel` bits. -/
def powMod (m : Nat) : Nat → Nat → Nat → Nat
  | 0, _, _ => 1 % m
  | f + 1, b, e => (if e % 2 = 1 then b else 1) * powMod m f (b * b % m) (e / 2) % m

/-- The inverse modulo a prime of at most 384 bits. -/
def invMod (m x : Nat) : Nat := powMod m 384 (x % m) (m - 2)

/-- Addition of points of the curve, none being the point at infinity. -/
def ecAdd : Option (Nat × Nat) → Option (Nat × Nat) → Option (Nat × Nat)
  | none, q => q
  | p, none => p
  | some (x, y), some (u, v) =>
    if x = u ∧ (y + v) % ecP = 0 then none else
    let l := if x = u then (3 * x * x + (ecP - 3)) * invMod ecP (2 * y) % ecP
      else (v + (ecP - y)) * invMod ecP (u + (ecP - x)) % ecP
    let z := (l * l + (ecP - x) + (ecP - u)) % ecP
    some (z, (l * (x + (ecP - z)) + (ecP - y)) % ecP)

/-- A multiple of a point, the factor of at most `fuel` bits. -/
def ecMul : Nat → Nat → Option (Nat × Nat) → Option (Nat × Nat)
  | 0, _, _ => none
  | f + 1, k, p => ecAdd (if k % 2 = 1 then p else none) (ecMul f (k / 2) (ecAdd p p))

/-- Whether a signature, r then s, over a digest verifies under a public key, Qx then Qy (R168, R174; FIPS 186-5,
6.4.2). -/
def ecdsaVerifies (key digest sig : List Byte) : Bool :=
  let x := bigNum (key.take 48)
  let y := bigNum (key.drop 48)
  let r := bigNum (sig.take 48)
  let s := bigNum (sig.drop 48)
  let w := invMod ecN s
  decide (x < ecP) && decide (y < ecP) && (y * y) % ecP == (x * x * x + (ecP - 3) * x + ecB) % ecP &&
  decide (1 ≤ r) && decide (r < ecN) && decide (1 ≤ s) && decide (s < ecN) &&
  (match ecAdd (ecMul 384 (bigNum digest * w % ecN) ecG) (ecMul 384 (r * w % ecN) (some (x, y))) with
   | some (u, _) => u % ecN == r
   | none => false)

end Sys2Proof.Machine
end

