-- ==== Sys2Proof/Machine/AxSend.lean ====
section
/-! DEFINITION. Putting frames on an Axlink port: sequence numbers, credits and the store of unacknowledged frames
(R368–R372), and the routes of a troupe (R382). -/

namespace Sys2Proof.Machine

/-- Class codes of R368. -/
def clTime : Nat := 0
def clCue : Nat := 1
def clIso : Nat := 2
def clBulk : Nat := 3
def clMgmt : Nat := 4
def clLink : Nat := 5

/-- A port that is not up and has seen nothing. -/
def PortSt.initial : PortSt :=
  { helloRx := 0, helloAck := 0, lastRx := 0, alignFrom := 0, advert := none, txSeq := [], rxSeq := [],
    nakSent := [], unacked := [], resends := [], ackAt := [], held := [], owed := [], exchange := none,
    okRun := 0, missRun := 0, delays := [], heldSeen := false, txBytes := 0, rxBytes := 0 }

/-- An ISO channel that neither sends nor receives a unit. -/
def IsoSt.initial : IsoSt := { inUnit := false, line := 0, bytes := 0, skip := false, queue := [], spent := 0 }

/-- An Axlink port. -/
def State.port (s : State) (p : Nat) : PortSt := s.ax.ports.get PortSt.initial p

/-- The state with an Axlink port set. -/
def State.setPort (s : State) (p : Nat) (x : PortSt) : State :=
  { s with ax := { s.ax with ports := s.ax.ports.set p x } }

/-- Whether a port is UP (R365). -/
def State.portUp (s : State) (p : Nat) : Bool := s.g (AX_STAT_state p) == 4

/-- Whether the device is a member of a troupe: KEEP_MEMBER.valid, and not refused by the lead (R379, R383). -/
def State.isMember (s : State) : Bool := s.bit KEEP_MEMBER_valid && !s.ax.refused

/-- The member ID of KEEP_MEMBER. -/
def State.memberId (s : State) : MemberId := BitVec.ofNat 12 (KEEP_MEMBER_id.of (s.keepRd 0))

/-- The lead priority of KEEP_MEMBER. -/
def State.memberPrio (s : State) : Nat := KEEP_MEMBER_priority.of (s.keepRd 0)

/-- Whether a class is retransmitted (R369). -/
def retransmitted (cls : Nat) : Bool := decide (1 ≤ cls) && decide (cls ≤ 4)

/-- The credit field of a class, if it is credited (R369, R372). -/
def creditOf (p cls : Nat) : Option Fld :=
  if cls = clCue then some (AX_CREDIT_cue p)
  else if cls = clMgmt then some (AX_CREDIT_mgmt p)
  else if cls = clBulk then some (AX_CREDIT_bulk p)
  else none

/-- The bytes of a frame: header, payload and trailer (R368). -/
def AxFrame.size (f : AxFrame) : Nat := 16 + 4 * f.body.length + 8

/-- The credit a frame takes: one frame of CUE, or the units of 64 bytes that the whole frame fills (R369, R372). -/
def AxFrame.cost (f : AxFrame) : Nat := if f.cls = clCue then 1 else (f.size + 63) / 64

/-- Words of a payload, which is a multiple of 8 bytes (R368). -/
def evenWords (l : List W32) : List W32 := if l.length % 2 = 0 then l else l ++ [0]

/-- The bytes of a frame on the wire. -/
def State.sentBytes (s : State) (p n : Nat) : State := s.setPort p { s.port p with txBytes := (s.port p).txBytes + n }

/-- A frame goes on the wire: a retransmitted class takes its next seq and the frame is kept until acknowledged. -/
def State.putOnWire (s : State) (p : Nat) (f : AxFrame) : State :=
  let x := s.port p
  let f := if retransmitted f.cls then { f with seq := x.txSeq.get 0 f.cls } else f
  let x := if retransmitted f.cls then
      let kept := x.unacked.get [] f.cls
      let x := { x with txSeq := x.txSeq.set f.cls ((f.seq + 1) % 65536),
                        unacked := x.unacked.set f.cls (kept ++ [f]) }
      if kept.isEmpty then { x with ackAt := x.ackAt.set f.cls s.elapsed, resends := x.resends.set f.cls 0 } else x
    else x
  let s := s.setPort p x
  let s := ({ s with ax := { s.ax with wire := s.ax.wire ++ [(p, f)] } } : State).sentBytes p f.size
  s.incWrap (word (AX_TX_FRAME_CNT p))

/-- Whether a frame may go now: credit for the whole of it, fewer than 64 frames of its class unacknowledged, and
none of its class held before it (R370, R372). -/
def State.mayGo (s : State) (p : Nat) (f : AxFrame) : Bool :=
  let x := s.port p
  (match creditOf p f.cls with | some c => decide (f.cost ≤ s.g c) | none => true) &&
    (!retransmitted f.cls || decide ((x.unacked.get [] f.cls).length < 64))

/-- A frame is sent on a port that is UP: at once, or held in order until credit allows it (R372). On a port that
is not UP nothing is sent. -/
def State.sendFrame (s : State) (p : Nat) (f : AxFrame) : State :=
  if !s.portUp p then s else
  let x := s.port p
  if (x.held.get [] f.cls).isEmpty && s.mayGo p f then
    let s := match creditOf p f.cls with
      | some c => s.p c (s.g c - f.cost)
      | none => s
    s.putOnWire p f
  else s.setPort p { x with held := x.held.set f.cls (x.held.get [] f.cls ++ [f]),
                            heldSeen := x.heldSeen || (creditOf p f.cls).isSome }

/-- The held frames of a class that may now go are sent in order (R372). `n` bounds how many. -/
def State.sendHeld (s : State) (p cls : Nat) : Nat → State
  | 0 => s
  | n + 1 =>
    let x := s.port p
    match x.held.get [] cls with
    | [] => s
    | f :: rest =>
      if s.mayGo p f then
        let s := s.setPort p { x with held := x.held.set cls rest }
        let s := match creditOf p cls with
          | some c => s.p c (s.g c - f.cost)
          | none => s
        (s.putOnWire p f).sendHeld p cls n
      else s

/-- A frame of this member. -/
def State.frame (s : State) (cls typ : Nat) (dest : MemberId) (body : List W32) : AxFrame :=
  { cls := cls, typ := typ, replay := false, retx := false, source := s.memberId, dest := dest, bcast := false,
    seq := 0, channel := 0, offset := 0, body := evenWords body }

/-- The port on which a member routes a frame addressed to another: the recorded port, else its parent port
(R382). -/
def State.routeTo (s : State) (m : MemberId) : Option Nat :=
  match s.ax.routes.find? (fun r => r.1 == m) with
  | some (_, p, _) => some p
  | none => s.ax.parent

/-- The eight words of a cue record in record byte order (R87). -/
def cueWords (r : CueRec) : List W32 :=
  [r.launch.truncate 32, (r.launch >>> 32).truncate 32, r.target,
   (r.eventSrc ++ r.flags ++ r.service ++ r.action : BitVec 32), r.a, r.b,
   (r.origin ++ r.preroll : BitVec 32), r.seq]

/-- The cue record that eight words spell (R87); missing words read as 0. -/
def cueOfWords (w : List W32) : CueRec :=
  let g (i : Nat) : W32 := w.getD i 0
  { launch := g 1 ++ g 0, target := g 2, action := (g 3).extractLsb' 0 8, service := (g 3).extractLsb' 8 8,
    flags := (g 3).extractLsb' 16 8, eventSrc := (g 3).extractLsb' 24 8, a := g 4, b := g 5,
    preroll := (g 6).extractLsb' 0 16, origin := (g 6).extractLsb' 16 16, seq := g 7 }

/-- Whether a port is a tree port (R381). -/
def State.treePort (s : State) (p : Nat) : Bool := s.portUp p && s.bit (AX_STAT_tree p)

/-- A broadcast cue goes out in a CUE frame on every tree port but one, and is kept for replay for 50 µs, the last
64 of them (R388, R389). An isolated device forwards none (R379). -/
def State.floodCue (s : State) (r : CueRec) (but : Option Nat) : State :=
  if !s.isMember then s else
  let s := s.each (List.range 4) (fun s p =>
    if s.treePort p && but != some p then
      s.sendFrame p { s.frame clCue 0 0 (cueWords r) with bcast := true, source := r.origin.truncate 12 }
    else s)
  { s with ax := { s.ax with replay := ((s.elapsed, r) :: s.ax.replay).take 64 } }

end Sys2Proof.Machine
end

