-- ==== Sys2Proof/Machine/Raster.lean ====
section
/-! DEFINITION. Raster formats (R76), the instants of frames, lines and samples (R77), and the windows of blanking
timers (R82, R83). -/

namespace Sys2Proof.Machine

/-- The levels of the TIME functions 0–4 at a TT (R422): a clock of `f` Hz is 1 in the half periods of even number, each begun
at its instant taken down to the whole nanosecond. -/
def timeLevels (t : Nat) : BitVec 5 :=
  let wclk (f : Nat) : Bool := ((t + 1) * (2 * f) - 1) / 1000000000 % 2 == 0
  let l := [decide (t % 1000000000 < 100000), wclk 48000, wclk 96000, wclk 192000, decide (t % 100 < 50)]
  BitVec.ofNat 5 (l.zipIdx.map (fun x => if x.1 then 2 ^ x.2 else 0)).sum

/-- A raster format of R76: code, frame rate m/n, lines total, samples per line total, active lines, active samples,
switching lines. -/
structure Format where
  code : Nat
  m : Nat
  n : Nat
  lines : Nat
  samples : Nat
  activeLines : Nat
  activeSamples : Nat
  switching : List Nat
  deriving DecidableEq, Repr

/-- The raster formats (R76). -/
def formats : List Format := [
⟨0x01, 30000, 1001, 525, 858, 487, 720, [10, 273]⟩,
  ⟨0x02, 25, 1, 625, 864, 576, 720, [6, 319]⟩,
  ⟨0x03, 50, 1, 750, 1980, 720, 1280, [7]⟩,
  ⟨0x04, 60000, 1001, 750, 1650, 720, 1280, [7]⟩,
  ⟨0x05, 60, 1, 750, 1650, 720, 1280, [7]⟩,
  ⟨0x06, 25, 1, 1125, 2640, 1080, 1920, [7, 569]⟩,
  ⟨0x07, 30000, 1001, 1125, 2200, 1080, 1920, [7, 569]⟩,
  ⟨0x08, 30, 1, 1125, 2200, 1080, 1920, [7, 569]⟩,
  ⟨0x09, 24000, 1001, 1125, 2750, 1080, 1920, [7]⟩,
  ⟨0x0A, 24, 1, 1125, 2750, 1080, 1920, [7]⟩,
  ⟨0x0B, 25, 1, 1125, 2640, 1080, 1920, [7]⟩,
  ⟨0x0C, 30000, 1001, 1125, 2200, 1080, 1920, [7]⟩,
  ⟨0x0D, 30, 1, 1125, 2200, 1080, 1920, [7]⟩,
  ⟨0x0E, 50, 1, 1125, 2640, 1080, 1920, [7]⟩,
  ⟨0x0F, 60000, 1001, 1125, 2200, 1080, 1920, [7]⟩,
  ⟨0x10, 60, 1, 1125, 2200, 1080, 1920, [7]⟩,
  ⟨0x11, 24000, 1001, 2250, 5500, 2160, 3840, [7]⟩,
  ⟨0x12, 24, 1, 2250, 5500, 2160, 3840, [7]⟩,
  ⟨0x13, 25, 1, 2250, 5280, 2160, 3840, [7]⟩,
  ⟨0x14, 30000, 1001, 2250, 4400, 2160, 3840, [7]⟩,
  ⟨0x15, 30, 1, 2250, 4400, 2160, 3840, [7]⟩,
  ⟨0x16, 50, 1, 2250, 5280, 2160, 3840, [7]⟩,
  ⟨0x17, 60000, 1001, 2250, 4400, 2160, 3840, [7]⟩,
  ⟨0x18, 60, 1, 2250, 4400, 2160, 3840, [7]⟩,
  ⟨0x19, 100, 1, 2250, 5280, 2160, 3840, [7]⟩,
  ⟨0x1A, 120000, 1001, 2250, 4400, 2160, 3840, [7]⟩,
  ⟨0x1B, 120, 1, 2250, 4400, 2160, 3840, [7]⟩]

/-- The format of a code; none for 0x00 and codes that R76 does not list. -/
def formatOf (code : Nat) : Option Format := formats.find? (fun f => f.code == code)

/-- Interlaced formats have a switching line in each field (R76, R94). -/
def Format.interlaced (f : Format) : Bool := f.switching.length == 2

/-- P of R77: the frame period is P / m ns. -/
def Format.p (f : Format) : Nat := f.n * 1000000000

/-- First line of field 2: a 1,125-line frame divides into 563 and 562 lines, the others alike (R85 example). -/
def Format.field2 (f : Format) : Nat := (f.lines + 1) / 2 + 1

/-- Frame period in whole ns, rounded down (R78). -/
def Format.periodNs (f : Format) : Nat := f.p / f.m

/-- Colour-frame length in frames of a reference format (R66). -/
def Format.colourFrames (f : Format) : Nat := if f.code = 1 then 2 else if f.code = 2 then 4 else 1

/-- The instant of sample `x` of line `l` (from 1) of frame `k`, before the offset, as a numerator over m·N·T. -/
def Format.instNum (f : Format) (k l x : Nat) : Nat :=
  (k * (f.lines * f.samples) + (l - 1) * f.samples + x) * f.p

/-- That instant in whole ns of TT with the generator's offset added (R77). -/
def Format.inst (f : Format) (offset : Int) (k l x : Nat) : Int :=
  (f.instNum k l x / (f.m * f.lines * f.samples) : Nat) + offset

/-- The fraction of a frame start in 2⁻¹⁶ ns (R77). -/
def Format.frac (f : Format) (k : Nat) : Nat := k * f.p % f.m * 65536 / f.m

/-- The first frame, from the epoch, whose start lies at or after an instant (R77, R80). -/
def Format.firstFrame (f : Format) (offset : Int) (t : Nat) : Nat :=
  let u := ((t : Int) - offset).toNat
  let k := u * f.m / f.p
  if f.inst offset k 1 0 ≥ (t : Int) then k
  else if f.inst offset (k + 1) 1 0 ≥ (t : Int) then k + 1 else k + 2

/-- A raster generator that does not run, as after reset. -/
def RasterSt.initial : RasterSt :=
  { running := false, waiting := false, format := 0, offset := 0, frame := 0, frameAt := 0, frameFrac := 0,
    line := 0, lineAt := 0, nextFrame := 0, nextAt := 0, change := false, interval := none, stepped := false }

/-- A timer as after reset. -/
def TimerSt.initial : TimerSt := ⟨0, false, none, false⟩

/-- A raster generator. -/
def State.rg (s : State) (n : Nat) : RasterSt := s.tb.rasters.get RasterSt.initial n

/-- The state with a raster generator set. -/
def State.setRg (s : State) (n : Nat) (r : RasterSt) : State :=
  { s with tb := { s.tb with rasters := s.tb.rasters.set n r } }

/-- A blanking timer. -/
def State.bt (s : State) (n : Nat) : TimerSt := s.tb.timers.get TimerSt.initial n

/-- The state with a blanking timer set. -/
def State.setBt (s : State) (n : Nat) (b : TimerSt) : State :=
  { s with tb := { s.tb with timers := s.tb.timers.set n b } }

/-- The offset register as a signed number of ns. -/
def State.rgOffset (s : State) (n : Nat) : Int := (s.rd (TB_RG_OFFSET n)).toInt

/-- Whether the settings in the registers let a generator run (R80). -/
def State.rgEnabled (s : State) (n : Nat) : Bool :=
  s.bit (TB_RG_CTL_enable n) && (formatOf (s.g (TB_RG_CTL_format n))).isSome

/-- Whether a raster has begun: a frame of it is in progress, or the interval after one. -/
def State.rgRuns (s : State) (n : Nat) : Bool := (s.rg n).running

/-- Whether a generator is running in the sense of R80: it is enabled with a format, though its first frame start may
still lie ahead (DEDUCED, notes/assumptions/29). -/
def State.rgOn (s : State) (n : Nat) : Bool := (s.rg n).running || (s.rg n).waiting

/-- Whether no frame begins at the end of the present one: in the interval of a change (R80), or in the wait after a
step of TT, which is as in such an interval (R58). -/
def RasterSt.held (r : RasterSt) : Bool := r.interval.isSome || r.stepped

/-- A generator with its next frame start at the first one of a format and an offset at or after an instant (R77,
R80). -/
def RasterSt.due (r : RasterSt) (f : Format) (off : Int) (t : Nat) : RasterSt :=
  let k := f.firstFrame off t
  { r with nextFrame := k, nextAt := (f.inst off k 1 0).toNat }

/-- The generator waits for the first frame start of its register settings at or after an instant (R80). -/
def State.rgSchedule (s : State) (n t : Nat) (r : RasterSt) : State :=
  match formatOf (s.g (TB_RG_CTL_format n)) with
  | none => s.setRg n r
  | some f => s.setRg n ({ r with waiting := true }.due f (s.rgOffset n) t)

/-- The instant at which the line after the present one begins, on the line grid of the frame in progress (R77,
R80). -/
def RasterSt.nextLineAt (r : RasterSt) : Option Nat :=
  match formatOf r.format with
  | none => none
  | some f => some (f.inst r.offset r.frame (r.line + 1) 0).toNat

/-- The line number of the present line: in an interval of R80, and in the wait after a step of TT, every line carries
the frame's last number (R58). -/
def RasterSt.lineNo (r : RasterSt) : Nat :=
  match formatOf r.format with
  | none => 0
  | some f => if r.stepped then f.lines else min r.line f.lines

/-- Whether the present line is a switching line of its raster (R76, R94). -/
def RasterSt.switchingLine (r : RasterSt) : Bool :=
  match formatOf r.format with
  | none => false
  | some f => f.switching.contains r.lineNo

/-- Whether an instant lies inside a window of a timer's setting, under R82 and R83: in a window of the present
period or in one of the previous period that continues past that period's end. -/
def windowCovers (ctl : W32) (r : RasterSt) (t : Nat) : Bool :=
  let c : Fld := TB_BT_CTL_enable 0
  let en := c.of ctl
  let period := (TB_BT_CTL_period 0).of ctl
  let start := (TB_BT_CTL_start 0).of ctl
  let len := (TB_BT_CTL_length 0).of ctl
  if en = 0 || !r.running || len = 0 then false else
  match formatOf r.format with
  | none => false
  | some f =>
    let inside (lo hi : Int) : Bool := decide (lo ≤ (t : Int)) && decide ((t : Int) < hi)
    if period = 0 then
      if f.samples ≤ start then false else
      let i (l x : Nat) : Int := f.inst r.offset r.frame l x
      inside (i r.line start) (i r.line (start + len)) ||
        (decide (f.samples < start + len) && inside (i r.line 0) (i r.line (start + len - f.samples)))
    else
      if start = 0 then false else
      let l := r.lineNo
      if period = 1 && f.interlaced then
        let n1 := f.field2 - 1
        let n2 := f.lines - n1
        let second := decide (f.field2 ≤ l)
        let pos := if second then l - n1 else l
        let cur := if second then n2 else n1
        let prev := if second then n1 else n2
        (decide (start ≤ cur) && decide (start ≤ pos) && decide (pos < start + len)) ||
          (decide (start ≤ prev) && decide (pos + prev < start + len))
      else
        decide (start ≤ f.lines) &&
          ((decide (start ≤ l) && decide (l < start + len)) || decide (l + f.lines < start + len))

/-- The raster generator that a timer's setting names. -/
def btRg (ctl : W32) : Nat := (TB_BT_CTL_rg 0).of ctl

/-- Whether a timer's window covers the present instant under a setting (R82). -/
def State.btCovers (s : State) (ctl : W32) : Bool := windowCovers ctl (s.rg (btRg ctl)) s.now

/-- A timer takes the setting of its register at once: an open window closes, and the new one opens if it covers
the instant (R85). -/
def State.btApply (s : State) (n : Nat) : State :=
  let ctl := s.rd (TB_BT_CTL n)
  let o := s.btCovers ctl
  s.setBt n ⟨ctl, o, if o then some s.now else (s.bt n).openAt, false⟩

end Sys2Proof.Machine
end

