-- ==== Sys2Proof/Machine/Targets.lean ====
section
/-! DEFINITION. What a register address means to the cue engine: the resource it belongs to, the resources that are
woken for it, its raster, and its launch quantum (R91, R94, R102). -/

namespace Sys2Proof.Machine

/-- The resource that contains a register (R91), by one address that names it: a block instance; a raster generator
or blanking timer of its own; one bus, pin or cell input of the matrix. -/
def targetKey (a : Nat) : Nat :=
  match locate a with
  | none => a
  | some (.tb, _, off) =>
    if 0x100 ≤ off ∧ off < 0x180 then TB_RG_CTL ((off - 0x100) / 8)
    else if 0x200 ≤ off then a
    else 0x10000
  | some (.amx, _, off) => if off < 0x100 then 0x300000 + off % 0x40 else a
  | some (b, i, _) => b.base + i * b.stride

/-- The slots of an engine whose bits a cue on a task register concerns, from its action and operands: the field of a
WRITE_FIELD, the mask of any other. -/
def slotsOf (a act : Nat) (opA opB : W32) : List Nat :=
  let bits : W32 := if act = 1 then
      BitVec.ofNat 32 ((2 ^ (bitsOf opB 9 5 + 1) - 1) * 2 ^ (opB.toNat % 32)) else opA
  (bitList bits).map (fun i => 32 * ((a % 4096 - 4) / 4 % 2) + i)

/-- The sleeping resource that a target rests on, if any (R24, R102): a chain rests on its cell, a stream and a
barrier on frame memory. -/
def targetRes (a : Nat) : Option Nat :=
  match locate a with
  | some (.lp, i, _) => some (rLp i)
  | some (.ac, i, _) => some (rAc i)
  | some (.fc, i, _) => some (rAc i)
  | some (.se, i, _) => some (rSe i)
  | some (.ax, i, _) => some (rAx i)
  | some (.fm, _, _) => some rFm
  | some (.ds, _, _) => some rFm
  | some (.ba, _, _) => some rFm
  | _ => none

/-- Whether a target is awake and ready (R104) with the resources on which it depends (R24); a target that never sleeps
is ready in the running states and in WIND (R26). -/
def State.targetReady (s : State) (a : Nat) : Bool :=
  match targetRes a with
  | some r => (s.wakeSet r).all s.isReady
  | none => true

/-- The elapsed time at which the last of a target's resources became ready; 0 where it rests on none. -/
def State.targetReadyAt (s : State) (a : Nat) : Nat :=
  match targetRes a with
  | some r => ((s.wakeSet r).map (fun x => (s.res x).readyAt)).foldl Nat.max 0
  | none => 0

/-- The raster of the keying timer of a cell. -/
def State.keyRg (s : State) (c : Nat) : Nat := btRg (s.bt (s.g (AC_CTL_key_bt c))).ctl

/-- The raster generator of a line port: that of its transmit path where the register serves it, else that of its
receive path. -/
def State.lpRg (s : State) (p off : Nat) : Nat :=
  if [0x008, 0x00C, 0x014, 0x030].contains off then s.g (LP_TX_CTL_rg p)
  else if [0x004, 0x010, 0x01C, 0x020, 0x02C].contains off then s.g (LP_RX_CTL_rg p)
  else if s.g (LP_MODE_CTL_mode p) = 1 then s.g (LP_RX_CTL_rg p) else s.g (LP_TX_CTL_rg p)

/-- The raster of a target, for NEXT_QUANTUM_FRAME (R106): CUE_CTL.late_rg where the target has none. -/
def State.targetRg (s : State) (a : Nat) : Nat :=
  match locate a with
  | some (.lp, i, off) => s.lpRg i off
  | some (.ac, i, _) => s.keyRg i
  | some (.fc, i, _) => s.keyRg i
  | some (.tb, _, off) =>
    if 0x100 ≤ off ∧ off < 0x180 then (off - 0x100) / 8
    else if 0x200 ≤ off then btRg (s.rd a)
    else s.g CUE_CTL_late_rg
  | some (.amx, _, off) =>
    if off < 0x100 then s.g (AMX_AB_TIME_rg (off % 0x40 / 4)) else s.g CUE_CTL_late_rg
  | some (.ds, i, _) => s.g (DS_CTL_rg i)
  | _ => s.g CUE_CTL_late_rg

/-- The launch quanta of R94. `frame` is a frame that has begun, `due` the frame start that comes next: a change of a
raster generator or timer is written before the frame start at which it takes hold (R80, R85). -/
inductive Quantum where
  | cycle
  | line (rg : Nat)
  | switching (rg : Nat)
  | frame (rg : Nat)
  | due (rg : Nat)
  | bus (k : Nat)
  | sample (c : Nat)
  | window (c : Nat)
  deriving DecidableEq, Repr

/-- The quantum of an action at a target (R94, R245). Loop control, the registers of a loop's mode, window and setting,
has the cue-engine cycle wherever the loop stands (DEDUCED, notes/assumptions/19). A frame quantum of a raster generator
or timer is the cue-engine cycle while the raster does not run. -/
def State.quantumOf (s : State) (action a : Nat) : Quantum :=
  match locate a with
  | some (.lp, i, off) =>
    if [0x01C, 0x020].contains off then .cycle
    else if action = 0x5 then .switching (s.g (LP_TX_CTL_rg i))
    else .line (s.lpRg i off)
  | some (.ac, i, off) =>
    if action = 0x6 then .sample i
    else if action = 0x7 then .window i
    else if [0x014, 0x01C].contains off then .cycle
    else .line (s.keyRg i)
  | some (.fc, i, off) =>
    if [1, 2, 3].contains action ∧ off = 0x000 then .sample i
    else if off = 0x00C ∨ off = 0x010 then .cycle
    else .cycle
  | some (.amx, _, off) =>
    if action = 0x5 ∧ off < 0x40 then .bus (off / 4) else .cycle
  | some (.tb, _, off) =>
    if 0x100 ≤ off ∧ off < 0x180 then
      let rg := (off - 0x100) / 8
      if s.rgOn rg then .due rg else .cycle
    else if 0x200 ≤ off then
      let rg := btRg (s.bt ((off - 0x200) / 4)).ctl
      if s.rgOn rg then .due rg else .cycle
    else .cycle
  | some (.ds, i, _) => if action = 0x9 then .frame (s.g (DS_CTL_rg i)) else .cycle
  | _ => .cycle

/-- The instant of sample `x` of a line of the frame in progress; one at or beyond the line's count is the line's last
sample (R245). -/
def RasterSt.sampleAt (r : RasterSt) (l x : Nat) : Nat :=
  match formatOf r.format with
  | none => 0
  | some f => (f.inst r.offset r.frame l (min x (f.samples - 1))).toNat

/-- The latest switch point of a bus at or before the present instant (R245). -/
def State.busAt (s : State) (k : Nat) : Option Nat :=
  let r := s.rg (s.g (AMX_AB_TIME_rg k))
  if !r.running then none else
  let x := s.g (AMX_AB_TIME_h_pos k)
  if r.sampleAt r.line x ≤ s.now then some (r.sampleAt r.line x)
  else if 2 ≤ r.line then some (r.sampleAt (r.line - 1) x) else none

/-- The line start of a raster that is due and has not begun, and whether it is that of a switching line: a cue at a
line quantum takes effect before the line that begins there takes its source (R94, R211). -/
def RasterSt.dueLine (r : RasterSt) (now : Nat) : Option (Nat × Bool) :=
  match formatOf r.format, r.nextLineAt with
  | some f, some t =>
    if !r.running then none
    else if r.nextAt ≤ now then some (r.nextAt, false)
    else if t ≤ now ∧ (r.line < f.lines ∨ r.held) then some (t, !r.stepped && f.switching.contains (r.line + 1))
    else none
  | _, _ => none

/-- The latest edge of the cue engine's clock at or before an instant, in whole ns: KCLK is 400 MHz and phase-locked to
TT, so that its edges fall at the multiples of 2.5 ns (figures of the cue engine, R95). -/
def cycleEdge (t : Nat) : Nat := t * 2 / 5 * 5 / 2

/-- The instant of the latest quantum that has begun, if one has, in whole ns: as launch times are whole ns, a quantum lies
at or after one exactly if its whole ns do (R95). -/
def State.quantumAt (s : State) : Quantum → Option Nat
  | .cycle => some (cycleEdge s.now)
  | .line rg =>
    if !s.rgRuns rg then none else
    match (s.rg rg).dueLine s.now with
    | some (t, _) => some t
    | none => some (s.rg rg).lineAt
  | .switching rg =>
    if !s.rgRuns rg then none else
    match (s.rg rg).dueLine s.now with
    | some (t, true) => some t
    | _ => if (s.rg rg).switchingLine then some (s.rg rg).lineAt else none
  | .frame rg => if s.rgRuns rg then some (s.rg rg).frameAt else none
  | .due rg => if s.rgOn rg && decide ((s.rg rg).nextAt ≤ s.now) then some (s.rg rg).nextAt else none
  | .bus k => s.busAt k
  | .sample c => s.sampleAt.lookup c
  | .window c => (s.bt (s.g (AC_CTL_key_bt c))).openAt

end Sys2Proof.Machine
end

