-- ==== Sys2Proof/Machine/Cue.lean ====
section
/-! DEFINITION. The cue queue: acceptance, chains, events, lateness, removal and the script (R87–R126). What a cue
does at its target is in CueActions. -/

namespace Sys2Proof.Machine

/-! ### Records -/

/-- The flags of a cue record (R87). -/
def recPreroll (r : CueRec) : Bool := r.flags.getLsbD 0
def recOnEvent (r : CueRec) : Bool := r.flags.getLsbD 1
def recChain (r : CueRec) : Bool := r.flags.getLsbD 2
def recNotify (r : CueRec) : Bool := r.flags.getLsbD 3
def recBroadcast (r : CueRec) : Bool := r.flags.getLsbD 4

/-- The LATE policy: 0 RUN_ASAP, 1 NEXT_QUANTUM_FRAME, 2 DISCARD, 3 reserved. -/
def recPolicy (r : CueRec) : Nat := (r.flags.extractLsb' 5 2).toNat

/-- The service, action and target of a record as numbers. -/
def recSvc (r : CueRec) : Nat := r.service.toNat
def recAct (r : CueRec) : Nat := r.action.toNat
def recTarget (r : CueRec) : Nat := r.target.toNat

/-- Reason codes (R128). -/
def whyFormat : Nat := 1
def whyQuota : Nat := 2
def whyFence : Nat := 3
def whyHousekeeping : Nat := 4
def whyAccess : Nat := 5
def whyEncoding : Nat := 6
def whyChain : Nat := 7

/-- Whether an address lies in the address map (R484, R485). -/
def inMap (a : Nat) : Bool :=
  (rowOf (a - a % 4)).isSome || (decide (0x40000000 ≤ a) && decide (a < 0xC0000000))

/-- The operand rules of the action table that are judged at acceptance: reserved operand bits and "must be"
operands (R88, R91). -/
def operandsOk (r : CueRec) : Bool :=
  let t0 := r.target == 0
  let hi (w : W32) (n : Nat) : Bool := w >>> n == 0
  let b0 := r.b == 0
  match recAct r with
  | 0x0 => t0 && r.a == 0 && b0
  | 0x1 => hi r.b 10
  | 0x2 | 0x3 => b0
  | 0x4 => b0 && r.target == BitVec.ofNat 32 (0x500000 + recSvc r * 0x10)
  | 0x5 => b0
  | 0x6 => hi r.a 17 && (r.a.extractLsb' 10 6) == 0 && hi r.b 16
  | 0x7 => hi r.a 1 && b0
  | 0x8 => hi r.a 16 && hi r.b 16
  | 0x9 => hi r.a 2 && b0
  | 0xA => hi r.a 17 && b0
  | 0xB => r.a == 0 && b0
  | 0xC => hi r.a 2 && b0
  | 0xD => hi r.a 16 && b0
  | 0xE => t0 && hi r.b 12
  | 0xF => t0 && b0
  | _ => false

/-- The format rules of acceptance (R88). `kept` says that the record's origin is kept (R89). -/
def formatOk (kept : Bool) (r : CueRec) : Bool :=
  (!kept || r.origin >>> 12 == 0) && !r.flags.getLsbD 7 && decide (recAct r < 16) && recPolicy r != 3 &&
    r.target &&& 3 == 0 && inMap (recTarget r) && operandsOk r &&
    !(recBroadcast r && (recOnEvent r || recChain r)) &&
    (if recOnEvent r then decide (r.eventSrc.toNat < 0xF6) else r.eventSrc == 0)

/-- The owner of an event source (R111, R112). -/
def State.eventOwner (s : State) (i : Nat) : Owner :=
  if i < 0x60 then s.ownerOf kWm i
  else if i < 0xC0 then s.ownerOf kWm (i - 0x60)
  else if i < 0xD0 then s.ownerOf kPel (i - 0xC0)
  else if i < 0xF0 then s.ownerOf kLpRx (i - 0xD0)
  else .pool

/-! ### Entries -/

/-- Serial order of sequence numbers (R90). -/
def seqLower (a b : W32) : Bool :=
  let d := (b - a).toNat
  decide (1 ≤ d) && decide (d ≤ 2147483647)

/-- CUE ORDER (R39, R90): launch time, then seq, then origin, then acceptance. -/
def Entry.before (x y : Entry) : Bool :=
  let lx := x.rec_.launch.toNat
  let ly := y.rec_.launch.toNat
  if lx ≠ ly then decide (lx < ly)
  else if seqLower x.rec_.seq y.rec_.seq then true
  else if seqLower y.rec_.seq x.rec_.seq then false
  else
    let ox := (x.rec_.origin &&& 0xFFF).toNat
    let oy := (y.rec_.origin &&& 0xFFF).toNat
    if ox ≠ oy then decide (ox < oy) else decide (x.order < y.order)

/-- The entry of a cue. -/
def State.entry (s : State) (id : CueId) : Option Entry := s.cue.entries.find? (fun e => e.id == id)

/-- The state with the cue engine's entries changed. -/
def State.setEntries (s : State) (l : List Entry) : State := { s with cue := { s.cue with entries := l } }

/-- The state with one entry changed. -/
def State.updEntry (s : State) (id : CueId) (f : Entry → Entry) : State :=
  s.setEntries (s.cue.entries.map (fun e => if e.id == id then f e else e))

/-- Whether an entry waits for its launch: queued or handed over. -/
def Entry.waits (e : Entry) : Bool := e.stage == .queued || e.stage == .handed

/-- Queue entries held by a service: internal cues hold none (R93, R97, R350). -/
def State.occupancy (s : State) (svc : Nat) : Nat :=
  (s.cue.entries.filter (fun e => e.id.sub == 0 && recSvc e.rec_ == svc)).length

/-- Queue entries in use (R97). -/
def State.queueLen (s : State) : Nat := (s.cue.entries.filter (fun e => e.id.sub == 0)).length

/-- ON_EVENT cues armed (CUE_ARMED). -/
def State.armedLen (s : State) : Nat := (s.cue.entries.filter (fun e => e.stage == .armed)).length

/-- A cue or record is rejected or refused with a reason: counted, shown in CUE_LAST_REJECT and logged (R88, R92,
R99). -/
def State.countReject (s : State) (svc : Nat) (seq : W32) (why : Nat) : State :=
  let s := if why = whyQuota then (s.inc (cnt16 CUE_QUOTA_CNT)).inc (SV_CUE_CNT_quota svc)
    else s.inc (cnt16 CUE_REJECT_CNT)
  let s := s.wr CUE_LAST_REJECT seq
  let s := (s.p CUE_LAST_REJECT_WHY_service svc).p CUE_LAST_REJECT_WHY_reason why
  s.eventNow 0x10 svc ((seq <<< 4) ||| BitVec.ofNat 32 why)

/-- The parked successors behind a cue, in order along the chain. `n` bounds the chain (R116). -/
def State.behind (s : State) (id : CueId) : Nat → List Entry
  | 0 => []
  | n + 1 =>
    match s.cue.entries.find? (fun e => e.stage == .parked id) with
    | none => []
    | some e => e :: s.behind e.id n

/-- The successors of a rejected, discarded or cancelled chain record are dropped, counted once (R117). -/
def State.dropChain (s : State) (id : CueId) : State :=
  match s.behind id 16 with
  | [] => s
  | e :: rest =>
    let ids := (e :: rest).map (·.id)
    let s := s.setEntries (s.cue.entries.filter (fun x => !ids.contains x.id))
    (s.inc (cnt16 CUE_CHAIN_DROP_CNT)).eventNow 0x13 (recSvc e.rec_) e.rec_.seq

/-- A script entry of the image, of which there are at most 1,024 (R122); none beyond those loaded. -/
def State.script (s : State) (e : Nat) : Option ScriptSt := if e < 1024 then s.cue.scripts[e]? else none

/-- An entry that has inserted the last of its instances disables itself (R124, R126). -/
def State.lastInstance (s : State) (e : Nat) : State :=
  match s.script e with
  | some x => s.when (x.count != 0 && decide (x.count ≤ x.inserted)) (fun s => s.setBitOf (CUE_SCRIPT_EN (e / 32)) (e % 32) false)
  | none => s

/-- The script entry of a removed instance asks for its next instance (R124, R126). -/
def State.askNext (s : State) (e : Entry) : State :=
  match e.script with
  | some i => { s with cue := { s.cue with scriptIn := s.cue.scriptIn ++ [i] } }
  | none => s

/-- A cue leaves the queue without more ado; its internal cues go with it (R109). -/
def State.removeEntry (s : State) (e : Entry) : State :=
  (s.setEntries (s.cue.entries.filter (fun x =>
    !(x.id == e.id || (e.id.sub == 0 && x.id.origin == e.id.origin && x.id.seq == e.id.seq))))).askNext e

/-- A cue that is rejected, discarded or cancelled leaves the queue, and its chain is dropped (R97, R117). -/
def State.removeCue (s : State) (e : Entry) : State := (s.removeEntry e).dropChain e.id

/-- A cue has taken effect: its record is logged if NOTIFY is set (R514), its successor leaves its parking, counted
from this instant (R115), and its entry is free. -/
def State.finishCue (s : State) (e : Entry) : State :=
  let s := s.when (recNotify e.rec_) (fun s => s.eventNow 0x14 (recSvc e.rec_) e.rec_.seq)
  let s := s.removeEntry e
  s.setEntries (s.cue.entries.map (fun x =>
    if x.stage == .parked e.id then { x with stage := .released s.now } else x))

/-- When the last internal cue of a scene has taken effect or been rejected, the SCENE cue has taken effect (R93,
R514). -/
def State.sceneDone (s : State) (e : Entry) : State :=
  if e.id.sub = 0 then s else
  if s.cue.entries.any (fun x => x.id.origin == e.id.origin && x.id.seq == e.id.seq && x.id.sub != 0) then s
  else match s.entry { e.id with sub := 0 } with
    | some p => s.finishCue p
    | none => s

/-- A cue, or an internal cue of a scene, has taken effect. -/
def State.cueDone (s : State) (e : Entry) : State :=
  if e.id.sub = 0 then s.finishCue e
  else (s.setEntries (s.cue.entries.filter (fun x => x.id != e.id))).sceneDone e

/-- A cue is rejected at hand-over or at its target (R92); an internal cue alone leaves its scene (R93). -/
def State.rejectCue (s : State) (e : Entry) (why : Nat) : State :=
  let s := s.countReject (recSvc e.rec_) e.rec_.seq why
  if e.id.sub = 0 then s.removeCue e
  else (s.setEntries (s.cue.entries.filter (fun x => x.id != e.id))).sceneDone e

/-! ### Waking and lateness -/

/-- The owner of a register as the cue engine sees it (R342–R344); the parts of a register that belong to several
owners are judged where the write is. -/
def State.regOwner (s : State) (a : Nat) : Owner :=
  match locate a with
  | some (.lp, i, off) =>
    if [0x008, 0x00C, 0x014, 0x018, 0x030].contains off then s.ownerOf kLpTx i
    else if off = 0x000 then
      (match s.ownerOf kLpRx i with | .pool => s.ownerOf kLpTx i | o => o)
    else s.ownerOf kLpRx i
  | some (.ac, i, _) => s.ownerOf kQuad (i / 4)
  | some (.fc, i, _) => s.ownerOf kQuad (i / 4)
  | some (.amx, _, off) =>
    if off < 0x100 then s.ownerOf kBus (off % 0x40 / 4)
    else if off < 0x280 then s.ownerOf kPin ((off - 0x100) / 4)
    else s.ownerOf kQuad ((off - 0x280) / 16)
  | some (.wm, i, _) => s.ownerOf kWm i
  | some (.tb, _, off) =>
    if 0x100 ≤ off ∧ off < 0x180 then s.ownerOf kRg ((off - 0x100) / 8)
    else if 0x200 ≤ off then s.ownerOf kBt ((off - 0x200) / 4)
    else .pool
  | some (.sv, i, _) => .svc i
  | some (.ds, i, _) => .svc (s.g (DS_CTL_service i))
  | some (.ba, i, _) => .svc (s.g (BA_CTL_service i))
  | some (.gp, b, _) => s.ownerOf kGpio (16 * b)
  | some (.gpio, _, off) => if off < 0x80 then s.ownerOf kPel (off % 0x40 / 4) else .pool
  | some (.qc, i, _) => s.ownerOf kBr i
  | some (.se, _, _) => .pool
  | some (.ax, n, off) =>
    if 0x050 ≤ off ∧ off < 0x090 ∧ off % 8 = 0 then .svc (s.g (AX_ISO_CTL_service n ((off - 0x50) / 8))) else .pool
  | _ => .pool

/-- Whether a service owns the target of one entry of a scene, in the part that the entry acts on (R93): for a line port
either direction where the register serves both, for an engine the tasks whose bits a cue on a task register concerns,
or with a WAKE any task of the engine (R342, R344). -/
def State.sceneOwns (s : State) (svc : Nat) (e : W32 × Byte × W32 × W32) : Bool :=
  let a := e.1.toNat
  match locate a with
  | some (.lp, p, off) =>
    if [0x000, 0x038, 0x090].contains off ∨ e.2.1 = 0xD then
      s.ownerOf kLpRx p == .svc svc || s.ownerOf kLpTx p == .svc svc
    else s.regOwner a == .svc svc
  | some (.se, n, off) =>
    let mine (t : TaskDesc) : Bool := t.id.1 == n && t.service == svc
    if e.2.1 = 0xD then s.se.tasks.any mine
    else if 0x004 ≤ off ∧ off < 0x01C then
      s.se.tasks.any (fun t => mine t && (slotsOf a e.2.1.toNat e.2.2.1 e.2.2.2).contains t.id.2)
    else false
  | _ => s.regOwner a == .svc svc

/-- The targets that are woken for a cue: its own, or for a SCENE cue those of its scene that its service owns
(R93). -/
def State.wakeTargets (s : State) (r : CueRec) : List Nat :=
  if recAct r = 0x4 then
    match s.cue.scenes[r.a.toNat]? with
    | some sc =>
      if sc.service = recSvc r then
        (sc.entries.filter (fun e => s.sceneOwns (recSvc r) e)).map (fun e => e.1.toNat)
      else []
    | none => []
  else if [0x0, 0xE, 0xF].contains (recAct r) then []
  else [recTarget r]

/-- The resources that a cue wakes and claims (R102, R103). -/
def State.wakeList (s : State) (r : CueRec) : List Nat :=
  ((s.wakeTargets r).filterMap targetRes).flatMap s.wakeSet

/-- The cue engine wakes and claims a cue's targets with their dependencies (R24, R102, R103). -/
def State.wakeCue (s : State) (e : Entry) : State :=
  let l := s.wakeList e.rec_
  (s.each l (fun s r => s.wake r)).updEntry e.id (fun x => { x with claims := l })

/-- A cue becomes late: counted, logged, and treated by its policy; DISCARD removes it, any other policy wakes a
sleeping target (R105–R107). A cue that is late already is left. -/
def State.becomeLate (s : State) (e : Entry) : State :=
  if e.late then s else
  let svc := recSvc e.rec_
  let pol := recPolicy e.rec_
  let s := s.eventNow 0x11 svc ((e.rec_.seq <<< 2) ||| BitVec.ofNat 32 pol)
  let s := (s.inc (cnt16 CUE_LATE_CNT)).inc (SV_CUE_CNT_late svc)
  if pol = 2 then
    let s := s.inc (cnt16 CUE_DISCARD_CNT)
    if e.id.sub = 0 then s.removeCue e
    else (s.setEntries (s.cue.entries.filter (fun x => x.id != e.id))).sceneDone e
  else (s.wakeCue e).updEntry e.id (fun x => { x with late := true, lateAt := s.now })

/-- A cue enters the queue sorted by launch: it is late if its hand-over instant has passed, and is woken at once
if its pre-roll has begun (R102, R105). -/
def State.goQueued (s : State) (id : CueId) (launch : Nat) : State :=
  let s := s.updEntry id (fun x => { x with
    stage := .queued, earliest := launch, acceptedAt := s.now,
    rec_ := { x.rec_ with launch := BitVec.ofNat 64 launch } })
  match s.entry id with
  | none => s
  | some e =>
    if launch < s.now + 1000 then s.becomeLate e
    else if recPreroll e.rec_ && decide (launch ≤ s.now + e.rec_.preroll.toNat * usNs) then s.wakeCue e
    else s

/-! ### De-duplication -/

/-- Whether an entry of the table still stands (R119). -/
def DedupSt.live (d : DedupSt) (now : Nat) : Bool := decide (now - d.heardAt < 500 * usNs)

/-- A broadcast cue of an origin and seq is looked up and marked: whether it is a duplicate, and the state with the
table updated (R119). -/
def State.dedupe (s : State) (origin : MemberId) (seq : W32) : Bool × State :=
  let put (l : List DedupSt) : State := { s with cue := { s.cue with dedup := l } }
  let others := s.cue.dedup.filter (fun d => d.origin != origin)
  match s.cue.dedup.find? (fun d => d.origin == origin && d.live s.elapsed) with
  | none =>
    let room := if others.length < 256 then others
      else match others.foldl (fun m d => match m with
          | none => some d
          | some x => if d.heardAt < x.heardAt then some d else some x) (none : Option DedupSt) with
        | some old => others.filter (fun d => d.origin != old.origin)
        | none => others
    (false, put (⟨origin, seq, 0, s.elapsed⟩ :: room))
  | some d =>
    if seq = d.highest then (true, put ({ d with heardAt := s.elapsed } :: others))
    else if seqLower d.highest seq then
      let k := (seq - d.highest).toNat
      let w := if k ≤ 64 then (d.window <<< k) ||| ((1 : BitVec 64) <<< (k - 1)) else 0
      (false, put ({ d with highest := seq, window := w, heardAt := s.elapsed } :: others))
    else
      let k := (d.highest - seq).toNat
      if seqLower seq d.highest ∧ k ≤ 64 then
        if d.window.getLsbD (k - 1) then (true, put ({ d with heardAt := s.elapsed } :: others))
        else (false, put ({ d with window := d.window ||| ((1 : BitVec 64) <<< (k - 1)),
                                   heardAt := s.elapsed } :: others))
      else (true, put ({ d with heardAt := s.elapsed } :: others))

/-! ### Acceptance -/

/-- Whether the intake is open (R129): WIND and the running states. -/
def State.intakeOpen (s : State) : Bool := s.dev == .wind || s.dev.running

/-- What became of a record at acceptance, in the codes of the mailbox slot status (R129). -/
inductive Taken where
  | accepted (seq : W32)
  | refused (why : Nat)
  deriving DecidableEq, Repr

/-- The code of the mailbox slot status (R129). -/
def Taken.status : Taken → Nat
  | .accepted _ => 2
  | .refused w => if w = whyFormat then 3 else if w = whyQuota then 4 else if w = whyChain then 5 else 6

/-- The counter of the source of an accepted record (R127). -/
def sourceCnt : CueSource → Nat
  | .script => CUE_ACCEPT_CNT 0
  | .observer => CUE_ACCEPT_CNT 1
  | .axlink => CUE_ACCEPT_CNT 2
  | .event => CUE_ACCEPT_CNT 3
  | .engine => CUE_ACCEPT_CNT 4

/-- A record takes an entry: origin and seq are assigned unless they are kept (R89), and it is armed, parked or
queued (R111, R115). -/
def State.addEntry (s : State) (src : CueSource) (r : CueRec) (script : Option Nat) (after : Option CueId) :
    CueId × State :=
  let kept := src == .axlink
  let r := if kept then r else
    { r with origin := (s.memberId).zeroExtend 16, seq := s.rd CUE_SEQ }
  let s := if kept then s else s.wr CUE_SEQ (s.rd CUE_SEQ + 1)
  let id : CueId := ⟨r.origin.truncate 12, r.seq, 0⟩
  let stage : Stage := match after with
    | some p => .parked p
    | none => if recOnEvent r then .armed else .queued
  let e : Entry := {
    id := id, src := src, rec_ := r, stage := stage, late := false, earliest := r.launch.toNat,
    frameFrom := none, claims := [], script := script, order := s.cue.order, acceptedAt := s.now, lateAt := 0,
    atCycle := false }
  let s := { s with cue := { s.cue with entries := s.cue.entries ++ [e], order := s.cue.order + 1 } }
  let s := (s.incWrap (word (sourceCnt src))).raise ⟨CUE_PEAK, 12, 0⟩ s.queueLen
  let s := if stage == .armed && recPreroll r then s.wakeCue e
    else if stage == .queued then s.goQueued id r.launch.toNat else s
  (id, s)

/-- The cue-engine cycle of the present instant, counted in elapsed TT. -/
def State.cueCycle (s : State) : Nat := s.elapsed * 2 / 5

/-- The quota in force of a service: one written in the present cycle comes into force with the next (R352). -/
def State.quotaNow (s : State) (svc : Nat) : Nat :=
  match s.cue.quotaWas.lookup svc with
  | some (c, q) => if s.cueCycle = c then q else s.g (SV_CTL_quota svc)
  | none => s.g (SV_CTL_quota svc)

/-- A service's quota has been written; the first write of a cycle notes the quota before it (R352). -/
def State.quotaWritten (s : State) (svc : Nat) (old : W32) : State :=
  match s.cue.quotaWas.lookup svc with
  | some (c, _) => if s.cueCycle = c then s else
      { s with cue := { s.cue with quotaWas := s.cue.quotaWas.set svc (s.cueCycle, (SV_CTL_quota svc).of old) } }
  | none => { s with cue := { s.cue with quotaWas := s.cue.quotaWas.set svc (s.cueCycle, (SV_CTL_quota svc).of old) } }

/-- Why the records of one chain, or a single record, are refused: the index of the record at fault and the reason
(R88, R99, R112, R116). -/
def State.refusal (s : State) (src : CueSource) (recs : List CueRec) (open_ : Bool) : Option (Nat × Nat) :=
  let kept := src == .axlink
  match recs.findIdx? (fun r => !formatOk kept r) with
  | some i => some (i, whyFormat)
  | none =>
    let svc := (recs.head?.map recSvc).getD 0
    if open_ || decide (16 < recs.length) || recs.any (fun r => recSvc r != svc) || recs.tail.any recOnEvent then
      some (recs.length, whyChain)
    else match recs.findIdx? (fun r => recOnEvent r &&
        !((Owner.svc (recSvc r)).mayName (s.eventOwner r.eventSrc.toNat))) with
      | some i => some (i, whyFence)
      | none =>
        let room := s.quotaNow svc - s.occupancy svc
        if recs.length ≤ room then none else some (room, whyQuota)

/-- The records of one chain, or a single record, are taken: accepted together with the successors parked behind
the head, or refused whole, the record at fault with its own reason and the others with reason CHAIN (R88, R116,
DEDUCED, notes/assumptions/9). -/
def State.acceptChain (s : State) (src : CueSource) (recs : List CueRec) (open_ : Bool) (script : Option Nat) :
    List Taken × State :=
  match s.refusal src recs open_ with
  | some (i, why) =>
    let res := recs.zipIdx.map (fun x => (x.1, if x.2 = i ∨ recs.length ≤ i then why else whyChain))
    (res.map (fun x => Taken.refused x.2),
      s.each res (fun s x => s.countReject (recSvc x.1) x.1.seq x.2))
  | none =>
    let step (acc : List Taken × Option CueId × State) (r : CueRec) : List Taken × Option CueId × State :=
      let first := acc.2.1.isNone
      let (id, t) := acc.2.2.addEntry src r (if first then script else none) acc.2.1
      let t := t.when (recBroadcast r && src != .axlink) (fun t => match t.entry id with
        | some e => t.floodCue e.rec_ none
        | none => t.floodCue { r with origin := id.origin.zeroExtend 16, seq := id.seq } none)
      let t := t.when (recBroadcast r && src != .axlink) (fun t => (t.dedupe id.origin id.seq).2)
      (acc.1 ++ [Taken.accepted id.seq], some id, t)
    let (l, _, s) := recs.foldl step ([], none, s)
    (l, s)

/-! ### The script -/

/-- The state with a script entry set. -/
def State.setScript (s : State) (e : Nat) (x : ScriptSt) : State :=
  { s with cue := { s.cue with scripts := s.cue.scripts.set e x } }

/-- Whether a script entry is enabled (CUE_SCRIPT_EN). -/
def State.scriptOn (s : State) (e : Nat) : Bool := s.bitOf (CUE_SCRIPT_EN (e / 32)) (e % 32)

/-- The launch time of instance `i` of an entry (R124); none while its raster has no format. -/
def State.instanceAt (s : State) (x : ScriptSt) (i : Nat) : Option Nat :=
  if x.unit = 0 then some (x.base + i * x.period)
  else match formatOf (s.g (TB_RG_CTL_format x.rg)) with
    | none => none
    | some f => some ((f.inst (s.rgOffset x.rg) (x.base + i * x.period) 1 0) + x.template.launch.toInt).toNat

/-- The records of an instance: the template and the chained entries behind it. `n` bounds the chain. -/
def State.scriptChain (s : State) (e : Nat) : Nat → List CueRec
  | 0 => []
  | n + 1 =>
    match s.script e with
    | none => []
    | some x => if recChain x.template then x.template :: s.scriptChain (e + 1) n else [x.template]

/-- An entry inserts its next instance (R124–R126): a refusal for quota is tried again one period later, or for an
ON_EVENT entry at the next 1 ms update of TT; after the last instance the entry disables itself, when the next would be
inserted. A refusal for another reason is tried again in the same way, and an entry in unit frames whose raster has no
format inserts nothing (DESIGN CHOICE, notes/assumptions/22). -/
def State.insertScript (s : State) (e : Nat) : State :=
  match s.script e with
  | none => s
  | some x =>
    if !s.scriptOn e then s else
    if x.count ≠ 0 ∧ x.count ≤ x.inserted then
      s.setBitOf (CUE_SCRIPT_EN (e / 32)) (e % 32) false
    else
      let onEv := recOnEvent x.template
      match (if onEv then some x.template.launch.toNat else s.instanceAt x x.next) with
      | none => s
      | some t =>
        let recs := match s.scriptChain e 17 with
          | [] => []
          | h :: rest => { h with launch := BitVec.ofNat 64 t } :: rest
        let open_ := recs.any (fun r => recs.getLast? == some r && recChain r)
        let (l, s) := s.acceptChain .script recs open_ (some e)
        let ok := l.all (fun k => match k with | .accepted _ => true | _ => false)
        if ok then
          s.setScript e { x with next := x.next + 1, inserted := x.inserted + 1, retryAt := none }
        else
          let again := if onEv then s.elapsed + (msNs - s.now % msNs)
            else s.elapsed + (match s.instanceAt x (x.next + 1) with | some u => u - t | none => msNs)
          s.setScript e { x with next := x.next + 1, retryAt := some again }

/-- An entry is enabled at the present instant: it inserts its earliest instance whose launch lies at least
preroll + 1 µs ahead; in unit frames instance 0 is the first frame that starts after enabling (R124, R125). -/
def State.enableScript (s : State) (e : Nat) : State :=
  match s.script e with
  | none => s
  | some x =>
    let lead := x.template.preroll.toNat * usNs + 1000
    let base := if x.unit = 0 then x.template.launch.toNat
      else match formatOf (s.g (TB_RG_CTL_format x.rg)) with
        | none => x.base
        | some f => f.firstFrame (s.rgOffset x.rg) (s.now + 1)
    let x := { x with base := base, next := 0, inserted := 0, retryAt := none }
    let first := if recOnEvent x.template then 0
      else if x.unit = 0 then
        (if s.now + lead ≤ x.base ∨ x.period = 0 then 0 else (s.now + lead - x.base + x.period - 1) / x.period)
      else match s.instanceAt x 0, s.instanceAt x 1 with
        | some t0, some t1 =>
          if s.now + lead ≤ t0 ∨ t1 ≤ t0 then 0
          else
            let i := (s.now + lead - t0) / (t1 - t0)
            match s.instanceAt x i with
            | some t => if s.now + lead ≤ t then i else i + 1
            | none => i
        | _, _ => 0
    (s.setScript e { x with next := first }).insertScript e

/-- An entry is disabled: its pending instance and what is parked behind it are removed without logging (R125). -/
def State.disableScript (s : State) (e : Nat) : State :=
  let mine := s.cue.entries.filter (fun x => x.script == some e)
  let ids := mine.map (·.id) ++ mine.flatMap (fun x => (s.behind x.id 16).map (·.id))
  let s := s.setEntries (s.cue.entries.filter (fun x => !ids.contains x.id))
  { s with cue := { s.cue with
    scriptIn := s.cue.scriptIn.filter (· != e)
    scriptTaken := if s.cue.scriptTaken.1 = e then (0, 0) else s.cue.scriptTaken } }

/-- The ON_EVENT script entries that ask for their next instance arm it at the end of the cycle (R126). -/
def State.nextInstances (s : State) : State :=
  let onEv (e : Nat) : Bool := match s.script e with | some x => recOnEvent x.template | none => false
  let l := s.cue.scriptIn.filter onEv
  ({ s with cue := { s.cue with scriptIn := s.cue.scriptIn.filter (fun e => !onEv e) } } : State).each l
    (fun s e => if s.intakeOpen then s.insertScript e else s.lastInstance e)

/-! ### Events -/

/-- An event occurs on a source: every cue armed on it before this cycle fires once and is disarmed (R113). Its
entry waits to be taken as source EVENT, and a script entry arms its next instance, which does not see this event
(R126). -/
def State.fire (s : State) (src cause : Nat) : State :=
  let fires (e : Entry) : Bool :=
    e.stage == .armed && e.rec_.eventSrc.toNat == src && decide (e.acceptedAt < s.now)
  let hit := s.cue.entries.filter fires
  let s := s.setEntries (s.cue.entries.map (fun e => if fires e then { e with stage := .fired cause } else e))
  (s.each hit (fun s e => (s.askNext e).updEntry e.id (fun x => { x with script := none }))).nextInstances

end Sys2Proof.Machine
end

