-- ==== Sys2Proof/Machine/Flags.lean ====
section
/-! DEFINITION. The flag computations that blocks share: the pressing episodes of the adaptive loops (R28–R34), the
quality sideband of samples, and lock counting. -/

namespace Sys2Proof.Machine

/-- One update of a loop: the setting in force, the computed setting and the window give the setting applied and
the bound pressed, if any (R28, R29, R34: a setting outside the window moves to its nearest bound). Where the setting
held lies beyond one bound of a moved window and the computed setting beyond the other, the setting moves to the bound
nearest to it, and the update presses the bound beyond which the computed setting lies; the spec does not say which
bound applies there (DESIGN CHOICE, notes/assumptions/65). -/
def loopApply (cur computed lo hi : Int) : Int × Option Bool :=
  let side := if computed < lo then some false else if hi < computed then some true else none
  let applied := if cur < lo then lo else if hi < cur then hi else clampInt lo hi computed
  (applied, side)

/-- An update presses against a side, or none, of a loop's bounds: the 64th consecutive one against one bound sets
bound_sticky and counts the episode (R29, R30). The status register holds side, pressing and bound_sticky at the
places of R52. -/
def State.pressed (s : State) (stat cnt : Nat) (side : Option Bool) : State :=
  match side with
  | none => { s.pb ⟨stat, 1, 1⟩ false with press := s.press.set stat (0, false) }
  | some b =>
    let (n, b0) := s.press.get (0, false) stat
    let n := if n ≠ 0 ∧ b0 = b then min (n + 1) 65 else 1
    let s := { (s.pb ⟨stat, 1, 1⟩ true).pb ⟨stat, 2, 2⟩ b with press := s.press.set stat (n, b) }
    if n = 64 then (s.pb ⟨stat, 0, 0⟩ true).inc (cnt16 cnt) else s

/-- A loop completes an update: its setting takes the value applied, and the update presses or does not; what it
replaced is kept for the rest of its cycle (R29, R34). -/
def State.loopDone (s : State) (set : Fld) (v stat cnt : Nat) (side : Option Bool) : State :=
  let u : LoopUndo := ⟨s.elapsed, s.g set, s.rd stat, s.rd cnt, s.press.get (0, false) stat⟩
  (({ s with undo := s.undo.set stat u } : State).p set v).pressed stat cnt side

/-- A write of a loop's setting, or an entry to FROZEN, discards the update that has completed in the same cycle, its
pressing included; an entry to FROZEN also takes back the setting, which a write has replaced (R32–R34; the cycle is the
whole ns of elapsed TT, DESIGN CHOICE, notes/assumptions/65). -/
def State.loopUndo (s : State) (set : Fld) (stat cnt : Nat) (frozen : Bool) : State :=
  match s.undo.lookup stat with
  | none => s
  | some u =>
    if u.at_ ≠ s.elapsed then s else
    let s := { (s.wr stat u.stat).wr cnt u.cnt with
      press := s.press.set stat u.press, undo := s.undo.filter (fun x => x.1 != stat) }
    if frozen then s.p set u.setting else s

/-- Whether a write of a loop's setting has landed in the same cycle, so that the loop's update is discarded
(R33, R34): the same cycle is the same whole ns of elapsed TT (DESIGN CHOICE, notes/assumptions/65). -/
def State.loopBlocked (s : State) (stat : Nat) : Bool := s.seeded.get 0 stat == s.elapsed + 1

/-- Marks of no quality condition. -/
def marksNone : Marks := ⟨false, false, false, false⟩

/-- The marks of either of two samples. -/
def marksOr (a b : Marks) : Marks :=
  ⟨a.ovr || b.ovr, a.suspect || b.suspect, a.sat || b.sat, a.fill || b.fill⟩

/-- Whether some sample of a slice carries a mark. -/
def sliceMarks (l : Slice) : Marks := l.foldl (fun m x => marksOr m x.marks) marksNone

/-- Whether any mark is set. -/
def marksAny (m : Marks) : Bool := m.ovr || m.suspect || m.sat || m.fill

end Sys2Proof.Machine
end

