-- ==== Sys2Proof/Machine/Timebase.lean ====
section
/-! DEFINITION. Troupe time: reference sources, the servo, holdover and the raster generators' changes (R53–R85). -/

namespace Sys2Proof.Machine

/-! ### Sources -/

/-- Source codes (source table, R59). -/
def srcCode : RefSrc → Nat
  | .genlock => 1
  | .pps => 2
  | .axlink => 3
  | .observer => 4

/-- A source of which nothing has been seen. -/
def SourceSt.initial : SourceSt :=
  { run := 0, since := none, misses := 0, requal := false, lastAt := none, err := 0 }

/-- A reference source. -/
def State.srcSt (s : State) (c : Nat) : SourceSt := s.tb.src.get SourceSt.initial c

/-- The state with a reference source set. -/
def State.setSrc (s : State) (c : Nat) (x : SourceSt) : State :=
  { s with tb := { s.tb with src := s.tb.src.set c x } }

/-- TB_STAT.tt_valid. -/
def State.ttValid (s : State) : Bool := s.bit TB_STAT_tt_valid

/-- Timebase states (R63). -/
def tbAcquire : Nat := 0
def tbPull : Nat := 1
def tbLocked : Nat := 2
def tbHold : Nat := 3

/-- Whether a source is qualified (TB_SRC_STAT: bit c − 1 for code c). -/
def State.qualified (s : State) (c : Nat) : Bool := decide (1 ≤ c) && s.bitOf TB_SRC_STAT (c - 1)

/-- The state with a source's qualification set. -/
def State.setQualified (s : State) (c : Nat) (b : Bool) : State := s.setBitOf TB_SRC_STAT (c - 1) b

/-- The source codes of TB_SRC_PRIO from the highest priority down. -/
def State.prioList (s : State) : List Nat :=
  [s.g TB_SRC_PRIO_slot0, s.g TB_SRC_PRIO_slot1, s.g TB_SRC_PRIO_slot2, s.g TB_SRC_PRIO_slot3].filter (· != 0)

/-- The eligible sources: listed, and AXLINK skipped on the lead (R59, R61). -/
def State.eligible (s : State) : List Nat :=
  s.prioList.filter (fun c => !(c == 3 && s.bit SYS_STATE_lead))

/-- The highest-priority eligible source that is qualified. -/
def State.bestSource (s : State) : Option Nat := s.eligible.find? (fun c => s.qualified c)

/-- The active source, 0 for none (TB_STAT.src). -/
def State.activeSrc (s : State) : Nat := s.g TB_STAT_src

/-- Whether the servo and the sources run: every timed state but STANDBY (R54). -/
def State.servoOn (s : State) : Bool := s.dev.timed && s.dev != .standby

end Sys2Proof.Machine
end

