-- ==== Sys2Proof/Machine/Power.lean ====
section
/-! DEFINITION. Device states, the power of resources, auto-sleep and DRAIN (R130–R149). -/

namespace Sys2Proof.Machine

/-! ### Use and idleness -/

/-- Whether some stream is enabled. -/
def State.anyStream (s : State) : Bool :=
  s.cells.any (fun c => decide (0xC00000 ≤ c.1) && decide (c.1 < 0xC10000) && c.1 % 64 == 0 && c.2.getLsbD 31)

/-- Whether a resource is in use (sleep-class table, R142); with a carousel every engine is (R303). -/
def State.inUse (s : State) (r : Nat) : Bool :=
  if r < 32 then s.lpMode r != 0 || s.lpMode (partner r) == 4
  else if r < 80 then s.bit (AC_CTL_enable (r - 32))
  else if r < 96 then s.bit (SE_CAR_CTL_en 0) || s.rd (SE_TASK_EN (r - 80) 0) != 0 || s.rd (SE_TASK_EN (r - 80) 1) != 0
  else if r < 100 then s.bit (AX_CTL_enable (r - 96))
  else if r = 100 then s.anyStream || (List.range 16).any (fun n => s.isAwake (rSe n) && s.engineNeedsFm n)
  else (dependants r).any s.isAwake

/-- The keep-awake bit of a resource (SYS_KAn). -/
def State.keepAwake (s : State) (r : Nat) : Bool := s.bitOf (SYS_KA (r / 32)) (r % 32)

/-- Whether a resource is idle (R143); one that winds up is never idle. -/
def State.isIdle (s : State) (r : Nat) : Bool :=
  s.isReady r && !s.inUse r && !s.isClaimed r && (s.res r).holdUntil.isNone && (s.res r).holdUs == 0 &&
    !s.keepAwake r

/-- The idle time of a resource runs while it is idle without a break (R143). -/
def State.trackOne (s : State) (r : Nat) : State :=
  let x := s.res r
  if s.isIdle r then
    if x.idleFrom.isSome then s else s.setRes r { x with idleFrom := some s.elapsed }
  else if x.idleFrom.isSome then s.setRes r { x with idleFrom := none } else s

/-- Idle times of every resource that has been awake. -/
def State.trackIdle (s : State) : State :=
  if s.dev.active then s.each (s.pwr.res.map (·.1)) (fun s r => s.trackOne r) else s

/-- A change that puts a resource in use, or a keep-awake bit, wakes it (R138, R139, R145). -/
def State.wakeUsed (s : State) (r : Nat) : State :=
  if (s.inUse r || s.keepAwake r) && !s.isUp r then s.wake r else s

/-- Every resource in use, or kept awake, winds up. -/
def State.wakeAllUsed (s : State) : State := s.each (List.range 127) (fun s r => s.wakeUsed r)

/-! ### KEEP words -/

/-- KEEP word `n` of the battery block has been written, whatever its value (R157, BAT_KEEP_STAT). -/
def State.keepMark (s : State) (n : Nat) : State := s.setBitOf BAT_KEEP_STAT n true

/-- The number of the KEEP word at an address. -/
def keepIndex (a : Nat) : Option Nat := (List.range 64).find? (fun n => keepWordAt n == a)

/-- A KEEP word is checked: a single error is corrected and counted, and a word with an uncorrectable error takes its
reset value and sets BAT_STAT.keep_err (R152). -/
def State.checkKeep (s : State) (n : Nat) : State :=
  match s.pwr.softErrs.lookup n with
  | none => s
  | some bad =>
    let s := { s with pwr := { s.pwr with softErrs := s.pwr.softErrs.filter (fun x => x.1 != n) } }
    if bad then (s.wr (keepWordAt n) (resetOf (keepWordAt n))).pb BAT_STAT_keep_err true
    else s.inc (cnt16 BAT_SCRUB_CNT)

/-- All KEEP words are checked. -/
def State.scrubKeep (s : State) : State := s.each (s.pwr.softErrs.map (·.1)) (fun s n => s.checkKeep n)

/-- A write of a KEEP word replaces what stood there, errors included. -/
def State.keepWritten (s : State) (n : Nat) : State :=
  let s := { s with pwr := { s.pwr with softErrs := s.pwr.softErrs.filter (fun x => x.1 != n) } }
  s.when (decide (n < 32)) (fun s => s.keepMark n)

/-! ### Device state -/

/-- A state change is logged and recorded (R135). -/
def State.changeState (s : State) (d : DevState) : State :=
  let old := s.dev.code
  let s := { s with pwr := { s.pwr with state := d, enteredAt := s.elapsed } }
  let s := (s.p SYS_STATE_prev old).wr64 SYS_STATE_TT_LO s.clock.ns
  (s.inc (cnt16 SYS_STATE_CHANGE_CNT)).eventNow 0x01 0 (BitVec.ofNat 32 (old * 16 + d.code))

/-- The running state that the timebase and the lead role give (R137). -/
def State.runState (s : State) : DevState :=
  if s.g TB_STAT_tb_state = tbHold then .holdover
  else if s.bit SYS_STATE_lead && (List.range 4).any s.portUp then .lead
  else .follow

/-- In the running states the device state follows the timebase and the lead role (R137). -/
def State.follow (s : State) : State :=
  if s.dev.running && s.dev != s.runState then s.changeState s.runState else s

/-- Entry to RESET: every register but those of code K takes its reset value and every block its state at reset,
the log is emptied, and the change is its first record (R19, R132, R447). The fuses, the straps, the episodes of the
monitors and the supplies stay. `cause` is the KEEP_LAST_STATE cause, or none at power-on. -/
def State.enterReset (s : State) (cause : Option Nat) (bit : Nat) : State :=
  let old := s.dev
  let b := State.reset
  let t : State := { b with
    pending := s.pending, cells := s.cells.filter (fun c => keepAddr c.1), free := s.free,
    cfg := { b.cfg with fuses := s.cfg.fuses },
    obs := { b.obs with i2c := s.obs.i2c, addrLow := s.obs.addrLow },
    tap := s.tap,
    log := { b.log with episodes := s.log.episodes },
    pin := { b.pin with outside := s.pin.outside, supply := s.pin.supply },
    pwr := { b.pwr with softErrs := s.pwr.softErrs, resetN := s.pwr.resetN, railsUp := s.pwr.railsUp, onVbat := s.pwr.onVbat,
                        causes := (if old = .reset then s.pwr.causes else 0) ||| BitVec.ofNat 4 (2 ^ bit) } }
  match cause with
  | none => t
  | some c =>
    let t := ((t.p KEEP_LAST_STATE_cause c).p KEEP_LAST_STATE_state old.code).keepWritten 6
    if old = .reset then t else
    let t := (t.p SYS_STATE_prev old.code).inc (cnt16 SYS_STATE_CHANGE_CNT)
    t.eventNow 0x01 0 (BitVec.ofNat 32 (old.code * 16 + 2))

/-- Whether the loaded image is sealed (CFG_STAT.sealed). -/
def State.sealed (s : State) : Bool := s.bit CFG_STAT_sealed

/-! ### DRAIN -/

/-- `n` cues are removed or refused by DRAIN. -/
def State.drainDrop (s : State) (n : Nat) : State :=
  let s := s.addSat (cnt16 SYS_DRAIN_DROP_CNT) n
  match s.pwr.drain with
  | some d => { s with pwr := { s.pwr with drain := some { d with dropped := d.dropped + n } } }
  | none => s

/-- The status of a mailbox slot (R129). -/
def mbxStat (slot : Nat) : Fld := ⟨CUE_MBX_STAT, 4 * slot + 3, 4 * slot⟩

/-- Entry to DRAIN (R146): intake closes, pending slots read DRAINED, armed cues are removed, and a script entry whose last
instance was armed disables itself (R126). -/
def State.enterDrain (s : State) (req : Nat) : State :=
  let s := s.changeState .drain
  let s := { s with pwr := { s.pwr with drain := some ⟨req, s.now, 0, none, 0, false⟩ } }
  let s := s.p SYS_DRAIN_STAT_busy 1 |>.p SYS_DRAIN_STAT_target req
  let slots := s.cue.slotsTaken ++ s.cue.mailbox.flatten
  let s := s.each slots (fun s k => s.p (mbxStat k) 7)
  let waiting := s.cue.axIn.length + s.cue.engTaken.length + (s.cue.engIn.flatMap (fun b => b.2)).length
  let armed := s.cue.entries.filter (fun e => e.stage == .armed)
  let ids := armed.map (·.id) ++ armed.flatMap (fun e => (s.behind e.id 16).map (·.id))
  let s := { s with cue := { s.cue with
    mailbox := [], axIn := [], engIn := [], scriptIn := [], slotsTaken := [], engTaken := [], scriptTaken := (0, 0),
    entries := s.cue.entries.filter (fun e => !ids.contains e.id) } }
  let s := s.each (armed.filterMap (·.script)) (fun s i => s.lastInstance i)
  s.drainDrop (slots.length + ids.length + waiting)

/-- T_end of a drain: the second frame start after entry of SYS_DRAIN_CTL.rg, or 1 ms after entry where that
generator does not run (R146). -/
def State.drainEnd (s : State) : Option Nat :=
  match s.pwr.drain with
  | none => none
  | some d =>
    match d.tEnd with
    | some t => some t
    | none => if s.rgOn (s.g SYS_DRAIN_CTL_rg) then none else some (d.from_ + msNs)

/-- A frame start of a generator is seen by a drain in progress. -/
def State.drainFrame (s : State) (rg t : Nat) : State :=
  match s.pwr.drain with
  | none => s
  | some d =>
    if rg ≠ s.g SYS_DRAIN_CTL_rg ∨ d.tEnd.isSome ∨ t ≤ d.from_ then s else
    let d := { d with frames := d.frames + 1, tEnd := if d.frames + 1 = 2 then some t else none }
    { s with pwr := { s.pwr with drain := some d } }

/-- At T_end the cues with later launch times are removed without effect (R146). -/
def State.drainCut (s : State) (t : Nat) : State :=
  let out := s.cue.entries.filter (fun e =>
    (e.stage == .queued || e.stage == .handed) && decide (t ≤ e.rec_.launch.toNat) && e.id.sub == 0)
  let ids := out.map (·.id) ++ out.flatMap (fun e => (s.behind e.id 16).map (·.id))
  let gone (e : Entry) : Bool := ids.any (fun i => i.origin == e.id.origin && i.seq == e.id.seq)
  let s := s.setEntries (s.cue.entries.filter (fun e => !gone e))
  s.drainDrop ids.length

/-- Every resource sleeps with its state retained; these are no auto-sleeps (R143). -/
def State.sleepAll (s : State) : State :=
  { s with pwr := { s.pwr with res := s.pwr.res.map (fun x => (x.1, ResSt.initial)) } }

/-! ### WIND -/

/-- Whether frame memory winds up. -/
def State.fmWinds (s : State) : Bool :=
  match (s.res rFm).power with
  | .winding _ _ => true
  | _ => false

/-- Whether WIND may end (R136): KCLK is locked, frame memory is initialised (2 GiB at 400 GB/s after a LOAD) or out of
self-refresh, the fabric runs where there is one, and TT is valid or free_s has run out. -/
def State.windDone (s : State) : Bool :=
  let t := s.elapsed - s.pwr.windAt
  s.dev == .wind && s.kclkLocked && ((s.pwr.fmReady && !s.fmWinds) || decide (5368710 ≤ t)) &&
    (!s.cfg.hasFabric || s.fpllLocked) &&
    (s.ttValid || (s.g SYS_WIND_CTL_free_s != 0 && decide (s.g SYS_WIND_CTL_free_s * secNs ≤ t)))

/-! ### Auto-sleep -/

/-- The sleep-delay loop of a class makes its 1 ms update (R144). It takes the wakes strictly before the update; a wake
that no made update has taken, because the loop was FROZEN, stays for the first one made (DEDUCED: the updates counted
are those that the loop has made; notes/assumptions/66). -/
def State.delayStep (s : State) (k : Nat) : State :=
  let mode := s.g (SYS_SLEEP_CTL_mode k)
  if mode = 2 ∨ s.loopBlocked (SYS_SLEEP_STAT k) then s else
  let taken (x : Nat × Nat) : Bool := x.1 == k && decide (x.2 < s.elapsed)
  let nap := s.pwr.naps.any taken
  let since := if nap then 0 else min (s.pwr.sinceNap.get 0 k + 1) 1024
  let s := { s with pwr := { s.pwr with
    naps := s.pwr.naps.filter (fun x => !taken x), sinceNap := s.pwr.sinceNap.set k since } }
  let d : Int := s.sleepDelay k
  let computed := if nap then d + 4 else if 1024 ≤ since then d - 1 else d
  let lo : Int := if mode = 1 then s.g (SYS_SLEEP_CTL_dly_min k) else 1
  let hi : Int := if mode = 1 then s.g (SYS_SLEEP_CTL_dly_max k) else 1023
  let (v, side) := loopApply d computed lo hi
  s.loopDone (SYS_SLEEP_DLY_d k) v.toNat (SYS_SLEEP_STAT k) (SYS_SLEEP_BOUND_CNT k) side

/-- Whether a resource falls asleep at this update: idle without a break for at least the delay of its class
(R143). -/
def State.fallsAsleep (s : State) (r : Nat) : Bool :=
  match (s.res r).idleFrom with
  | some t => s.isIdle r && decide (s.sleepDelay (classOf r) * msNs ≤ s.elapsed - t)
  | none => false

/-- A resource begins its sleep: its domain is isolated and switched off, its state retained (R143). -/
def State.fallAsleep (s : State) (r : Nat) : State :=
  (s.setRes r { s.res r with power := .switching s.elapsed, idleFrom := none, fellAt := some s.elapsed }).inc
    (cnt16 SYS_SLEEP_CNT)

/-- The time from wake to ready by kind, and whether it is exact or an upper bound (R138). -/
def State.readyTime (s : State) (r : Nat) : Nat × Bool :=
  if r < 32 then (if s.lpMode r = 2 then (4500, true) else (12000, false))
  else if r < 80 then (if s.bit (AC_CONV_CTL_dir (r - 32)) then (6000, true) else (9000, true))
  else if r < 96 then (5000, true)
  else if r < 100 then (12000, false)
  else if r = 100 then (10000, true)
  else (4000, true)

/-- Whether a resource that winds up may become ready now (R138): at its kind's time; where the table gives a bound,
between the release of its isolation at 4.0 µs and that bound; and no later than 12 µs after a wake that met a sleep in
progress, whose wind-up starts from that point. -/
def State.readyNow (s : State) (r : Nat) : Bool :=
  match (s.res r).power with
  | .winding t resumed =>
    let (lim, exact) := s.readyTime r
    let dt := s.elapsed - t
    if resumed then decide (dt ≤ 12000)
    else if exact then dt == lim else decide (4000 ≤ dt) && decide (dt ≤ lim)
  | _ => false

/-- A wind-up completes (R138, R140); a WAKE hold runs from here (R91). -/
def State.markReady (s : State) (r : Nat) : State :=
  let x := s.res r
  match x.power with
  | .winding t _ =>
    let s := s.setRes r { x with power := .ready, holdUs := 0, readyAt := s.elapsed,
                                 holdUntil := if x.holdUs = 0 then x.holdUntil else some (s.elapsed + x.holdUs * usNs) }
    (s.inc (cnt16 SYS_WIND_CNT)).wr SYS_WIND_LAST (BitVec.ofNat 32 (min (s.elapsed - t) 16383))
  | _ => s

end Sys2Proof.Machine
end

