-- ==== Sys2Proof/Machine/Streams.lean ====
section
/-! DEFINITION. Frame memory, ring channels, streams and barriers, and the slices that wait at each consumer
(R305, R313–R340). -/

namespace Sys2Proof.Machine

/-! ### Frame memory -/

/-- A byte of frame memory: the listed one, else 0, which every LOAD sets (R316). -/
def fmGet : List Host.Cell → Nat → Byte
  | [], _ => 0
  | (k, v) :: t, a => if k = a then v else fmGet t a

/-- The bytes with one of them set, kept in canonical form: rising addresses, no byte 0. -/
def fmPut (a : Nat) (v : Byte) : List Host.Cell → List Host.Cell
  | [] => if v = 0 then [] else [(a, v)]
  | (k, w) :: t =>
    if k < a then (k, w) :: fmPut a v t
    else
      let rest := ((k, w) :: t).filter (fun c => c.1 != a)
      if v = 0 then rest else (a, v) :: rest

/-- Canonical form of frame memory from a bound on: every address at least the bound and rising, no byte 0. -/
def fmFrom : Nat → List Host.Cell → Bool
  | _, [] => true
  | n, (k, v) :: t => decide (n ≤ k) && decide (v ≠ 0) && fmFrom (k + 1) t

/-- The canonical form of frame memory. -/
abbrev Memory.wf (m : List Host.Cell) : Prop := fmFrom 0 m = true

/-- Frame memory holds 2 GiB (R313). -/
def fmSize : Nat := 0x80000000

/-- A byte of frame memory. -/
def State.fmByte (s : State) (a : Nat) : Byte := fmGet s.fm.bytes a

/-- The state with a byte of frame memory set; an address outside the 2 GiB is left. -/
def State.setFmByte (s : State) (a : Nat) (v : Byte) : State :=
  if a < fmSize then { s with fm := { s.fm with bytes := fmPut a v s.fm.bytes } } else s

/-- Bytes written from an address on. -/
def State.writeFm (s : State) (a : Nat) : List Byte → State
  | [] => s
  | b :: t => (s.setFmByte a b).writeFm (a + 1) t

/-- `n` bytes read from an address on. -/
def State.readFm (s : State) (a n : Nat) : List Byte := (List.range n).map (fun i => s.fmByte (a + i))

/-- A 32-bit word of frame memory, little-endian (R12). -/
def State.fmWord (s : State) (a : Nat) : W32 :=
  s.fmByte (a + 3) ++ s.fmByte (a + 2) ++ s.fmByte (a + 1) ++ s.fmByte a

/-- The bytes of a number, least significant first. -/
def bytesOf (n v : Nat) : List Byte := (List.range n).map (fun i => BitVec.ofNat 8 (v / 256 ^ i))

/-- The number that bytes spell, least significant first. -/
def ofBytes : List Byte → Nat
  | [] => 0
  | b :: t => b.toNat + 256 * ofBytes t

/-! ### Windows of 1 µs -/

/-- The bytes of a channel that lie below an address (R313): 256 of every 2,048. -/
def chanBelow (c x : Nat) : Nat := x / 2048 * 256 + min (x % 2048 - 256 * c) 256

/-- The bytes that a channel serves of an access, which is served as whole aligned 64 bytes (R313). -/
def chanBytes (c a n : Nat) : Nat := chanBelow c ((a + n + 63) / 64 * 64) - chanBelow c (a / 64 * 64)

/-- The bytes that a channel serves in a window: its eighth of 400 GB/s (R313). -/
def chanRoom : Nat := 50000

/-- The account goes over to the window of the present instant (R335): every stream has its whole credit again, less what
its lines in progress take, and a channel that has served more than its share works that off first. -/
def State.rollWindow (s : State) : State :=
  let w := s.now / 1000
  let f := s.fm
  if w = f.window then s else
  let n := if f.window < w then w - f.window else 1
  let flows := f.flows.map (fun x => (x.1, x.2.map (fun y => (y.1 - y.2 * (n - 1), y.2))))
  let asked := flows.map (fun x => (x.1, (x.2.map (fun y => min y.1 y.2)).foldl (· + ·) 0))
  let next := flows.map (fun x => (x.1, (x.2.map (fun y => (y.1 - y.2, y.2))).filter (fun y => y.1 != 0)))
  { s with fm := { f with
    window := w, asked := asked.filter (fun x => x.2 != 0), flows := next.filter (fun x => !x.2.isEmpty),
    beyond := (asked.filter (fun x => decide (s.g (DS_RES_res x.1) < x.2))).map (·.1),
    wentOver := if n = 1 then f.beyond else [],
    chan := (f.chan.map (fun x => (x.1, x.2 - chanRoom * n))).filter (fun x => x.2 != 0) } }

/-- Whether every channel has room in the window for one more access, or the one channel that an access needs (R336). -/
def State.roomNow (s : State) (c : Option Nat) : Bool :=
  match c with
  | some c => decide (s.fm.chan.get 0 c < chanRoom)
  | none => (List.range 8).all (fun c => decide (s.fm.chan.get 0 c < chanRoom))

/-- Channels serve bytes of an access in the window. -/
def State.chanServes (s : State) (part : Nat → Nat) : State :=
  s.each ((List.range 8).filter (fun c => part c != 0)) (fun s c =>
    { s with fm := { s.fm with chan := s.fm.chan.set c (s.fm.chan.get 0 c + part c),
                               used := s.fm.used.set c (s.fm.used.get 0 c + part c) } })

/-- Whether an access without credit may be served now: nothing is held before it, and its channel has room (R336). -/
def State.spareRoom (s : State) (a : Nat) : Bool := s.fm.wait.isEmpty && s.roomNow (some (a / 256 % 8))

/-- An access of a line's bytes at an address in one piece: BULK, the bridge, the window, the scrubber. -/
def State.chanAccess (s : State) (a n : Nat) : State := s.chanServes (fun c => chanBytes c a n)

/-- What a line's accesses take of the present window, and in every whole window after it: they go on at the pace of the
stream's raster (DESIGN CHOICE, notes/assumptions/70), or at once where it has no format. -/
def State.linePace (s : State) (d bytes : Nat) : Nat × Nat :=
  match formatOf (s.g (TB_RG_CTL_format (s.g (DS_CTL_rg d)))) with
  | some f =>
    let per := bytes * 1000 * f.m * f.lines / f.p
    if bytes ≤ per ∨ per = 0 then (bytes, bytes) else (per * (1000 - s.now % 1000) / 1000, per)
  | none => (bytes, bytes)

/-- The accesses of a line of a stream are taken from its credit and from the channels. -/
def State.lineServes (s : State) (d bytes : Nat) : State :=
  let (now, per) := s.linePace d bytes
  let flows := s.fm.flows.get [] d ++ (if now < bytes then [(bytes - now, per)] else [])
  let s := { s with fm := { s.fm with asked := s.fm.asked.set d (s.fm.asked.get 0 d + now), flows := s.fm.flows.set d flows } }
  s.chanServes (fun _ => (now + 7) / 8)

/-- Whether the accesses of a line lie within what is left of its stream's credit (R335). -/
def State.inCredit (s : State) (d bytes : Nat) : Bool :=
  decide (s.fm.asked.get 0 d + (s.linePace d bytes).1 ≤ s.g (DS_RES_res d))

/-- The share of the last millisecond that each channel, and the whole memory, was in use (FM_CHn_STAT, FM_UTIL). -/
def State.fmUtil (s : State) : State :=
  let all := ((List.range 8).map (fun c => s.fm.used.get 0 c)).sum
  let s := s.each (List.range 8) (fun s c => s.p (FM_CH_STAT_util c) (min (s.fm.used.get 0 c * 100 / 50000000) 100))
  let s := s.wr FM_UTIL (BitVec.ofNat 32 (min (all * 100 / 400000000) 100))
  { s with fm := { s.fm with used := [] } }

/-- An access is held in its place (R337). -/
def State.fmWait (s : State) (r : FmReq) : State :=
  if s.fm.wait.contains r then s else { s with fm := { s.fm with wait := s.fm.wait ++ [r] } }

/-- A line of a stream asks to be read or written (R336, R337): whether it is served at once — within its credit, or
beyond it where the channels have room and nothing is held before it — or held in its place. -/
def State.lineAsks (s : State) (d bytes : Nat) (work : FmWork) : Bool × State :=
  let s := s.rollWindow
  let credit := s.inCredit d bytes
  let s := if credit ∨ s.fm.beyond.contains d then s else { s with fm := { s.fm with beyond := d :: s.fm.beyond } }
  let own := s.fm.wait.any (fun r => r.stream == some d)
  if !own && (credit || (s.fm.wait.isEmpty && s.roomNow none)) then (true, s.lineServes d bytes)
  else (false, { s with fm := { s.fm with wait := s.fm.wait ++ [⟨some d, bytes, work⟩] } })

/-! ### Slices in bytes -/

/-- The sideband nibble of a lane word (R314): OVR, SUSPECT, SAT, FILL from the low bit (DESIGN CHOICE, notes/assumptions/11). -/
def marksNibble (m : Marks) : Nat :=
  (if m.ovr then 1 else 0) + (if m.suspect then 2 else 0) + (if m.sat then 4 else 0) + (if m.fill then 8 else 0)

/-- The marks of a sideband nibble. -/
def marksOf (n : Nat) : Marks := ⟨n.testBit 0, n.testBit 1, n.testBit 2, n.testBit 3⟩

/-- Pairs of nibbles as bytes, the first in the low nibble. -/
def packNibbles : List Nat → List Byte
  | [] => []
  | [a] => [BitVec.ofNat 8 (a % 16)]
  | a :: b :: t => BitVec.ofNat 8 (a % 16 + 16 * (b % 16)) :: packNibbles t

/-- A slice as it is stored: its lane words, then its sideband (R314). -/
def sliceBytes (l : Slice) : List Byte :=
  l.flatMap (fun x => bytesOf 2 x.word.toNat) ++ packNibbles (l.map (fun x => marksNibble x.marks))

/-- The slice of `n` lane words that bytes hold (R314). -/
def sliceOf (n : Nat) (b : List Byte) : Slice :=
  (List.range n).map (fun i =>
    { word := BitVec.ofNat 16 ((b.getD (2 * i) 0).toNat + 256 * (b.getD (2 * i + 1) 0).toNat),
      marks := marksOf ((b.getD (2 * n + i / 2) 0).toNat / 16 ^ (i % 2) % 16) })

/-- The bytes a slice of `n` lane words takes (R314). -/
def sliceLen (n : Nat) : Nat := 2 * n + (n + 1) / 2

/-- The slices of the given lengths that follow one another in bytes. -/
def slicesOf : List Nat → List Byte → List Slice
  | [], _ => []
  | n :: t, b => sliceOf n b :: slicesOf t (b.drop (sliceLen n))

/-- The 24-bit sample that two lane words hold, low half first (R284; the order is a DESIGN CHOICE,
notes/assumptions/12). -/
def pcmOf (x y : Sample) : Int := signedField 24 (x.word.toNat + 65536 * (y.word.toNat % 256))

/-- The two lane words of a 24-bit sample. -/
def pcmWords (v : Int) (m : Marks) : List Sample := [⟨BitVec.ofInt 16 v, m⟩, ⟨BitVec.ofInt 16 (v / 65536), m⟩]

/-! ### Consumers -/

/-- A task as after LOAD. -/
def TaskSt.initial : TaskSt :=
  { on := false, bank := 0, old := none, prev := [], cur := [], pos := 0, genTo := 0, lanes := [], hi := 0, lo := 65535, count := 0,
    frames := 0, below := 0, above := 0, marked := 0, seen := marksNone, delay := [], held := [], inside := none,
    clipping := false, acts := 0, bad := 0, badBank := 0, rewritten := [] }

/-- What a task keeps. -/
def State.taskSt (s : State) (t : TaskId) : TaskSt := s.se.taskSt.get TaskSt.initial (64 * t.1 + t.2)

/-- The state with what a task keeps set. -/
def State.setTask (s : State) (t : TaskId) (x : TaskSt) : State :=
  { s with se := { s.se with taskSt := s.se.taskSt.set (64 * t.1 + t.2) x } }

/-- The key of a task's input among the consumers; chains follow behind. -/
def inputKey (t : TaskId) (i : Nat) : Nat := (64 * t.1 + t.2) * 4 + i
def chainKey (c : Nat) : Nat := 8192 + c

/-- The slices that wait at a consumer. -/
def State.queue (s : State) (k : Nat) : List QSlice := s.se.queues.get [] k

/-- The state with the slices that wait at a consumer set. -/
def State.setQueue (s : State) (k : Nat) (l : List QSlice) : State :=
  { s with se := { s.se with queues := s.se.queues.set k l } }

/-- Whether a line of a frame of `n` lines comes before another: the frame is a circle, and the half behind comes
before. -/
def lineBefore (n line l : Nat) : Bool :=
  let d := (l + n - line) % n
  decide (0 < d) && decide (2 * d ≤ n)

/-- The enable and the bank with which a task treats a slice of a line: those in force, or for a line that began before
they came into force those before them (R291). -/
def State.settingAt (s : State) (t : TaskDesc) (line : Nat) : Bool × Nat :=
  let x := s.taskSt t.id
  match x.old, formatOf (s.rg (t.rg % 16)).format with
  | some (l, on, bank), some f => if lineBefore f.lines line l then (on, bank) else (x.on, x.bank)
  | _, _ => (x.on, x.bank)

/-- The task inputs in force that take slices of a line from a ring channel (kind 1) or a stream (kind 2). -/
def State.taskInputs (s : State) (kind idx line : Nat) : List Nat :=
  s.se.tasks.flatMap (fun t => if (s.settingAt t line).1 then
    (t.ins.zipIdx.filter (fun x => x.1 == (kind, idx))).map (fun x => inputKey t.id x.2) else [])

/-- An input slice of which nothing is left. -/
def DacIn.none_ : DacIn := ⟨[], 0, 0, true⟩

/-- A chain as after reset. -/
def ChainSt.initial : ChainSt :=
  { link := 0, phase := 0, acc := [], line := 0, hist := [], past := [], ovrLeft := 0, suspLeft := 0, fillLeft := 0,
    settleLeft := 0, dcbCount := 0, dcbSum := 0, dcbMarked := false, dcbDue := none, clampRun := false,
    dacRun := false, underRun := false, lastIn := [], input := DacIn.none_, pos := 0, dacOut := 0 }

/-- A chain, and the state with a chain set. -/
def State.chain (s : State) (c : Nat) : ChainSt := s.fc.get ChainSt.initial c
def State.setChain (s : State) (c : Nat) (x : ChainSt) : State := { s with fc := s.fc.set c x }

/-- The chains in DAC direction whose source in force is a ring channel or a stream (R258). -/
def State.chainInputs (s : State) (kind idx : Nat) : List Nat :=
  ((List.range 48).filter (fun c =>
    s.bit (AC_CTL_enable c) && s.bit (AC_STAT_dir c) && (FC_LINK_kind c).of (s.chain c).link == kind &&
      (FC_LINK_index c).of (s.chain c).link == idx)).map chainKey

/-- A slice goes to every consumer of a channel or stream (R305, R324). -/
def State.fanOut (s : State) (kind idx : Nat) (q : QSlice) : State :=
  s.each (s.taskInputs kind idx q.line ++ s.chainInputs kind idx) (fun s k => s.setQueue k (s.queue k ++ [q]))

/-- The most lines that wait at a line port for their time. -/
def portRoom : Nat := 8

/-- A complete line of a source goes to the line ports that send it or are about to: those whose source, in force or
written, names it as LPn_TX_SRC does, 1024 · kind + index (R40, R210). A port keeps the latest eight
(DESIGN CHOICE, notes/assumptions/37). -/
def State.lineToPorts (s : State) (key line : Nat) (l : List Slice) : State :=
  s.each ((List.range 32).filter (fun p => [2, 3].contains (s.lpMode p) &&
      ((s.lpSt p).src.toNat % 4096 == key || (s.rd (LP_TX_SRC p)).toNat % 4096 == key))) (fun s p =>
    let x := s.lpSt p
    let w := x.wait ++ [(key, line, l)]
    s.setLp p { x with wait := w.drop (w.length - portRoom) })

/-- The slices of a line with its number. -/
def lineSlices (line : Nat) (l : List Slice) : List QSlice :=
  l.zipIdx.map (fun x => ⟨x.1, line, x.2 + 1 == l.length⟩)

/-! ### Barriers -/

/-- Production at a barrier of `n` units (R326). -/
def State.produce (s : State) (b n : Nat) : State :=
  let c := s.g (BA_COUNT_count b) + n
  let s := s.when (decide (65535 < c)) (fun s =>
    ((s.pb (BA_STAT_sat b) true).inc (cnt16 FM_BARRIER_SAT_CNT)).pb FM_STICKY_barrier_sat true)
  (s.p (BA_COUNT_count b) (min c 65535)).addWrap (BA_UNITS_produced b) n

/-- Consumption of one unit; the count never goes below 0 (R326). -/
def State.consume (s : State) (b : Nat) : State :=
  (s.p (BA_COUNT_count b) (s.g (BA_COUNT_count b) - 1)).incWrap (BA_UNITS_consumed b)

/-- The barrier that paces a stream, if one does. -/
def State.barrierOf (s : State) (d : Nat) : Option Nat :=
  let b := s.g (DS_CTL_bar d)
  if s.bit (DS_CTL_bar_en d) && s.bit (BA_CTL_enable b) && s.g (BA_CTL_stream b) == d then some b else none

/-- The writer of a stream completes `n` units of a granularity (R326). -/
def State.writerCounts (s : State) (d gran n : Nat) : State :=
  match s.barrierOf d with
  | some b => if !s.bit (BA_CTL_src b) && s.g (BA_CTL_gran b) == gran then s.produce b n else s
  | none => s

/-- The task that is the consuming stage of a stream's barrier: the first task that reads the stream (R326). -/
def State.stageOf (s : State) (d : Nat) : Option TaskId :=
  (s.se.tasks.find? (fun t => (s.taskSt t.id).on && t.ins.contains (2, d))).map (·.id)

/-- Whether a barrier lets a task take from a stream (R326). -/
def State.barrierLets (s : State) (t : TaskId) (d : Nat) : Bool :=
  match s.barrierOf d with
  | some b => s.stageOf d != some t || decide (1 ≤ s.g (BA_COUNT_count b))
  | none => true

/-- Whether a task that writes a stream must wait at its barrier (R326). -/
def State.producerWaits (s : State) (d : Nat) : Bool :=
  match s.barrierOf d with
  | some b => decide (s.g (BA_COUNT_limit b) ≤ s.g (BA_COUNT_count b))
  | none => false

/-! ### Streams -/

/-- A stream as after LOAD. -/
def StreamSt.initial : StreamSt :=
  { arm := none, unitAt := none, second := false, line := 0, shape := [], audio := false, unread := [],
    lineRead := 0, reading := none, feed := ⟨0, [], []⟩, subst := 0, starts := [], joint := none, gap := false, repeats := 0, filling := false }

/-- A stream. -/
def State.stream (s : State) (d : Nat) : StreamSt := s.ds.get StreamSt.initial d

/-- The state with a stream set. -/
def State.setStream (s : State) (d : Nat) (x : StreamSt) : State := { s with ds := s.ds.set d x }

/-- Lines per unit, bases, and bytes per line of a stream. -/
def State.dsLines (s : State) (d : Nat) : Nat := s.g (DS_GEOM_lines d)
def State.dsBases (s : State) (d : Nat) : Nat := s.g (DS_CTL_nb d) + 1
def State.dsStride (s : State) (d : Nat) : Nat := s.g (DS_GEOM_stride d) * 64

/-- The address of a line (from 1) of a unit in a base (R314, R319). -/
def State.lineAddr (s : State) (d base line : Nat) : Nat :=
  (s.rd (DS_BASE d base)).toNat + (line - 1) * s.dsStride d

/-- The yo-yo that reads a stream, if one is in force (R328). -/
def State.yoyoOf (s : State) (d : Nat) : Option TaskDesc :=
  s.se.tasks.find? (fun t => t.kernel == 13 && (s.taskSt t.id).on && t.ins.head? == some (2, d))

/-- The complete units that wait to be read by a yo-yo, as DS_STAT shows them. -/
def State.showUnread (s : State) (d : Nat) : State := s.p (DS_STAT_k d) (min (s.stream d).unread.length 7)

/-- The place in its unit of a line with a number: in the second frame of a pair it follows the first frame's lines
(R319). -/
def State.linePlace (s : State) (d line : Nat) : Nat × Bool :=
  let x := s.stream d
  let half := s.dsLines d / 2
  let second := s.bit (DS_CTL_pair d) && (x.second || (line == 1 && decide (half ≤ x.line)))
  (if second then line + half else line, second)

/-- The writer of a stream goes on to a line: its place in the unit is the last (R40, R318). -/
def State.lineBegun (s : State) (d pos : Nat) (second audio : Bool) (shape : List Nat) : State :=
  (s.setStream d { s.stream d with second := second, line := pos, shape := shape, audio := audio }).p (DS_STAT_line d) pos

/-- A line of a unit is complete in a base; the last one completes the unit (R321, R326). -/
def State.lineStored (s : State) (d base pos : Nat) : State :=
  let s := s.writerCounts d 1 1
  if pos = s.dsLines d then
    let s := (s.incWrap (word (DS_UNITS d))).writerCounts d 2 1
    let s := if (s.yoyoOf d).isSome then
        s.setStream d { s.stream d with unread := (s.stream d).unread ++ [base] } else s
    s.showUnread d
  else s

/-- A line of the unit being written is stored: its slices, then zeros to the stride (R314). Lines come in raster order,
each once; none other is taken (R40). The write may be held (R336, R337). -/
def State.storeLine (s : State) (d line : Nat) (l : List Slice) (audio : Bool) : State :=
  if s.g (DS_STAT_state d) ≠ 2 then s else
  let (pos, second) := s.linePlace d line
  if pos ≠ (s.stream d).line + 1 ∨ s.dsLines d < pos then s else
  let stride := s.dsStride d
  let b := (l.flatMap sliceBytes).take stride
  let base := s.g (DS_STAT_widx d)
  let a := s.lineAddr d base pos
  let all := b ++ List.replicate (stride - b.length) 0
  let s := s.lineBegun d pos second audio (l.map List.length)
  let (now, s) := s.lineAsks d b.length (.write base pos a all)
  if now then (s.writeFm a all).lineStored d base pos else s

/-- A producer delivers one slice of a line to a ring channel (kind 1) or a stream (kind 2). -/
def State.deliverSlice (s : State) (kind idx : Nat) (q : QSlice) (audio : Bool) : State :=
  if kind = 1 then
    let f := s.ring.get ⟨0, [], []⟩ idx
    let cur := f.cur ++ [q.data]
    let f := if q.last then ⟨f.seq + 1, cur, []⟩ else { f with cur := cur }
    let s := ({ s with ring := s.ring.set idx f } : State).fanOut 1 idx q
    s.when q.last (fun s => s.lineToPorts (1024 + idx) q.line cur)
  else if kind = 2 then
    if s.g (DS_STAT_state idx) ≠ 2 then s else
    let x := s.stream idx
    let s := s.writerCounts idx 0 1
    if q.last then
      (s.setStream idx { x with feed := { x.feed with cur := [] } }).storeLine idx q.line (x.feed.cur ++ [q.data]) audio
    else s.setStream idx { x with feed := { x.feed with cur := x.feed.cur ++ [q.data] } }
  else s

/-- A producer delivers a whole line to a ring channel or a stream. -/
def State.deliver (s : State) (kind idx line : Nat) (l : List Slice) (audio : Bool) : State :=
  s.each (lineSlices line l) (fun s q => s.deliverSlice kind idx q audio)

/-! ### Units -/

/-- The record of a unit's substituted lines is logged when its reading ends (R339). -/
def State.endReading (s : State) (d : Nat) : State :=
  let x := s.stream d
  if x.subst = 0 then s else
  (s.setStream d { x with subst := 0 }).eventNow 0x2B (s.g (DS_CTL_service d))
    (BitVec.ofNat 32 (min x.subst 65535 * 65536 + d))

/-- The base after `i` that is free for a yo-yo's writer: neither read nor holding a complete unread unit (R330). -/
def freeBase (x : StreamSt) (bases i : Nat) : Option Nat :=
  ((List.range bases).map (fun j => (i + 1 + j) % bases)).find? (fun b =>
    x.reading != some b && !x.unread.contains b)

/-- A drop of a yo-yo: counted for the device, the stream and its service, and logged (R331). -/
def State.yoyoDrop (s : State) (d : Nat) : State :=
  let svc := s.g (DS_CTL_service d)
  let s := (s.inc (cnt16 FM_YOYO_DROP_CNT)).inc (DS_YOYO_drops d)
  (s.inc (SV_MEDIA_CNT_yoyo svc)).eventNow 0x28 svc (BitVec.ofNat 32 d)

/-- The audio stream that follows a yo-yo, if its bank names one (R333). -/
def followerOf (t : TaskDesc) (w1 : W32) : Option Nat :=
  if t.kernel = 13 ∧ !w1.getLsbD 15 then some (w1.toNat % 1024) else none

/-- The bank word of a task: slot s, bank b at 0x7_E000 + s·0x80 + b·0x40 of its engine, or 0x1_F200 + c·0x80 +
b·0x40 of its part (R282, R299). -/
def bankAddr (t : TaskId) (bank word : Nat) : Nat :=
  if t.2 < 56 then 131072 * t.1 + (0x7E000 + t.2 * 0x80 + bank * 0x40) / 4 + word
  else 16 * 131072 + 32768 * t.1 + (0x1F200 + (t.2 - 56) * 0x80 + bank * 0x40) / 4 + word

/-- A word of local memory. -/
def State.lmWord (s : State) (k : Nat) : W32 := s.se.lm.get 0 k

/-- The state with a word of local memory set. -/
def State.setLm (s : State) (k : Nat) (v : W32) : State := { s with se := { s.se with lm := s.se.lm.set k v } }

/-- Word W`i` of the bank in force of a task. -/
def State.param (s : State) (t : TaskId) (i : Nat) : W32 := s.lmWord (bankAddr t (s.taskSt t).bank i)

/-- The rate of a yo-yo's source against the raster that reads it, in 0.01 ppm, over the last 1,024 units (R334). -/
def State.showRate (s : State) (d rg : Nat) : State :=
  let l := (s.stream d).starts
  match formatOf (s.rg rg).format, l.head?, l.getLast? with
  | some f, some new, some old =>
    if l.length < 1025 ∨ new ≤ old then s else
    let n := if s.bit (DS_CTL_pair d) then 2048 else 1024
    let p : Int := ((n * f.p / f.m : Nat) : Int)
    let t : Int := ((new - old : Nat) : Int)
    s.wr (DS_RATE d) (sword (clampInt (-2147483648) 2147483647 ((p - t) * 100000000 / t)))
  | _, _, _ => s

/-- The video stream that an audio stream follows: in0 of the yo-yo in force that names it (R333). -/
def State.leaderOf (s : State) (d : Nat) : Option Nat :=
  match s.se.tasks.find? (fun t => t.kernel == 13 && (s.taskSt t.id).on && followerOf t (s.param t.id 1) == some d) with
  | some t => (match t.ins.head? with | some (2, v) => some v | _ => none)
  | none => none

/-- The base that the writer takes at a unit start (R322, R330); an audio stream that follows a yo-yo takes that of its
video (R333). -/
def State.takeBase (s : State) (d : Nat) : State :=
  let x := s.stream d
  let n := s.dsBases d
  let i := s.g (DS_STAT_widx d)
  let running := s.g (DS_STAT_state d) = 2
  match x.arm with
  | some k => (s.setStream d { x with arm := none }).p (DS_STAT_widx d) k
  | none =>
    if (s.yoyoOf d).isSome && running then
      match freeBase x n i with
      | some b => s.p (DS_STAT_widx d) b
      | none =>
        match x.unread with
        | [] => s
        | b :: rest =>
          ((s.setStream d { x with unread := rest, gap := true }).p (DS_STAT_widx d) b).yoyoDrop d |>.showUnread d
    else match s.leaderOf d with
    | some v => s.p (DS_STAT_widx d) (s.g (DS_STAT_widx v))
    | none =>
    if s.bit (DS_CTL_rotate d) && running then s.p (DS_STAT_widx d) ((i + 1) % n)
    else s

/-- A unit start of a stream (R321, R322, R324): a stream whose enable is cleared stops; else the writer takes its
base and the readers theirs. -/
def State.unitStart (s : State) (d : Nat) : State :=
  let s := s.endReading d
  if !s.bit (DS_CTL_enable d) then
    (s.setStream d { s.stream d with line := 0, second := false }).p (DS_STAT_state d) 0 |>.p (DS_STAT_line d) 0
  else
    let s := s.takeBase d
    let x := s.stream d
    let s := s.setStream d { x with
      unitAt := some s.now, line := 0, second := false, feed := { x.feed with cur := [] },
      lineRead := if (s.yoyoOf d).isSome || (s.leaderOf d).isSome then x.lineRead else 0,
      starts := (s.now :: x.starts).take 1025 }
    let s := (s.p (DS_STAT_state d) 2).p (DS_STAT_line d) 0
    match s.yoyoOf d with
    | some t => s.showRate d t.rg
    | none =>
      if (s.leaderOf d).isSome then s else
      let n := s.dsBases d
      s.p (DS_STAT_ridx d) ((s.g (DS_STAT_widx d) + n - s.g (DS_CTL_lag d) % n) % n)

/-! ### The yo-yo -/

/-- The unit of a stream that its audio follower reads goes with the video unit; at a joint the base is named whose
samples would have continued, or one that no stream has where they are gone (R333). -/
def State.followAudio (s : State) (t : TaskDesc) (base : Nat) (joint : Option Nat) : State :=
  match followerOf t (s.param t.id 1) with
  | none => s
  | some a =>
    let s := s.p (DS_STAT_ridx a) base
    s.setStream a { s.stream a with lineRead := 0, joint := joint }

/-- A base index that no stream has. -/
def noBase : Nat := 4

/-- The decision of a yo-yo at a unit start of its raster (R329, R331); from a stream that has stopped nothing more is
read (R321). -/
def State.yoyoDecide (s : State) (t : TaskDesc) (d : Nat) : State :=
  let s := s.endReading d
  let s := s.setStream d { s.stream d with lineRead := 0 }
  let x := s.stream d
  if s.g (DS_STAT_state d) = 0 then
    (s.setStream d { x with reading := none, unread := [], repeats := 0, filling := true }).showUnread d
  else
  let w := s.param t.id 0
  let high := w.toNat % 16
  let low := w.toNat / 16 % 16
  let lines := s.dsLines d
  let k := x.unread.length
  let r := if x.reading.isSome then 1 else 0
  -- The occupancy in units of one line; the unit in progress counts by its written lines.
  let f := if s.g (DS_STAT_state d) = 2 ∧ x.line < lines then x.line else 0
  let o := (r + k) * lines + f
  let svc := s.g (DS_CTL_service d)
  let read (s : State) (b : Nat) (rest : List Nat) (joint : Option Nat) : State :=
    let joint := if x.gap then some noBase else joint
    let run := (s.stream d).repeats
    let s := s.when (run != 0) (fun s =>
      s.eventNow 0x2A svc (BitVec.ofNat 32 (min run 65535 * 65536 + d)))
    let s := s.setStream d { s.stream d with
      unread := rest, reading := some b, repeats := 0, filling := false, gap := false }
    ((s.p (DS_STAT_ridx d) b).showUnread d).followAudio t b joint
  if k = 0 ∨ o < low * lines then
    match x.reading with
    | none => s.setStream d { x with filling := true }
    | some b =>
      let s := (s.inc (cnt16 FM_YOYO_REPEAT_CNT)).inc (DS_YOYO_repeats d) |>.inc (SV_MEDIA_CNT_yoyo svc)
      let s := s.when (x.repeats == 0) (fun s => s.eventNow 0x29 svc (BitVec.ofNat 32 d))
      -- What would have continued is the next unit: the oldest unread, or the one being written as far as it is.
      let next := match x.unread with
        | u :: _ => u
        | [] => if 1 ≤ f then s.g (DS_STAT_widx d) else noBase
      (s.setStream d { s.stream d with repeats := x.repeats + 1, filling := false }).followAudio t b (some next)
  else if high * lines ≤ o ∧ 2 ≤ k then
    match x.unread with
    | u :: b :: rest => read (s.yoyoDrop d) b rest (some u)
    | _ => s
  else
    match x.unread with
    | b :: rest => read s b rest none
    | [] => s

/-! ### Reading -/

/-- The component of a lane word of a 4:2:2 line: 1, 0, 2, 0 in turn (DESIGN CHOICE, notes/assumptions/12). -/
def videoComponent (i : Nat) : Nat := if i % 2 = 1 then 0 else if i % 4 = 0 then 1 else 2

/-- The component of lane word `i` of a slice of `n` words, each pixel of which has one, two or three: 64 pixels, or 32 in
a half slice (R46, R284). The place of a component in a slice is the model's (DESIGN CHOICE, notes/assumptions/12). -/
def componentAt (half : Bool) (n i : Nat) : Nat :=
  let n := if half then 2 * n else n
  if n ≤ 64 then 0 else if n = 192 then i % 3 else videoComponent i

/-- A fill slice of black. -/
def blackSlice (half : Bool) (black : List (BitVec 16)) (n : Nat) : Slice :=
  (List.range n).map (fun i => ⟨black.getD (componentAt half n i) 0, { marksNone with fill := true }⟩)

/-- A slice with every sample flagged FILL. -/
def fillMarked (l : Slice) : Slice := l.map (fun x => { x with marks := { x.marks with fill := true } })

/-- The black values of a stream (DS_FILL.c0, DS_BLACK). -/
def State.dsBlack (s : State) (d : Nat) : List (BitVec 16) :=
  [BitVec.ofNat 16 (s.g (DS_FILL_c0 d)), BitVec.ofNat 16 (s.g (DS_BLACK_c1 d)), BitVec.ofNat 16 (s.g (DS_BLACK_c2 d))]

/-- A word with a correctable error: corrected and counted for the device, the channel and the stream (R338). -/
def State.fmCorrected (s : State) (a n : Nat) : State :=
  (s.addSat (cnt16 FM_CORR_CNT) n).addWrap (FM_CH_STAT_corr (a / 256 % 8)) n

/-- Free values for every lane of a slice, its marks kept. -/
def State.freeSlice (s : State) (l : Slice) : Slice × State :=
  (l.zipIdx.map (fun x => { x.1 with word := (Config.freeValue (s.free + x.2)).truncate 16 }),
    { s with free := s.free + l.length })

/-- An integer between the two neighbours of a quotient: the spec gives no rounding (DESIGN CHOICE, notes/assumptions/2). -/
def State.rounded (s : State) (num : Int) (den : Nat) : Int × State :=
  if num % den = 0 then (num / den, s) else s.drawInt (num / den) (num / den + 1)

/-- The crossfade of R333: over the 64 samples of a slice of every channel, linearly from the samples that would have
continued to those that follow; where the former are not known the result is free. -/
def State.crossfade (s : State) (from_ : Option Slice) (l : Slice) : Slice × State :=
  let ch := l.length / 128
  match from_ with
  | none => s.freeSlice l
  | some o =>
    if ch = 0 ∨ o.length ≠ l.length then s.freeSlice l else
    (List.range (64 * ch)).foldl (fun (acc : Slice × State) j =>
      let pair (x : Slice) : Sample × Sample := (x.getD (2 * j) ⟨0, marksNone⟩, x.getD (2 * j + 1) ⟨0, marksNone⟩)
      let (x, y) := pair o
      let (u, v) := pair l
      let i : Int := ((j / ch : Nat) : Int)
      let (z, s) := acc.2.rounded (pcmOf x y * (64 - i) + pcmOf u v * i) 64
      (acc.1 ++ pcmWords z (marksOr (marksOr x.marks y.marks) (marksOr u.marks v.marks)), s)) ([], s)

/-- The lane words of each slice of a line of a stream. -/
def State.shapeOf (s : State) (d : Nat) : List Nat :=
  if (s.stream d).shape.isEmpty then List.replicate (s.dsStride d / 320) 128 else (s.stream d).shape

/-- A line of a unit in a base is read, checked, and delivered to the stream's readers, or substituted in place (R324,
R338, R339). -/
def State.readLine (s : State) (d base line : Nat) (c : LineCheck) : State :=
  let x := s.stream d
  let a := s.lineAddr d base line
  let svc := s.g (DS_CTL_service d)
  -- A line that its writer has not completed is checked by ECC only.
  let open_ := base == s.g (DS_STAT_widx d) && decide (x.line < line)
  let crc := c.crcBad && !open_
  let bad := crc || c.uncorrectable != 0
  let s := s.when (c.corrected != 0) (fun s => (s.fmCorrected a c.corrected).addSat (DS_ERR_corr d) c.corrected)
  let s := s.when (c.uncorrectable != 0) (fun s =>
    (s.addSat (cnt16 FM_UNCORR_CNT) c.uncorrectable).pb FM_STICKY_uncorr true)
  let s := s.when crc (fun s => (s.inc (cnt16 FM_CRC_ERR_CNT)).pb FM_STICKY_crc true)
  let s := s.when bad (fun s =>
    let s := (s.inc (cnt16 FM_SUBST_CNT)).inc (DS_ERR_subst d)
    let s := (s.wr FM_LAST_ERR_ADDR (BitVec.ofNat 32 a)).wr FM_LAST_ERR_INFO
      (BitVec.ofNat 32 ((if c.uncorrectable = 0 then 2 ^ 31 else 0) + svc * 65536 + d))
    s.wr64 FM_LAST_ERR_TT_LO s.clock.ns)
  let shape := s.shapeOf d
  let stored := slicesOf shape (s.readFm a (s.dsStride d))
  let (l, s) :=
    if bad then
      (if x.audio then shape.map (fun n => (List.replicate n (⟨0, { marksNone with fill := true }⟩ : Sample)))
       else if s.bit (DS_FILL_fill d) && line != 1 && !x.feed.line.isEmpty then x.feed.line.map fillMarked
       else shape.map (blackSlice false (s.dsBlack d)), s)
    else match x.joint, stored with
      | some j, h :: t =>
        let was := if j < s.dsBases d then (slicesOf shape (s.readFm (s.lineAddr d j 1) (s.dsStride d))).head? else none
        let (h, s) := s.crossfade was h
        (h :: t, s)
      | _, l => (l, s)
  let s := s.setStream d { s.stream d with
    feed := ⟨x.feed.seq + 1, l, x.feed.cur⟩, subst := x.subst + (if bad then 1 else 0), joint := none }
  let s := s.each (lineSlices line l) (fun s q => s.fanOut 2 d q)
  let half := s.dsLines d / 2
  let s := s.lineToPorts (2048 + d) (if s.bit (DS_CTL_pair d) && decide (half < line) then line - half else line) l
  if line = s.dsLines d then s.endReading d else s

/-- A reader of a stream asks for a line of the unit in reading (R324): whether it is served at once, or held (R336,
R337). The lines of a unit are asked for in order, each once; none other is read (R40). -/
def State.askLine (s : State) (d line : Nat) (c : LineCheck) : Bool × State :=
  -- A yo-yo's unit is read to its end though its stream has stopped (R321).
  let reads := if (s.yoyoOf d).isSome then (s.stream d).reading.isSome else s.g (DS_STAT_state d) == 2
  if !reads || line != (s.stream d).lineRead + 1 || decide (s.dsLines d < line) then (false, s) else
  let s := s.setStream d { s.stream d with lineRead := line }
  s.lineAsks d ((s.shapeOf d).map sliceLen).sum (.read (s.g (DS_STAT_ridx d)) line c)

/-- The sum of DS_RES over enabled streams, one of them with a new enable bit (R335). -/
def State.resSum (s : State) (d : Nat) (en : Bool) : Nat :=
  let on := (s.cells.filter (fun c => decide (0xC00000 ≤ c.1) && decide (c.1 < 0xC10000) && c.1 % 64 == 0 &&
    c.2.getLsbD 31)).map (fun c => (c.1 - 0xC00000) / 64)
  ((on.filter (· != d)).map (fun i => s.g (DS_RES_res i))).foldl (· + ·) (if en then s.g (DS_RES_res d) else 0)

/-- The streams enabled, in rising order. -/
def State.streamsOn (s : State) : List Nat :=
  (s.cells.filter (fun c => decide (0xC00000 ≤ c.1) && decide (c.1 < 0xC10000) && c.1 % 64 == 0 &&
    c.2.getLsbD 31)).map (fun c => (c.1 - 0xC00000) / 64)

/-- What a written enable bit brings about (R321): an enabled stream waits for its first unit start; frame memory
wakes for it. -/
def State.dsChanged (s : State) (d : Nat) : State :=
  if s.bit (DS_CTL_enable d) && s.g (DS_STAT_state d) == 0 then
    (s.p (DS_STAT_state d) 1).wakeUsed rFm
  else if !s.bit (DS_CTL_enable d) && s.g (DS_STAT_state d) == 1 then s.p (DS_STAT_state d) 0
  else s

end Sys2Proof.Machine
end

