-- ==== Sys2Proof/Machine/Engine.lean ====
section
/-! DEFINITION. Stream engines: task parameters, activations, kernels, cancels, sheds, the carousel and the ring
arbiter (R281–R311). -/

namespace Sys2Proof.Machine

/-! ### Tasks -/

/-- The engine at which a part is resident or arriving (R300). -/
def State.partEngine (s : State) (p : Nat) : Nat := (p + s.se.moves) % 16

/-- The part resident at an engine. -/
def State.enginePart (s : State) (e : Nat) : Nat := (e + 16 - s.se.moves % 16) % 16

/-- The engine that runs a task: its own, or for a carousel task the one that holds its part (R301). -/
def State.engineOf (s : State) (t : TaskId) : Nat := if t.2 < 56 then t.1 else s.partEngine t.1

/-- The task in a slot of an engine (R301). -/
def State.slotTask (s : State) (e slot : Nat) : TaskId := if slot < 56 then (e, slot) else (s.enginePart e, slot)

/-- The class code of a service (R347). -/
def State.classOfSvc (s : State) (svc : Nat) : Nat := s.g (SV_CTL_class svc)

/-- The cycles of a kernel for a 64-pixel slice (kernel ROM, R293). -/
def kernelCycles (k : Nat) : Nat :=
  [8, 6, 12, 24, 10, 20, 32, 20, 20, 36, 36, 10, 20, 12, 16, 16, 24, 12, 16, 8, 16, 4, 16, 10].getD k 36

/-- The cycles of an activation: half, rounded up, for 32-pixel slices (R293). -/
def TaskDesc.cycles (t : TaskDesc) : Nat :=
  if t.half then (kernelCycles t.kernel + 1) / 2 else kernelCycles t.kernel

/-- Parameter words that a kernel names (R293). -/
def kernelWords (k : Nat) : List Nat :=
  match k with
  | 2 => [0, 1, 2] | 3 => [0, 1, 2, 3, 4, 5, 6, 7, 8, 9] | 4 => [0] | 5 => [0, 1] | 6 => [0, 1, 2, 3, 4]
  | 7 => [0] | 8 => [0] | 9 => [0, 1] | 10 => [0, 1, 2] | 11 => [0, 1] | 12 => [0, 1, 2, 3, 4] | 13 => [0, 1]
  | 14 => [0, 1, 2] | 15 => [0, 1, 2] | 16 => List.range 16 | 17 => [0, 1, 2, 3] | 18 => [0, 1, 2, 3]
  | 19 => [0, 1] | 20 => [0, 1] | 21 => [0, 1, 2, 8, 9, 10, 11, 12, 13, 14, 15] | 22 => [0, 1, 2, 3] | 23 => [0]
  | _ => []

/-- The parameter rules of a kernel that its bank alone decides (R291, R293). -/
def bankOk (k : Nat) (w : Nat → W32) : Bool :=
  ((List.range 16).filter (fun i => !(kernelWords k).contains i)).all (fun i => w i == 0) &&
  (match k with
   | 2 => decide (bitsOf (w 0) 2 0 ≤ 4)
   | 5 => decide (bitsOf (w 0) 1 0 ≤ 1)
   | 6 =>
     let white := bitsOf (w 1) 15 0
     let peak := bitsOf (w 2) 15 0
     let gamma := bitsOf (w 3) 15 0
     decide (bitsOf (w 0) 2 0 ≤ 5) && decide (1 ≤ white) && decide (white ≤ 10000) && decide (white ≤ peak) &&
       decide (1000 ≤ gamma) && decide (gamma ≤ 1500)
   | 9 => decide (0x4000 ≤ (w 0).toNat) && decide ((w 0).toNat ≤ 0x40000)
   | 10 => decide (0x4000 ≤ (w 0).toNat) && decide ((w 0).toNat ≤ 0x40000) && decide (bitsOf (w 1) 1 0 ≤ 2)
   | 13 => decide (bitsOf (w 0) 7 4 < bitsOf (w 0) 3 0) && decide (bitsOf (w 0) 3 0 ≤ 4)
   | 17 =>
     let n := bitsOf (w 1) 15 0
     decide (1 ≤ n) && decide (n ≤ 4096) && decide (bitsOf (w 3) 3 0 ≤ 12)
   | 18 => decide (bitsOf (w 3) 3 0 ≤ 14)
   | 19 => decide (bitsOf (w 0) 1 0 ≤ 2)
   | 20 => decide (bitsOf (w 0) 12 0 ≤ 4096)
   | 21 => decide (bitsOf (w 0) 5 4 ≤ 2)
   | 23 => decide (bitsOf (w 0) 2 1 ≤ 2)
   | _ => true)

/-- The words of a bank of a task. -/
def State.bankWord (s : State) (t : TaskId) (b i : Nat) : W32 := s.lmWord (bankAddr t b i)

/-- The result registers that a task writes under a bank (R294). -/
def State.resultsOf (s : State) (t : TaskDesc) (b : Nat) : List Nat :=
  let w := s.bankWord t.id b
  match t.kernel with
  | 14 => if (w 2).getLsbD 0 then [15] else []
  | 17 => let r := bitsOf (w 3) 3 0; [r, r + 1, r + 2, r + 3]
  | 18 => let r := bitsOf (w 3) 3 0; [r, r + 1]
  | 19 => [bitsOf (w 1) 3 0]
  | _ => []

/-- The enable and bank bits of a task in the registers (R291, R301). -/
def State.enBit (s : State) (t : TaskId) : Bool := s.bitOf (SE_TASK_EN t.1 (t.2 / 32)) (t.2 % 32)
def State.bankBit (s : State) (t : TaskId) : Nat := if s.bitOf (SE_TASK_BANK t.1 (t.2 / 32)) (t.2 % 32) then 1 else 0

/-- The yo-yo rules that other settings decide (R328, R333). -/
def State.yoyoOk (s : State) (t : TaskDesc) (b : Nat) : Bool :=
  if t.kernel ≠ 13 then true else
  match t.ins.head? with
  | some (2, d) =>
    let w0 := s.bankWord t.id b 0
    let w1 := s.bankWord t.id b 1
    decide (bitsOf w0 3 0 ≤ s.dsBases d) && (w0.getLsbD 8 == s.bit (DS_CTL_pair d)) &&
      s.se.tasks.all (fun u => u.id == t.id || u.kernel != 13 || !s.enBit u.id || u.ins.head? != some (2, d)) &&
      (match followerOf t w1 with
       | none => true
       | some a => s.bit (DS_CTL_timing a) && s.g (DS_CTL_nb a) == s.g (DS_CTL_nb d))
  | _ => false

/-! ### Results and watches -/

/-- The cue of a WATCH task enters as source ENGINE with the service of its slot; its launch time is the cause time
plus the template's delay (R101, R295). -/
def State.engineCue (s : State) (t : TaskDesc) : State :=
  let r := cueOfWords ((List.range 8).map (fun i => s.param t.id (8 + i)))
  let r := { r with launch := BitVec.ofNat 64 (s.now + r.launch.toNat), service := BitVec.ofNat 8 t.service }
  -- In a DRAIN the cue is refused (R146).
  let s := if s.dev = .drain then s.drainDrop 1
    else { s with cue := { s.cue with engIn := s.cue.engIn ++ [(t.service, [r])] } }
  s.incWrap (word (SE_CUE_OUT_CNT (s.engineOf t.id)))

/-- A WATCH task compares its result register at each write of it (R295). -/
def State.watch (s : State) (t : TaskDesc) (v : W32) : State :=
  let x := s.taskSt t.id
  let inside := decide ((s.param t.id 1).toInt ≤ v.toInt) && decide (v.toInt ≤ (s.param t.id 2).toInt)
  let edge := bitsOf (s.param t.id 0) 5 4
  let hit := (x.inside == some true && !inside && edge != 1) || (x.inside == some false && inside && edge != 0)
  let s := s.setTask t.id { x with inside := some inside }
  if hit then s.engineCue t else s

/-- A result register of an engine is written (R294, R295). -/
def State.writeResult (s : State) (e k : Nat) (v : W32) : State :=
  let s := s.wr (SE_RESULT e k) v
  s.each (s.se.tasks.filter (fun t => t.kernel == 21 && t.id.1 == e && (s.taskSt t.id).on &&
    bitsOf (s.param t.id 0) 3 0 == k)) (fun s t => s.watch t v)

/-! ### Kernels -/

/-- Whether a slice ends a frame of a task's raster: the last line of its format, or of its input stream's unit. -/
def State.endsFrame (s : State) (t : TaskDesc) (q : QSlice) : Bool :=
  q.last && (match formatOf (s.g (TB_RG_CTL_format (t.rg % 16))) with
    | some f => if t.rg < 16 then decide (f.lines ≤ q.line) else false
    | none => false)

/-- Whether a slice ends a field (R294): the last line of either field of an interlaced format, else of the frame. -/
def State.endsField (s : State) (t : TaskDesc) (q : QSlice) : Bool :=
  s.endsFrame t q || (q.last && (match formatOf (s.g (TB_RG_CTL_format (t.rg % 16))) with
    | some f => t.rg < 16 && f.interlaced && q.line == f.field2 - 1
    | none => false))

/-- The OR of the marks of several slices at one place, and over one slice. -/
def marksAt (l : List Slice) (i : Nat) : Marks :=
  l.foldl (fun m sl => marksOr m ((sl.map (·.marks)).getD i marksNone)) marksNone

/-- A slice of `n` free words with the marks that a function gives (R289, DESIGN CHOICE, notes/assumptions/2). -/
def State.freeWords (s : State) (n : Nat) (m : Nat → Marks) : Slice × State :=
  ((List.range n).map (fun i => ⟨(Config.freeValue (s.free + i)).truncate 16, m i⟩), { s with free := s.free + n })

/-- Words of a slice that belong to one component, with their pixel index. -/
def componentWords (half : Bool) (l : Slice) (c : Nat) : List Sample :=
  (l.zipIdx.filter (fun x => componentAt half l.length x.2 == c)).map (·.1)

/-- The largest sum that a lane's accumulator holds (R297). -/
def accMax : Int := 2 ^ 47 - 1

/-- One lane adds a square; it pins at its extreme on overflow and ignores what follows (R297). -/
def laneAdd (x : Int × Bool) (v : Nat) : Int × Bool :=
  if x.2 then x else
  let y := x.1 + (v : Int) * v
  if accMax < y then (accMax, true) else (y, false)

/-- The accumulator of a slot saturates: marked, counted for the engine and the service, and recorded (R297). -/
def State.accSat (s : State) (t : TaskDesc) (lane : Nat) : State :=
  let e := s.engineOf t.id
  let s := (s.inc (cnt16 (SE_ACC_SAT_CNT e))).pb (SE_STICKY_sat e) true
  (s.inc (SV_MEDIA_CNT_sat t.service)).wr (SE_LAST_SAT e)
    (BitVec.ofNat 32 (t.service * 2 ^ 24 + t.id.2 * 65536 + lane))

/-- K17 sums the squares of a slice; samples go to the 32 lanes in turn (DESIGN CHOICE, notes/assumptions/12). -/
def State.levelSlice (s : State) (t : TaskDesc) (b : Nat) (q : QSlice) : State :=
  let x := s.taskSt t.id
  let w2 := s.bankWord t.id b 2
  let all := componentWords t.half q.data (bitsOf w2 1 0)
  let pos := x.pos * (if t.half then 32 else 64)
  let used := if bitsOf w2 3 2 = 1 then all
    else (all.zipIdx.filter (fun y => Config.activeSample (s.g (TB_RG_CTL_format (t.rg % 16))) q.line (pos + y.2))).map
      (·.1)
  let lanes0 := if x.lanes.isEmpty then List.replicate 32 ((0 : Int), false) else x.lanes
  let lanes := used.zipIdx.foldl (fun l y => l.set (y.2 % 32) (laneAdd (l.getD (y.2 % 32) (0, false)) y.1.word.toNat)) lanes0
  let newPin := lanes.any (·.2) && !lanes0.any (·.2)
  let vs := used.map (·.word.toNat)
  let s := s.setTask t.id { x with
    lanes := lanes, hi := vs.foldl Nat.max x.hi, lo := vs.foldl Nat.min x.lo, count := x.count + vs.length,
    pos := if q.last then 0 else x.pos + 1 }
  if newPin then s.accSat t ((lanes.findIdx? (·.2)).getD 0) else s

/-- K17 writes its results when its window ends, and the next sum starts from zero (R294, R297). -/
def State.levelEnd (s : State) (t : TaskDesc) (b : Nat) : State :=
  let x := s.taskSt t.id
  let pinned := x.lanes.any (·.2)
  let sum := x.lanes.foldl (fun a l => a + l.1) (0 : Int)
  let past := pinned || decide (accMax < sum)
  let s := if past && !pinned then s.accSat t 0 else s
  let v := if past then accMax else sum
  let r := bitsOf (s.bankWord t.id b 3) 3 0
  let e := t.id.1
  let s := s.setTask t.id { x with lanes := [], hi := 0, lo := 65535, count := 0, frames := 0 }
  let s := (s.writeResult e r (sword v)).writeResult e (r + 1) (sword (v / 4294967296))
  let s := s.writeResult e (r + 2) (BitVec.ofNat 32 (x.hi * 65536 + x.lo))
  s.writeResult e (r + 3) (BitVec.ofNat 32 ((if past then 2 ^ 31 else 0) + x.count % 2 ^ 31))

/-- K17 on one slice (R293, R294). -/
def State.level (s : State) (t : TaskDesc) (b : Nat) (q : QSlice) : State :=
  let s := s.levelSlice t b q
  let w := bitsOf (s.bankWord t.id b 0) 1 0
  let frame := s.endsFrame t q
  if w = 0 then (if q.last then s.levelEnd t b else s)
  else if w = 1 then (if s.endsField t q then s.levelEnd t b else s)
  else if w = 2 then (if frame then s.levelEnd t b else s)
  else if frame then
    let n := (s.taskSt t.id).frames + 1
    let s := s.setTask t.id { s.taskSt t.id with frames := n }
    if bitsOf (s.bankWord t.id b 1) 15 0 ≤ n then s.levelEnd t b else s
  else s

/-- The key of a local-memory word at a byte offset of a task's engine or part (R282, R299). -/
def lmKey (t : TaskId) (off : Nat) : Nat :=
  if t.2 < 56 then 131072 * t.1 + off / 4 else 16 * 131072 + 32768 * t.1 + off / 4

/-- K18 counts samples in 256 bins and against its thresholds (R293, R294). -/
def State.hist (s : State) (t : TaskDesc) (b : Nat) (q : QSlice) : State :=
  let x := s.taskSt t.id
  let vs := (componentWords t.half q.data (bitsOf (s.bankWord t.id b 0) 1 0)).map (·.word.toNat)
  let low := bitsOf (s.bankWord t.id b 2) 15 0
  let high := bitsOf (s.bankWord t.id b 2) 31 16
  let bins := (s.bankWord t.id b 1).toNat
  let s := s.each vs (fun s v =>
    let k := lmKey t.id (bins + v / 256 * 4)
    s.setLm k (s.lmWord k + 1))
  let x := { x with below := x.below + (vs.filter (fun v => decide (v < low))).length,
                    above := x.above + (vs.filter (fun v => decide (high < v))).length }
  if s.endsFrame t q then
    let r := bitsOf (s.bankWord t.id b 3) 3 0
    let s := s.setTask t.id { x with below := 0, above := 0 }
    (s.writeResult t.id.1 r (BitVec.ofNat 32 x.below)).writeResult t.id.1 (r + 1) (BitVec.ofNat 32 x.above)
  else s.setTask t.id x

/-- Marks kept of those that a 4-bit selection names, in the order OVR, SUSPECT, SAT, FILL (DESIGN CHOICE, notes/assumptions/11). -/
def marksMask (n : Nat) (m : Marks) : Marks :=
  ⟨m.ovr && n.testBit 0, m.suspect && n.testBit 1, m.sat && n.testBit 2, m.fill && n.testBit 3⟩

/-- K19 widens marks over its scope from the slice that carries them on, clears marks, and counts the marked samples
of its last scope (R289, R293, R294). -/
def State.qmark (s : State) (t : TaskDesc) (b : Nat) (q : QSlice) : Slice × State :=
  let x := s.taskSt t.id
  let w := s.bankWord t.id b 0
  let scope := bitsOf w 1 0
  let seen := marksOr x.seen (marksMask (bitsOf w 7 4) (sliceMarks q.data))
  let out := q.data.map (fun y =>
    { y with marks := marksMask (15 - bitsOf w 11 8) (marksOr y.marks seen) })
  let n := x.marked + (q.data.filter (fun y => marksAny y.marks)).length
  let done := scope == 0 || (scope == 1 && q.last) || (scope == 2 && s.endsFrame t q)
  let s := s.setTask t.id { x with seen := if done then marksNone else seen, marked := if done then 0 else n }
  let s := if done then s.writeResult t.id.1 (bitsOf (s.bankWord t.id b 1) 3 0) (BitVec.ofNat 32 n) else s
  (out, s)

/-- Each sample of a slice taken through a function that may draw free values. -/
def State.mapSlice (s : State) (l : Slice) (f : State → Nat → Sample → Sample × State) : Slice × State :=
  l.zipIdx.foldl (fun (acc : Slice × State) x => let (y, s) := f acc.2 x.2 x.1; (acc.1 ++ [y], s)) ([], s)

/-- An entry of the table of a K05 task: 1,024 entries of 16 bits for each component (R293). -/
def State.tfEntry (s : State) (t : TaskDesc) (c i : Nat) : Nat :=
  let off := t.table + (1024 * c + i) * 2
  let w := (s.lmWord (lmKey t.id off)).toNat
  if off % 4 = 0 then w % 65536 else w / 65536

/-- K05: each sample of the components it works on is replaced by its table entry; the entry of a 16-bit level is that
of its top ten bits, and its low six bits place it between two entries when they are interpolated (R293). Above the
last entry the interpolated value is free. -/
def State.tfLut (s : State) (t : TaskDesc) (b : Nat) (q : QSlice) : Slice × State :=
  let every := bitsOf (s.bankWord t.id b 0) 1 0 = 1
  let interp := (s.bankWord t.id b 1).getLsbD 0
  let n := q.data.length
  s.mapSlice q.data (fun s i y =>
    let c := componentAt t.half n i
    if !every && c != 0 then (y, s) else
    let k := y.word.toNat / 64
    let e := s.tfEntry t c k
    let part := y.word.toNat % 64
    if !interp || part == 0 then ({ y with word := BitVec.ofNat 16 e }, s)
    else if k = 1023 then let (v, s) := s.draw; ({ y with word := v.truncate 16 }, s)
    else
      let (v, s) := s.rounded (64 * (e : Int) + part * ((s.tfEntry t c (k + 1) : Int) - e)) 64
      ({ y with word := BitVec.ofInt 16 v }, s))

/-- A slice whose words the spec leaves open may have been clipped at its output: the runs that count are free within
what its length admits (R298, DESIGN CHOICE, notes/assumptions/2). -/
def State.clipFree (s : State) (t : TaskDesc) (l : Slice) : Slice × State :=
  let e := s.engineOf t.id
  let (n, s) := s.drawIn 0 ((l.length + 1) / 2)
  (l, s.when (n != 0) (fun s => (s.addSat (cnt16 (SE_CLIP_CNT e)) n).pb (SE_STICKY_clip e) true))

/-- Computed values are held within the bounds that a kernel's output allows; each run of consecutive clipped samples
of a slot counts once (R298). -/
def State.clip (s : State) (t : TaskDesc) (lo hi : Int) (l : List (Int × Marks)) : List (Int × Marks) × State :=
  let e := s.engineOf t.id
  let x := s.taskSt t.id
  let step (acc : List (Int × Marks) × Bool × Nat) (y : Int × Marks) : List (Int × Marks) × Bool × Nat :=
    let past := decide (y.1 < lo) || decide (hi < y.1)
    (acc.1 ++ [(max lo (min hi y.1), y.2)], past, if past && !acc.2.1 then acc.2.2 + 1 else acc.2.2)
  let (l, run, n) := l.foldl step ([], x.clipping, 0)
  let s := s.setTask t.id { x with clipping := run }
  (l, s.when (n != 0) (fun s => (s.addSat (cnt16 (SE_CLIP_CNT e)) n).pb (SE_STICKY_clip e) true))

/-- A slice of 16-bit levels held within the bounds of a kernel (R298). -/
def State.clipWords (s : State) (t : TaskDesc) (lo hi : Nat) (l : List (Int × Marks)) : Slice × State :=
  let (l, s) := s.clip t lo hi l
  (l.map (fun y => ⟨BitVec.ofInt 16 y.1, y.2⟩), s)

/-- The levels of a slice. -/
def levelsOf (l : Slice) : List (Int × Marks) := l.map (fun y => ((y.word.toNat : Int), y.marks))

/-- A signed half of a parameter word, by its number in a run of halves that begins at word `i`, low half first. -/
def halfAt (w : Nat → W32) (i k : Nat) : Int :=
  let v := (w (i + k / 2)).toNat
  signedField 16 (if k % 2 = 0 then v % 65536 else v / 65536)

/-- One output component of K03: nine Q13 coefficients in row order, offsets added before and after (R293; that an offset
is added is a DESIGN CHOICE, notes/assumptions/12). -/
def State.matrixRow (s : State) (w : Nat → W32) (r : Nat) (v : List Int) : Int × State :=
  let sum := (List.range 3).foldl (fun a j => a + halfAt w 0 (3 * r + j) * (v.getD j 0 + halfAt w 5 j)) (0 : Int)
  let (x, s) := s.rounded sum 8192
  (x + halfAt w 5 (3 + r), s)

/-- K03: every pixel of a 4:4:4 slice, and the co-sited pixel of each pair of a 4:2:2 slice, goes through the matrix; the
other luma sample of the pair is free within the bounds of the output (R293). -/
def State.matrix (s : State) (t : TaskDesc) (w : Nat → W32) (d : Slice) (m : Nat → Marks) : Slice × State :=
  let pairs := (w 9).getLsbD 0
  let g := if pairs then 4 else 3
  -- The places of components 0, 1 and 2 in a group of lane words.
  let places := if pairs then [1, 0, 2] else [0, 1, 2]
  let (l, s) := d.zipIdx.foldl (fun (acc : List (Int × Marks) × State) x =>
    let i := x.2
    let v := places.map (fun k => match d[i / g * g + k]? with | some y => (y.word.toNat : Int) | none => 0)
    let (z, s) := match places.idxOf? (i % g) with
      | some r => acc.2.matrixRow w r v
      | none => acc.2.drawInt 0 65535
    (acc.1 ++ [(z, m i)], s)) ([], s)
  s.clipWords t (bitsOf (w 8) 15 0) (bitsOf (w 8) 31 16) l

/-- K04 where its output range is its input range: the words stay, held to the legal codes when the bank says so; of the
two highest legal codes that which fits the depth of the format is not given, so it is free (R293, R297). -/
def State.range (s : State) (t : TaskDesc) (d : Slice) (legal : Bool) : Slice × State :=
  if !legal then (d, s) else
  let (k, s) := s.drawIn 0 1
  s.clipWords t 0x0100 (if k = 0 then 0xFEC0 else 0xFEF0) (levelsOf d)

/-- The lane words of a slice regrouped: each group of `g` gives the words at the places listed. -/
def regroup (g : Nat) (places : List Nat) (d : Slice) : Slice :=
  (List.range (d.length / g)).flatMap (fun k => places.filterMap (fun j => d[k * g + j]?))

/-- K20 at a fixed weight: the two inputs in parts of 4,096 (R293). -/
def State.mix (s : State) (w : Nat) (a b : Slice) (m : Nat → Marks) : Slice × State :=
  s.mapSlice a (fun s i y =>
    let z : Int := match b[i]? with | some z => z.word.toNat | none => 0
    let (v, s) := s.rounded ((y.word.toNat : Int) * (4096 - w) + z * w) 4096
    (⟨BitVec.ofInt 16 v, m i⟩, s))

/-- K20 on the way to its weight: every word lies between the two inputs; the spec does not say where a ramp begins
(DESIGN CHOICE, notes/assumptions/2). -/
def State.mixRamp (s : State) (a b : Slice) (m : Nat → Marks) : Slice × State :=
  s.mapSlice a (fun s i y =>
    let u := y.word.toNat
    let z := match b[i]? with | some z => z.word.toNat | none => 0
    let (v, s) := s.drawIn (min u z) (max u z)
    (⟨BitVec.ofNat 16 v, m i⟩, s))

/-- K16: each of eight output channels is a channel of in0 or in1 times its gain, held to 24 bits (R293, R298). The samples
of the channels follow one another, low half first (DESIGN CHOICE, notes/assumptions/12); of a channel that no input
carries the samples are free. -/
def State.audMix (s : State) (t : TaskDesc) (w : Nat → W32) (a b : Slice) : Slice × State :=
  let n := 64
  let pick (i k : Nat) : Option (Sample × Sample) :=
    let src := bitsOf (w (8 + k)) 4 0
    let l := if src < 16 then a else b
    let ch := l.length / (2 * n)
    if ch ≤ src % 16 then none else
    match l[2 * (ch * i + src % 16)]?, l[2 * (ch * i + src % 16) + 1]? with
    | some x, some y => some (x, y)
    | _, _ => none
  let (l, s) := (List.range (8 * n)).foldl (fun (acc : List (Int × Marks) × State) j =>
    match pick (j / 8) (j % 8) with
    | some (x, y) =>
      let (v, s) := acc.2.rounded (pcmOf x y * bitsOf (w (j % 8)) 15 0) 16384
      (acc.1 ++ [(v, marksOr x.marks y.marks)], s)
    | none => let (v, s) := acc.2.drawInt (-8388608) 8388607; (acc.1 ++ [(v, marksNone)], s)) ([], s)
  let (l, s) := s.clip t (-8388608) 8388607 l
  (l.flatMap (fun y => pcmWords y.1 y.2), s)

/-- K11 delays by whole lines; lines from before the task ran read as the words 0 of its buffer after LOAD (R293). -/
def State.lineDelay (s : State) (t : TaskDesc) (b : Nat) (q : QSlice) : Slice × State :=
  let x := s.taskSt t.id
  let d := bitsOf (s.bankWord t.id b 0) 7 0
  let zero : Slice := q.data.map (fun _ => ⟨0, marksNone⟩)
  let out := if d = 0 then q.data else ((x.delay.getD (d - 1) []).getD x.pos zero)
  let cur := x.held ++ [q.data]
  (out, s.setTask t.id { x with
    delay := if q.last then (cur :: x.delay).take 256 else x.delay,
    held := if q.last then [] else cur, pos := if q.last then 0 else x.pos + 1 })

/-- The output slices of a task that processes its input slices with a bank, one for each output it names, and the state
with what the kernel keeps (R289, R293). A kernel whose arithmetic the spec does not give yields free words within the
bounds of its output (DESIGN CHOICE, notes/assumptions/2). -/
def State.compute (s : State) (t : TaskDesc) (b : Nat) (ins : List QSlice) : List Slice × State :=
  let q := ins.headD ⟨[], 0, false⟩
  let d := q.data
  let n := if ins.isEmpty then (if t.half then 64 else 128) else d.length
  let p (i : Nat) : W32 := s.bankWord t.id b i
  let all := ins.map (·.data)
  let d1 := all.getD 1 []
  let here (i : Nat) : Marks := marksAt all i
  let whole (_ : Nat) : Marks := all.foldl (fun m l => marksOr m (sliceMarks l)) marksNone
  let group (g : Nat) (i : Nat) : Marks :=
    (List.range g).foldl (fun m j => marksOr m (marksAt all (i / g * g + j))) marksNone
  let pixels := group (if n = (if t.half then 64 else 128) then 4 else 3)
  let one (r : Slice × State) : List Slice × State := ([r.1], r.2)
  match t.kernel with
  | 0 => ([d], s)
  | 1 => ([(blackSlice t.half t.black n).map (fun x => { x with marks := marksNone })], s)
  | 2 =>
    if bitsOf (p 0) 2 0 = 3 then
      let c : List (BitVec 16) := [(p 1).truncate 16, (p 1 >>> 16).truncate 16, (p 2).truncate 16]
      ([(List.range n).map (fun i => ⟨c.getD (componentAt t.half n i) 0, marksNone⟩)], s)
    else one (s.freeWords n (fun _ => marksNone))
  | 3 => one (s.matrix t p d (group (if (p 9).getLsbD 0 then 4 else 3)))
  | 4 =>
    if (p 0).getLsbD 0 = (p 0).getLsbD 1 then one (s.range t d ((p 0).getLsbD 2))
    else let (l, s) := s.freeWords n here; one (s.clipFree t l)
  | 5 => one (s.tfLut t b q)
  | 6 => let (l, s) := s.freeWords n pixels; one (s.clipFree t l)
  | 7 =>
    if bitsOf (p 0) 1 0 = 3 ∧ n % 6 = 0 then ([regroup 6 [1, 0, 2, 3] d], s)
    else let (l, s) := s.freeWords (if n % 3 = 0 then n / 3 * 2 else n) whole; one (s.clipFree t l)
  | 8 =>
    if bitsOf (p 0) 1 0 = 3 ∧ n % 4 = 0 then ([regroup 4 [1, 0, 2, 3, 0, 2] d], s)
    else let (l, s) := s.freeWords (n / 2 * 3) whole; one (s.clipFree t l)
  | 11 => one (s.lineDelay t b q)
  | 12 =>
    let (l, s) := s.freeWords n pixels
    one (s.clipWords t (bitsOf (p 4) 15 0) (bitsOf (p 4) 31 16) (levelsOf l))
  | 13 => ([d], s)
  | 14 =>
    let (l, s) := s.freeWords n whole
    if (p 2).getLsbD 0 && s.endsFrame t q then
      let (v, s) := s.draw
      ([l], s.writeResult t.id.1 15 (v.truncate 32))
    else ([l], s)
  | 16 => one (s.audMix t p d d1)
  | 17 => ([d], s.level t b q)
  | 18 => ([d], s.hist t b q)
  | 19 => one (s.qmark t b q)
  | 20 =>
    if bitsOf (p 1) 15 0 = 0 then one (s.mix (bitsOf (p 0) 12 0) d d1 here)
    else one (s.mixRamp d d1 here)
  | 22 => if bitsOf (p 1) 1 0 = 0 then ([d], s) else one (s.freeWords n whole)
  | 23 =>
    if (p 0).getLsbD 0 then
      ((List.range 3).map (fun c => componentWords t.half d c), s)
    else
      let m := (all.map List.length).foldl (· + ·) 0
      let pick (i : Nat) : Sample :=
        let c := componentAt t.half m i
        let j := ((List.range i).filter (fun k => componentAt t.half m k == c)).length
        (all.getD c []).getD j ⟨0, marksNone⟩
      ([(List.range m).map pick], s)
  | 9 | 10 => let (l, s) := s.freeWords n whole; one (s.clipFree t l)
  | _ => one (s.freeWords n whole)

/-! ### Delivery -/

/-- The slice of a task's raster that holds the pixel at an instant, on the grid of the frame in progress and of the next:
the instant of its first pixel, its line, and whether it ends that line (R77, R284, R285). -/
def State.sliceAt (s : State) (t : TaskDesc) (at_ : Nat) : Option (Nat × QSlice) :=
  let r := s.rg (t.rg % 16)
  match formatOf r.format with
  | none => none
  | some f =>
    let u : Int := (at_ : Int) - r.offset
    if 16 ≤ t.rg ∨ !r.running ∨ u < 0 then none else
    let frame := f.lines * f.samples
    let pixel := ((u.toNat + 1) * (f.m * frame) - 1) / f.p
    let k := pixel / frame
    let x := pixel % f.samples
    let w := if t.half then 32 else 64
    if k = r.frame ∨ (k = r.frame + 1 ∧ !r.held) then
      let line := pixel % frame / f.samples + 1
      some ((f.inst r.offset k line (x - x % w)).toNat, ⟨[], line, decide (f.samples ≤ x / w * w + w)⟩)
    else none

/-- The output slice for which a task without inputs becomes ready: its first pixel lies a budget ahead, and it has not
been made (R285). -/
def State.genSlice (s : State) (t : TaskDesc) : Option (Nat × QSlice) :=
  (s.sliceAt t (s.now + t.budget)).filter (fun x => decide ((s.taskSt t.id).genTo ≤ x.1))

/-- A task delivers its output slices: counted, kept for REPEAT_LINE, and sent to its outputs (R290, R305). -/
def State.putOut (s : State) (t : TaskDesc) (q : QSlice) (outs : List Slice) : State :=
  let e := s.engineOf t.id
  let x := s.taskSt t.id
  let cur := x.cur ++ [outs.headD []]
  let s := s.setTask t.id { x with cur := if q.last then [] else cur, prev := if q.last then cur else x.prev }
  let named := (t.outs.zip outs).filter (fun o => o.1.1 != 0)
  s.each named (fun s o =>
    (s.incWrap (word (SE_SLICE_OUT_CNT e))).deliverSlice o.1.1 o.1.2 ⟨o.2, q.line, q.last⟩ (t.kernel == 14))

/-- A task releases its inputs: the units it has finished are consumed at their barriers (R326). -/
def State.release (s : State) (t : TaskDesc) (ins : List QSlice) : State :=
  s.each (t.ins.zip ins) (fun s x =>
    if x.1.1 ≠ 2 then s else
    match s.barrierOf x.1.2 with
    | none => s
    | some b =>
      if s.stageOf x.1.2 ≠ some t.id then s else
      let g := s.g (BA_CTL_gran b)
      if g = 0 ∨ (g = 1 ∧ x.2.last) ∨ (g = 2 ∧ x.2.last ∧ x.2.line = s.dsLines x.1.2) then s.consume b else s)

/-- A slice that a task does not compute is delivered as fallback fill (R290). -/
def State.fillOut (s : State) (a : Act) : State :=
  match s.task a.task with
  | none => s
  | some t =>
    let e := s.engineOf t.id
    let x := s.taskSt t.id
    let q := a.place
    let n := if q.data.isEmpty then (if t.half then 64 else 128) else q.data.length
    let black := blackSlice t.half t.black n
    let l := if t.repeatLine then
        (match x.prev[x.cur.length]? with | some p => fillMarked p | none => black) else black
    let s := (s.inc (cnt16 (SE_FILL_OUT_CNT e))).release t a.ins
    s.putOut t q (t.outs.map (fun _ => l))

/-! ### Picking and shedding -/

/-- The activations that wait at an engine. -/
def State.actsAt (s : State) (e : Nat) : List Act := s.se.acts.filter (fun a => s.engineOf a.task == e)

/-- Whether an activation is ready: its data and its part are there (R285, R288). -/
def Act.isReady (a : Act) : Bool := a.xfers == 0 && !a.partWait && !a.fill

/-- One activation removed from the waiting ones: the first equal to it. -/
def State.dropAct (s : State) (a : Act) : State := { s with se := { s.se with acts := s.se.acts.erase a } }

/-- Whether an engine runs an activation of a task, or is about to. -/
def State.runsTask (s : State) (t : TaskId) : Bool := s.se.running.any (fun x => x.2.1.task == t)

/-- The fills of a slot whose turn has come are delivered: no slice of the slot before them is still to come (R40,
R290). `n` bounds how many. -/
def State.flushFills (s : State) (t : TaskId) : Nat → State
  | 0 => s
  | n + 1 =>
    match s.se.acts.find? (fun a => a.task == t) with
    | some a => if a.fill && !s.runsTask t then ((s.dropAct a).fillOut a).flushFills t n else s
    | none => s

/-- A waiting activation is not computed: its fill goes out in its place (R290). -/
def State.toFill (s : State) (a : Act) : State :=
  let l := s.se.acts.map (fun b => if b == a then { b with fill := true } else b)
  ({ s with se := { s.se with acts := l } } : State).flushFills a.task l.length

/-- Whether an earlier activation of its slot is not ready, so that an activation must wait for it (R40). -/
def State.blocked (s : State) (a : Act) : Bool :=
  (s.se.acts.takeWhile (fun b => b != a)).any (fun b => b.task == a.task && !b.fill && !b.isReady)

/-- The service of an activation. -/
def State.actSvc (s : State) (a : Act) : Nat := match s.task a.task with | some t => t.service | none => 0

/-- The pick order (R286): deadline, class code, service, slot. -/
def State.pickBefore (s : State) (a b : Act) : Bool :=
  let ca := s.classOfSvc (s.actSvc a)
  let cb := s.classOfSvc (s.actSvc b)
  if a.deadline ≠ b.deadline then a.deadline < b.deadline
  else if ca ≠ cb then ca < cb
  else if s.actSvc a ≠ s.actSvc b then s.actSvc a < s.actSvc b
  else a.task.2 < b.task.2

/-- An activation placed in pick order. -/
def State.pickInsert (s : State) (a : Act) : List Act → List Act
  | [] => [a]
  | b :: t => if s.pickBefore a b then a :: b :: t else b :: s.pickInsert a t

/-- The ready set of an engine in pick order; an activation behind one of its slot that is not ready is not in it (R40). -/
def State.readySet (s : State) (e : Nat) : List Act :=
  ((s.actsAt e).filter (fun a => a.isReady && !s.blocked a)).foldl (fun l a => s.pickInsert a l) []

/-- Cycles of an activation. -/
def State.actCycles (s : State) (a : Act) : Nat := match s.task a.task with | some t => t.cycles | none => 0

/-- Whether a ready set run in order from an instant (in sixths of a ns; a cycle is five of them) meets every
deadline (R310). -/
def State.feasible (s : State) (t : Nat) : List Act → Bool
  | [] => true
  | a :: r =>
    let t := t + 5 * s.actCycles a
    decide (t ≤ 6 * a.deadline) && s.feasible t r

/-- Whether an activation is shed before another (R310): highest class code, highest service, latest deadline,
highest slot. -/
def State.shedBefore (s : State) (a b : Act) : Bool :=
  let ca := s.classOfSvc (s.actSvc a)
  let cb := s.classOfSvc (s.actSvc b)
  if ca ≠ cb then cb < ca
  else if s.actSvc a ≠ s.actSvc b then s.actSvc b < s.actSvc a
  else if a.deadline ≠ b.deadline then b.deadline < a.deadline
  else b.task.2 < a.task.2

/-- An activation is shed: counted for the engine, the slot and the service, recorded, and delivered as fill
(R310). -/
def State.shed (s : State) (a : Act) : State :=
  let e := s.engineOf a.task
  let svc := s.actSvc a
  let s := s.inc (cnt16 (SE_SHED_CNT e))
  let s := (s.inc (SV_MEDIA_CNT_shed svc)).pb (SE_STICKY_shed e) true
  let s := s.wr (SE_LAST_SHED e) (BitVec.ofNat 32 (svc * 2 ^ 24 + a.task.2))
  let k := 64 * e + a.task.2
  let s := { s with se := { s.se with sheds := s.se.sheds.set k (min (s.se.sheds.get 0 k + 1) 65535) } }
  s.toFill a

/-- Activations are shed one at a time until the ready set of an engine meets its deadlines. `n` bounds how many. -/
def State.shedUntil (s : State) (e : Nat) : Nat → State
  | 0 => s
  | n + 1 =>
    let l := s.readySet e
    if s.feasible (6 * s.now) l then s else
    match l.foldl (fun m a => match m with
        | none => some a
        | some b => if s.shedBefore a b then some a else some b) (none : Option Act) with
    | some a => (s.shed a).shedUntil e n
    | none => s

/-- An idle engine picks its next activation (R286, R288, R310): what has missed its deadline is shed, then what the
oversubscription rule sheds; an activation passed over for want of its transfer counts a switch. -/
def State.pick (s : State) (e : Nat) : State :=
  if (s.se.running.lookup e).isSome then s else
  let s := s.each ((s.readySet e).filter (fun a => decide (a.deadline < s.now))) (fun s a => s.shed a)
  let s := s.shedUntil e (s.readySet e).length
  match s.readySet e with
  | [] => s
  | a :: _ =>
    let late := (s.actsAt e).filter (fun b => b.xfers != 0 && !b.passed && s.pickBefore b a)
    let s := s.addSat (cnt16 (SE_LATE_SWITCH_CNT e)) late.length
    let s := { s with se := { s.se with
      acts := s.se.acts.map (fun b => if late.contains b then { b with passed := true } else b) } }
    let s := s.dropAct a
    { s with se := { s.se with running := s.se.running.set e (a, 6 * s.now + 20) } }

/-! ### Readiness -/

/-- The inputs that a kernel uses (kernel table): those that the descriptor names. -/
def TaskDesc.used (t : TaskDesc) : List (Nat × (Nat × Nat)) :=
  (t.ins.zipIdx.filter (fun x => x.1.1 != 0)).map (fun x => (x.2, x.1))

/-- The slices that a consumer of a ring channel holds at most. The spec states none; 32 is what its example of the carousel
asks for (R285, R302; DESIGN CHOICE, notes/assumptions/69). -/
def sliceRoom : Nat := 32 + Config.sliceRoom

/-- Whether an output has room for one slice of a line (R285): a ring channel at every consumer, a stream at its barrier
(R326). -/
def State.hasRoom (s : State) (kind idx line : Nat) : Bool :=
  if kind = 1 then
    (s.taskInputs 1 idx line ++ s.chainInputs 1 idx).all (fun k => decide ((s.queue k).length < sliceRoom))
  else if kind = 2 then !s.producerWaits idx
  else true

/-- The slice of a task's next activation: that of its first input, or the one that a task without inputs makes. -/
def State.nextPlace (s : State) (t : TaskDesc) : Option QSlice :=
  match t.used with
  | [] => (s.genSlice t).map (·.2)
  | x :: _ => (s.queue (inputKey t.id x.1)).head?

/-- Whether the conditions of R285 but for residency hold for a task's next activation. -/
def State.mayReady (s : State) (t : TaskDesc) : Bool :=
  match s.nextPlace t with
  | none => false
  | some q =>
    (s.settingAt t q.line).1 && t.kernel != 21 &&
      t.used.all (fun x => !(s.queue (inputKey t.id x.1)).isEmpty &&
        (x.2.1 != 2 || s.barrierLets t.id x.2.2)) &&
      t.outs.all (fun o => s.hasRoom o.1 o.2 q.line)

/-- The engine's stop and the stop of frame memory with its channel, as ports of the ring (R304, R306). -/
def fmPort (a : Nat) : Nat := 100 + a / 256 % 8

/-- Hops between two stops on the shorter way round (R304, R306). -/
def hopsOf (a b : Nat) : Nat := let d := (b + 24 - a) % 24; min d (24 - d)

/-- The engine cycle of the present instant (1.2 GHz). -/
def State.cycleNow (s : State) : Nat := s.elapsed * 6 / 5

/-- The transfers that an activation needs: one for each slice that comes from a stream (R288). -/
def State.issue (s : State) (t : TaskDesc) (ins : List QSlice) : State :=
  let e := s.engineOf t.id
  s.each ((t.used.zip ins).filter (fun x => x.1.2.1 == 2)) (fun s x =>
    let d := x.1.2.2
    let a := s.lineAddr d (s.g (DS_STAT_ridx d)) x.2.line
    let r : Xfer := { init := e, ports := (e, fmPort a), hops := hopsOf e 16, at_ := s.cycleNow,
                      bytes := min 512 (sliceLen x.2.data.length), task := some t.id, until_ := none }
    { s with se := { s.se with xfers := s.se.xfers ++ [r] } })

/-- An activation of a task is made: its inputs are taken from their queues, and it runs with the bank of its line (R285,
R291). -/
def State.makeAct (s : State) (t : TaskDesc) : Act × State :=
  let place := (s.nextPlace t).getD ⟨[], 0, false⟩
  let bank := (s.settingAt t place.line).2
  let s := match t.used, s.genSlice t with
    | [], some x => s.setTask t.id { s.taskSt t.id with genTo := x.1 + 1 }
    | _, _ => s
  let ins := t.used.map (fun x => (s.queue (inputKey t.id x.1)).headD ⟨[], 0, false⟩)
  let s := s.each t.used (fun s x => s.setQueue (inputKey t.id x.1) (s.queue (inputKey t.id x.1)).tail)
  let n := (t.used.filter (fun x => x.2.1 == 2)).length
  let s := s.addWrap (word (SE_SLICE_IN_CNT (s.engineOf t.id))) ins.length
  ({ task := t.id, ins := ins, place := place, bank := bank, readyAt := s.now, deadline := s.now + t.budget, xfers := n,
     passed := false, partWait := false, fill := false }, s)

/-- A cancel finds an activation of a slot of an engine (R307); when it arrives in the engine cycle in which the activation
becomes ready, the race is counted and recorded too (R308). -/
def State.cancelCounts (s : State) (e slot : Nat) (race : Bool) : State :=
  let s := s.inc (cnt16 (SE_CANCEL_CNT e))
  s.when race (fun s => ((s.inc (cnt16 (SE_TASK_RACE_CNT e))).wr (SE_LAST_RACE e) (BitVec.ofNat 32 slot)).pb
    (SE_STICKY_race e) true)

/-- An activation waits on a move of its part: counted at the engine that receives the part, and for the dwell loop (R300,
R302). -/
def State.carWaits (s : State) (part : Nat) : State :=
  let e := (s.partEngine part + 1) % 16
  let s := (s.inc (cnt16 (SE_CAR_WAIT_CNT e))).pb (SE_STICKY_car_wait e) true
  { s with se := { s.se with waited := match s.se.waited with | [] => [1] | w :: r => (w + 1) :: r } }

/-- An activation of a slot becomes ready (R285, R288, R300), or is cancelled in the same engine cycle (R308). -/
def State.actReady (s : State) (e slot : Nat) (cancelled : Bool) : State :=
  match s.task (s.slotTask e slot) with
  | none => s
  | some t =>
    if !s.dev.active || !s.isReady (rSe e) || !s.mayReady t then s else
    let (a, s) := s.makeAct t
    if 56 ≤ slot ∧ s.se.moving then
      let s := s.carWaits t.id.1
      -- A cancel finds no ready activation (R309).
      let s := s.when cancelled (fun s => s.inc (cnt16 (SE_CANCEL_MISS_CNT e)))
      { s with se := { s.se with acts := s.se.acts ++ [{ a with partWait := true }] } }
    else if cancelled then
      (({ s with se := { s.se with acts := s.se.acts ++ [a] } } : State).cancelCounts e slot true).toFill a
    else
      let s := s.issue t a.ins
      ({ s with se := { s.se with acts := s.se.acts ++ [a] } } : State).pick e

/-- The running activation of an engine ends: it delivers its slices, or fill where local memory failed, and the
engine picks the next (R286, R290, R311). -/
def State.actEnd (s : State) (e : Nat) (o : ActEnd) : State :=
  match s.se.running.lookup e with
  | none => s
  | some (a, start) =>
    if 6 * s.now + 6 ≤ start + 5 * s.actCycles a then s else
    let s := { s with se := { s.se with
      running := s.se.running.filter (fun x => x.1 != e), busy := s.se.busy.set e (s.se.busy.get 0 e + s.actCycles a) } }
    match s.task a.task with
    | none => s.pick e
    | some t =>
      let s := s.addSat (cnt16 (SE_LM_CORR_CNT e)) o.corrected
      let bad := o.uncorrectable || o.badBank || o.badDescriptor
      let s := s.when bad (fun s =>
        ((s.inc (cnt16 (SE_LM_UNCORR_CNT e))).pb (SE_STICKY_lm_uncorr e) true).eventNow 0x24 t.service
          (BitVec.ofNat 32 (t.id.2 * 65536 + e)))
      let x := s.taskSt t.id
      let s := s.setTask t.id { x with
        acts := x.acts + 1, bad := if o.badDescriptor then 2 else if o.badBank then Nat.max x.bad 1 else x.bad,
        badBank := if o.badBank then x.bank else x.badBank, rewritten := if o.badBank then [] else x.rewritten }
      let s := s.incWrap (word (SE_ACT_CNT e))
      let s := if t.id.2 < 56 then s else
        { s with se := { s.se with ran := match s.se.ran with | [] => [1] | w :: r => (w + 1) :: r } }
      let s := if bad || x.bad != 0 then s.fillOut a
        else
          let (outs, s) := s.compute t a.bank a.ins
          (s.release t a.ins).putOut t a.place outs
      (s.flushFills t.id s.se.acts.length).pick e

/-! ### Cancels -/

/-- The activation of a task that its engine has picked and whose start still lies ahead (R286). -/
def State.picked (s : State) (t : TaskId) : Option Act :=
  match s.se.running.lookup (s.engineOf t) with
  | some (a, start) => if a.task = t ∧ 6 * s.now < start then some a else none
  | none => none

/-- One activation of a slot of engine n's registers is cancelled, or the cancel misses (R307, R309): the oldest ready one
that has not started, be it the one that its engine has picked. Of a cancel in the nanosecond of the ready it is the same
engine cycle (DESIGN CHOICE, notes/assumptions/69). -/
def State.cancelTask (s : State) (t : TaskId) : State :=
  let e := s.engineOf t
  if !(s.taskSt t).on then s.inc (cnt16 (SE_CANCEL_MISS_CNT e)) else
  match s.picked t with
  | some a =>
    let s := { s with se := { s.se with
      running := s.se.running.filter (fun x => x.1 != e), acts := a :: s.se.acts } }
    ((s.cancelCounts e t.2 (a.readyAt == s.now)).toFill a).pick e
  | none =>
    match s.se.acts.find? (fun a => a.task == t && a.isReady) with
    | some a => (s.cancelCounts e t.2 (a.readyAt == s.now)).toFill a
    | none => s.inc (cnt16 (SE_CANCEL_MISS_CNT e))

/-- A write of cancel bits of one register of an engine (R307). -/
def State.cancelWrite (s : State) (n half : Nat) (val : W32) : State :=
  s.each ((List.range 32).filter (fun i => val.getLsbD i)) (fun s i => s.cancelTask (n, 32 * half + i))

/-! ### Parameters -/

/-- The task bits of the registers come into force for one task (R291); a task that is enabled starts afresh. Slices of
lines before the present one keep the setting before. -/
def State.taskBits (s : State) (t : TaskDesc) : State :=
  let x := s.taskSt t.id
  let on := s.enBit t.id
  let bank := s.bankBit t.id
  if on = x.on ∧ bank = x.bank then s else
  let r := s.rg (t.rg % 16)
  let old := if t.rg < 16 ∧ r.running then some (r.lineNo, x.on, x.bank) else none
  let fresh := on && !x.on
  -- A bank rewritten after an uncorrectable error computes again once it is selected (R311).
  let healed := x.bad == 1 && bank == x.badBank && (fresh || bank != x.bank) &&
    (List.range 16).all (fun i => x.rewritten.contains i)
  let x := if healed then { x with bad := 0 } else x
  let s := if fresh then
      let s := s.setTask t.id { TaskSt.initial with
        on := true, bank := bank, old := old, genTo := x.genTo, acts := x.acts, bad := x.bad, badBank := x.badBank, rewritten := x.rewritten }
      let s := s.each (List.range 4) (fun s i => s.setQueue (inputKey t.id i) [])
      match t.kernel, t.ins.head? with
      | 13, some (2, d) =>
        s.setStream d { s.stream d with reading := none, unread := [], repeats := 0, filling := false }
      | _, _ => s
    else s.setTask t.id { x with on := on, bank := bank, old := old }
  if on && !x.on && t.id.2 < 56 then s.wakeUsed (rSe t.id.1) else s

/-- Half a frame after a change no slice of an earlier line is left, and the setting before the change is forgotten (R291;
how late a slice may come is a DESIGN CHOICE, notes/assumptions/69). -/
def State.forgetOld (s : State) (t : TaskDesc) : State :=
  let x := s.taskSt t.id
  let r := s.rg (t.rg % 16)
  match x.old, formatOf r.format with
  | some (l, _, _), some f =>
    if r.running && (l == r.lineNo || lineBefore f.lines l r.lineNo) then s else s.setTask t.id { x with old := none }
  | some _, none => s.setTask t.id { x with old := none }
  | none, _ => s

/-- At a line start of a raster the task bits of its slots come into force (R291). -/
def State.taskLine (s : State) (rg : Nat) : State :=
  s.each (s.se.tasks.filter (fun t => t.rg == rg)) (fun s t => (s.forgetOld t).taskBits t)

/-- The yo-yos of a raster make their decisions at its frame starts, those of pair streams at even frames (R329,
R332). -/
def State.yoyoFrame (s : State) (rg k : Nat) : State :=
  s.each (s.se.tasks.filter (fun t => t.kernel == 13 && t.rg == rg && (s.taskSt t.id).on)) (fun s t =>
    match t.ins.head? with
    | some (2, d) => if s.bit (DS_CTL_pair d) && k % 2 == 1 then s else s.yoyoDecide t d
    | _ => s)

/-- A yo-yo that has nothing to read delivers a line of fallback fill at each line of its raster (R290, R329). -/
def State.yoyoLine (s : State) (rg : Nat) : State :=
  s.each (s.se.tasks.filter (fun t => t.kernel == 13 && t.rg == rg && (s.taskSt t.id).on)) (fun s t =>
    match t.ins.head? with
    | some (2, d) =>
      if !(s.stream d).filling then s else
      let line := (s.rg rg).lineNo
      let n := (match formatOf (s.rg rg).format with | some f => f.samples | none => t.width) + 63
      let slices := lineSlices line (List.replicate (n / 64) (List.replicate 128 (⟨0, marksNone⟩ : Sample)))
      s.each slices (fun s q => s.fillOut
        { task := t.id, ins := [q], place := q, bank := 0, readyAt := s.now, deadline := s.now, xfers := 0, passed := false,
          partWait := false, fill := true })
    | _ => s)

/-- One parameter word is written through SEn_PARAM_DATA, or refused for the bank in force of an enabled slot
(R292); the words of a bank with an uncorrectable error are noted as they are rewritten (R311). -/
def State.paramPut (s : State) (n : Nat) (v : W32) : State :=
  let slot := s.g (SE_PARAM_ADDR_slot n)
  let bank := s.g (SE_PARAM_ADDR_bank n)
  let i := s.g (SE_PARAM_ADDR_word n)
  let t : TaskId := (n, slot)
  let x := s.taskSt t
  if (x.on && x.bank == bank) || (s.enBit t && s.bankBit t == bank) then
    (s.inc (cnt16 (SE_PARAM_REFUSE_CNT n))).wr (SE_PARAM_STAT n) 2
  else
    let s := s.setLm (bankAddr t bank i) v
    let s := (s.p (SE_PARAM_ADDR_word n) (i + 1)).wr (SE_PARAM_STAT n) 1
    if x.bad = 1 ∧ x.badBank = bank then s.setTask t { s.taskSt t with rewritten := (x.rewritten.erase i) ++ [i] } else s

/-! ### The carousel -/

/-- The parts begin to move on: an activation of their tasks that has not been picked waits for the arrival (R300). -/
def State.moveBegins (s : State) : State :=
  let waits (a : Act) : Bool := decide (56 ≤ a.task.2) && !a.partWait && !a.fill
  let l := s.se.acts.filter waits
  let s := { s with se := { s.se with
    steps := 0, moving := true, acts := s.se.acts.map (fun a => if waits a then { a with partWait := true } else a) } }
  s.each l (fun s a => s.carWaits a.task.1)

/-- One carousel step (R300, R302): parts on the move arrive, the dwell loop updates, and every d steps the parts
move on. -/
def State.carStep (s : State) : State :=
  if !s.bit (SE_CAR_CTL_en 0) || !s.dev.active then s else
  let s := if s.se.moving then
      let s := { s with se := { s.se with
        moving := false, moves := s.se.moves + 1,
        acts := s.se.acts.map (fun (a : Act) =>
          if a.partWait then { a with partWait := false, readyAt := s.now } else a) } }
      let s := s.each (List.range 16) (fun s e => s.incWrap (word (SE_CAR_MOVES e)))
      s.each (List.range 16) (fun s e => s.pick e)
    else s
  let ran := s.se.ran.take 256
  let waited := s.se.waited.take 256
  let a := ran.foldl (· + ·) 0
  let w := waited.foldl (· + ·) 0
  let s := { s with se := { s.se with ran := 0 :: ran.take 255, waited := 0 :: waited.take 255 } }
  let mode := s.g (SE_CAR_CTL_mode 0)
  let d : Int := s.g (SE_CAR_DWELL_d 0)
  let s : State := if mode = 2 ∨ s.loopBlocked (SE_CAR_STAT 0) then s else
    let computed := if a < 64 * w then d + 1 else if 128 * w < a then d - 1 else d
    let lo : Int := if mode = 1 then s.g (SE_CAR_CTL_d_min 0) else 1
    let hi : Int := if mode = 1 then s.g (SE_CAR_CTL_d_max 0) else 1023
    let (v, side) := loopApply d computed lo hi
    s.loopDone (SE_CAR_DWELL_d 0) v.toNat (SE_CAR_STAT 0) (SE_CAR_BOUND_CNT 0) side
  let steps : Nat := s.se.steps + 1
  if s.g (SE_CAR_DWELL_d 0) ≤ steps then s.moveBegins
  else { s with se := { s.se with steps := steps } }

/-- The share of the last millisecond in which each engine ran activations (SEn_UTIL); one counts in the millisecond in
which it ends (DESIGN CHOICE, notes/assumptions/69). -/
def State.seUtil (s : State) : State :=
  let s := s.each (List.range 16) (fun s e =>
    s.wr (SE_UTIL e) (BitVec.ofNat 32 (min (s.se.busy.get 0 e * 100 / 1200000) 100)))
  { s with se := { s.se with busy := [] } }

/-! ### The ring arbiter -/

/-- A list with the first entry equal to one replaced by another. -/
def replaceFirst {α : Type} [DecidableEq α] (x y : α) : List α → List α
  | [] => []
  | a :: t => if a = x then y :: t else a :: replaceFirst x y t

/-- Whether a port is free at a cycle. -/
def portFree (l : List Xfer) (cyc port : Nat) : Bool :=
  l.all (fun x => match x.until_ with
    | some u => decide (u ≤ cyc) || (x.ports.1 != port && x.ports.2 != port)
    | none => true)

/-- The order in which the arbiter considers waiting transfers at a cycle (R306). -/
def xferBefore (cyc : Nat) (a b : Xfer) : Bool :=
  let oa := decide (64 < cyc - a.at_)
  let ob := decide (64 < cyc - b.at_)
  if oa != ob then oa
  else if oa then a.at_ < b.at_
  else a.init < b.init

/-- A transfer placed in the arbiter's order, behind those that go before it. -/
def xferInsert (cyc : Nat) (a : Xfer) : List Xfer → List Xfer
  | [] => [a]
  | b :: t => if xferBefore cyc a b then a :: b :: t else b :: xferInsert cyc a t

/-- The transfers of a stop that are issued and have not completed, oldest first: four at most (R288). -/
def State.issued (s : State) (init : Nat) : List Xfer := (s.se.xfers.filter (fun x => x.init == init)).take 4

/-- One waiting transfer is considered at a cycle: granted if both its ports are free (R306). -/
def State.grantOne (s : State) (cyc : Nat) (x : Xfer) : State :=
  if !(portFree s.se.xfers cyc x.ports.1 && portFree s.se.xfers cyc x.ports.2) then s
  else
    let hold := 4 + 2 * ((x.bytes + 127) / 128) + x.hops
    let s := { s with se := { s.se with xfers := replaceFirst x { x with until_ := some (cyc + hold) } s.se.xfers } }
    if x.init < 16 then
      let w := cyc - x.at_
      let s := s.raise (cnt16 (SE_RING_WAIT_MAX x.init)) w
      if 64 < w then s.inc (cnt16 (SE_RING_AGE_CNT x.init)) else s
    else s

/-- The arbiter grants what it may at an engine cycle (R306). -/
def State.grantAll (s : State) (cyc : Nat) : State :=
  let waiting := (List.range 24).flatMap (fun n =>
    (s.issued n).filter (fun x => x.until_.isNone && decide (x.at_ ≤ cyc)))
  s.each (waiting.foldl (fun l x => xferInsert cyc x l) []) (fun s x => s.grantOne cyc x)

/-- The request of a stop that was beyond its fourth is issued when one before it completes (R288). -/
def State.issueNext (s : State) (init : Nat) : State :=
  match (s.issued init)[3]? with
  | some x =>
    if x.until_.isSome then s else
    { s with se := { s.se with xfers := replaceFirst x { x with at_ := s.cycleNow } s.se.xfers } }
  | none => s

/-- A granted transfer of a stop completes at the end of its hold time; the activation that waits for it may become ready
(R288, R306). -/
def State.xferDone (s : State) (init : Nat) : State :=
  match s.se.xfers.find? (fun x => x.init == init &&
      (match x.until_ with | some u => decide (u ≤ s.cycleNow + 1) | none => false)) with
  | none => s
  | some x =>
    let s := ({ s with se := { s.se with xfers := s.se.xfers.erase x } } : State).issueNext init
    let s := s.when (decide (init < 16)) (fun s => s.incWrap (word (SE_XFER_CNT init)))
    match x.task with
    | none => s
    | some t =>
      match s.se.acts.find? (fun a => a.task == t && a.xfers != 0) with
      | none => s
      | some a =>
        let b := { a with xfers := a.xfers - 1, readyAt := s.now }
        ({ s with se := { s.se with acts := s.se.acts.map (fun y => if y == a then b else y) } } : State).pick
          (s.engineOf t)

/-! ### Writes of engine registers -/

/-- Whether a written task register breaks a rule that refuses it (R283, R291, R294): each slot that it enables, and
each whose bank it selects, must have a descriptor and a bank that keeps its kernel's rules. -/
def State.taskRefuses (s : State) (n half : Nat) (bankReg : Bool) (new : W32) : Bool :=
  let a := if bankReg then SE_TASK_BANK n half else SE_TASK_EN n half
  let after := s.wr a new
  let old := s.rd a
  (List.range 32).any (fun i =>
    if new.getLsbD i == old.getLsbD i then false else
    let t : TaskId := (n, 32 * half + i)
    match s.task t with
    | none => !bankReg && new.getLsbD i
    | some d =>
      if !bankReg && !new.getLsbD i then false else
      let b := after.bankBit t
      let mine := after.resultsOf d b
      !(bankOk d.kernel (fun w => after.bankWord t b w)) || !after.yoyoOk d b ||
        (after.enBit t && after.se.tasks.any (fun u => u.id.1 == n && u.id != t && after.enBit u.id &&
          (after.resultsOf u (after.bankBit u.id)).any mine.contains)))

/-- What a written task register brings about (R291): slots of no raster take it at once, and the engine of an enabled
slot wakes. The slots that a cue has changed take it at the cue's quantum, which is the line start itself. -/
def State.taskChanged (s : State) (n : Nat) (slots : List Nat) : State :=
  let s := s.each (s.se.tasks.filter (fun t => t.id.1 == n && (slots.contains t.id.2 || t.rg == 255))) (fun s t => s.taskBits t)
  s.wakeUsed (rSe n)

end Sys2Proof.Machine
end

