-- ==== Sys2Proof/Machine/LinePort.lean ====
section
/-! DEFINITION. Line ports: rates, modes, equalizer, CDR, the receive path and the transmit path (R187–R217). -/

namespace Sys2Proof.Machine

/-! ### Rates -/

/-- The rate code at which a format is carried, level A and B alike (R187): formats of m/1,001 frames take the
/1.001 rate. -/
def rateOfFormat (f : Format) : Nat :=
  let frac := if f.n = 1001 then 1 else 0
  if f.code ≤ 0x02 then 1
  else if f.code ≤ 0x0D then 2 + frac
  else if f.code ≤ 0x10 then 4 + frac
  else if f.code ≤ 0x15 then 6 + frac
  else if f.code ≤ 0x18 then 8 + frac
  else 10 + frac

/-- The equalizer's maximum code at a rate (R195). -/
def eqMaxCode (rate : Nat) : Nat :=
  if rate ≤ 1 then 800 else if rate ≤ 3 then 700 else if rate ≤ 5 then 600 else if rate ≤ 7 then 400
  else if rate ≤ 9 then 240 else 100

/-- Whether a rate code is of the /1.001 family; 270 Mb/s has one rate for both (R189). -/
def rateFamily (rate : Nat) : Option Bool := if rate = 1 then none else some (rate % 2 == 1)

/-- Whether the mode runs the receive path, and the transmit path. -/
def State.lpReceives (s : State) (p : Nat) : Bool := [1, 3, 4].contains (s.lpMode p)
def State.lpSends (s : State) (p : Nat) : Bool := [2, 3].contains (s.lpMode p)

/-- The rate that a valid warm-start word names, where the port carries it (R187, R201). -/
def State.keepRate (s : State) (p : Nat) : Option Nat :=
  let w := s.keepRd (32 + p)
  let r := (LP_KEEP_EQ_rate p).of w
  if w.getLsbD 31 && decide (1 ≤ r) && decide (r ≤ 11) && (decide (p < 8) || decide (r < 10)) then some r else none

/-- The rates that AUTO tries in order (R201): that of a valid warm-start word, then those of auto_mask from the
highest code down. The rates of LP0–LP7 alone are tried on no other port (R187). -/
def State.autoRates (s : State) (p : Nat) : List Nat :=
  let m := s.g (LP_RX_CTL_auto_mask p)
  let masked := ((List.range 11).map (fun i => 11 - i)).filter (fun c => m.testBit (c - 1) && (decide (p < 8) || decide (c < 10)))
  (s.keepRate p).toList ++ masked

/-- Whether the first trial of a pass is the warm one. -/
def State.warmTrial (s : State) (p : Nat) : Bool := (s.keepRate p).isSome && (s.lpSt p).trial == 0

/-- The present receive rate: the rate locked, else the rate selected or on trial. -/
def State.lpRate (s : State) (p : Nat) : Nat :=
  if s.bit (LP_STAT_cdr_locked p) then s.g (LP_STAT_rx_rate p)
  else if s.g (LP_RX_CTL_rate p) = 15 then (s.lpSt p).trialRate
  else s.g (LP_RX_CTL_rate p)

/-- The equalizer's window in force: the hardware range in FREE, the written window clamped to the rate's maximum
otherwise (R196). -/
def State.eqWindow (s : State) (p : Nat) : Nat × Nat :=
  let m := eqMaxCode (s.lpRate p)
  if s.g (LP_EQ_CTL_mode p) = 0 then (0, m)
  else (min (s.g (LP_EQ_CTL_eq_min p)) m, min (s.g (LP_EQ_CTL_eq_max p)) m)

/-- The equalizer starts warm from the KEEP word where it names the rate, else at the window's lower bound (R200);
in FROZEN it holds its setting (R197). -/
def State.eqStart (s : State) (p rate : Nat) (warmOk : Bool) : State :=
  if s.g (LP_EQ_CTL_mode p) = 2 then s else
  let (lo, hi) := s.eqWindow p
  let warm := warmOk && s.keepRate p == some rate
  s.p (LP_EQ_SET_code p) (if warm then Nat.max lo (min hi ((LP_KEEP_EQ_eq_code p).of (s.keepRd (32 + p)))) else lo)

/-- A trial of AUTO, or the search at a fixed rate, begins (R200, R201). -/
def State.startTrial (s : State) (p i : Nat) : State :=
  let x := s.lpSt p
  if s.g (LP_RX_CTL_rate p) = 15 then
    let l := s.autoRates p
    let i := if l.length ≤ i then 0 else i
    let rate := l.getD i 0
    let s := s.setLp p { x with trial := i, trialRate := rate, trialFrom := s.elapsed, sweep := none }
    s.eqStart p rate (s.warmTrial p)
  else
    let rate := s.g (LP_RX_CTL_rate p)
    (s.setLp p { x with trial := 0, trialRate := rate, trialFrom := s.elapsed, sweep := none }).eqStart p rate true

/-- The warm-start word of a port's present lock (R199). -/
def State.warmWordNow (s : State) (p : Nat) : W32 :=
  (LP_KEEP_EQ_valid p).put ((LP_KEEP_EQ_rate p).put ((LP_KEEP_EQ_eq_code p).put 0 (s.g (LP_EQ_SET_code p)))
    (s.g (LP_STAT_rx_rate p))) 1

/-- A warm-start word is written, where the word's content would change (R199). -/
def State.saveWord (s : State) (p : Nat) (w : W32) : State :=
  if s.keepRd (32 + p) = w then s else (s.wr (LP_KEEP_EQ p) w).keepWritten (32 + p)

/-- A locked port writes its warm-start word (R199). -/
def State.saveEq (s : State) (p : Nat) : State :=
  if s.bit (LP_STAT_cdr_locked p) then s.saveWord p (s.warmWordNow p) else s

/-- A port that falls asleep writes the word of its lock: of the present one, or of the one that OFF ended (R199). -/
def State.saveAsleep (s : State) (p : Nat) : State :=
  let s := s.saveEq p
  match (s.lpSt p).warmWord with
  | some w => (s.saveWord p w).setLp p { s.lpSt p with warmWord := none }
  | none => s

/-- Every locked port writes its warm-start word on entry to DRAIN (R199). -/
def State.saveAllEq (s : State) : State := s.each (List.range 32) (fun s p => s.saveEq p)

/-! ### Receive path -/

/-- Whether the receive path takes lines: running, ready, locked and not under test (R206, R217). -/
def State.rxLive (s : State) (p : Nat) : Bool :=
  s.dev.active && s.lpReceives p && s.isReady (rLp p) && s.bit (LP_STAT_cdr_locked p) &&
    !(s.bit (LP_PRBS_CTL_check p) && s.g (LP_PRBS_CTL_pattern p) != 0)

/-- The slices of a received line: 64 pixels of two lane words each, or 32 on the Direct path of a 525-line or 625-line
format (R46). A destination in frame memory makes no Direct path (R47). -/
def State.portSlices (s : State) (p : Nat) (l : List Slice) : List Slice :=
  let words := l.flatten
  let n := if s.g (LP_STAT_rx_rate p) = 1 ∧ s.g (LP_RX_DEST_kind p) ≠ 2 then 64 else 128
  pieces n (words.length / n + 1) words

/-- A line goes to the destination in LPn_RX_DEST, and to transmit paths that name this port (R206, R210). -/
def State.rxDeliver (s : State) (p line : Nat) (l : List Slice) : State :=
  let s := s.setLp p { s.lpSt p with lastRx := l, lastLine := line }
  let s := s.lineToPorts (3072 + p) line l
  s.deliver (s.g (LP_RX_DEST_kind p)) (s.g (LP_RX_DEST_index p)) line l false

/-- A line at the black level of a format: two lane words for each of its samples, in slices of `n` words. -/
def blackLine (f : Format) (n : Nat) : List Slice :=
  pieces n (2 * f.samples / n + 1) ((List.range (2 * f.samples)).map (fun i =>
    ⟨Config.blackLevel f.code (videoComponent i), marksNone⟩))

/-- The slices of a fill line, flagged FILL: the last line repeated where there is one, or black (R206). -/
def State.fillLine (s : State) (p : Nat) (f : Format) : List Slice :=
  let last := (s.lpSt p).lastRx
  let l := if s.bit (LP_RX_CTL_fill p) && !last.isEmpty then last
    else blackLine f (if f.code ≤ 2 ∧ s.g (LP_RX_DEST_kind p) ≠ 2 then 64 else 128)
  l.map fillMarked

/-- One fill line is delivered and counted (R206). -/
def State.rxFill (s : State) (p : Nat) (f : Format) (line : Nat) : State :=
  (s.inc (cnt16 (LP_RX_FILL_CNT p))).rxDeliver p line (s.fillLine p f)

/-- `n` fill lines from a line number on. -/
def State.rxFillRun (s : State) (p : Nat) (f : Format) (line : Nat) : Nat → State
  | 0 => s
  | n + 1 => (s.rxFill p f line).rxFillRun p f (line + 1) n

/-- The format in which a port delivers lines: that of its raster, or under received timing the one received (R206). -/
def State.rxFormat (s : State) (p : Nat) : Option Format :=
  formatOf (if s.bit (LP_RX_CTL_sync p) then (s.rg (s.g (LP_RX_CTL_rg p))).format else s.g (LP_RX_FMT_format p))

/-- The frame that a port delivers is completed with fill lines, so that it holds every line once (R206). -/
def State.fillFrame (s : State) (p : Nat) : State :=
  match s.rxFormat p with
  | some f => s.rxFillRun p f ((s.lpSt p).lastLine + 1) (f.lines - (s.lpSt p).lastLine)
  | none => s

/-- On loss of lock under received timing the frame in progress is completed with fill lines (R206). -/
def State.completeFrame (s : State) (p : Nat) : State :=
  if s.bit (LP_RX_CTL_sync p) || !(s.lpSt p).delivering then s else
  let s := s.fillFrame p
  s.setLp p { s.lpSt p with delivering := false, lastLine := 0 }

/-- The receive path begins its search for lock: on a wake, a change of rate, or a change of mode (R200). A lock that it
ends completes its frame under received timing (R206). -/
def State.startSearch (s : State) (p : Nat) : State :=
  let s := s.when (s.bit (LP_STAT_cdr_locked p)) (fun s => s.completeFrame p)
  let s := s.setLp p { s.lpSt p with searchFrom := s.elapsed, lockSince := none }
  let s := (s.pb (LP_STAT_cdr_locked p) false).p (LP_STAT_rx_rate p) 0
  s.startTrial p 0

/-- At a line start of the raster of a port with sync = 1 fill is delivered up to that line unless received lines are: the
path is locked and aligned (R206, R207). The first frame of a port begins with line 1. -/
def State.rxLineStart (s : State) (rg p line : Nat) : State :=
  let x := s.lpSt p
  if s.lpReceives p && s.isReady (rLp p) && s.bit (LP_RX_CTL_sync p) && s.g (LP_RX_CTL_rg p) == rg &&
      !(s.rg rg).held && (x.delivering || line == 1) && line != x.lastLine &&
      !(s.bit (LP_STAT_cdr_locked p) && x.aligned) &&
      !(s.bit (LP_PRBS_CTL_check p) && s.g (LP_PRBS_CTL_pattern p) != 0) then
    match formatOf (s.rg rg).format with
    | none => s
    | some f =>
      let s := s.setLp p { x with delivering := true }
      if x.lastLine < line then s.rxFillRun p f (x.lastLine + 1) (line - x.lastLine)
      else (s.rxFillRun p f (x.lastLine + 1) (f.lines - x.lastLine)).rxFillRun p f 1 line
  else s

/-- The CDR of a port loses lock with its cause time: counted, flagged, logged, its event source fires, and a frame
delivered under received timing is completed with fill (R202, R206). -/
def State.loseLock (s : State) (p cause : Nat) : State :=
  if !s.bit (LP_STAT_cdr_locked p) then s else
  let s := ((s.pb (LP_STAT_cdr_locked p) false).p (LP_STAT_rx_rate p) 0).pb (LP_STAT_trs_locked p) false
  let s := (s.inc (cnt16 (LP_LOCK_LOSS_CNT p))).pb (LP_STICKY_lock_lost p) true
  let s := s.event 0x18 (s.ownerOf kLpRx p).byte (BitVec.ofNat 32 p) cause
  let s := s.fire (0xD0 + p) cause
  let s := s.completeFrame p
  let s := s.setLp p { s.lpSt p with lockSince := none, searchFrom := s.elapsed, posRun := 0, offRun := 0, sweep := none }
  -- The driver that carries the loop sits at common mode (R194).
  let s := s.when (s.lpMode p == 4) (fun s => s.setLp (partner p) { s.lpSt (partner p) with sentKind := 0 })
  -- A fixed rate is sought from the setting in force; AUTO begins its trials again (R200, R201).
  s.when (s.g (LP_RX_CTL_rate p) == 15) (fun s => s.startTrial p 0)

/-- A second of TT that holds an errored line is counted and logged once (R205). -/
def State.errSecond (s : State) (p line : Nat) : State :=
  let sec := s.now / secNs + 1
  let x := s.lpSt p
  if x.errSecond = sec then s else
  ((s.setLp p { x with errSecond := sec }).inc (cnt16 (LP_ERR_SEC_CNT p))).eventNow 0x1A
    (s.ownerOf kLpRx p).byte (BitVec.ofNat 32 (line % 4096 * 65536 + p))

/-- A received line is delivered in its place (R206): lines follow one another in order, each once (R40); line 1 begins a
frame, and completes one that lacks lines with fill. A line out of order is not delivered (DESIGN CHOICE,
notes/assumptions/36). -/
def State.rxPlace (s : State) (p n : Nat) (l : List Slice) : State :=
  let x := s.lpSt p
  if n = 1 ∧ x.lastLine ≠ 1 then
    let s := s.when (x.delivering && x.lastLine != 0) (fun s => s.fillFrame p)
    (s.setLp p { s.lpSt p with delivering := true }).rxDeliver p n l
  else if x.delivering ∧ n = x.lastLine + 1 then s.rxDeliver p n l
  else s

/-- A received line is checked, counted and delivered (R205, R206). -/
def State.rxLine (s : State) (p : Nat) (l : LineData) : State :=
  if !s.rxLive p then s else
  let n := l.number.toNat
  let checked := s.g (LP_STAT_rx_rate p) != 1
  let s := s.when (checked && l.crcBad) (fun s => (s.inc (cnt16 (LP_CRC_ERR_CNT p))).pb (LP_STICKY_crc_err p) true)
  let s := s.when (checked && l.lnBad) (fun s => s.inc (cnt16 (LP_LN_ERR_CNT p)))
  let s := s.when (checked && (l.crcBad || l.lnBad)) (fun s =>
    (s.wr (LP_ERR_LINE p) (BitVec.ofNat 32 n)).errSecond p n)
  if s.bit (LP_RX_CTL_sync p) && !(s.lpSt p).aligned then s else s.rxPlace p n (s.portSlices p l.slices)

/-- The alignment of a received frame start against the raster (R207). -/
def State.rxAlign (s : State) (p : Nat) (off : Int) : State :=
  if !s.bit (LP_RX_CTL_sync p) then s else
  let s := s.wr (LP_RX_ALIGN p) (sword off)
  let x := s.lpSt p
  let inside := decide (off.natAbs ≤ s.g (LP_RX_CTL_win_ns p))
  if !inside then
    let s := s.setLp p { x with aligned := false, frameInside := false }
    if s.bit (LP_STAT_misaligned p) then s
    else
      let s := (s.pb (LP_STAT_misaligned p) true).inc (cnt16 (LP_MISALIGN_CNT p))
      (s.pb (LP_STICKY_misalign p) true).eventNow 0x1B (s.ownerOf kLpRx p).byte
        (BitVec.ofNat 32 (min off.natAbs 65535 * 65536 + p))
  else if x.aligned then s
  else if s.bit (LP_STAT_misaligned p) && !x.frameInside then s.setLp p { x with frameInside := true }
  else (s.setLp p { x with aligned := true, frameInside := false }).pb (LP_STAT_misaligned p) false

/-- The payload ID of a received frame (R208). -/
def State.rxPid (s : State) (p : Nat) (pid : Option W32) : State :=
  let x := s.lpSt p
  match pid with
  | none =>
    let m := min (x.pidMiss + 1) 2
    let s := s.setLp p { x with pidMiss := m, pidRun := 0, pidSeen := none }
    if m = 2 then s.pb (LP_STAT_pid_valid p) false else s
  | some v =>
    let run := if x.pidSeen = some v then min (x.pidRun + 1) 2 else 1
    let s := s.setLp p { x with pidMiss := 0, pidRun := run, pidSeen := some v }
    if run < 2 then s else
    let new := !s.bit (LP_STAT_pid_valid p) || s.rd (LP_RX_PID p) != v
    let s := s.pb (LP_STAT_pid_valid p) true
    if new && s.rd (LP_RX_PID p) != v then
      ((((s.wr (LP_RX_PID p) v).inc (cnt16 (LP_PID_CHANGE_CNT p))).pb (LP_STICKY_pid_change p) true)).eventNow 0x1C
        (s.ownerOf kLpRx p).byte (BitVec.ofNat 32 p)
    else s

/-! ### Transmit path -/

/-- Whether a port transmits from a raster: its mode sends, it is ready, and it is in the running states or in the
states beside them (R209). -/
def State.txOn (s : State) (rg p : Nat) : Bool :=
  s.dev.active && s.lpSends p && s.isReady (rLp p) && s.g (LP_TX_CTL_rg p) == rg

/-- The slices of a line that carry FILL and SAT are counted as the line is sent (R213). -/
def State.txCount (s : State) (p : Nat) (l : List Slice) : State :=
  let fills := (l.filter (fun sl => (sliceMarks sl).fill)).length
  let sats := (l.filter (fun sl => (sliceMarks sl).sat)).length
  let both := (l.filter (fun sl => (sliceMarks sl).fill || (sliceMarks sl).sat)).length
  let s := s.addSat (cnt16 (LP_TX_FILL_CNT p)) fills |>.addSat (cnt16 (LP_TX_SAT_CNT p)) sats
  let s := s.when (fills != 0) (fun s => s.pb (LP_STICKY_tx_fill p) true)
  let s := s.when (sats != 0) (fun s => s.pb (LP_STICKY_tx_sat p) true)
  let x := s.lpSt p
  s.setLp p { x with marked := x.marked + both, satSeen := x.satSeen || sats != 0,
                     fillSeen := x.fillSeen || fills != 0 }

/-- A lane word rounded to 10 bits, as every format of the line ports holds it (R187, R284). -/
def round10 (w : BitVec 16) : BitVec 16 := BitVec.ofNat 16 (min 1023 ((w.toNat + 32) / 64) * 64)

/-- A line rounded to the depth of the output. -/
def sentSlices (l : List Slice) : List Slice := l.map (fun sl => sl.map (fun x => { x with word := round10 x.word }))

/-- The payload ID that a transmit path inserts (R209): that of LPn_TX_PID, that received by its source of kind PORT, or
none. -/
def State.txPid (s : State) (p : Nat) : Option W32 :=
  let src := (s.lpSt p).src
  let q := (LP_TX_SRC_index p).of src
  if s.g (LP_TX_CTL_pid_src p) = 0 then some (s.rd (LP_TX_PID p))
  else if s.g (LP_TX_CTL_pid_src p) = 1 ∧ (LP_TX_SRC_kind p).of src = 3 ∧ s.bit (LP_STAT_pid_valid q) then
    some (s.rd (LP_RX_PID q))
  else none

/-- The oldest waiting line of a source with a number, and what waits behind it: lines before it have missed their time
(R40, R212). -/
def dueLineOf (key line : Nat) : List (Nat × Nat × List Slice) → Option (List Slice × List (Nat × Nat × List Slice))
  | [] => none
  | (k, n, l) :: t => if k = key ∧ n = line then some (l, t) else dueLineOf key line t

/-- The line being sent is over (R209, R212, R213): it was sent from its source where the source's line was there, and else
whole as underrun fill of the kind selected, black or the active content of the last line sent. -/
def State.txLineEnd (s : State) (p : Nat) : State :=
  let x := s.lpSt p
  if x.lineNow = 0 then s else
  match dueLineOf (x.src.toNat % 4096) x.lineNow x.wait with
  | some (l, rest) =>
    let s := s.txCount p l
    s.setLp p { s.lpSt p with lineNow := 0, wait := rest, lastSent := sentSlices l, sentKind := 1 }
  | none =>
    let s := (s.inc (cnt16 (LP_UNDERRUN_CNT p))).pb (LP_STICKY_underrun p) true
    let fill := if s.bit (LP_TX_CTL_underrun_fill p) && !x.lastSent.isEmpty then x.lastSent
      else match formatOf (s.rg (s.g (LP_TX_CTL_rg p))).format with
        | some f => blackLine f 128
        | none => []
    s.setLp p { s.lpSt p with lineNow := 0, lastSent := fill, sentKind := 2 }

/-- The transmit path begins one line, with a TRS, number and CRC of its own (R209): from its source, whose slices must
have come when the line is over (R212); black of its own making (R210); in an interval of R80 an extra blanking line
(R214); under test the pattern (R217). At a switching line the source written last comes into force, whether or not the
port sends (R211). -/
def State.txLineStart (s : State) (rg p : Nat) : State :=
  let r := s.rg rg
  let s := if r.switchingLine && s.g (LP_TX_CTL_rg p) == rg then s.setLp p { s.lpSt p with src := s.rd (LP_TX_SRC p) } else s
  if !s.txOn rg p then s else
  let x := s.lpSt p
  if x.mismatch || x.rateWait || !x.sending then s else
  match formatOf r.format with
  | none => s
  | some f =>
    let n := if r.held then f.lines else r.lineNo
    let x := { x with sentLine := n, sentPid := s.txPid p, lineNow := 0 }
    if s.bit (LP_PRBS_CTL_gen p) && s.g (LP_PRBS_CTL_pattern p) != 0 then s.setLp p { x with sentKind := 4 }
    else if r.held then s.setLp p { x with sentKind := 3, lastSent := blackLine f 128 }
    else if (LP_TX_SRC_kind p).of x.src = 0 then s.setLp p { x with sentKind := 1, lastSent := blackLine f 128 }
    else s.setLp p { x with sentKind := 1, lineNow := n }

/-- At a frame start of its raster a transmitting port ends the frame it was sending, checks that the format is
carried at its rate, and begins the next (R190, R213–R215). -/
def State.txFrameStart (s : State) (rg p : Nat) (adjusted : Bool) : State :=
  if !s.txOn rg p then s else
  let x := s.lpSt p
  let own := (s.ownerOf kLpTx p).byte
  let s := s.when x.sending (fun s => s.incWrap (word (LP_TX_FRAME_CNT p)))
  let s := s.when (x.sending && adjusted) (fun s => s.inc (cnt16 (LP_FRAME_ADJ_CNT p)))
  let s := s.when (x.marked != 0) (fun s => s.eventNow 0x1D own (BitVec.ofNat 32
    (min x.marked 1048575 * 4096 + (if x.satSeen then 2048 else 0) + (if x.fillSeen then 1024 else 0) + p)))
  let rate := s.g (LP_TX_CTL_rate p)
  let ok := match formatOf (s.rg rg).format with
    | some f => rateOfFormat f == rate
    | none => false
  let s := s.when (!ok && !x.mismatch) (fun s =>
    (s.pb (LP_STICKY_fmt_mismatch p) true).eventNow 0x1E own (BitVec.ofNat 32 p))
  -- In a DRAIN a port completes its frame and goes quiet from T_end on (R146).
  let go := ok && (match s.drainEnd with | some t => decide (s.now < t) | none => true)
  s.setLp p { s.lpSt p with
    marked := 0, satSeen := false, fillSeen := false, mismatch := !ok, rateWait := false, rateNow := rate,
    sending := go, wait := if go then (s.lpSt p).wait else [], sentKind := if go then (s.lpSt p).sentKind else 0 }

/-- A transmitting port counts an adjusted frame of its raster (R214). -/
def State.txAdjusted (s : State) (rg p : Nat) : State :=
  s.when (s.txOn rg p && (s.lpSt p).sending) (fun s => s.inc (cnt16 (LP_FRAME_ADJ_CNT p)))

/-- Whether a port's driver carries its partner's loop (R192). -/
def State.loopOut (s : State) (p : Nat) : Bool := s.lpMode (partner p) == 4

/-- What a port's driver does: it is quiet, sits at common-mode level, sends the lines of its own transmit path, or carries
its partner's received bits. -/
inductive LpDrive where
  | quiet
  | common
  | own
  | loop
  deriving DecidableEq, Repr

/-- The driver of a port (R131, R190–R194, R215): in a loop it sits at common mode while the looping CDR is out of lock,
and in a transmitting port where nothing is sent. -/
def State.lpDrive (s : State) (p : Nat) : LpDrive :=
  let x := s.lpSt p
  if !s.dev.active || !s.isAwake (rLp p) then .quiet
  else if s.loopOut p then
    (if s.isReady (rLp (partner p)) && s.bit (LP_STAT_cdr_locked (partner p)) then .loop else .common)
  else if s.lpSends p && s.isReady (rLp p) then
    (if x.sending && !x.mismatch && !x.rateWait then .own else .common)
  else .quiet

/-- The settings of a driver in force (R216): whether the slew is the fast one, the amplitude in mV, and the pre-emphasis
in dB. Slew AUTO is the ST 259 slew at 270 Mb/s and the fast one at every other rate. -/
def State.lpDriver (s : State) (p : Nat) : Bool × Int × Nat :=
  let x := s.lpSt p
  let slew := (LP_DRV_CTL_slew p).of x.drv
  let rate := if s.loopOut p then s.g (LP_STAT_rx_rate (partner p)) else x.rateNow
  (if slew = 0 then rate != 1 else slew == 2, 800 + 8 * signedField 4 ((LP_DRV_CTL_amp_trim p).of x.drv),
    (LP_DRV_CTL_preemph p).of x.drv)

/-- What a mode brings about as it comes into force (R191, R200): a port put in use wakes, and one that begins to receive
searches for lock; one that stops receiving is out of lock without a loss, and keeps the word of that lock for its sleep
(R199); the partner that carries a loop is in use (R192). -/
def State.lpTakeMode (s : State) (p : Nat) : State :=
  let rx (m : Nat) : Bool := [1, 3, 4].contains m
  let tx (m : Nat) : Bool := [2, 3].contains m
  let old := s.lpMode p
  let m := s.g (LP_MODE_CTL_mode p)
  if m = old then s else
  let s := s.setLp p { s.lpSt p with mode := m, warmWord := none }
  let s := (s.wakeUsed (rLp p)).wakeUsed (rLp (partner p))
  let s := if rx m && !rx old then s.startSearch p else s
  let s := if !rx m && rx old then
      let held := if m = 0 ∧ s.bit (LP_STAT_cdr_locked p) then some (s.warmWordNow p) else none
      (((s.pb (LP_STAT_cdr_locked p) false).p (LP_STAT_rx_rate p) 0).pb (LP_STAT_trs_locked p) false).setLp p
        { s.lpSt p with lockSince := none, delivering := false, lastLine := 0, aligned := false, warmWord := held }
    else s
  let s := if old = 4 then s.setLp (partner p) { s.lpSt (partner p) with sentKind := 0 } else s
  if tx m then s else s.setLp p { s.lpSt p with sending := false, lineNow := 0, wait := [] }

/-- The driver settings and the transmit rate of a port come into force; after a change of rate the driver waits for a
frame start (R215, R216). -/
def State.lpTakeDrive (s : State) (p : Nat) : State :=
  let x := s.lpSt p
  let new := s.g (LP_TX_CTL_rate p)
  if x.sending && new != x.rateNow && !x.rateWait then
    s.setLp p { x with drv := s.rd (LP_DRV_CTL p), rateWait := true, lineNow := 0, sentKind := 0 }
  else s.setLp p { x with drv := s.rd (LP_DRV_CTL p) }

/-- At a line start of a raster a port ends its line, and takes the settings that wait for its line quantum
(R94, R191, R215, R216). -/
def State.portLine (s : State) (rg p : Nat) : State :=
  let s := s.when (s.g (LP_TX_CTL_rg p) == rg) (fun s => (s.txLineEnd p).lpTakeDrive p)
  s.when (s.lpRg p 0 == rg) (fun s => s.lpTakeMode p)

/-- A port takes at once the settings whose raster does not run, so that they have no line quantum, or that a cue wrote at
its quantum (DEDUCED, notes/assumptions/18). -/
def State.lpSettle (s : State) (p : Nat) (now : Bool) : State :=
  let s := s.when (now || !s.rgRuns (s.lpRg p 0)) (fun s => s.lpTakeMode p)
  s.when (now || !s.rgRuns (s.g (LP_TX_CTL_rg p))) (fun s => s.lpTakeDrive p)

/-- Register checks of a line-port block beyond its field tables (R188, R189, R192, R196, R210): whether the new
value is refused as an encoding. The family of the transmit rate is judged in every write that gives the rate. -/
def State.lpRefuses (s : State) (p off : Nat) (new mask : W32) : Bool :=
  if off = 0x000 then
    let m := new.toNat % 8
    (m == 4 && s.lpModeIs (partner p) [2, 3]) || ([2, 3].contains m && s.lpModeIs (partner p) [4])
  else if off = 0x004 then
    let r := new.toNat % 16
    decide (8 ≤ p) && (r == 10 || r == 11)
  else if off = 0x008 then
    let r := new.toNat % 16
    (decide (8 ≤ p) && (r == 10 || r == 11)) ||
      (mask.toNat % 16 != 0 &&
        (match rateFamily r with | some f => f != s.bit (LP_GROUP_CTL_family (p / 4 * 4)) | none => false))
  else if off = 0x00C then
    let k := (LP_TX_SRC_kind p).of new
    let i := (LP_TX_SRC_index p).of new
    (k == 0 && i != 0) || (k == 1 && decide (256 ≤ i)) || (k == 3 && decide (32 ≤ i))
  else if off = 0x010 then
    let k := (LP_RX_DEST_kind p).of new
    let i := (LP_RX_DEST_index p).of new
    k == 1 && decide (256 ≤ i)
  else if off = 0x01C then
    decide ((LP_EQ_CTL_eq_max p).of new < (LP_EQ_CTL_eq_min p).of new)
  else false

end Sys2Proof.Machine
end

