-- ==== Sys2Proof/Machine/Analogue.lean ====
section
/-! DEFINITION. Analogue cells, the routing matrix and the filter chains (R219–R266). -/

namespace Sys2Proof.Machine

/-- A cell as after reset. -/
def CellSt.initial : CellSt :=
  { rampA := none, rampB := none, changing := none, ovrFrom := none, ovrTo := 0, suspTo := 0, markTo := 0,
    filtWait := false, filt := 0x0010036F, keyedNs := 0, keyedFrom := none, lineMarked := false, lineDue := none,
    heldOut := none, trimAt := 0 }

/-- A cell, and the state with a cell set. -/
def State.cellSt (s : State) (c : Nat) : CellSt := s.cell.get CellSt.initial c
def State.setCell (s : State) (c : Nat) (x : CellSt) : State := { s with cell := s.cell.set c x }

/-! ### Cells -/

/-- Whether a cell is enabled and ready in a state in which resources run (R219). -/
def State.cellUp (s : State) (c : Nat) : Bool := s.dev.active && s.bit (AC_CTL_enable c) && s.isReady (rAc c)

/-- Whether a cell is in ADC direction and not on the change (R228). -/
def State.cellAdc (s : State) (c : Nat) : Bool := !s.bit (AC_STAT_dir c) && (s.cellSt c).changing.isNone

/-- The other cells of a quad. -/
def quadOthers (c : Nat) : List Nat := ((List.range 4).map (fun i => c / 4 * 4 + i)).filter (· != c)

/-- The cells whose keying timer is a given one. -/
def State.keyedBy (s : State) (bt : Nat) : List Nat :=
  (List.range 48).filter (fun c => s.bit (AC_CTL_enable c) && s.g (AC_CTL_key_bt c) == bt)

/-- Whether another cell of the quad is in an over-range episode (R236). -/
def State.quadEpisode (s : State) (c : Nat) : Bool := (quadOthers c).any (fun d => (s.cellSt d).ovrFrom.isSome)

/-- Whether the marking interval of an episode elsewhere in the quad is running (R236). -/
def State.quadMarks (s : State) (c : Nat) : Bool := s.quadEpisode c || decide (s.now < (s.cellSt c).suspTo)

/-- An end of marks, cut at the opening of a direction change, at which the modulator stops (R229). -/
def CellSt.cut (x : CellSt) (t : Nat) : Nat :=
  match x.changing with
  | some (t0, _) => min t t0
  | none => t

/-- The instant up to which modulator samples of a cell carry OVR (R234), so far as it is known. -/
def State.ovrUntil (s : State) (c : Nat) : Nat :=
  let x := s.cellSt c
  x.cut (if x.ovrFrom.isSome then s.now + 1 else x.ovrTo)

/-- The instant up to which they carry SUSPECT (R224, R236, R246). -/
def State.suspUntil (s : State) (c : Nat) : Nat :=
  let x := s.cellSt c
  x.cut (Nat.max (if s.quadEpisode c && s.cellAdc c then s.now + 1 else x.suspTo) x.markTo)

/-- Whether modulator samples of a cell carry OVR or SUSPECT at the present instant. -/
def State.cellMarked (s : State) (c : Nat) : Bool := decide (s.now < s.ovrUntil c) || decide (s.now < s.suspUntil c)

/-- A mark of a cell begins: it spoils the clamp's line where the keying window is open (R233). -/
def State.markBegins (s : State) (c : Nat) : State :=
  if (s.cellSt c).keyedFrom.isSome then s.setCell c { s.cellSt c with lineMarked := true } else s

/-- SUSPECT marks run to an instant for a filter change or a switch of the matrix (R224, R246). -/
def State.suspectTo (s : State) (c t : Nat) : State :=
  (s.setCell c { s.cellSt c with markTo := Nat.max (s.cellSt c).markTo t }).markBegins c

/-- A neighbour of an over-range begins its SUSPECT interval, unless one is running (R236). -/
def State.suspectBegins (s : State) (c : Nat) : State :=
  if s.bit (AC_STAT_suspect_now c) then s else
  let s := (s.pb (AC_STAT_suspect_now c) true).pb (AC_STICKY_suspect c) true
  (s.inc (cnt16 (AC_SUSPECT_CNT c))).markBegins c

/-- A cell that begins to convert in ADC direction meets the marking interval that is running in its quad (R236). -/
def State.meetsMarks (s : State) (c : Nat) : State := s.when (s.quadMarks c) (fun s => s.suspectBegins c)

/-- An over-range episode begins (R234, R236). -/
def State.ovrBegin (s : State) (c : Nat) : State :=
  if !s.cellUp c || !s.cellAdc c || (s.cellSt c).ovrFrom.isSome then s else
  let s := s.setCell c { s.cellSt c with ovrFrom := some s.now }
  let s := ((s.pb (AC_STICKY_ovr c) true).pb (AC_STAT_ovr_now c) true).inc (cnt16 (AC_OVR_CNT c))
  let s := (s.wr64 (AC_OVR_TT_LO c) s.clock.ns).wr (AC_OVR_LEN c) 0
  let (peak, s) := s.drawIn 32768 65535
  let s := (s.raise (cnt16 (AC_PEAK c)) peak).markBegins c
  s.each ((quadOthers c).filter (fun d => s.cellUp d && s.cellAdc d)) (fun s d => s.suspectBegins d)

/-- An over-range episode ends: OVR marks run `tail` ns on, the neighbours' SUSPECT 24 ns (R234, R236). -/
def State.ovrStops (s : State) (c tail : Nat) : State :=
  match (s.cellSt c).ovrFrom with
  | none => s
  | some t =>
    let s := s.setCell c { s.cellSt c with ovrFrom := none, ovrTo := s.now + tail }
    let s := (s.pb (AC_STAT_ovr_now c) false).wr (AC_OVR_LEN c) (BitVec.ofNat 32 (min (s.now - t) 0xFFFFFFFF))
    s.each (quadOthers c) (fun s d =>
      s.setCell d { s.cellSt d with suspTo := Nat.max (s.cellSt d).suspTo (s.now + 24) })

/-- An over-range episode ends with the input in range: OVR marks run 8 ns on (R234). -/
def State.ovrEnd (s : State) (c : Nat) : State := s.ovrStops c 8

/-- The modulator of a cell stops, as the cell turns, is disabled or goes to sleep: its episode and its own SUSPECT
interval end with it (DEDUCED, notes/assumptions/13). -/
def State.modulatorStops (s : State) (c : Nat) : State :=
  let s := s.ovrStops c 0
  if !s.bit (AC_STAT_suspect_now c) then s else
  let s := s.when (s.quadEpisode c) (fun s => s.setCell c { s.cellSt c with suspTo := Nat.max (s.cellSt c).suspTo s.now })
  s.pb (AC_STAT_suspect_now c) false

/-- The SUSPECT interval of a neighbour ends, once no episode of the quad runs and 24 ns have passed (R236). -/
def State.suspectEnd (s : State) (c : Nat) : State :=
  if s.bit (AC_STAT_suspect_now c) && !s.quadMarks c then s.pb (AC_STAT_suspect_now c) false else s

/-- A trim of a register field takes at most one step (R239): which, the spec does not give. -/
def State.trimField (s : State) (f : Fld) : State :=
  let (d, s) := s.drawIn 0 2
  s.p f (s.g f + f.max + d)

/-- A cell takes its trims at the opening of its keying window (R239, R240). -/
def State.trimUpdate (s : State) (c : Nat) : State :=
  if !s.cellUp c || s.bit (AC_QUAD_CTL_bgcal_hold (c / 4 * 4)) then s else
  let s := s.each [⟨AC_TRIM_CONV c, 31, 16⟩, ⟨AC_TRIM_CONV c, 15, 0⟩, ⟨AC_TRIM_PGA c, 15, 8⟩, ⟨AC_TRIM_PGA c, 7, 0⟩,
    ⟨AC_TRIM_F0 c, 7, 0⟩] (fun s f => s.trimField f)
  let s := (s.incWrap (word (AC_CAL_UPD_CNT c))).pb (AC_STAT_cal_stale c) false
  s.setCell c { s.cellSt c with trimAt := s.elapsed }

/-- Edges of a keying window at the cells that it keys (R232, R233, R239). -/
def State.keyEdge (s : State) (bt : Nat) (opens : Bool) : State :=
  s.each (s.keyedBy bt) (fun s c =>
    let x := s.cellSt c
    if opens then
      (s.setCell c { x with
        keyedFrom := some (x.keyedFrom.getD s.elapsed), lineMarked := x.lineMarked || s.cellMarked c }).trimUpdate c
    else s.setCell c { x with
      keyedFrom := none, keyedNs := x.keyedNs + (match x.keyedFrom with | some t => s.elapsed - t | none => 0) })

/-- A line of the keying raster has ended: it is due an update of the clamp where the window was open in it for at least
256 ns (R232, R233). -/
def State.keyedLine (s : State) (rg : Nat) : State :=
  s.each ((List.range 48).filter (fun c => s.bit (AC_CTL_enable c) && s.keyRg c == rg)) (fun s c =>
    let x := s.cellSt c
    let open_ := x.keyedNs + (match x.keyedFrom with | some t => s.elapsed - t | none => 0)
    s.setCell c { x with
      lineDue := if 256 ≤ open_ then some x.lineMarked else none, keyedNs := 0,
      keyedFrom := x.keyedFrom.map (fun _ => s.elapsed), lineMarked := x.keyedFrom.isSome && s.cellMarked c })

/-- A cell that has taken no trims for 1 s while awake is stale (R240). -/
def State.staleNow (s : State) (c : Nat) : State :=
  if s.cellUp c && decide (secNs ≤ s.elapsed - (s.cellSt c).trimAt) && !s.bit (AC_STAT_cal_stale c) then
    (s.pb (AC_STAT_cal_stale c) true).pb (AC_STICKY_cal_stale c) true
  else s

/-- The setting that the clamp computes: moved by a free amount towards the value that brings the measured level to the
target, both on the 12-bit scale of the modulator (R232). -/
def State.dcrComputed (s : State) (c level : Nat) : Int × State :=
  let cur := signedField 10 (s.g (AC_DCR_SET_offset c))
  let target := s.g (AC_DCR_TARGET_target c)
  let (d, s) := s.drawIn 0 1023
  (if level < target then cur + d else if target < level then cur - d else cur, s)

/-- The DC-restore clamp makes its update for the line just ended, or skips it (R232, R233). -/
def State.dcrStep (s : State) (c level : Nat) : State :=
  match (s.cellSt c).lineDue with
  | none => s
  | some marked =>
    let s := s.setCell c { s.cellSt c with lineDue := none }
    let mode := s.g (AC_DCR_CTL_mode c)
    if !s.cellUp c || !s.cellAdc c || mode == 2 || s.loopBlocked (AC_DCR_STAT c) || marked then s
    else
      let lo := if mode = 1 then signedField 10 (s.g (AC_DCR_CTL_dcr_min c)) else -512
      let hi := if mode = 1 then signedField 10 (s.g (AC_DCR_CTL_dcr_max c)) else 511
      let (computed, s) := s.dcrComputed c level
      let (v, side) := loopApply (signedField 10 (s.g (AC_DCR_SET_offset c))) computed lo hi
      s.loopDone (AC_DCR_SET_offset c) (v % 1024).toNat (AC_DCR_STAT c) (AC_DCR_BOUND_CNT c) side

/-! ### Gains -/

/-- The code of a ramp after `i` samples: truncated towards zero (R221). -/
def Ramp.code (r : Ramp) (i : Nat) : Nat :=
  ((r.g0 : Int) + Int.tdiv (((r.g1 : Int) - r.g0) * i) r.len).toNat

/-- A ramp makes one step: the code it reaches, and what is left of it. -/
def Ramp.step (r : Ramp) : Nat × Option Ramp :=
  let i := r.done + 1
  (r.code i, if r.len ≤ i then none else some { r with done := i })

/-- The ramps of a cell take one step at an output sample of its chain (R221). -/
def State.rampStep (s : State) (c : Nat) : State :=
  let x := s.cellSt c
  let s := match x.rampA with
    | none => s
    | some r =>
      let (v, r) := r.step
      (s.p (AC_GAIN_gain_a c) v).setCell c { s.cellSt c with rampA := r }
  match x.rampB with
  | none => s
  | some r =>
    let (v, r) := r.step
    (s.p (AC_GAIN_gain_b c) v).setCell c { s.cellSt c with rampB := r }

/-- A gain cue takes effect: the other ramp goes on (R221, R222). -/
def State.gainCue (s : State) (c code : Nat) (pgaB : Bool) (len : Nat) : State :=
  let s := s.inc (cnt16 (AC_GAIN_CUE_CNT c))
  let f := if pgaB then AC_GAIN_gain_b c else AC_GAIN_gain_a c
  let r : Option Ramp := if len = 0 then none else some ⟨s.g f, code, len, 0⟩
  let s := s.setCell c (if pgaB then { s.cellSt c with rampB := r } else { s.cellSt c with rampA := r })
  if len = 0 then s.p f code else s

/-- A write of ACn_GAIN ends the ramp of each PGA that it writes: the new code stands (R222). -/
def State.gainWritten (s : State) (c : Nat) (mask : W32) : State :=
  let x := s.cellSt c
  let a := mask &&& 0x3FF != 0
  let b := mask &&& 0x3FF0000 != 0
  s.setCell c { x with rampA := if a then none else x.rampA, rampB := if b then none else x.rampB }

/-! ### Filters -/

/-- max(1 µs, 5 / f0) in ns, rounded up, for an f0 code: f0 = 10 kHz × 10^(code/200) (R223, R224). 5 / f0 exceeds
1 µs below 5 MHz, and 500,000 ns × 10^(−code/200) is at most n when 500,000²⁰⁰ ≤ n²⁰⁰ × 10^code. -/
def filtMarkNs (code : Nat) : Nat :=
  let ok (n : Nat) : Bool := decide (500000 ^ 200 ≤ n ^ 200 * 10 ^ code)
  let rec up (n bit : Nat) : Nat → Nat
    | 0 => n
    | k + 1 => if ok (n + bit) then up n (bit / 2) k else up (n + bit) (bit / 2) k
  Nat.max 1000 (up 0 262144 19 + 1)

/-- A filter setting comes into force (R224). -/
def State.filtApply (s : State) (c : Nat) : State :=
  let v := s.rd (AC_FILT_CTL c)
  let changed := v != (s.cellSt c).filt
  let s := s.setCell c { s.cellSt c with filtWait := false, filt := v }
  if !changed then s else
  (s.inc (cnt16 (AC_FILT_CHG_CNT c))).suspectTo c (s.now + filtMarkNs (s.g (AC_FILT_CTL_f0 c)))

/-- A written filter setting waits for the keying raster's next line, or takes hold at once where that raster does not
run (R224, DEDUCED, notes/assumptions/13); at a cell that is not ready it waits until it is (R139). -/
def State.filtWritten (s : State) (c : Nat) (cue : Bool) : State :=
  if s.isReady (rAc c) && (cue || !s.rgRuns (s.keyRg c)) then s.filtApply c
  else s.setCell c { s.cellSt c with filtWait := true }

/-- At a line start of the keying raster a waiting filter setting of a ready cell takes hold. -/
def State.filtLine (s : State) (rg : Nat) : State :=
  s.each ((List.range 48).filter (fun c => (s.cellSt c).filtWait && s.isReady (rAc c) && s.keyRg c == rg))
    (fun s c => s.filtApply c)

/-! ### Chains -/

/-- The stretch S of the ROM responses (R253). -/
def stretchOf (resp : Nat) : Nat :=
  [6, 10, 8, 4, 5, 8, 6, 3, 4, 7, 5, 3, 3, 4, 3, 2, 31, 24, 12, 16, 23, 18, 9, 12, 19, 16, 8, 10, 1, 7, 4, 6].getD resp 0

/-- The latency L of the presets in samples (R251). -/
def latencyOf (preset : Nat) : Nat := [12, 10, 8, 4, 32, 24, 20, 8].getD preset 0

/-- The output rate of a preset in Hz in the 594 MHz family (R251). -/
def presetRate (preset : Nat) : Nat :=
  [297000000, 148500000, 74250000, 27000000, 192000, 96000, 48000, 1000].getD preset 1000

/-- Presets 0–3 are video (R251). -/
def isVideo (preset : Nat) : Bool := decide (preset < 4)

/-- The output rate of a preset in the clock family of a cell's quad, as a fraction of Hz (R251). -/
def State.rateOf (s : State) (c preset : Nat) : Nat × Nat :=
  if isVideo preset && s.bit (AC_QUAD_CTL_family (c / 4 * 4)) then (presetRate preset * 1000, 1001)
  else (presetRate preset, 1)

/-- CCLK of a cell's quad as a fraction of Hz (R226). -/
def State.cclk (s : State) (c : Nat) : Nat × Nat :=
  if s.bit (AC_QUAD_CTL_family (c / 4 * 4)) then (594000000000, 1001) else (594000000, 1)

/-- The bits of a chain's video codes (R252). -/
def State.vbits (s : State) (c : Nat) : Nat := if s.bit (FC_CTL_vbits c) then 12 else 10

/-- The legal codes of a chain's format (extreme legal codes of R234). -/
def State.legalCodes (s : State) (c : Nat) : Int × Int :=
  if isVideo (s.g (FC_STAT_preset c)) then
    (if s.bit (FC_CTL_vbits c) then (0x010, 0xFEF) else (0x004, 0x3FB))
  else (-8388608, 8388607)

/-- The lane words of a code (R284): a video code times 64 or 16, an audio sample in two words, low half first
(DESIGN CHOICE, notes/assumptions/12). -/
def State.codeWords (s : State) (c : Nat) (v : Int) (m : Marks) : List Sample :=
  if isVideo (s.g (FC_STAT_preset c)) then [⟨BitVec.ofInt 16 (v * 2 ^ (16 - s.vbits c)), m⟩]
  else pcmWords v m

/-- The code that lane words of an input sample hold: a video word is rounded to the depth of the format (R284). -/
def State.wordsCode (s : State) (c : Nat) (l : List Sample) : Int :=
  match l with
  | [x] => let q := 2 ^ (16 - s.vbits c); ((x.word.toNat + q / 2) / q : Nat)
  | x :: y :: _ => pcmOf x y
  | [] => 0

/-- The format stage in ADC direction: full scale spans codes 0 to 2ⁿ − 1, or the 24-bit samples (R261). A value between two
codes is rounded to either of them: to which, the spec does not give. -/
def State.codeOf (s : State) (c : Nat) (v : Int) : Int × State :=
  if isVideo (s.g (FC_STAT_preset c)) then
    let q : Int := 2 ^ (24 - s.vbits c)
    let u := v + 8388608
    if u % q = 0 then (u / q, s) else
    let (d, s) := s.drawIn 0 1
    (u / q + d, s)
  else (v, s)

/-- The format stage in DAC direction, in 2⁻²⁴ of full scale: a video code c of n bits is the DAC code c × 2^(14 − n) −
8,192 (R259). -/
def State.valueOfCode (s : State) (c : Nat) (v : Int) : Int :=
  if isVideo (s.g (FC_STAT_preset c)) then (v * 2 ^ (14 - s.vbits c) - 8192) * 1024 else v

/-- The phase delay: a whole number of samples back, or a free value between two samples (R256). -/
def phaseOut (steps : Nat) (past : List Int) : Int :=
  match (if steps % 64 = 0 then past[steps / 64]? else none) with
  | some v => v
  | none => Config.delayed steps past

/-- Whether a raster's sample clock is of the /1.001 family: its rate is no whole number of Hz (R255). -/
def Format.fracClock (f : Format) : Bool := f.m * f.lines * f.samples % f.n != 0

/-- Whether a video chain takes its grid from the epoch: its keying raster does not run, or its sample clock is of the
other family (R255). -/
def State.gridFree (s : State) (c : Nat) : Bool :=
  isVideo (s.g (FC_STAT_preset c)) &&
    (let r := s.rg (s.keyRg c)
     !r.running || (match formatOf r.format with
       | some f => f.fracClock != s.bit (AC_QUAD_CTL_family (c / 4 * 4))
       | none => true))

/-- The start of a chain's sample grid in whole ns of TT: the frame start of the keying raster, or the epoch (R255). -/
def State.gridFrom (s : State) (c : Nat) : Nat :=
  if isVideo (s.g (FC_STAT_preset c)) && !s.gridFree c then (s.rg (s.keyRg c)).frameAt else 0

/-- The number of the latest grid instant at or before the present one, and that instant in whole ns, rounded up (R255). -/
def State.gridIndex (s : State) (c : Nat) : Nat :=
  let (n, d) := s.rateOf c (s.g (FC_STAT_preset c))
  (s.now - s.gridFrom c) * n / (secNs * d)
def State.gridAt (s : State) (c : Nat) : Nat :=
  let (n, d) := s.rateOf c (s.g (FC_STAT_preset c))
  s.gridFrom c + (s.gridIndex c * secNs * d + (n - 1)) / n

/-- Whether an output sample of a chain is due: a grid instant has come since the last one (R255). -/
def State.sampleDue (s : State) (c : Nat) : Bool :=
  match s.sampleAt.lookup c with
  | some t => decide (t < s.gridAt c)
  | none => true

/-- The CCLK periods between the present grid instant of a chain and the next (R251). -/
def State.periods (s : State) (c : Nat) : Nat :=
  let (n, d) := s.rateOf c (s.g (FC_STAT_preset c))
  let (cn, cd) := s.cclk c
  let j := s.gridIndex c
  (j + 1) * (cn * d) / (n * cd) - j * (cn * d) / (n * cd)

/-- The service byte of records about a cell or chain. -/
def State.quadByte (s : State) (c : Nat) : Nat := (s.ownerOf kQuad (c / 4)).byte

/-- An episode of grid_free begins or ends at a chain; only one that is ready has a grid (R255, DEDUCED,
notes/assumptions/13). -/
def State.gridCheck (s : State) (c : Nat) : State :=
  let now := s.cellUp c && s.gridFree c
  if now == s.bit (FC_STAT_grid_free c) then s else
  let s := s.pb (FC_STAT_grid_free c) now
  s.when now (fun s => (s.pb (FC_STICKY_grid c) true).eventNow 0x21 (s.quadByte c) (BitVec.ofNat 32 c))

/-- Every chain's grid is judged: rasters or keying timers have changed. -/
def State.gridsCheck (s : State) : State :=
  s.each ((List.range 48).filter (fun c => s.bit (AC_CTL_enable c))) (fun s c => s.gridCheck c)

/-- A chain becomes ready with its cell in ADC direction: its first L + S samples are SUSPECT (R265). -/
def State.chainSettles (s : State) (c : Nat) : State :=
  let n := latencyOf (s.g (FC_STAT_preset c)) + stretchOf (s.g (FC_CTL_resp c))
  (s.setChain c { s.chain c with settleLeft := n }).pb (FC_STAT_settling c) true

/-- The link in the register comes into force; slices that wait from the former source go (R258). -/
def State.takeLink (s : State) (c : Nat) : State :=
  if (s.chain c).link = s.rd (FC_LINK c) then s else
  (s.setChain c { s.chain c with link := s.rd (FC_LINK c) }).setQueue (chainKey c) []

/-- A cell becomes ready after its wake, or is enabled while it is ready (R138, R139, R236, R240, R265). -/
def State.cellReady (s : State) (c : Nat) : State :=
  let s := s.setCell c { s.cellSt c with trimAt := s.elapsed }
  let s := (s.pb (AC_STAT_ready c) true).pb (FC_STAT_ready c) true
  let s := (s.p (FC_STAT_preset c) (s.g (FC_CTL_preset c))).takeLink c
  let s := s.when (s.cellSt c).filtWait (fun s => s.filtApply c)
  let s := s.when (!s.bit (AC_STAT_dir c)) (fun s => (s.chainSettles c).meetsMarks c)
  s.gridCheck c

/-- A cell stops converting: it is disabled, or goes to sleep with its chain. -/
def State.cellStops (s : State) (c : Nat) : State :=
  let s := (s.pb (AC_STAT_ready c) false).pb (FC_STAT_ready c) false
  let s := (s.modulatorStops c).pb (FC_STAT_grid_free c) false
  (s.setChain c { s.chain c with settleLeft := 0 }).pb (FC_STAT_settling c) false

/-- The response, phase delay and link in the registers come into force at an output sample boundary, the link only at
that of a slice (R254, R256, R258). -/
def State.chainApply (s : State) (c : Nat) : State :=
  let adc := !s.bit (AC_STAT_dir c)
  let s := if (s.cellSt c).changing.isNone && s.g (FC_CTL_resp c) != s.g (FC_STAT_resp c) then
      let r := s.g (FC_CTL_resp c)
      let s := (s.p (FC_STAT_resp c) r).inc (cnt16 (FC_RESP_CHG_CNT c))
      s.when adc (fun s => s.setChain c { s.chain c with suspLeft := Nat.max (s.chain c).suspLeft (stretchOf r) })
    else s
  let ph := s.g (FC_PHASE_steps c)
  let s := if ph = (s.chain c).phase then s else
    s.setChain c { s.chain c with
      phase := ph, suspLeft := if adc then Nat.max (s.chain c).suspLeft 8 else (s.chain c).suspLeft }
  if (s.chain c).acc.isEmpty && (s.chain c).input.data.isEmpty then s.takeLink c else s

/-- The slice that a chain has gathered goes to its destination (R258). -/
def State.chainFlush (s : State) (c : Nat) (last : Bool) : State :=
  let x := s.chain c
  if x.acc.isEmpty then s else
  let kind := (FC_LINK_kind c).of x.link
  let idx := (FC_LINK_index c).of x.link
  let audio := !isVideo (s.g (FC_STAT_preset c))
  let line := if audio then (if kind = 2 then (s.stream idx).line + 1 else 1) else x.line
  (s.setChain c { x with acc := [] }).deliverSlice kind idx ⟨x.acc, line, last || audio⟩ audio

/-- Lane words of a slice: 64 audio samples of two words, 64 video samples of one, or 32 on the Direct path of a 525-line
or 625-line format (R46, R284); a destination in frame memory makes no Direct path (R47). -/
def State.sliceFull (s : State) (c : Nat) : Nat :=
  if !isVideo (s.g (FC_STAT_preset c)) then 128
  else if s.rgRuns (s.keyRg c) && decide ((s.rg (s.keyRg c)).format ≤ 2) && (FC_LINK_kind c).of (s.chain c).link != 2 then 32
  else 64

/-- A mark with its stretch: the samples after one that carries it directly, for S samples or as long as an older stretch
lasts (R264, corner of R254). -/
def stretch (direct : Bool) (left sLen : Nat) : Bool × Nat :=
  (direct || left != 0, if direct then Nat.max (left - 1) sLen else left - 1)

/-- Whether a line of the keying raster has begun after a sample instant. -/
def State.newLine (s : State) (c prev : Nat) : Bool :=
  s.rgRuns (s.keyRg c) && decide (prev < (s.rg (s.keyRg c)).lineAt)

/-- The DC estimate in 2⁻²⁴ of full scale where the DC block runs, else 0 (R262). -/
def State.dcEstimate (s : State) (c : Nat) : Int :=
  if s.bit (FC_CTL_dcb_en c) then 64 * signedField 18 (s.g (FC_DCB_SET_e c)) else 0

/-- The DC block makes its update for the last 256 output samples, or skips it (R262, R263). The estimate is whole, so that
a computed value between two settings is either of them: `up` takes the higher. -/
def State.dcbStep (s : State) (c : Nat) (up : Bool) : State :=
  match (s.chain c).dcbDue with
  | none => s
  | some (sum, marked) =>
    let s := s.setChain c { s.chain c with dcbDue := none }
    let mode := s.g (FC_DCB_CTL_mode c)
    if !s.cellUp c || !s.bit (FC_CTL_dcb_en c) || mode == 2 || s.loopBlocked (FC_DCB_STAT c) then s
    else if marked then s.pb (FC_STAT_dcb_suspended c) true
    else
      let e := signedField 18 (s.g (FC_DCB_SET_e c))
      let q : Int := 16384 * 2 ^ s.g (FC_DCB_CTL_k c)
      let num := sum - 16384 * e
      let r : Int := if num % q ≠ 0 && up then 1 else 0
      let lo := if mode = 1 then 256 * signedField 10 (s.g (FC_DCB_CTL_dcb_min c)) else -131072
      let hi := if mode = 1 then 256 * signedField 10 (s.g (FC_DCB_CTL_dcb_max c)) else 131071
      let (v, side) := loopApply e (e + num / q + r) lo hi
      (s.loopDone (FC_DCB_SET_e c) (v % 262144).toNat (FC_DCB_STAT c) (FC_DCB_BOUND_CNT c) side).pb
        (FC_STAT_dcb_suspended c) false

/-- A sample passes the DC block (R262, R263): 256 of them make an update due; one not yet made is made before. -/
def State.dcbTake (s : State) (c : Nat) (v : Int) (m : Marks) : State :=
  if !s.bit (FC_CTL_dcb_en c) then s else
  let f := s.chain c
  let sum := f.dcbSum + v
  let marked := f.dcbMarked || m.ovr || m.suspect || m.fill
  if f.dcbCount + 1 < 256 then
    s.setChain c { f with dcbCount := f.dcbCount + 1, dcbSum := sum, dcbMarked := marked }
  else
    let s := if s.chain c |>.dcbDue.isNone then s else
      let (r, s) := s.drawIn 0 1
      s.dcbStep c (r == 1)
    s.setChain c { s.chain c with dcbCount := 0, dcbSum := 0, dcbMarked := false, dcbDue := some (sum, marked) }

/-- The value that the stages of a chain in ADC direction compute from a decimated sample, with what they keep: the
response, the DC block and the phase delay, in this order (R250), and the response's value, which the DC block measures. -/
def State.adcStages (s : State) (c : Nat) (v : Int) : Int × Int × State :=
  let f := s.chain c
  let resp := s.g (FC_STAT_resp c)
  let hist := (v :: f.hist).take 32
  let y := Config.response resp (hist.take (stretchOf resp + 1))
  let past := ((y - s.dcEstimate c) :: f.past).take 65
  (phaseOut f.phase past, y, s.setChain c { f with hist := hist, past := past })

/-- A chain in ADC direction delivers a sample: `value` is the decimated sample in 2⁻²⁴ of full scale, the last one repeated
during a direction change (R229). It passes the stages, is clamped to the legal range, marked, and gathered into its slice
(R234, R235, R258, R261, R264, R265). `prev` is the instant of the sample before. -/
def State.adcSample (s : State) (c : Nat) (value : Int) (prev : Nat) : State :=
  let ends := isVideo (s.g (FC_STAT_preset c)) && s.newLine c prev
  let s := if ends || decide (s.sliceFull c ≤ (s.chain c).acc.length) then s.chainFlush c ends else s
  let s := s.chainApply c
  let sl := stretchOf (s.g (FC_STAT_resp c))
  let changing := (s.cellSt c).changing.isSome
  let direct := decide (prev < s.ovrUntil c)
  let f := s.chain c
  let (ovr, ovrLeft) := stretch direct f.ovrLeft sl
  let (susp, suspLeft) := stretch (decide (prev < s.suspUntil c)) f.suspLeft sl
  let (fill, fillLeft) := stretch changing f.fillLeft sl
  let (w, y, s) := s.adcStages c (if changing then f.hist.headD 0 else value)
  let (v, s) := s.codeOf c w
  let (lo, hi) := s.legalCodes c
  let past := decide (v < lo) || decide (hi < v)
  let clamp := past && !direct
  let m : Marks := ⟨ovr || past, susp || f.settleLeft != 0, false, fill⟩
  let s := s.when (clamp && !f.clampRun) (fun s => s.inc (cnt16 (AC_CLAMP_CNT c)))
  let s := s.when clamp (fun s => s.pb (AC_STICKY_clamp c) true)
  let s := s.when (m.ovr || m.suspect) (fun s => s.markBegins c)
  let (peak, s) := s.drawIn 0 32767
  let s := s.raise (cnt16 (AC_PEAK c)) peak
  let line := if s.rgRuns (s.keyRg c) then (s.rg (s.keyRg c)).lineNo else 1
  let g := s.chain c
  let s := s.setChain c { g with
    ovrLeft := ovrLeft, suspLeft := suspLeft, fillLeft := fillLeft, settleLeft := f.settleLeft - 1, clampRun := clamp,
    acc := g.acc ++ s.codeWords c (clampInt lo hi v) m, line := line }
  let s := s.when (f.settleLeft == 1) (fun s => s.pb (FC_STAT_settling c) false)
  (s.dcbTake c y m).incWrap (word (FC_SAMPLE_CNT c))

/-- A slice follows a used one at a chain's input: its place in the line goes on where the line does. -/
def DacIn.next (w : DacIn) (q : QSlice) : DacIn :=
  ⟨q.data, q.line, if q.line = w.line && !w.last then w.pos else 0, q.last⟩

/-- Input samples whose place has passed, of the present line or a line before, are discarded (R260); those of the present
line and of the next one wait. -/
def DacIn.skip (w : DacIn) (line lines pos : Nat) : DacIn :=
  if w.line = line then { w with data := w.data.drop (pos - w.pos), pos := Nat.max w.pos (min pos (w.pos + w.data.length)) }
  else if w.line = line % lines + 1 then w
  else { w with data := [], pos := w.pos + w.data.length }

/-- The first waiting input sample whose place has not passed, and the slices behind it. -/
def DacIn.seek (line lines pos : Nat) : DacIn → List QSlice → DacIn × List QSlice
  | w, [] => (w.skip line lines pos, [])
  | w, q :: t =>
    let w := w.skip line lines pos
    if w.data.isEmpty then DacIn.seek line lines pos (w.next q) t else (w, q :: t)

/-- The samples that wait, with slices taken until there are `n` lane words. -/
def DacIn.fill (n : Nat) : DacIn → List QSlice → DacIn × List QSlice
  | w, [] => (w, [])
  | w, q :: t => if n ≤ w.data.length then (w, q :: t) else DacIn.fill n { w.next q with data := w.data ++ q.data } t

/-- The next input sample of a chain in DAC direction, if it has arrived. A video sample is used at its own place of its own
line of the keying raster; where no raster gives places, samples are used in their order (R260, DESIGN CHOICE,
notes/assumptions/13). -/
def State.dacInput (s : State) (c : Nat) : Option (List Sample) × State :=
  let video := isVideo (s.g (FC_STAT_preset c))
  let n := if video then 1 else 2
  let f := s.chain c
  let r := s.rg (s.keyRg c)
  let placed := video && r.running
  let lines := match formatOf r.format with | some x => x.lines | none => 1
  let (w, q) := if placed then DacIn.seek r.lineNo lines f.pos f.input (s.queue (chainKey c))
    else DacIn.fill n f.input (s.queue (chainKey c))
  let ok := if placed then w.line == r.lineNo && w.pos == f.pos && !w.data.isEmpty else decide (n ≤ w.data.length)
  let s := s.setQueue (chainKey c) q
  if ok then (some (w.data.take n), s.setChain c { f with input := { w with data := w.data.drop n, pos := w.pos + 1 } })
  else (none, s.setChain c { f with input := w })

/-- A code reaches the DAC: beyond its range it is converted as the nearest extreme, and each run counts once
(R238). -/
def State.dacCode (s : State) (c : Nat) (computed : Int) : State :=
  let past := decide (computed < -8192) || decide (8191 < computed)
  let s := s.when (past && !(s.chain c).dacRun) (fun s => s.inc (cnt16 (AC_DAC_CLAMP_CNT c)))
  let s := s.when past (fun s => s.pb (AC_STICKY_dac_clamp c) true)
  s.setChain c { s.chain c with dacRun := past, dacOut := clampInt (-8192) 8191 computed }

/-- The stages of a chain in DAC direction behind the format stage: phase delay, DC block, response, and one code for every
CCLK period until the next sample (R225, R250, R251). -/
def State.dacStages (s : State) (c : Nat) (v : Int) (m : Marks) : State :=
  let f := s.chain c
  let past := (v :: f.past).take 65
  let y := phaseOut f.phase past
  let hist := ((y - s.dcEstimate c) :: f.hist).take 32
  let s := (s.setChain c { f with hist := hist, past := past }).dcbTake c y m
  let resp := s.g (FC_STAT_resp c)
  s.each (List.range (s.periods c)) (fun s k =>
    s.dacCode c (Config.interpolated resp (hist.take (stretchOf resp + 1)) k))

/-- The code of an input sample clamped to its legal range (R259). -/
def State.dacLegal (s : State) (c : Nat) (l : List Sample) : Int :=
  let (lo, hi) := s.legalCodes c
  clampInt lo hi (s.wordsCode c l)

/-- A substituted input sample, the last one received or the one of DAC code 0 (R260); each run counts once. -/
def State.dacUnderrun (s : State) (c : Nat) : State :=
  let f := s.chain c
  let s := s.when (!f.underRun) (fun s => s.inc (cnt16 (FC_UNDERRUN_CNT c)))
  let s := (s.pb (FC_STICKY_underrun c) true).setChain c { f with underRun := true }
  if s.bit (FC_CTL_under_fill c) || f.lastIn.isEmpty then s.dacStages c 0 marksNone
  else s.dacStages c (s.valueOfCode c (s.dacLegal c f.lastIn)) (sliceMarks f.lastIn)

/-- An input sample of a chain in DAC direction: clamped to its legal range, its marks noted, and converted (R259). -/
def State.dacTake (s : State) (c : Nat) (l : List Sample) : State :=
  let m := sliceMarks l
  let s := s.when m.fill (fun s => s.pb (FC_STICKY_in_fill c) true)
  let s := s.when m.sat (fun s => s.pb (FC_STICKY_in_sat c) true)
  let v := s.dacLegal c l
  let past := v != s.wordsCode c l
  let s := s.when (past && !(s.chain c).clampRun) (fun s => s.inc (cnt16 (AC_CLAMP_CNT c)))
  let s := s.when past (fun s => s.pb (AC_STICKY_clamp c) true)
  let s := s.setChain c { s.chain c with clampRun := past, underRun := false, lastIn := l }
  s.dacStages c (s.valueOfCode c v) m

/-- A chain in DAC direction takes a sample, or substitutes one (R259, R260); on the way to ADC it consumes and discards it
(R258). -/
def State.dacSample (s : State) (c : Nat) (prev : Nat) : State :=
  let s := s.chainApply c
  let s := s.setChain c { s.chain c with pos := if s.newLine c prev then 0 else (s.chain c).pos + 1 }
  let (i, s) := s.dacInput c
  let changing := (s.cellSt c).changing.isSome
  match i with
  | none => if changing then s else s.dacUnderrun c
  | some l =>
    let s := s.incWrap (word (FC_SAMPLE_CNT c))
    if changing then s else s.dacTake c l

/-- An output sample boundary of a chain on its grid (R221, R255, R264): a sample is delivered or taken, and ramps
step. -/
def State.chainSample (s : State) (c : Nat) (value : Int) : State :=
  if !s.cellUp c || !s.sampleDue c then s else
  let t := s.gridAt c
  let prev := (s.sampleAt.lookup c).getD 0
  let s := if s.bit (AC_STAT_dir c) then s.dacSample c prev else s.adcSample c value prev
  { s.rampStep c with sampleAt := s.sampleAt.set c t }

/-- Whether a chain in DAC direction needs an input sample now that has not arrived (R260). -/
def State.dacMissing (s : State) (c : Nat) : Bool :=
  let f := s.chain c
  let t := s.setChain c { f with pos := if s.newLine c ((s.sampleAt.lookup c).getD 0) then 0 else f.pos + 1 }
  s.cellUp c && s.bit (AC_STAT_dir c) && (s.cellSt c).changing.isNone && s.sampleDue c && (t.dacInput c).1.isNone

/-! ### The output buffer -/

/-- What sets the level at a cell's output buffer, unless it holds one (R225, R229). -/
def State.bufNow (s : State) (c : Nat) : BufLevel :=
  { dac := s.bit (AC_STAT_dir c), value := if s.bit (AC_STAT_dir c) then (s.chain c).dacOut else (s.chain c).hist.headD 0,
    gainA := s.g (AC_GAIN_gain_a c), gainB := s.g (AC_GAIN_gain_b c), filt := (s.cellSt c).filt }

/-- The modes of a cell's output buffer (R227): high-impedance, the matrix only, a back-terminated 75 Ω source, a
low-impedance source. -/
inductive OutMode where
  | off
  | bus
  | line75
  | lineHiz
  deriving DecidableEq, Repr

/-- Whether a drain has come to the end of the frame that T_end met on a cell's raster: the cell's output is quiet from
then on, and from T_end on where that raster does not run (step 4 of DRAIN, R146). -/
def State.cellQuiet (s : State) (c : Nat) : Bool :=
  match s.pwr.drain with
  | some d =>
    let r := s.rg (s.keyRg c)
    d.cut && (match s.drainEnd with | some t => !r.running || decide (t ≤ r.frameAt) | none => true)
  | none => false

/-- The mode of a cell's output buffer: high-impedance while the cell sleeps, where the device does not run it, and at the
end of a drain (R146, R227, R244). -/
def State.outMode (s : State) (c : Nat) : OutMode :=
  if !s.cellUp c || s.cellQuiet c then .off
  else match s.g (AC_CONV_CTL_out_mode c) with
    | 0 => .off
    | 1 => .bus
    | 2 => .line75
    | _ => .lineHiz

/-- What a cell's output buffer drives the matrix with, if it drives it (R227, R229). -/
def State.bufLevel (s : State) (c : Nat) : Option BufLevel :=
  if s.outMode c = .off then none else some ((s.cellSt c).heldOut.getD (s.bufNow c))

/-! ### Direction -/

/-- Whether a cell's keying window can never open (R231): the timer is disabled, has a length of 0, never opens under
R83, or its generator does not run. -/
def State.neverKeyed (s : State) (c : Nat) : Bool :=
  let b := s.bt (s.g (AC_CTL_key_bt c))
  let fmt := formatOf (s.rg (btRg b.ctl)).format
  !(TB_BT_CTL_enable 0).of b.ctl == 1 || (TB_BT_CTL_length 0).of b.ctl == 0 || !s.rgRuns (btRg b.ctl) ||
    (match fmt with
     | none => true
     | some f =>
       let start := (TB_BT_CTL_start 0).of b.ctl
       if (TB_BT_CTL_period 0).of b.ctl = 0 then decide (f.samples ≤ start)
       else start == 0 ||
         decide ((if (TB_BT_CTL_period 0).of b.ctl = 1 ∧ f.interlaced then f.field2 - 1 else f.lines) < start))

/-- What a chain keeps over a direction change: its settings, not its history (R258). -/
def ChainSt.cleared (f : ChainSt) : ChainSt := { ChainSt.initial with link := f.link, phase := f.phase, dacOut := f.dacOut }

/-- A cell stands in a new direction, its chain with it; the change is counted with its duration (R228, R258). A chain that
leaves ADC first delivers what its slice holds. -/
def State.stands (s : State) (c dir ns : Nat) : State :=
  let s := s.when (dir == 1) (fun s => s.chainFlush c true)
  let s := ((s.p (AC_STAT_dir c) dir).pb (AC_STAT_changing c) false).p (FC_STAT_interp c) dir
  let s := (s.inc (cnt16 (AC_DIR_CNT c))).wr (AC_DIR_TIME c) (BitVec.ofNat 32 ns)
  let s := s.setCell c { s.cellSt c with changing := none, heldOut := none, lineDue := none }
  let s := ((s.setChain c (s.chain c).cleared).setQueue (chainKey c) []).takeLink c
  s.pb (FC_STAT_settling c) false

/-- A DIRECTION cue takes effect (R228, R231): a cell on its way to the direction named is left; a disabled cell turns at
once, which counts as a change of no duration (DEDUCED, notes/assumptions/13); else the change begins: the output buffer
holds its level, and the modulator stops (R229). -/
def State.turn (s : State) (c dir : Nat) (unblanked : Bool) : State :=
  if s.g (AC_CONV_CTL_dir c) = dir then s
  else if !s.bit (AC_CTL_enable c) then (s.p (AC_CONV_CTL_dir c) dir).stands c dir 0
  else
    let s := s.modulatorStops c
    let x := s.cellSt c
    let s := s.setCell c { x with changing := some (s.now, dir), heldOut := some (x.heldOut.getD (s.bufNow c)) }
    let s := (s.p (AC_CONV_CTL_dir c) dir).pb (AC_STAT_changing c) true
    s.when unblanked (fun s =>
      ((s.pb (AC_STICKY_dir_unblanked c) true).inc (cnt16 (AC_DIR_UNBLANKED_CNT c))).eventNow 0x20 (s.quadByte c)
        (BitVec.ofNat 32 c))

/-- A direction change completes no more than 2 µs after its beginning (R228, R258, R265). -/
def State.turned (s : State) (c : Nat) : State :=
  match (s.cellSt c).changing with
  | none => s
  | some (t, d) =>
    if 2000 < s.now - t then s else
    let s := s.stands c d (s.now - t)
    s.when (d == 0 && s.cellUp c) (fun s => (s.chainSettles c).meetsMarks c)

/-! ### The matrix -/

/-- The cells that listen to a bus. -/
def State.listeners (s : State) (k : Nat) : List Nat :=
  (List.range 48).filter (fun c => s.g (AMX_CIN_input c) == 0x10 + k)

/-- The cells that listen to a pin: its home cell by a home input, and the listeners of buses with the pin as source
(R241). -/
def State.pinListeners (s : State) (n : Nat) : List Nat :=
  (if s.g (AMX_CIN_input (n / 2)) = 1 + n % 2 then [n / 2] else []) ++
    ((List.range 16).filter (fun k => s.g (AMX_AB_STAT_src k) == n + 1)).flatMap s.listeners

/-- A cell's input is switched: SUSPECT for 20 ns in ADC direction (R246). -/
def State.inputSwitched (s : State) (c : Nat) : State :=
  if s.cellAdc c then s.suspectTo c (s.now + 20) else s

/-- A bus takes the source in its register (R246): several writes at one quantum make one switch, to the last source;
the source already in force makes none. -/
def State.busSwitch (s : State) (k quantum : Nat) : State :=
  let new := s.g (AMX_AB_SRC_src k)
  let cur := s.g (AMX_AB_STAT_src k)
  let n := s.g (AMX_AB_STAT_switches k)
  if new = cur then s else
  let (before, n0) := match s.bus.lookup k with
    | some (q, b, m) => if q = quantum then (b, m) else (cur, n)
    | none => (cur, n)
  let s := { s with bus := s.bus.set k (quantum, before, n0) }
  let s := (s.p (AMX_AB_STAT_src k) new).p (AMX_AB_STAT_switches k) (if new = before then n0 else n0 + 1)
  s.each (s.listeners k) (fun s c => s.inputSwitched c)

/-- A pin's use or driver is written anew: a switch of the connection at a pin in output use (R246). -/
def State.pinWritten (s : State) (n : Nat) (old : W32) : State :=
  let new := s.rd (AMX_AP_CTL n)
  let out (v : W32) : Bool := (AMX_AP_CTL_use n).of v == 2
  if !(out old || out new) || (out old == out new && (AMX_AP_CTL_drv n).of old == (AMX_AP_CTL_drv n).of new) then s
  else { s with apAt := s.apAt.set n s.now }.each (s.pinListeners n) (fun s c => s.inputSwitched c)

/-- Whether the gap of a switch at an instant is open now: the new connection closes at 6 ns. The old one counts as open
from the instant itself (R246: within 5 ns of it; DESIGN CHOICE, notes/assumptions/13). -/
def State.inGap (s : State) (t : Option Nat) : Bool :=
  match t with
  | some t => decide (s.now < t + 6)
  | none => false

/-- The cell whose output buffer drives a pin, and the mode that it drives it in (R242, R244, R246): in output use its home
cell or the cell that sources its bus, in a mode that drives lines (R227: BUS drives the matrix only), and not in the
gap of a switch. -/
def State.pinDriver (s : State) (n : Nat) : Option (Nat × OutMode) :=
  let drv := s.g (AMX_AP_CTL_drv n)
  let k := drv - 0x10
  let src := s.g (AMX_AB_STAT_src k)
  let cell := if drv = 0 then some (n / 2) else if 0x80 ≤ src then some (src - 0x80) else none
  let gap := s.inGap (s.apAt.lookup n) || (drv != 0 && s.inGap ((s.bus.lookup k).map (·.1)))
  if s.g (AMX_AP_CTL_use n) ≠ 2 ∨ gap then none else
  match cell with
  | none => none
  | some c => if s.outMode c = .line75 ∨ s.outMode c = .lineHiz then some (c, s.outMode c) else none

/-- Whether a pin is driven by a buffer (R242). -/
def State.pinDriven (s : State) (n : Nat) : Bool := (s.pinDriver n).isSome

/-- Whether the 75 Ω termination of a pin is closed: in input use, in the states in which the device runs (R241, R244). -/
def State.pinTerminated (s : State) (n : Nat) : Bool :=
  s.dev.active && s.g (AMX_AP_CTL_use n) == 1 && s.bit (AMX_AP_CTL_term n)

/-! ### Ring channels -/

/-- The producers of a ring channel: line ports (0), chains (1) and tasks (2), with their index (R305). -/
def State.producers (s : State) (ch : Nat) : List (Nat × Nat) :=
  ((List.range 32).filter (fun p => s.lpReceives p && s.g (LP_RX_DEST_kind p) == 1 &&
      s.g (LP_RX_DEST_index p) == ch)).map (fun p => (0, p)) ++
  ((List.range 48).filter (fun c => s.bit (AC_CTL_enable c) && !s.bit (AC_STAT_dir c) &&
      s.g (FC_LINK_kind c) == 1 && s.g (FC_LINK_index c) == ch)).map (fun c => (1, c)) ++
  (s.se.tasks.filter (fun t => s.enBit t.id && t.outs.contains (1, ch))).map (fun t => (2, 64 * t.id.1 + t.id.2))

/-- The samples per second of a producer (R305): the ten-bit words of a line port's rate (for AUTO the highest rate it
may try), a chain's output rate, or two samples per sample clock of a task's raster (DESIGN CHOICE, notes/assumptions/14). -/
def State.producerRate (s : State) (p : Nat × Nat) : Nat :=
  match p with
  | (0, i) =>
    let r := s.g (LP_RX_CTL_rate i)
    let r := if r = 15 then (s.autoRates i).foldl Nat.max 0 else r
    [0, 27000000, 148500000, 148500000, 297000000, 297000000, 594000000, 594000000, 594000000, 594000000, 1188000000,
      1188000000].getD r 0
  | (1, c) => let (n, d) := s.rateOf c (s.g (FC_CTL_preset c)); n / d
  | (_, k) =>
    match s.task (k / 64, k % 64) with
    | none => 0
    | some t =>
      match formatOf (s.g (TB_RG_CTL_format (t.rg % 16))) with
      | some f => if t.rg < 16 then 2 * f.m * f.lines * f.samples / f.n else 0
      | none => 0

/-- Whether the ring settings of a state keep R305: one producer per channel, and each direction's reservations, at
2.5 bytes per sample, within 76.8 GB/s. -/
def State.ringOk (s : State) : Bool :=
  let used := (List.range 256).map (fun ch => (ch, s.producers ch))
  let load (par : Nat) : Nat := (used.filter (fun x => x.1 % 2 == par)).foldl
    (fun a x => a + (x.2.map (fun p => s.producerRate p * 5 / 2)).foldl (· + ·) 0) 0
  used.all (fun x => decide (x.2.length ≤ 1)) && decide (load 0 ≤ 76800000000) && decide (load 1 ≤ 76800000000)

/-- The owner of a ring channel: the service of its producer (R305, R344). -/
def State.ringOwner (s : State) (ch : Nat) : Owner :=
  match s.producers ch with
  | (0, p) :: _ => s.ownerOf kLpRx p
  | (1, c) :: _ => s.ownerOf kQuad (c / 4)
  | (_, k) :: _ => (match s.task (k / 64, k % 64) with | some t => .svc t.service | none => .pool)
  | [] => .pool

end Sys2Proof.Machine
end

