-- ==== Sys2Proof/Machine/Monitors.lean ====
section
/-! DEFINITION. Window monitors: comparison, blanking, latching and events (R268–R278). -/

namespace Sys2Proof.Machine

/-- A monitor as after reset. -/
def MonSt.initial : MonSt := { from_ := 0, level := 0, out := false, outSide := false, holdTo := none, seen := false, riseAt := none, fallAt := none }

/-- A monitor, and the state with a monitor set. -/
def State.mon (s : State) (m : Nat) : MonSt := s.wm.get MonSt.initial m
def State.setMon (s : State) (m : Nat) (x : MonSt) : State := { s with wm := s.wm.set m x }

/-- Whether a monitor runs (R268). -/
def State.monRuns (s : State) (m : Nat) : Bool := s.dev.active && s.bit (WM_CTL_enable m)

/-- The raster generator of the timer that a monitor names (R276). -/
def State.monRg (s : State) (m : Nat) : Nat := btRg (s.bt (s.g (WM_CTL_bt m))).ctl

/-- A threshold code in microvolts (R270). -/
def thrLevel (code : Nat) : MicroVolt := -1024000 + 2000 * (code : Int)

/-- The comparators' outcome for a level (R271): out of the window, and the side; inside the hysteresis band it stays
as it is. -/
def State.compare (s : State) (m : Nat) (level : MicroVolt) : Bool × Bool :=
  let x := s.mon m
  let hi := thrLevel (s.g (WM_THR_high m))
  let lo := thrLevel (s.g (WM_THR_low m))
  let h : Int := 2000 * (s.g (WM_CTL_hyst m) : Int)
  if hi < level then (true, true)
  else if level < lo then (true, false)
  else if x.out && !(decide (lo + h ≤ level) && decide (level ≤ hi - h)) then (true, x.outSide)
  else (false, x.outSide)

/-- The output that a monitor reports (R268, R276, R277). -/
def State.reported (s : State) (m : Nat) : Bool :=
  if !s.bit (WM_STAT_ready m) then false
  else if s.bit (WM_CTL_mode m) then s.bit (WM_STAT_live m) else s.bit (WM_STAT_latched m)

/-- The change of a reported output, if it has changed from a former value, fires its event source and is counted
(R278). -/
def State.monReport (s : State) (m : Nat) (before : Bool) (cause : Nat) : State :=
  let now := s.reported m
  if now == before then s
  else if now then (s.inc (cnt16 (WM_EXIT_CNT m))).fire m cause
  else s.fire (0x60 + m) cause

/-- The live output takes a value (R271, R276, R277). -/
def State.setLive (s : State) (m : Nat) (v side : Bool) (cause : Nat) : State :=
  if s.bit (WM_STAT_live m) == v then s else
  let before := s.reported m
  let s := s.pb (WM_STAT_live m) v
  let x := s.mon m
  let s := s.setMon m (if v then { x with seen := true, riseAt := some cause } else { x with fallAt := some cause })
  let s := s.when v (fun s => s.pb (WM_STAT_side m) side)
  let s := if s.bit (WM_CTL_mode m) then
      (if v then s.pb (WM_STAT_rise m) true else s.pb (WM_STAT_fall m) true)
    else s.when v (fun s => s.pb (WM_STAT_latched m) true)
  s.monReport m before cause

/-- A monitor's comparators change, and its live output unless it is blanked (R271, R274). -/
def State.monOut (s : State) (m : Nat) (o : Bool × Bool) (cause : Nat) : State :=
  let s := s.setMon m { s.mon m with out := o.1, outSide := o.2 }
  if s.bit (WM_STAT_blanked m) || !s.bit (WM_STAT_ready m) then s else s.setLive m o.1 o.2 cause

/-- Whether the tap of a monitor is dead: a cell tap of a cell that is disabled or asleep (R269). -/
def State.tapDead (s : State) (m : Nat) : Bool :=
  [1, 2].contains (s.g (WM_CTL_src_kind m)) &&
    !(s.bit (AC_CTL_enable (s.g (WM_CTL_src_idx m))) && s.isReady (rAc (s.g (WM_CTL_src_idx m))))

/-- The level that a monitor compares: a dead tap presents 0 V (R269). -/
def State.tapLevel (s : State) (m : Nat) (level : MicroVolt) : MicroVolt := if s.tapDead m then 0 else level

/-- The comparators of a running monitor follow the level at its tap, unless its output is held (R271–R273). -/
def State.monFollow (s : State) (m cause : Nat) : State :=
  if !s.monRuns m || (s.mon m).holdTo.isSome then s
  else s.monOut m (s.compare m (s.tapLevel m (s.mon m).level)) cause

/-- The level at a tap takes a value 1.5 ns before the present instant, at which the output follows it (R271, R272). -/
def State.monLevel (s : State) (m : Nat) (level : MicroVolt) : State :=
  (s.setMon m { s.mon m with level := level }).monFollow m s.now

/-- A monitor becomes ready 1 µs after enabling, with the comparison of its level (R268). -/
def State.monReady (s : State) (m : Nat) : State :=
  if !s.monRuns m || s.bit (WM_STAT_ready m) || decide (s.elapsed < (s.mon m).from_ + 1000) then s else
  (s.pb (WM_STAT_ready m) true).monFollow m s.now

/-- The taps of a cell go dead: monitors there compare 0 V, 1.5 ns later (R269, R272; DESIGN CHOICE,
notes/assumptions/42). -/
def State.tapsDie (s : State) (c : Nat) : State :=
  s.each ((List.range 96).filter (fun m =>
    [1, 2].contains (s.g (WM_CTL_src_kind m)) && s.g (WM_CTL_src_idx m) == c)) (fun s m => s.monFollow m (s.now + 1))

/-- 50 ns after a change of threshold, hysteresis or tap the monitor compares again (R273). -/
def State.monHoldEnd (s : State) (m : Nat) (level : MicroVolt) : State :=
  match (s.mon m).holdTo with
  | none => s
  | some t =>
    if !s.monRuns m || decide (s.elapsed < t) then s else
    (s.setMon m { s.mon m with holdTo := none, level := level }).monFollow m s.now

/-- Whether a monitor is blanked at the present instant (R274, R275). -/
def State.blankedNow (s : State) (m : Nat) : Bool :=
  s.monRuns m && s.bit (WM_CTL_bl_en m) && ((s.bt (s.g (WM_CTL_bt m))).open_ != s.bit (WM_CTL_bl_sense m))

/-- Blanking begins or ends at a monitor; at its end the live output takes the comparison (R274). -/
def State.monBlank (s : State) (m : Nat) : State :=
  let b := s.blankedNow m
  if b == s.bit (WM_STAT_blanked m) then s else
  let s := s.pb (WM_STAT_blanked m) b
  let x := s.mon m
  if b || !s.bit (WM_STAT_ready m) || x.holdTo.isSome then s else s.setLive m x.out x.outSide s.now

/-- Blanking at every monitor that runs; called where windows have changed. -/
def State.blankAll (s : State) : State :=
  s.each ((List.range 96).filter (fun m => s.bit (WM_CTL_enable m))) (fun s m => s.monBlank m)

/-- A line or frame of a raster begins: latches cleared by line or frame take what was seen of the period just ended
(R276). -/
def State.monPeriod (s : State) (rg : Nat) (frame : Bool) : State :=
  s.each ((List.range 96).filter (fun m => s.monRuns m && s.bit (WM_STAT_ready m) && !s.bit (WM_CTL_mode m) &&
      s.monRg m == rg && (s.g (WM_CTL_lclr m) == (if frame then 2 else 1)))) (fun s m =>
    let before := s.reported m
    let x := s.mon m
    let s := s.pb (WM_STAT_latched m) (x.seen || s.bit (WM_STAT_live m))
    let s := s.setMon m { x with seen := s.bit (WM_STAT_live m) }
    s.monReport m before s.now)

/-- Whether an instant lies in the present cue-engine cycle. -/
def State.thisCycle (s : State) (t : Option Nat) : Bool := t.any (fun t => cycleEdge t == cycleEdge s.now)

/-- A write to WMn_STAT clears the bits written 1 (R276, R277): a flag stays where an edge of its kind falls in the cycle of
the write, and latched where the live output is 1 in it. -/
def State.monClear (s : State) (m : Nat) (v : W32) : State :=
  let before := s.reported m
  let x := s.mon m
  let s := s.when (v.getLsbD 2 && !s.thisCycle x.fallAt) (fun s => s.pb (WM_STAT_fall m) false)
  let s := s.when (v.getLsbD 1 && !s.thisCycle x.riseAt) (fun s => s.pb (WM_STAT_rise m) false)
  let s := s.when (v.getLsbD 0 && !s.bit (WM_STAT_live m) && !s.thisCycle x.fallAt) (fun s =>
    s.pb (WM_STAT_latched m) false)
  s.monReport m before s.now

/-- A monitor stops: it reports 0, its latch with it, and is not ready (R268); a reported 1 changes to 0 (R278). -/
def State.monStop (s : State) (m : Nat) : State :=
  let before := s.reported m
  let s := (s.pb (WM_STAT_live m) false).pb (WM_STAT_latched m) false
  let s := ((s.monReport m before s.now).pb (WM_STAT_ready m) false).pb (WM_STAT_blanked m) false
  s.setMon m { MonSt.initial with level := (s.mon m).level }

/-- The flags of WMn_STAT as they read: rise and fall read 0 in LEVEL_LATCH mode (R276). -/
def State.monStat (s : State) (m : Nat) (w : W32) : W32 :=
  (WM_STAT_src_dead m).put (if s.bit (WM_CTL_mode m) then w else w &&& ~~~6) (if s.tapDead m then 1 else 0)

/-- A written WMn_CTL or WMn_THR takes effect (R268, R273, R277). -/
def State.monChanged (s : State) (m : Nat) (oldCtl oldThr : W32) : State :=
  let was := (WM_CTL_enable m).of oldCtl = 1
  let on := s.bit (WM_CTL_enable m)
  if !on then (if was then s.monStop m else s)
  else if !was then (s.setMon m { s.mon m with from_ := s.elapsed, holdTo := none }).monBlank m
  else
    let tapOrHyst (f : Fld) : Bool := f.of oldCtl != s.g f
    let held := s.rd (WM_THR m) != oldThr || tapOrHyst (WM_CTL_hyst m) || tapOrHyst (WM_CTL_src_kind m) ||
      tapOrHyst (WM_CTL_src_idx m)
    let s := s.when held (fun s => s.setMon m { s.mon m with holdTo := some (s.elapsed + 50) })
    let anew := tapOrHyst (WM_CTL_lclr m) || tapOrHyst (WM_CTL_mode m) || tapOrHyst (WM_CTL_bt m)
    let s := s.when anew (fun s => s.setMon m { s.mon m with seen := s.bit (WM_STAT_live m) })
    let old := (WM_CTL_mode m).of oldCtl
    let s := if old = s.g (WM_CTL_mode m) then s else
      let before := if !s.bit (WM_STAT_ready m) then false
        else if old = 1 then s.bit (WM_STAT_live m) else s.bit (WM_STAT_latched m)
      let s := s.pb (WM_STAT_latched m) (!s.bit (WM_CTL_mode m) && s.bit (WM_STAT_live m))
      s.monReport m before s.now
    s.monBlank m

/-- The monitors start afresh when the device comes back to the states in which they run, and stop when it leaves
them (R268). -/
def State.monsRestart (s : State) : State :=
  s.each ((List.range 96).filter (fun m => s.bit (WM_CTL_enable m))) (fun s m =>
    let s := s.monStop m
    if s.dev.active then (s.setMon m { s.mon m with from_ := s.elapsed }).monBlank m else s)

/-- Register checks of a monitor beyond its field tables (R269, R270): whether the new value is refused. -/
def State.monRefuses (s : State) (m off : Nat) (new : W32) : Bool :=
  let ctl := if off = 0 then new else s.rd (WM_CTL m)
  let thr := if off = 4 then new else s.rd (WM_THR m)
  let kind := (WM_CTL_src_kind m).of ctl
  let idx := (WM_CTL_src_idx m).of ctl
  (off == 0 && ((kind == 0 && decide (96 ≤ idx)) || (kind != 0 && decide (48 ≤ idx)))) ||
    (decide (off ≤ 4) && decide (((WM_THR_high m).of thr : Int) - (WM_THR_low m).of thr < 2 * (WM_CTL_hyst m).of ctl))

end Sys2Proof.Machine
end

