-- ==== Sys2Proof/Machine/Sources.lean ====
section
/-! DEFINITION. The reference sources and the servo, a step of TT, changes of raster generators and blanking timers, and
the entry to WIND (R54–R85, R102, R149): what they bring about in every block that follows TT. -/

namespace Sys2Proof.Machine

/-! ### The frequency adjustment -/

/-- The bound of the frequency adjustment: ±122 ppm in 2⁻⁴⁴ units. -/
def freqMax : Int := 2146246097

/-- Whether the frequency adjustment follows y0 + a·t: in HOLD, and under OBSERVER exactly as in HOLD, where TB_HO_CTL
selects the learned ageing (R67, R73); not in STANDBY (R54). -/
def State.drifts (s : State) : Bool :=
  s.servoOn && (s.g TB_STAT_tb_state == tbHold || s.activeSrc == 4) && s.bit TB_HO_CTL_use_ageing &&
    s.bit TB_HO_STAT_learned

/-- The frequency adjustment in force at an elapsed time, in 2⁻⁴⁴ units: the one set last, or y0 + a·t with a in units
of 2⁻⁶⁰ per second (R73, R74). -/
def State.freqAt (s : State) (t : Nat) : Int :=
  if s.drifts then
    clampInt (-freqMax) freqMax
      (s.tb.holdY0 + (s.keepRd 1).toInt * ((t - s.tb.driftFrom : Nat) : Int) / (65536 * (secNs : Int)))
  else (s.rd TB_FREQ_ADJ).toInt

/-- The frequency adjustment in force (TB_FREQ_ADJ). -/
def State.freqAdj (s : State) : Int := s.freqAt s.elapsed

/-- The slewing that the servo's phase correction makes now, in ns/s, within ± TB_SLEW_CTL.rate (R57): under OBSERVER
towards its phase target, else the rate that the last phase sample left. -/
def State.slewNow (s : State) : Int :=
  let r : Int := (s.g TB_SLEW_CTL_rate : Nat)
  if s.activeSrc = 4 then
    (if 0 < s.tb.phaseTarget then r else if s.tb.phaseTarget < 0 then -r else 0)
  else clampInt (-r) r s.tb.slew

/-- The frequency adjustment summed over the time since `meanFrom`, weighted by ns: it changes by a straight line in
that time at most. -/
def State.freqSum (s : State) : Int :=
  (s.freqAt s.tb.meanFrom + s.freqAdj) * ((s.elapsed - s.tb.meanFrom : Nat) : Int) / 2

/-- The frequency adjustment takes a value; the mean of the present second is brought up to date first. -/
def State.setFreq (s : State) (y : Int) : State :=
  let s := { s with tb := { s.tb with meanAcc := s.tb.meanAcc + s.freqSum, meanFrom := s.elapsed } }
  s.wr TB_FREQ_ADJ (sword (clampInt (-freqMax) freqMax y))

/-- y0 of R73: the mean over the last avg_s seconds spent LOCKED, or over those that exist, or the value in force. -/
def State.holdMean (s : State) : Int :=
  let l := s.tb.lockedSecs.take (s.g TB_HO_CTL_avg_s)
  if l.isEmpty then s.freqAdj else l.foldl (· + ·) 0 / (l.length : Int)

/-- The frequency adjustment takes y0, from which it may follow the learned ageing (R67, R73). -/
def State.holdFreq (s : State) : State :=
  let y0 := s.holdMean
  let s := s.setFreq y0
  { s with tb := { s.tb with holdY0 := y0, driftFrom := s.elapsed, slew := 0, phaseTarget := 0 } }

/-- The seconds in the current or last HOLD (TB_HO_STAT). -/
def State.holdSecs (s : State) : Nat :=
  if s.g TB_STAT_tb_state = tbHold then min ((s.elapsed - s.tb.holdFrom) / secNs) TB_HO_STAT_secs.max
  else s.g TB_HO_STAT_secs

/-- The timebase enters HOLD: no source is active, and event source 0xF5 fires (R61, R73, R111). -/
def State.enterHold (s : State) (cause : Nat) : State :=
  let s := (s.holdFreq.p TB_STAT_src 0).p TB_STAT_tb_state tbHold
  let s := { s with tb := { s.tb with holdFrom := s.elapsed, lockSince := none } }
  (s.p TB_HO_STAT_secs 0).fire 0xF5 cause

/-! ### A step of TT -/

/-- Script entries that are enabled lose their pending instances without logging (R58, R125). -/
def State.dropInstances (s : State) : State :=
  s.each ((List.range s.cue.scripts.length).filter s.scriptOn) (fun s e => s.disableScript e)

/-- Every enabled script entry inserts its earliest instance, with the present instant as its enabling (R58, R125,
wake from STANDBY); a closed intake takes none (R129). -/
def State.enableScripts (s : State) : State :=
  if s.intakeOpen then
    s.each ((List.range s.cue.scripts.length).filter s.scriptOn) (fun s e => s.enableScript e)
  else s

/-- Cues whose launch time a step of TT to `t` passes become late (R58, R105). -/
def State.stepCues (s : State) (t : Nat) : State :=
  s.each (s.cue.entries.filter (fun e => e.waits && decide (e.rec_.launch.toNat < t)))
    (fun s e => match s.entry e.id with
      | some x => (s.becomeLate x).updEntry e.id (fun y => { y with
          earliest := t + 1000,
          frameFrom := if recPolicy y.rec_ = 1 then some (t + 1000) else y.frameFrom })
      | none => s)

/-- A raster at a step of TT from `old` to `t` (R58): the frame in progress ends, and the generator waits, as in an
interval of R80, for the first frame start under its settings, the line grid going on; an interval in progress ends with
the step and is reported there, and the latest settings then hold (DEDUCED, notes/assumptions/29). -/
def State.stepRaster (s : State) (n old t : Nat) : State :=
  let r := s.rg n
  if r.running then
    let ended := match r.interval with | some from_ => decide (from_ < old) | none => false
    let s := s.when ended (fun s => s.event 0x0C (s.ownerOf kRg n).byte (BitVec.ofNat 32 n) old)
    let s := s.when ended (fun s => s.each (List.range 32) (fun s p => s.txAdjusted n p))
    let latest := r.interval.isSome
    if latest && !s.rgEnabled n then s.setRg n { r with running := false, waiting := false, change := false, interval := none }
    else
      let next := if latest then (formatOf (s.g (TB_RG_CTL_format n))).map (fun f => r.due f (s.rgOffset n) t)
        else (formatOf r.format).map (fun f => r.due f r.offset t)
      let d : Int := (t : Int) - (old : Int)
      match next with
      | none => s
      | some r' => s.setRg n { r' with
          interval := none, stepped := true, change := if latest then false else r.change, offset := r.offset + d,
          frameAt := ((r.frameAt : Int) + d).toNat, lineAt := ((r.lineAt : Int) + d).toNat }
  else if r.waiting then
    let r := { r with waiting := false, change := false }
    if s.rgEnabled n then s.rgSchedule n t r else s.setRg n r
  else s

/-- A timer's window opens or closes; keyed cells follow (R82, R232). -/
def State.windowSet (s : State) (n : Nat) (opens : Bool) : State :=
  let b := s.bt n
  (s.setBt n { b with open_ := opens, openAt := if opens then some s.now else b.openAt }).keyEdge n opens

/-- Every timer's window is brought in line with its raster at the present instant, and the monitors' blanking with
it. -/
def State.windowsFollow (s : State) : State :=
  (s.each (List.range 32) (fun s n =>
    let o := s.btCovers (s.bt n).ctl
    if o == (s.bt n).open_ then s else s.windowSet n o)).blankAll.gridsCheck

/-- A timer takes the setting of its register; the keyed cells follow its window, which closes and may open again (R85). -/
def State.btTakes (s : State) (n : Nat) : State :=
  let s := s.when (s.bt n).open_ (fun s => s.keyEdge n false)
  let s := s.btApply n
  s.when (s.bt n).open_ (fun s => s.keyEdge n true)

/-- TT is stepped to a value (R56, R58): pending script instances go without logging, cues whose launch it passes become
late, rasters wait for their first frame start under the new TT and timers follow them, script entries are enabled anew,
and records of earlier causes are held (R446). -/
def State.stepTT (s : State) (t : BitVec 64) (sub : W32) : State :=
  let old := s.now
  let s := s.dropInstances
  let s := { s with clock := { s.clock with ns := t, sub := sub, stepTo := some t.toNat }, sampleAt := [] }
  let s := { s with pin := { s.pin with time := timeLevels t.toNat } }
  let s := s.stepCues t.toNat
  let s := s.each (List.range 16) (fun s n => s.stepRaster n old t.toNat)
  s.windowsFollow.enableScripts

/-! ### The choice of a source -/

/-- A source becomes active: TT is stepped while tt_valid is 0 (R56); else the switch is counted and logged (R61).
Out of ACQUIRE or HOLD the timebase enters PULL with both counts at 0 (R63). Under OBSERVER the frequency adjustment
holds as in HOLD, and goes on where it came from HOLD (R67); any other source starts from the value in force. A source
far from TT is counted and logged (R72). -/
def State.activate (s : State) (c cause : Nat) : State :=
  let old := s.activeSrc
  let held := s.g TB_STAT_tb_state = tbHold
  let x := s.srcSt c
  let s := s.when held (fun s => s.p TB_HO_STAT_secs s.holdSecs)
  let s := if c = 4 then (if held then s else s.holdFreq) else s.when s.drifts (fun s => s.setFreq s.freqAdj)
  let s := s.p TB_STAT_src c
  let s := { s with tb := { s.tb with samples := [], means := [], slew := 0, phaseTarget := 0 } }
  let s := s.when (old == 0) (fun s =>
    let s := s.p TB_STAT_tb_state tbPull
    { s with tb := { s.tb with lockRun := 0, unlockRun := 0 } })
  if !s.ttValid then
    let v : Int := (s.now * 256 : Nat) - x.err
    let v := v.toNat
    let s := s.pb TB_STAT_tt_valid true
    let s := s.setSrc c { x with err := 0 }
    s.stepTT (BitVec.ofNat 64 (v / 256)) (BitVec.ofNat 32 (v % 256 * 16777216))
  else
    let s := (s.inc (cnt16 TB_SRC_SWITCH_CNT)).event 0x09 0 (BitVec.ofNat 32 (old * 16 + c)) cause
    let mag := x.err.natAbs / 256
    s.when (decide (s.g TB_SLEW_CTL_large_us * usNs * 256 < x.err.natAbs)) (fun s =>
      (s.inc (cnt16 TB_OFFSET_LARGE_CNT)).event 0x0B 0 (BitVec.ofNat 32 (min mag 4294967295)) s.now)

/-- The active source is chosen again: one that is no longer eligible and qualified gives way to the best that is;
with none, the timebase enters HOLD (R59, R61). A source takes over from no source at once. -/
def State.selectSource (s : State) (cause : Nat) : State :=
  let a := s.activeSrc
  if a ≠ 0 ∧ s.eligible.contains a ∧ s.qualified a then s else
  match s.bestSource with
  | some c => s.activate c cause
  | none => if s.ttValid ∧ s.g TB_STAT_tb_state ≠ tbHold then s.enterHold cause else s

/-! ### Reference events -/

/-- The consecutive reference events that qualify a source initially (source table). -/
def initialRun (c : Nat) : Nat := if c = 1 then 3 else if c = 2 then 2 else if c = 3 then 4 else 1

/-- The frame period of the reference format that TB_GEN_CTL names, in whole ns. -/
def State.genPeriod (s : State) : Nat :=
  match formatOf (s.g TB_GEN_CTL_format) with | some f => f.periodNs | none => 0

/-- The longest time between two consecutive reference events of a source: half as long again as a reference frame or a
time exchange, and 1 s + 10 µs for PPS (source table). -/
def State.refGap (s : State) (c : Nat) : Nat :=
  if c = 1 then s.genPeriod * 3 / 2 else if c = 2 then secNs + 10000 else 1500000

/-- The time from a source's last reference event to the expected one whose absence completes its loss condition, and the
longest time without an event that is no loss: three frames, two edges with their window, and eight exchanges with the
100 µs in which an answer counts (source table, R61, R375). -/
def State.lossAfter (s : State) (c : Nat) : Nat × Nat :=
  if c = 1 then (3 * s.genPeriod, s.genPeriod * 7 / 2)
  else if c = 2 then (2 * secNs, 2 * secNs + 10000)
  else (8 * msNs, 8 * msNs + 100000)

/-- Whether a source's last reference event lies no longer ago than a time. -/
def State.refWithin (s : State) (c gap : Nat) : Bool :=
  match (s.srcSt c).lastAt with
  | some t => decide (s.elapsed ≤ t + gap)
  | none => false

/-- Whether a source's next event follows its last as a consecutive one. -/
def State.refFollows (s : State) (c : Nat) : Bool := s.refWithin c (s.refGap c)

/-- Whether a source has met no loss condition since its last reference event. -/
def State.refPresent (s : State) (c : Nat) : Bool := s.refWithin c (s.lossAfter c).2

/-- A phase sample of the active source: shown in TB_PHASE_ERR, modulo 2³² where it does not fit (DESIGN CHOICE,
notes/assumptions/2), kept for the servo, counted towards lock, and followed by the servo's two paths, whose steps the
spec does not give: the frequency adjustment within its range and the phase correction within TB_SLEW_CTL.rate (R57, R63,
R71, DESIGN CHOICE, notes/assumptions/2). -/
def State.phaseSample (s : State) (err : Int) : State :=
  let s := s.wr TB_PHASE_ERR (sword err)
  let s := { s with tb := { s.tb with samples := (err :: s.tb.samples).take 64 } }
  let mag := err.natAbs
  let lock := decide (mag ≤ s.g TB_LOCK_CTL_lock_ns * 256)
  let off := decide (s.g TB_LOCK_CTL_unlock_ns * 256 < mag)
  let lr := if lock then min (s.tb.lockRun + 1) 8 else 0
  let ur := if off then min (s.tb.unlockRun + 1) 4 else 0
  let s := { s with tb := { s.tb with lockRun := lr, unlockRun := ur } }
  let s := if s.g TB_STAT_tb_state = tbPull ∧ lr = 8 then
      let s := s.p TB_STAT_tb_state tbLocked
      { s with tb := { s.tb with lockSince := some s.elapsed, hourMeans := [] } }
    else if s.g TB_STAT_tb_state = tbLocked ∧ ur = 4 then
      let s := s.p TB_STAT_tb_state tbPull
      { s with tb := { s.tb with lockSince := none } }
    else s
  if s.activeSrc = 4 then s
  else
    let (y, s) := s.drawInt (-freqMax) freqMax
    let (v, s) := s.drawInt (-(s.g TB_SLEW_CTL_rate : Int)) (s.g TB_SLEW_CTL_rate : Int)
    let s := s.setFreq y
    { s with tb := { s.tb with slew := v } }

/-- A source qualifies (R56, R60). -/
def State.qualify (s : State) (c : Nat) : State :=
  let x := s.srcSt c
  ((s.setQualified c true).setSrc c { x with requal := true, misses := 0 }).selectSource s.now

/-- A reference event of a source with its phase error, TT minus the source's time in 2⁻⁸ ns. `follows`: it is
consecutive to the last; `present`: no loss condition lies between them. A source not yet qualified counts consecutive
events towards its initial qualification, which once met stays met while the source is present, and waits out requal_s
where R60 asks it; the active source gives a phase sample. -/
def State.refEvent (s : State) (c : Nat) (err : Int) (follows present : Bool) : State :=
  let x := s.srcSt c
  let fresh := x.since.isNone || !present
  let run := if fresh then 1
    else if decide (initialRun c ≤ x.run) then x.run
    else if follows then x.run + 1 else 1
  let x := { x with
    run := run, misses := 0,
    since := if fresh then some s.elapsed else x.since,
    requal := if fresh && s.ttValid && !s.qualified c then true else x.requal,
    lastAt := some s.elapsed, err := err }
  let s := s.setSrc c x
  let s := if !s.qualified c && decide (initialRun c ≤ x.run) && (!x.requal || c == 4) then s.qualify c else s
  if s.activeSrc = c then s.phaseSample (s.srcSt c).err else s

/-- A source meets its loss condition. A qualified one is dequalified, counted and logged with its cause time; if it was
active, event source 0xF4 fires and the timebase switches or enters HOLD (R61). One that is not qualified begins its
presence anew (R60). -/
def State.loseSource (s : State) (c cause : Nat) : State :=
  if !s.qualified c then s.setSrc c { SourceSt.initial with requal := (s.srcSt c).requal } else
  let active := s.activeSrc = c
  let s := (s.setQualified c false).setSrc c { SourceSt.initial with requal := true }
  let s := (s.inc (cnt16 TB_SRC_LOSS_CNT)).event 0x08 0 (BitVec.ofNat 32 c) cause
  let s := { s with tb := { s.tb with hourMeans := [] } }
  if active then (s.fire 0xF4 cause).selectSource cause else s

/-- A source whose loss condition has been met by the time that has passed is lost before its next event counts; the
cause time is the expected instant of the last missed event (R61). -/
def State.loseOverdue (s : State) (c : Nat) : State :=
  match (s.srcSt c).lastAt with
  | none => s
  | some t =>
    if s.refPresent c then s else s.loseSource c (s.now - (s.elapsed - (t + (s.lossAfter c).1)))

/-- On entry to STANDBY every source is dequalified; this is no loss, and TT goes on at the frequency adjustment in
force (R54). The timebase, with TT valid and no source qualified, is in HOLD (R63). -/
def State.dequalifyAll (s : State) : State :=
  let y := s.freqAdj
  let s := s.setFreq y
  let held := s.g TB_STAT_tb_state = tbHold
  let s := (s.wr TB_SRC_STAT 0).p TB_STAT_src 0
  let s := s.each [1, 2, 3, 4] (fun s c => s.setSrc c { SourceSt.initial with requal := true })
  let s := { s with tb := { s.tb with
    holdY0 := y, holdFrom := if held then s.tb.holdFrom else s.elapsed, driftFrom := s.elapsed, lockSince := none,
    slew := 0, phaseTarget := 0 } }
  if s.ttValid then s.p TB_STAT_tb_state tbHold else s

/-- A phase error brought into ± half a colour-frame period of a reference format, in 2⁻⁸ ns (R66). -/
def Format.wrapErr (f : Format) (err : Int) : Int :=
  let p : Int := ((f.colourFrames * f.p * 256 / f.m : Nat) : Int)
  let r := err % p
  if p < 2 * r then r - p else r

/-! ### The servo -/

/-- The hardware range of the bandwidth code for a source (R69), and the widest while none uses the servo (R70). -/
def servoHw (c : Nat) : Int := if c = 1 then 230 else if c = 2 then 100 else 400

/-- The window in force for a source: its register in BOUNDED mode, its hardware range in FREE (R70). -/
def State.servoWindow (s : State) (c : Nat) : Int × Int :=
  if s.g TB_SERVO_CTL_mode = 1 ∧ 1 ≤ c ∧ c ≤ 3 then
    (s.g (TB_SERVO_WIN_bw_min (c - 1)), s.g (TB_SERVO_WIN_bw_max (c - 1)))
  else (0, servoHw c)

/-- (2π)³ times 10¹⁷. -/
def twoPiCubed : Nat := 24805021344239856140

/-- Whether the code c* of R71 is at least `c`: (100 · B*)²⁰⁰ against 10^(2c − 1), with B*⁴ = ω² f_s / ((2π)³ ρ²).
`num / den` is (100 · B*)⁴. -/
def codeAtLeast (num den : Nat) (c : Int) : Bool :=
  let e := 2 * c - 1
  if 0 ≤ e then decide (10 ^ e.toNat * den ^ 50 ≤ num ^ 50) else decide (den ^ 50 ≤ num ^ 50 * 10 ^ (-e).toNat)

/-- A code moved towards c* by at most `n` (R71). -/
def moveTowards (num den : Nat) (c : Int) : Nat → Int
  | 0 => c
  | n + 1 =>
    if codeAtLeast num den (c + 1) then moveTowards num den (c + 1) n
    else if codeAtLeast num den c then c
    else moveDown num den (c - 1) n
where
  /-- Downwards only. -/
  moveDown (num den : Nat) (c : Int) : Nat → Int
    | 0 => c
    | n + 1 => if codeAtLeast num den c then c else moveDown num den (c - 1) n

/-- Sum of squares of second differences s[i−1] − 2 s[i] + s[i+1]. -/
def secondDiffs : List Int → Nat
  | a :: b :: c :: t => ((a - 2 * b + c).natAbs) ^ 2 + secondDiffs (b :: c :: t)
  | _ => 0

/-- Sum of squares of first differences. -/
def firstDiffs : List Int → Nat
  | a :: b :: t => ((a - b).natAbs) ^ 2 + firstDiffs (b :: t)
  | _ => 0

/-- The rate of the active source's reference events as a ratio (R71). -/
def State.refRate (s : State) (c : Nat) : Nat × Nat :=
  if c = 1 then
    match formatOf (s.g TB_GEN_CTL_format) with
    | some f => (f.m, f.n)
    | none => (1, 1)
  else if c = 2 then (1, 1) else (1000, 1)

/-- The setting that a 1 s update computes (R71). ρ² is (1/6)(1/62) Σ (second differences)² in ps², samples being in
2⁻⁸ ns; ω² is (1/16) Σ (first differences of the 1 s means)² × (10¹² / 2⁴⁴)² ps². -/
def State.servoComputed (s : State) (c : Nat) (cur : Int) : Int :=
  let d2 := secondDiffs s.tb.samples
  let d1 := firstDiffs s.tb.means
  if s.tb.samples.length < 64 ∨ s.tb.means.length < 17 ∨ d2 = 0 ∨ d1 = 0 then cur
  else
    let (fm, fn) := s.refRate c
    let wNum := d1 * (10 ^ 12) ^ 2
    let wDen := 16 * (2 ^ 44) ^ 2
    let rNum := d2 * 1000 ^ 2
    let rDen := 6 * 62 * 256 ^ 2
    let num := 10 ^ 8 * wNum * fm * rDen * 10 ^ 17
    let den := wDen * fn * rNum * twoPiCubed
    moveTowards num den cur 10

/-- The servo's 1 s update for an active source that uses it (R69–R71). -/
def State.servoStep (s : State) : State :=
  let c := s.activeSrc
  if c = 0 ∨ c = 4 ∨ s.g TB_SERVO_CTL_mode = 2 ∨ s.loopBlocked TB_SERVO_STAT then s else
  let cur : Int := s.g TB_SERVO_BW_b
  let (lo, hi) := s.servoWindow c
  let (v, side) := loopApply cur (s.servoComputed c cur) lo hi
  s.loopDone TB_SERVO_BW_b v.toNat TB_SERVO_STAT TB_SERVO_BOUND_CNT side

/-- The mean of the frequency adjustment over the second that ends now is taken, and a new second begins. -/
def State.closeSecond (s : State) : State :=
  let y := (s.tb.meanAcc + s.freqSum) / ((s.elapsed - s.tb.secondAt : Nat) : Int)
  let locked := s.g TB_STAT_tb_state = tbLocked
  { s with tb := { s.tb with
    meanAcc := 0, meanFrom := s.elapsed, secondAt := s.elapsed, means := (y :: s.tb.means).take 17,
    lockedSecs := if locked then (y :: s.tb.lockedSecs).take 4096 else s.tb.lockedSecs,
    hourMeans := if locked then (y :: s.tb.hourMeans).take 86400 else s.tb.hourMeans } }

/-- With revert set, a higher-priority qualified source takes over at a 1 s update (R62). -/
def State.revertStep (s : State) : State :=
  if !s.bit TB_SRC_PRIO_revert || s.activeSrc = 0 then s else
  match s.bestSource with
  | some c => if c ≠ s.activeSrc then s.activate c s.now else s
  | none => s

/-- Sums of the seconds of each of `n` hours, newest first. -/
def hourSums : List Int → Nat → List Int
  | _, 0 => []
  | l, n + 1 => (l.take 3600).foldl (· + ·) 0 :: hourSums (l.drop 3600) n

/-- The slope of a straight line fitted to 24 hourly means, newest first, in 2⁻⁶⁰ per second: least squares over
i = 0 … 23 with the mean abscissa 23/2, for which Σ (i − 23/2)² is 1,150; 2⁻⁴⁴ per hour is 2¹⁶ / 3,600 of the
unit (R74). -/
def ageingSlope (sums : List Int) : Int :=
  let xy := sums.reverse.zipIdx.foldl (fun acc p => acc + p.1 * (2 * (p.2 : Int) - 23)) 0
  xy * 65536 / (2 * 1150 * 3600 * 3600)

/-! ### Raster changes -/

/-- A timer on a generator that has stopped has its window closed (R83). -/
def State.closeTimers (s : State) (rg : Nat) : State :=
  s.each (List.range 32) (fun s n =>
    let b := s.bt n
    if btRg b.ctl = rg ∧ b.open_ then s.windowSet n false else s)

/-- A written change of a generator's settings takes hold: at once where it is not running, else at its next frame
start, though its first frame may not have begun yet (R80; before the timebase runs nothing runs). -/
def State.rgChanged (s : State) (n : Nat) : State :=
  let r := s.rg n
  if s.dev.timed && s.rgOn n then s.setRg n { r with change := true }
  else if s.rgEnabled n then s.rgSchedule n s.now { r with waiting := false, change := false }
  else s.setRg n { r with waiting := false, change := false }

/-- A written change of a timer takes hold: at once where its generator is not running, else at that generator's next
frame start (R85). -/
def State.btChanged (s : State) (n : Nat) : State :=
  let b := s.bt n
  if s.dev.timed && s.rgOn (btRg b.ctl) then s.setBt n { b with change := true }
  else
    (s.btTakes n).gridsCheck

/-- The bit of a running generator (TB_RG_STAT). -/
def State.rgStat (s : State) : W32 :=
  BitVec.ofNat 32 ((List.range 16).foldl (fun a n => if s.dev.timed && s.rgOn n then a + 2 ^ n else a) 0)

/-- The bit of an open timer window (TB_BT_STAT). -/
def State.btStat (s : State) : W32 :=
  BitVec.ofNat 32 ((List.range 32).foldl (fun a n => if (s.bt n).open_ then a + 2 ^ n else a) 0)

/-! ### WIND -/

/-- Entry to WIND: the sleep-delay loops count their updates anew (R144), the servo runs again (R54), the monitors start
with their blanking (R268, R274), enabled script entries are inserted with this instant as their enabling (R125), and
resources in use wind up. -/
def State.enterWind (s : State) : State :=
  let s := s.changeState .wind
  let s := { s with
    pwr := { s.pwr with sinceNap := [], windAt := s.elapsed, kclkAt := s.elapsed, releaseAt := s.elapsed }
    tb := { s.tb with driftFrom := s.elapsed }
    pin := { s.pin with time := timeLevels s.now } }
  s.monsRestart.dropInstances.enableScripts.wakeAllUsed

/-- The wake from STANDBY: the cause is recorded, the device enters WIND, frame memory leaves self-refresh, and the
control domain winds up within 12 µs, at a free instant, from which the pad banks release (R149, wake sequence). -/
def State.wakeUp (s : State) (cause : W32) : State :=
  let s := s.wr SYS_WAKE_CAUSE cause
  let s := { s with pwr := { s.pwr with wakeLatched := none } }
  let s := s.enterWind.wake rFm
  let (d, s) := s.drawIn 0 12000
  { s with pwr := { s.pwr with kclkAt := s.elapsed + d, releaseAt := s.elapsed + d } }

/-- A wake source fires: in STANDBY the device wakes; in a DRAIN towards STANDBY the wake is latched (R149). -/
def State.wakeSource (s : State) (cause : W32) : State :=
  if s.dev = .standby then s.wakeUp cause
  else match s.pwr.drain with
    | some d =>
      if s.dev = .drain ∧ d.req = 1 ∧ s.pwr.wakeLatched.isNone then
        { s with pwr := { s.pwr with wakeLatched := some cause } } else s
    | none => s

end Sys2Proof.Machine
end

