-- ==== Sys2Proof/Machine/Axlink.lean ====
section
/-! DEFINITION. Axlink: link states, retransmission, election, time exchanges, cue flooding, ISO and BULK
(R361–R394). -/

namespace Sys2Proof.Machine

/-! ### Frames in and out -/

/-- Codes of AXn_STAT.state (R365). -/
def axDisabled : Nat := 0
def axLane : Nat := 1
def axAlignState : Nat := 2
def axHello : Nat := 3
def axUp : Nat := 4

/-- The state code of a port. -/
def State.axState (s : State) (p : Nat) : Nat := s.g (AX_STAT_state p)

/-- The class code of a retransmitted class (R368). -/
def classCode : AxClass → Nat
  | .cue => clCue
  | .iso => clIso
  | .bulk => clBulk
  | .mgmt => clMgmt

/-- The bytes of a frame whose payload has so many words (R368). -/
def frameBytes (words : Nat) : Nat := 24 + 8 * ((words + 1) / 2)

/-- A port that has received bytes of a frame. -/
def PortSt.hears (x : PortSt) (now n : Nat) : PortSt := { x with lastRx := now, rxBytes := x.rxBytes + n }

/-- A frame with so many payload words has come in on a port: it is heard, and counted once it is delivered (R366). -/
def State.heard (s : State) (p words : Nat) : State :=
  (s.setPort p ((s.port p).hears s.elapsed (frameBytes words))).incWrap (word (AX_RX_FRAME_CNT p))

/-- A frame of class LINK of this member; it needs no credit (R369). -/
def State.linkFrame (s : State) (p typ : Nat) (body : List W32) : State :=
  s.putOnWire p (s.frame clLink typ 0 body)

/-- An ACK names the class and the last seq delivered; a NAK the class and the seq expected (R370). -/
def State.sendAck (s : State) (p cls seq : Nat) : State :=
  s.linkFrame p 1 [BitVec.ofNat 32 cls, BitVec.ofNat 32 seq]
def State.sendNak (s : State) (p cls seq : Nat) : State :=
  s.linkFrame p 2 [BitVec.ofNat 32 cls, BitVec.ofNat 32 seq]

/-- The sequence check of a received frame of a retransmitted class, by the words of its payload, with the credit that it
returns on delivery (R370, R372): whether the frame is delivered. -/
def State.inSeq (s : State) (p cls seq words : Nat) : Bool × State :=
  if !s.portUp p then (false, s) else
  let cost := if cls = clCue then 1 else (frameBytes words + 63) / 64
  let x := (s.port p).hears s.elapsed (frameBytes words)
  let want := x.rxSeq.get 0 cls
  if seq = want then
    let x := { x with rxSeq := x.rxSeq.set cls ((want + 1) % 65536), nakSent := x.nakSent.set cls false }
    let x := if (creditOf p cls).isSome then { x with owed := x.owed.set cls (x.owed.get 0 cls + cost) } else x
    (true, ((s.setPort p x).incWrap (word (AX_RX_FRAME_CNT p))).sendAck p cls seq)
  else if x.nakSent.get false cls then (false, s.setPort p x)
  else (false, (s.setPort p { x with nakSent := x.nakSent.set cls true }).sendNak p cls want)

/-- Whether 16-bit seq `a` does not lie behind `b`. -/
def seqLe (a b : Nat) : Bool := decide ((b + 65536 - a) % 65536 < 32768)

/-- Frames up to a seq are acknowledged (R370): the frames acknowledged, and the state. -/
def State.acked (s : State) (p cls seq : Nat) : List AxFrame × State :=
  let x := s.port p
  let l := x.unacked.get [] cls
  let gone := l.takeWhile (fun f => seqLe f.seq seq)
  if gone.isEmpty then ([], s) else
  let x := { x with unacked := x.unacked.set cls (l.drop gone.length), ackAt := x.ackAt.set cls s.elapsed,
                    resends := x.resends.set cls 0 }
  (gone, s.setPort p x)

/-! ### Routes and election -/

/-- Whether one lead is better than another: higher priority, then lower member ID (R380). -/
def betterLead (p1 : Nat) (i1 : MemberId) (p2 : Nat) (i2 : MemberId) : Bool :=
  decide (p2 < p1) || (p1 == p2 && decide (i1.toNat < i2.toNat))

/-- Whether the advertisement of a port's neighbour counts (R380). -/
def State.advertOk (s : State) (p : Nat) : Bool :=
  s.portUp p && (match (s.port p).advert with
    | none => false
    | some a => a.parent != some s.memberId && decide (a.hops < 63) && decide (s.elapsed - a.epochAt < 400 * usNs))

/-- The candidate lead (R380). -/
def State.candidate (s : State) : Nat × MemberId :=
  ((List.range 4).filter s.advertOk).foldl (fun b p => match (s.port p).advert with
    | some a => if betterLead a.leadPrio a.leadId b.1 b.2 then (a.leadPrio, a.leadId) else b
    | none => b) (s.memberPrio, s.memberId)

/-- The best parent port towards a lead (R381): fewest hops, then lower neighbour ID, then lower port. -/
def State.parentFor (s : State) (lead : MemberId) : Option Nat :=
  ((List.range 4).filter (fun p => s.advertOk p && s.bit (AX_STAT_time_ok p) &&
      (match (s.port p).advert with | some a => a.leadId == lead | none => false))).foldl (fun b p =>
    match b with
    | none => some p
    | some q =>
      match (s.port p).advert, (s.port q).advert with
      | some a, some c =>
        if a.hops < c.hops || (a.hops == c.hops && decide (a.id.toNat < c.id.toNat)) then some p else b
      | _, _ => b) none

/-- The words of a HELLO (R380). -/
def State.helloWords (s : State) (p : Nat) : List W32 :=
  let par : W32 := match s.ax.parent with
    | some q => (match (s.port q).advert with | some a => a.id.zeroExtend 32 ||| 0x8000 | none => 0)
    | none => 0
  [s.memberId.zeroExtend 32 ||| BitVec.ofNat 32 (s.memberPrio * 65536), s.ax.nonce.truncate 32,
    (s.ax.nonce >>> 32).truncate 32, s.ax.leadId.zeroExtend 32 ||| BitVec.ofNat 32 (s.ax.leadPrio * 65536),
    BitVec.ofNat 32 (s.ax.hops % 64 * 65536 + s.ax.epoch % 65536), par, BitVec.ofNat 32 (s.g (AX_ASYM_asym p))]

/-- A HELLO goes out on a port that waits for its neighbour or is UP. -/
def State.sendHello (s : State) (p : Nat) : State :=
  if s.axState p < axHello then s else s.linkFrame p 0 (s.helloWords p)

/-- A HELLO goes out on every UP port (R381). -/
def State.helloAll (s : State) : State :=
  s.each ((List.range 4).filter s.portUp) (fun s p => s.sendHello p)

/-- The members of the route table, self included (R382). -/
def State.showRoster (s : State) : State :=
  (s.p (AX_ROSTER_members 0) (s.memberId :: s.ax.routes.map (·.1)).eraseDups.length).p (AX_ROSTER_epoch 0) s.ax.epoch

/-- The troupe's place in AXn_STAT and AX0_TROUPE_STAT (R381, R398). -/
def State.showTroupe (s : State) : State :=
  let s := s.each (List.range 4) (fun s p =>
    let par := s.ax.parent == some p
    let child := s.portUp p && s.isMember && (match (s.port p).advert with
      | some a => a.parent == some s.memberId
      | none => false)
    (s.pb (AX_STAT_parent p) par).pb (AX_STAT_tree p) (par || child))
  let lead := s.isMember && s.ax.elected && s.ax.leadId == s.memberId
  let s := s.pb (AX_TROUPE_STAT_member 0) s.isMember |>.pb (AX_TROUPE_STAT_lead 0) lead
  let s := s.pb (AX_TROUPE_STAT_conflict 0) s.ax.refused |>.pb (AX_TROUPE_STAT_parent_valid 0) s.ax.parent.isSome
  let s := s.p (AX_TROUPE_STAT_parent_port 0) (s.ax.parent.getD 0) |>.p (AX_TROUPE_STAT_hops 0) s.ax.hops
  let s := s.p (AX_TROUPE_STAT_priority 0) s.ax.leadPrio |>.p (AX_TROUPE_STAT_lead_id 0) s.ax.leadId.toNat
  (s.pb SYS_STATE_lead lead).showRoster

/-- A JOIN goes to the parent: an ID and its nonce (R382). -/
def State.sendJoin (s : State) (id : MemberId) (nonce : BitVec 64) : State :=
  match s.ax.parent with
  | some p => s.linkFrame p 4 [id.zeroExtend 32, nonce.truncate 32, (nonce >>> 32).truncate 32]
  | none => s

/-- The election and the choice of a parent are made anew (R380, R381, R384, R385). `old` is the parent before the
event. -/
def State.elect (s : State) (old : Option Nat) (cause : Nat) : State :=
  if !s.isMember then
    { s with ax := { s.ax with parent := none, elected := false, hops := 0, leadPrio := 0, leadId := 0 } }.showTroupe
  else
    let (prio, lead) := s.candidate
    let own := lead == s.memberId
    let parent := if own then none else
      match s.parentFor lead with
      | some p => some p
      | none => s.ax.parent.filter s.portUp
    let hops := match parent with
      | some p => (match (s.port p).advert with | some a => a.hops + 1 | none => s.ax.hops)
      | none => 0
    let changedLead := s.ax.elected && (s.ax.leadId != lead || s.ax.leadPrio != prio)
    let changed := changedLead || !s.ax.elected || parent != s.ax.parent || hops != s.ax.hops
    let wasLead := s.bit SYS_STATE_lead
    let epoch := match parent with
      | some p => (match (s.port p).advert with | some a => a.epoch | none => s.ax.epoch)
      | none => s.ax.epoch
    let s := { s with ax := { s.ax with
      leadPrio := prio, leadId := lead, parent := parent, hops := hops, elected := true, epoch := epoch,
      epochAt := if own && !wasLead then s.elapsed else s.ax.epochAt } }
    let s := s.showTroupe
    let s := s.when changedLead (fun s => (s.inc (cnt16 (AX_LEAD_CHG_CNT 0))).event 0x32 0
      (BitVec.ofNat 32 (prio * 65536 + lead.toNat)) cause)
    let s := match parent with
      | some p =>
        if old = some p then s else
        let s := s.when old.isSome (fun s => (s.inc (cnt16 (AX_PARENT_CHG_CNT 0))).event 0x31 0
          (BitVec.ofNat 32 ((match (s.port p).advert with | some a => a.id.toNat | none => 0) * 65536 + p)) cause)
        let s := s.sendJoin s.memberId s.ax.nonce
        s.sendFrame p (s.frame clCue 1 0 [])
      | none => s
    -- The path to the lead is lost with no other: also where the member, cut off, leads itself (R376, R385).
    let cut := match old with | some p => !s.portUp p | none => false
    let s := if old.isSome && parent.isNone && (!own || cut) then s.loseSource 3 cause else s
    let s := if wasLead != s.bit SYS_STATE_lead then s.selectSource cause else s
    if changed then s.helloAll else s

/-! ### BULK -/

/-- A transfer by initiator and tag. -/
def State.bulkOf (s : State) (i : MemberId) (tag : Nat) : Option BulkSt :=
  s.ax.bulk.find? (fun b => b.initiator == i && b.tag == tag)

/-- The state with one transfer changed or removed. -/
def State.setBulk (s : State) (i : MemberId) (tag : Nat) (f : BulkSt → Option BulkSt) : State :=
  { s with ax := { s.ax with bulk := s.ax.bulk.filterMap (fun b =>
    if b.initiator == i && b.tag == tag then f b else some b) } }

/-- Whether the member's one BULK port is held (R393). -/
def State.bulkHeld (s : State) : Bool := s.ax.bulk.any (fun b => decide (2 ≤ b.phase))

/-- Whether a transfer has waited more than 64 arbitration cycles of 5.12 ns (R393). -/
def State.bulkAged (s : State) (b : BulkSt) : Bool := decide (32768 < (s.elapsed - b.since) * 100)

/-- The waiting transfer that the member's arbiter chooses (R393). -/
def State.bulkChoice (s : State) : Option BulkSt :=
  (s.ax.bulk.filter (fun b => b.phase == 1)).foldl (fun m b =>
    match m with
    | none => some b
    | some c =>
      let ab := s.bulkAged b
      let ac := s.bulkAged c
      if ab != ac then (if ab then some b else m)
      else if ab then (if b.since < c.since then some b else m)
      else if b.initiator.toNat < c.initiator.toNat then some b else m) none

/-- A frame goes to a member on its route; one to a member without a route is lost. -/
def State.sendTo (s : State) (m : MemberId) (f : AxFrame) : State :=
  match s.routeTo m with
  | some p => s.sendFrame p f
  | none => s

/-- A BULK frame of a transfer. -/
def State.bulkFrame (s : State) (typ : Nat) (dest : MemberId) (tag off : Nat) (body : List W32) : AxFrame :=
  { s.frame clBulk typ dest body with channel := tag, offset := off }

/-- The target's arbiter grants the waiting transfer it chooses, where it is the target of it (R393). -/
def State.bulkArbitrate (s : State) : State :=
  if s.bulkHeld then s else
  match s.bulkChoice with
  | some b =>
    if b.target == s.memberId then
      (s.setBulk b.initiator b.tag (fun b => some { b with phase := 2 })).sendTo b.initiator
        (s.bulkFrame 1 b.initiator b.tag 0 [])
    else s
  | none => s

/-- The outcome of the member's own transfer is shown (R394). -/
def State.bulkStatus (s : State) (v : Nat) : State := s.p (AX_BULK_STAT_status 0) v

/-- A BULK transfer starts (R392, R394): to a member that has no route it is UNREACHABLE. The caller has made sure
that none is WAITING or RUNNING. Bits [5:0] and [31] of the two addresses, which must be 0, are used as written: the spec
does not say whether they are ignored or the write is refused (DESIGN CHOICE, notes/assumptions/71). -/
def State.bulkGo (s : State) (laddr raddr : Nat) (target : MemberId) (length : Nat) (channel : Option Nat) : State :=
  if !s.isMember || target == s.memberId || (s.routeTo target).isNone then s.bulkStatus 5 else
  let tag := s.ax.tag % 65536
  let b : BulkSt := { initiator := s.memberId, tag := tag, target := target, laddr := laddr, raddr := raddr,
                      length := length, sent := 0, since := s.elapsed, phase := 1, channel := channel }
  let s := { s with ax := { s.ax with tag := s.ax.tag + 1, bulk := s.ax.bulk ++ [b] } }
  (s.bulkStatus 1).sendTo target (s.bulkFrame 0 target tag 0 [BitVec.ofNat 32 raddr, BitVec.ofNat 32 length])

/-- Whether the member's own BULK initiator is WAITING or RUNNING (R394). -/
def State.bulkBusy (s : State) : Bool := [1, 2].contains (s.g (AX_BULK_STAT_status 0))

/-- The DATA frames of the member's own transfer, 256 bytes each (R392), go on from where it stands while frame memory
has room for them; then it waits for its turn (R336, R337). `n` bounds how many. -/
def State.bulkRun (s : State) (b : BulkSt) : Nat → State
  | 0 => s
  | n + 1 =>
    if b.length ≤ b.sent then s else
    let a := b.laddr + b.sent
    if !s.roomNow (some (a / 256 % 8)) then s.fmWait ⟨none, 256, .bulkOut⟩ else
    let k := min 256 (b.length - b.sent)
    let body := (List.range (k / 4)).map (fun i => s.fmWord (a + 4 * i))
    let b' := { b with sent := b.sent + k }
    let s := (s.chanAccess a k).setBulk b.initiator b.tag (fun _ => some b')
    (s.sendTo b.target (s.bulkFrame 4 b.target b.tag b.sent body)).bulkRun b' n

/-- The member's own running transfer goes on (R336, R392). -/
def State.bulkOn (s : State) : State :=
  match s.ax.bulk.find? (fun b => b.initiator == s.memberId && b.phase == 3 && decide (b.sent < b.length)) with
  | some b => s.bulkRun b (b.length / 256 + 1)
  | none => s

/-- Bytes of a DATA frame are written, and the last ones end the transfer with a DONE (R392). -/
def State.bulkStore (s : State) (i : MemberId) (tag a : Nat) (bytes : List Byte) : State :=
  match s.bulkOf i tag with
  | none => s
  | some b =>
    let s := (s.chanAccess a bytes.length).writeFm a bytes
    let sent := b.sent + bytes.length
    if b.length ≤ sent then
      (s.setBulk i tag (fun b => some { b with sent := sent, phase := 4 })).sendTo i (s.bulkFrame 5 i tag 0 [0])
    else s.setBulk i tag (fun b => some { b with sent := sent })

/-! ### A port goes down -/

/-- An ISO channel, by 8 · port + channel, and the state with one set. -/
def State.iso (s : State) (i : Nat) : IsoSt := s.ax.iso.get IsoSt.initial i
def State.setIso (s : State) (i : Nat) (x : IsoSt) : State := { s with ax := { s.ax with iso := s.ax.iso.set i x } }

/-- The receiving ISO channels of a port that goes down complete their units with fill lines (R391). -/
def State.isoFill (s : State) (p : Nat) : State :=
  s.each (List.range 8) (fun s k =>
    let key := 8 * p + k
    let x := s.iso key
    let d := s.g (AX_ISO_CTL_stream p k)
    let send := !s.bit (AX_ISO_CTL_dir p k)
    let s := s.setIso key { IsoSt.initial with skip := send }
    if !s.bit (AX_ISO_CTL_enable p k) || send || !x.inUnit then s else
    let from_ := (s.stream d).line
    let shape := s.shapeOf d
    s.each ((List.range (s.dsLines d - from_)).map (fun i => from_ + 1 + i)) (fun s line =>
      let l := if s.bit (DS_FILL_fill d) && line != 1 then
          (slicesOf shape (s.readFm (s.lineAddr d (s.g (DS_STAT_widx d)) (line - 1)) (s.dsStride d))).map fillMarked
        else shape.map (blackSlice false (s.dsBlack d))
      (s.inc (cnt16 (AX_ISO_FILL_CNT p))).storeLine d line l false))

/-- A bridge channel whose transfer is lost has its outcome (R394, R418). -/
def State.bridgeLost (s : State) (lost : List BulkSt) : State :=
  { s with fab := { s.fab with bridge := s.fab.bridge.map (fun (x : Nat × BridgeSt) =>
    if x.2.bulk && lost.any (fun b => b.channel == some x.1) then (x.1, { x.2 with outcome := some false }) else x) } }

/-- A port that was UP goes down for a reason, with the instant of the condition as cause time (R366); its LOG frames
in flight are counted lost (R453). -/
def State.portDown (s : State) (p why cause : Nat) : State :=
  let was := s.portUp p
  let s := s.p (AX_STAT_state p) (if s.bit (AX_CTL_enable p) then axLane else axDisabled)
  let lost := s.ax.bulk.filter (fun b => b.initiator == s.memberId && s.routeTo b.target == some p)
  let logs := (((s.port p).unacked.get [] clMgmt) ++ ((s.port p).held.get [] clMgmt)).filter (fun f =>
    f.typ == 3 && f.source == s.memberId)
  let rmt := match s.ax.rmt with | some _ => s.routeTo (BitVec.ofNat 12 (s.g (AX_RMT_CTL_target 0))) == some p | none => false
  let s := s.setPort p { PortSt.initial with lastRx := s.elapsed, alignFrom := s.elapsed }
  let s := (s.pb (AX_STAT_time_ok p) false).pb (AX_STAT_fec_active p) false |>.p (AX_STAT_neighbour p) 0
  let s := (s.wr (AX_CREDIT p) 0).wr (AX_LANE_STAT p) 0 |>.p (AX_STAT_lanes p) 0
  if !was then s else
  let s := (s.inc (cnt16 (AX_DOWN_CNT p))).pb (AX_STICKY_down p) true
  let s := s.event 0x30 0 (BitVec.ofNat 32 (why * 16 + p)) cause
  let s := s.fire (0xF0 + p) cause
  let s := (s.isoFill p).addSat (cnt16 EL_STREAM_LOST_CNT) logs.length
  let s := s.when (!lost.isEmpty) (fun s => (s.bulkStatus 6).bridgeLost lost)
  let s := s.when rmt (fun s =>
    { (s.pb (AX_RMT_STAT_busy 0) false).p (AX_RMT_STAT_status 0) 0xF1 with ax := { s.ax with rmt := none } })
  let bulk := s.ax.bulk.filter (fun b => s.routeTo b.target != some p && s.routeTo b.initiator != some p)
  let old := s.ax.parent
  let s := { s with ax := { s.ax with
    bulk := bulk, routes := s.ax.routes.filter (fun r => r.2.1 != p),
    parent := if old = some p then none else old } }
  (s.elect old cause).bulkArbitrate

/-- Credit is granted at link-up (R372): 64 CUE frames, 256 MGMT units, 1,024 BULK units. -/
def State.grantAllCredit (s : State) (p : Nat) : State :=
  s.linkFrame p 3 [BitVec.ofNat 32 64, BitVec.ofNat 32 256, BitVec.ofNat 32 1024]

/-- A port acquires alignment and waits for its neighbour (R362, R363, R365). -/
def State.aligned (s : State) (p : Nat) : State :=
  if !s.bit (AX_CTL_enable p) || !s.isReady (rAx p) || decide (axHello ≤ s.axState p) || !s.dev.active then s else
  let s := s.p (AX_STAT_state p) axHello
  let s := (s.p (AX_STAT_lanes p) 15).pb (AX_STAT_fec_active p) (s.bit (AX_CTL_fec p))
  let (skew, s) := s.drawIn 0 500
  let s := s.wr (AX_LANE_STAT p) (BitVec.ofNat 32 (skew * 65536 + 0xFF))
  (s.setPort p { PortSt.initial with lastRx := s.elapsed, alignFrom := s.elapsed }).sendHello p

/-- A HELLO arrives (R365, R374, R380). -/
def State.helloIn (s : State) (p : Nat) (h : Hello) : State :=
  if s.axState p < axHello then s else
  let s := s.heard p 7
  let x := s.port p
  let epochAt := match x.advert with
    | some a => if a.epoch = h.epoch.toNat ∧ a.leadId = h.leadId then a.epochAt else s.elapsed
    | none => s.elapsed
  let adv : AdvertSt := { id := h.id, nonce := h.nonce, leadPrio := h.leadPriority.toNat, leadId := h.leadId,
                          hops := h.hops.toNat, epoch := h.epoch.toNat, parent := h.parent, epochAt := epochAt }
  let x := { x with helloRx := min (x.helloRx + 1) 2, helloAck := if h.acked then min (x.helloAck + 1) 2 else x.helloAck,
                    advert := some adv }
  let s := s.setPort p x
  let s := s.p (AX_STAT_neighbour p) h.id.toNat
  let s := s.wr (AX_NEIGH p) (BitVec.ofNat 32 (h.hops.toNat * 2 ^ 26 + h.leadPriority.toNat * 65536 + h.leadId.toNat))
  let s := s.when (h.asym != 0 - (BitVec.ofNat 16 (s.g (AX_ASYM_asym p)))) (fun s => s.pb (AX_STICKY_asym_mismatch p) true)
  let s := if s.axState p = axHello ∧ x.helloRx = 2 ∧ x.helloAck = 2 then
      (s.p (AX_STAT_state p) axUp).grantAllCredit p
    else s
  if s.portUp p then s.elect s.ax.parent s.now else s

/-! ### Retransmission and credit -/

/-- Every unacknowledged frame of a class is sent again, oldest first (R370); sixteen resends of the oldest take the
port down (R366). -/
def State.resend (s : State) (p cls : Nat) : State :=
  let x := s.port p
  let l := x.unacked.get [] cls
  if l.isEmpty then s else
  let n := x.resends.get 0 cls + 1
  let s := s.setPort p { x with resends := x.resends.set cls n, ackAt := x.ackAt.set cls s.elapsed }
  let s := s.each l (fun s f =>
    let s := ({ s with ax := { s.ax with wire := s.ax.wire ++ [(p, { f with retx := true })] } } : State).sentBytes p f.size
    (s.incWrap (word (AX_TX_FRAME_CNT p))).inc (cnt16 (AX_RETX_CNT p)))
  if 16 ≤ n then (s.pb (AX_STICKY_retx_limit p) true).portDown p 2 s.now else s

/-- An ACK arrives (R370, R393): a DONE acknowledged frees the target's BULK port. -/
def State.ackIn (s : State) (p cls seq : Nat) : State :=
  if !s.portUp p then s else
  let s := s.heard p 2
  let (gone, s) := s.acked p cls seq
  let s := s.each (gone.filter (fun f => f.cls == clBulk && f.typ == 5)) (fun s f =>
    s.setBulk f.dest f.channel (fun b => if b.phase = 4 then none else some b))
  (s.sendHeld p cls 64).bulkArbitrate

/-- A NAK arrives: what lies before the seq it names is acknowledged, and the rest sent again (R370). -/
def State.nakIn (s : State) (p cls seq : Nat) : State :=
  if !s.portUp p then s else
  let s := s.heard p 2
  let (_, s) := s.acked p cls ((seq + 65535) % 65536)
  s.resend p cls

/-- 2 µs without the acknowledgement advancing (R370). -/
def State.retxDue (s : State) (p cls : Nat) : State :=
  let x := s.port p
  if s.portUp p && !(x.unacked.get [] cls).isEmpty && decide (2 * usNs ≤ s.elapsed - x.ackAt.get 0 cls) then s.resend p cls
  else s

/-- A CREDIT frame arrives (R372). -/
def State.creditIn (s : State) (p cue mgmt bulk : Nat) : State :=
  if !s.portUp p then s else
  let s := s.heard p 3
  let s := s.p (AX_CREDIT_cue p) (min (s.g (AX_CREDIT_cue p) + cue) 64)
  let s := s.p (AX_CREDIT_mgmt p) (min (s.g (AX_CREDIT_mgmt p) + mgmt) 256)
  let s := s.p (AX_CREDIT_bulk p) (min (s.g (AX_CREDIT_bulk p) + bulk) 1024)
  ((s.sendHeld p clCue 64).sendHeld p clMgmt 64).sendHeld p clBulk 64

/-- Credit to return goes out (R372). -/
def State.creditOut (s : State) (p : Nat) : State :=
  let x := s.port p
  let o (c : Nat) : Nat := x.owed.get 0 c
  if !s.portUp p || (o clCue == 0 && o clMgmt == 0 && o clBulk == 0) then s else
  (s.setPort p { x with owed := [] }).linkFrame p 3
    [BitVec.ofNat 32 (o clCue), BitVec.ofNat 32 (o clMgmt), BitVec.ofNat 32 (o clBulk)]

/-! ### Membership -/

/-- The route table once a JOIN is recorded (R382). A newcomer with the ID of another member stands behind that member's
entry, which is not disturbed (R383). -/
def joinRoutes (l : List (MemberId × Nat × BitVec 64)) (p : Nat) (id : MemberId) (nonce : BitVec 64) :
    List (MemberId × Nat × BitVec 64) :=
  let kept := l.filter (fun r => !(r.1 == id && r.2.2 == nonce))
  if kept.any (fun r => r.1 == id) then kept ++ [(id, p, nonce)] else (id, p, nonce) :: kept

/-- A JOIN arrives (R382, R383): it is recorded and forwarded; at the lead an ID that another holds is refused. -/
def State.joinIn (s : State) (p : Nat) (id : MemberId) (nonce : BitVec 64) : State :=
  if !s.portUp p || !s.isMember then s else
  let s := s.heard p 3
  let lead := s.bit SYS_STATE_lead
  let held := (id == s.memberId && nonce != s.ax.nonce) ||
    s.ax.routes.any (fun r => r.1 == id && r.2.2 != nonce && s.portUp r.2.1)
  if lead && held then s.linkFrame p 5 [id.zeroExtend 32, nonce.truncate 32, (nonce >>> 32).truncate 32]
  else
    let s := { s with ax := { s.ax with routes := joinRoutes s.ax.routes p id nonce } }
    (s.showRoster).sendJoin id nonce

/-- A ROSTER refusal arrives (R383): for this device it makes the device isolated; for another it goes on, and that device's
entry goes from the route table. -/
def State.rosterIn (s : State) (p : Nat) (id : MemberId) (nonce : BitVec 64) : State :=
  if !s.portUp p then s else
  let s := s.heard p 3
  if id == s.memberId && nonce == s.ax.nonce then
    if !s.isMember then s else
    let old := s.ax.parent
    let s := { s with ax := { s.ax with refused := true } }
    let s := (s.pb (AX_TROUPE_STAT_conflict 0) true).eventNow 0x33 0 (id.zeroExtend 32)
    (s.elect old s.now).loseSource 3 s.now
  else match s.ax.routes.find? (fun r => r.1 == id && r.2.2 == nonce) with
    | some (_, q, _) =>
      let routes := s.ax.routes.filter (fun r => !(r.1 == id && r.2.2 == nonce))
      let s := ({ s with ax := { s.ax with routes := routes } } : State).showRoster
      if q = p then s else s.linkFrame q 5 [id.zeroExtend 32, nonce.truncate 32, (nonce >>> 32).truncate 32]
    | none => s

/-- A LEAVE goes out on every UP port (R386). -/
def State.sendLeave (s : State) : State :=
  s.each ((List.range 4).filter s.portUp) (fun s p => s.linkFrame p 6 [])

/-! ### Time -/

/-- An exchange starts (R373). Instants are in 2⁻¹⁶ ns. -/
def State.exchangeStart (s : State) (p : Nat) (frac : BitVec 16) : State :=
  if !s.portUp p then s else
  let s := s.setPort p { s.port p with exchange := some (s.now * 65536 + frac.toNat, s.elapsed) }
  s.putOnWire p (s.frame clTime 0 0 [])

/-- A REQ is answered with t₂ and t₃ (R373). -/
def State.exchangeAnswer (s : State) (p : Nat) (t2f : BitVec 16) (t3 : TT) (t3f : BitVec 16) : State :=
  if !s.portUp p then s else
  let s := s.heard p 0
  let t2 := s.clock.ns
  s.putOnWire p (s.frame clTime 1 0 [t2.truncate 32, (t2 >>> 32).truncate 32, t2f.zeroExtend 32 <<< 16,
    t3.truncate 32, (t3 >>> 32).truncate 32, t3f.zeroExtend 32 <<< 16])

/-- An exchange goes missing (R375). The eighth in a row on the parent port is the loss of AXLINK, with the instant at
which that exchange was expected as its cause time (R61, R446). -/
def State.exchangeMiss (s : State) (p : Nat) : State :=
  match (s.port p).exchange with
  | none => s
  | some (t1, t) =>
    if s.elapsed - t < 100 * usNs then s else
    let x := s.port p
    let miss := min (x.missRun + 1) 8
    let s := s.setPort p { x with exchange := none, okRun := 0, missRun := miss }
    let s := s.inc (cnt16 (AX_TIME_MISS_CNT p))
    if miss < 8 then s else
    let parent := s.ax.parent = some p
    let s := s.when (s.bit (AX_STAT_time_ok p)) (fun s => (s.pb (AX_STAT_time_ok p) false).elect s.ax.parent s.now)
    if parent then s.loseSource 3 (t1 / 65536) else s

/-- A RESP in time completes an exchange (R374, R375): delay and offset are computed, and the parent port feeds the
servo. -/
def State.exchangeWith (s : State) (p : Nat) (t2 t3 : Int) (t4f : BitVec 16) : State :=
  match (s.port p).exchange with
  | none => s
  | some (t1, _) =>
    if !s.portUp p then s else
    let s := s.heard p 6
    let t1 : Int := (t1 : Nat)
    let t4 : Int := ((s.now * 65536 + t4f.toNat : Nat) : Int)
    let asym := (BitVec.ofNat 16 (s.g (AX_ASYM_asym p))).toInt
    -- Twice the delay in 2⁻¹⁶ ns; 65,536 of them are 1,000 ps.
    let d2 := (t4 - t1) - (t3 - t2)
    let dPs := d2 * 1000 / 131072
    let theta256 := ((t2 - t1) * 2000 - d2 * 1000 - asym * 65536) * 256 / (2000 * 65536)
    let x := s.port p
    let delays := (dPs :: x.delays).take 16
    let ok := min (x.okRun + 1) 4
    let s := s.setPort p { x with exchange := none, okRun := ok, missRun := 0, delays := delays }
    let s := s.wr (AX_DELAY p) (BitVec.ofNat 32 ((delays.foldl (· + ·) 0 / (delays.length : Int)) % 16777216).toNat)
    let s := s.wr (AX_OFFSET p) (sword theta256)
    let fresh := ok = 4 ∧ !s.bit (AX_STAT_time_ok p)
    let s := if fresh then (s.pb (AX_STAT_time_ok p) true).elect s.ax.parent s.now else s
    if s.isMember ∧ s.ax.parent = some p then
      let s := s.loseOverdue 3
      s.refEvent 3 (-theta256) (s.refFollows 3) (s.refPresent 3)
    else s

/-- A RESP arrives (R373–R375); one that comes 100 µs after its REQ or later finds its exchange missing. -/
def State.exchangeEnd (s : State) (p : Nat) (t2 t3 : Int) (t4f : BitVec 16) : State :=
  (s.exchangeMiss p).exchangeWith p t2 t3 t4f

/-! ### Cues -/

/-- A CUE frame arrives (R101, R387, R389): off the tree, or without BROADCAST, it has no effect; a duplicate goes no
further; else it is forwarded and handed to this member's intake, unless CUE_CTL.bcast_rx is 0. -/
def State.cueIn (s : State) (p : Nat) (h : AxHdr) (r : CueRec) : State :=
  let (ok, s) := s.inSeq p clCue h.seq.toNat 8
  if !ok || !s.bit (AX_STAT_tree p) || !s.isMember || !recBroadcast r then s else
  let (dup, s) := s.dedupe (r.origin.truncate 12) r.seq
  if dup then s.inc (cnt16 CUE_DUP_CNT) else
  if !s.bit CUE_CTL_bcast_rx then s else
  let s := s.floodCue r (some p)
  -- In a DRAIN the cue is forwarded but not queued (R146).
  if s.dev == .drain then s.drainDrop 1
  else { s with cue := { s.cue with axIn := s.cue.axIn ++ [r] } }

/-- A REPLAY_REQ arrives: the CUE frames of the last 50 µs are sent again on that port, flagged (R388). -/
def State.replayIn (s : State) (p : Nat) (h : AxHdr) : State :=
  let (ok, s) := s.inSeq p clCue h.seq.toNat 0
  if !ok then s else
  let l := (s.ax.replay.filter (fun x => decide (s.elapsed - x.1 ≤ 50 * usNs))).reverse
  s.each l (fun s x => s.sendFrame p { s.frame clCue 0 0 (cueWords x.2) with
    bcast := true, replay := true, source := x.2.origin.truncate 12 })

/-! ### ISO -/

/-- The payload bytes of a frame of an ISO channel: 256, or what its reservation lets through in a window (R369, R390). -/
def isoChunk (res : Nat) : Nat := min 256 (max 8 ((res - 24) / 8 * 8))

/-- The waiting frames of an ISO channel go while its reservation of the present window lasts (R369). `n` bounds how
many. -/
def State.isoDrain (s : State) (i : Nat) : Nat → State
  | 0 => s
  | n + 1 =>
    let x := s.iso i
    match x.queue with
    | [] => s
    | f :: rest =>
      if x.spent + f.size ≤ s.g (AX_ISO_RES_res (i / 8) (i % 8)) then
        ((s.setIso i { x with queue := rest, spent := x.spent + f.size }).sendFrame (i / 8) f).isoDrain i n
      else s

/-- The bytes of a line that a stream delivers leave on its sending ISO channels (R390), each frame within its channel's
reservation (R369); after a break a channel resumes at a first line (R391). -/
def State.isoSend (s : State) (d line : Nat) : State :=
  let bytes := (s.stream d).feed.line.flatMap sliceBytes
  let chans := (List.range 32).filter (fun i =>
    let p := i / 8
    let k := i % 8
    s.portUp p && s.bit (AX_ISO_CTL_enable p k) && !s.bit (AX_ISO_CTL_dir p k) && s.g (AX_ISO_CTL_stream p k) == d)
  s.each chans (fun s i =>
    let p := i / 8
    let k := i % 8
    let x := s.iso i
    if x.skip && line != 1 then s else
    let size := isoChunk (s.g (AX_ISO_RES_res p k))
    let frames := (List.range ((bytes.length + size - 1) / size)).map (fun j =>
      let chunk := (bytes.drop (size * j)).take size
      let body := (List.range ((chunk.length + 3) / 4)).map (fun m => BitVec.ofNat 32 (ofBytes ((chunk.drop (4 * m)).take 4)))
      { s.frame clIso (if line = 1 then 1 else 0) (BitVec.ofNat 12 (s.g (AX_ISO_CTL_peer p k))) body with channel := k })
    let s := s.setIso i { x with skip := false, inUnit := true, line := line, queue := x.queue ++ frames }
    s.isoDrain i (x.queue.length + frames.length))

/-- Whether a frame of a port has been held for want of credit in the present window (R372). -/
def State.holdsFrame (s : State) (p : Nat) : Bool := (s.port p).heldSeen

/-- A window of TT begins (R369, R372): every ISO channel has its reservation again, and what is held still counts. -/
def State.isoWindow (s : State) : State :=
  let s := s.each (List.range 4) (fun s p =>
    let x := s.port p
    s.setPort p { x with heldSeen := x.held.any (fun h => (creditOf p h.1).isSome && !h.2.isEmpty) })
  s.each (s.ax.iso.map (·.1)) (fun s i =>
    (s.setIso i { s.iso i with spent := 0 }).isoDrain i (s.iso i).queue.length)

/-- A LINE or UNIT frame arrives (R390, R391): the channel's writer stores its bytes, and a line when it is whole. -/
def State.isoIn (s : State) (p : Nat) (h : AxHdr) (bytes : List Byte) (lineDone unit_ : Bool) : State :=
  let (ok, s) := s.inSeq p clIso h.seq.toNat ((bytes.length + 3) / 4)
  if !ok then s else
  let k := h.channel.toNat % 8
  let i := 8 * p + k
  if 8 ≤ h.channel.toNat || !s.bit (AX_ISO_CTL_enable p k) || !s.bit (AX_ISO_CTL_dir p k) ||
      h.source != BitVec.ofNat 12 (s.g (AX_ISO_CTL_peer p k)) then s.pb (AX_STICKY_iso_stray p) true
  else
    let d := s.g (AX_ISO_CTL_stream p k)
    let x := s.iso i
    let x := if unit_ && !(x.inUnit && x.line == 1 && x.bytes != 0) then { x with inUnit := true, line := 1, bytes := 0 } else x
    if !x.inUnit || s.g (DS_STAT_state d) != 2 then s else
    let (pos, second) := s.linePlace d x.line
    let stride := s.dsStride d
    if s.dsLines d < pos then s else
    let a := s.lineAddr d (s.g (DS_STAT_widx d)) pos
    let put := bytes.take (stride - x.bytes)
    let s := (s.rollWindow.lineServes d put.length).writeFm (a + x.bytes) put
    let n := x.bytes + put.length
    if lineDone then
      let s := s.writeFm (a + n) (List.replicate (stride - n) 0)
      let s := (s.lineBegun d pos second false (s.stream d).shape).lineStored d (s.g (DS_STAT_widx d)) pos
      s.setIso i { x with line := x.line + 1, bytes := 0 }
    else s.setIso i { x with bytes := n }

/-- The share of the last millisecond in which a port sent and received frames, of 12.5 GB/s each way (AXn_UTIL); a frame
counts in the millisecond in which it is handed over (DESIGN CHOICE, notes/assumptions/70). -/
def State.axUtil (s : State) : State :=
  s.each (List.range 4) (fun s p =>
    let x := s.port p
    let share (n : Nat) : Nat := min (n / 125000) 100
    (s.wr (AX_UTIL p) (BitVec.ofNat 32 (share x.rxBytes * 65536 + share x.txBytes))).setPort p
      { x with txBytes := 0, rxBytes := 0 })

/-! ### BULK frames -/

/-- A frame addressed to another member goes on its way (R382). -/
def State.forward (s : State) (h : AxHdr) (cls typ : Nat) (body : List W32) : State :=
  s.sendTo h.dest { s.frame cls typ h.dest body with
    source := h.source, channel := h.channel.toNat, offset := h.offset.toNat }

/-- Whether a received frame is for this member, once it has passed the sequence check: none if it has not, or has been
forwarded. -/
def State.arrives (s : State) (p cls typ : Nat) (h : AxHdr) (body : List W32) : Bool × State :=
  let (ok, s) := s.inSeq p cls h.seq.toNat body.length
  if !ok then (false, s)
  else if h.dest == s.memberId then (true, s) else (false, s.forward h cls typ body)

/-- A REQUEST arrives at the target (R392–R394). -/
def State.bulkAsk (s : State) (p : Nat) (h : AxHdr) (raddr length : Nat) : State :=
  let (mine, s) := s.arrives p clBulk 0 h [BitVec.ofNat 32 raddr, BitVec.ofNat 32 length]
  if !mine then s else
  let tag := h.channel.toNat
  if !s.bit (AX_CTL_bulk_rx 0) then s.sendTo h.source (s.bulkFrame 5 h.source tag 0 [1])
  else
    let b : BulkSt := { initiator := h.source, tag := tag, target := s.memberId, laddr := 0, raddr := raddr,
                        length := length, sent := 0, since := s.elapsed, phase := 1, channel := none }
    ({ s with ax := { s.ax with bulk := s.ax.bulk ++ [b] } } : State).bulkArbitrate

/-- A GRANT arrives at the initiator: its arbiter confirms or releases (R393). -/
def State.bulkGranted (s : State) (p : Nat) (h : AxHdr) : State :=
  let (mine, s) := s.arrives p clBulk 1 h []
  if !mine then s else
  let tag := h.channel.toNat
  match s.bulkOf s.memberId tag with
  | none => s.sendTo h.source (s.bulkFrame 3 h.source tag 0 [])
  | some b =>
    if s.bulkHeld || s.bulkChoice != some b then s.sendTo h.source (s.bulkFrame 3 h.source tag 0 [])
    else
      let s := s.when (s.bulkAged b) (fun s => s.incWrap (AX_BULK_STAT_aged 0))
      let s := (s.setBulk b.initiator tag (fun b => some { b with phase := 3 })).bulkStatus 2
      let s := (s.sendTo h.source (s.bulkFrame 2 h.source tag 0 [])).rollWindow
      if s.fm.wait.isEmpty then s.bulkOn else s.fmWait ⟨none, 256, .bulkOut⟩

/-- A CONFIRM or a RELEASE arrives at the target (R393). -/
def State.bulkConfirmed (s : State) (p : Nat) (h : AxHdr) : State :=
  let (mine, s) := s.arrives p clBulk 2 h []
  if !mine then s else s.setBulk h.source h.channel.toNat (fun b => some { b with phase := 3 })
def State.bulkReleased (s : State) (p : Nat) (h : AxHdr) : State :=
  let (mine, s) := s.arrives p clBulk 3 h []
  if !mine then s else (s.setBulk h.source h.channel.toNat (fun b => some { b with phase := 1 })).bulkArbitrate

/-- A DATA frame arrives: at the target its bytes are written at the frame's offset within the transfer (R392), when their
turn comes (R336, R337). `raddr` is the transfer's remote address; with another one the frame belongs to no transfer. -/
def State.bulkDataIn (s : State) (p : Nat) (h : AxHdr) (raddr : Nat) (bytes : List Byte) : State :=
  let words := (List.range (bytes.length / 4)).map (fun m => BitVec.ofNat 32 (ofBytes ((bytes.drop (4 * m)).take 4)))
  let (mine, s) := s.arrives p clBulk 4 h words
  if !mine then s else
  let tag := h.channel.toNat
  match s.bulkOf h.source tag with
  | none => s
  | some b =>
    if b.raddr ≠ raddr then s else
    let a := b.raddr + h.offset.toNat
    let s := s.rollWindow
    if s.spareRoom a then s.bulkStore h.source tag a bytes
    else s.fmWait ⟨none, bytes.length, .bulkIn h.source tag a bytes⟩

/-- A DONE arrives at the initiator: the transfer has its outcome (R394). -/
def State.bulkEnd (s : State) (p : Nat) (h : AxHdr) (refused : Bool) : State :=
  let (mine, s) := s.arrives p clBulk 5 h [if refused then 1 else 0]
  if !mine then s else
  match s.bulkOf s.memberId h.channel.toNat with
  | none => s
  | some b =>
    ((s.setBulk b.initiator b.tag (fun _ => none)).bulkStatus (if refused then 4 else 3)).bulkArbitrate

/-! ### Changes of AXn_CTL -/

/-- A written enable of a port takes hold (R365, R366): an enabled port wakes and begins to acquire its lanes; a
cleared one goes down. -/
def State.axChanged (s : State) (p : Nat) (was : Bool) : State :=
  let on := s.bit (AX_CTL_enable p)
  if on && !was then
    let s := (s.wakeUsed (rAx p)).p (AX_STAT_state p) axLane
    s.setPort p { PortSt.initial with lastRx := s.elapsed, alignFrom := s.elapsed }
  else if !on && was then s.portDown p 4 s.now
  else s

end Sys2Proof.Machine
end

