-- ==== Sys2Proof/Machine/Fabric.lean ====
section
/-! DEFINITION. The logic fabric, its queue controllers and its bridge (R399–R420). -/

namespace Sys2Proof.Machine

/-! ### Block RAMs and queues -/

/-- Word width of a block RAM, and its depth (R406). -/
def State.bramWidth (s : State) (k : Nat) : Nat := match s.g (QC_CTL_width k) with | 0 => 9 | 1 => 18 | _ => 36
def State.bramDepth (s : State) (k : Nat) : Nat := match s.g (QC_CTL_width k) with | 0 => 4096 | 1 => 2048 | _ => 1024

/-- Whether a block is in FIFO use (R406). -/
def State.isFifo (s : State) (k : Nat) : Bool := s.bit (QC_CTL_use k)

/-- A word cut to the width of a block: bits beyond the width are ignored on write and read as 0 (R406). -/
def State.cutWord (s : State) (k : Nat) (w : W36) : W36 := BitVec.ofNat 36 (w.toNat % 2 ^ s.bramWidth k)

/-- A word of a RAM; the address is taken modulo the depth. -/
def State.ramWord (s : State) (k a : Nat) : W36 := s.fab.data.get 0 (4096 * k + a % s.bramDepth k)

/-- The state with a word of a RAM written. -/
def State.setRam (s : State) (k a : Nat) (w : W36) : State :=
  { s with fab := { s.fab with data := s.fab.data.set (4096 * k + a % s.bramDepth k) (s.cutWord k w) } }

/-- The words of a queue, oldest first. -/
def State.queueOf (s : State) (k : Nat) : List W36 := s.fab.queue.get [] k

/-- The level of a queue; 0 in RAM use. -/
def State.queueLevel (s : State) (k : Nat) : Nat := if s.isFifo k then (s.queueOf k).length else 0

/-- The state with a queue's words set. -/
def State.setFifo (s : State) (k : Nat) (l : List W36) : State :=
  { s with fab := { s.fab with queue := s.fab.queue.set k l } }

/-- Almost empty and almost full (R409). -/
def State.almostEmpty (s : State) (k : Nat) : Bool := decide (s.queueLevel k ≤ s.g (QC_CTL_ae_level k))
def State.almostFull (s : State) (k : Nat) : Bool := decide (s.g (QC_CTL_af_level k) ≤ s.queueLevel k)

/-- A word is stored at the tail (R409). -/
def State.pushWord (s : State) (k : Nat) (w : W36) : State := s.setFifo k (s.queueOf k ++ [s.cutWord k w])

/-- The head is removed; it stays the head word of an empty queue (R409, R410). -/
def State.popWord (s : State) (k : Nat) : Option W36 × State :=
  match s.queueOf k with
  | [] => (none, s)
  | w :: rest =>
    let s := s.setFifo k rest
    (some w, { s with fab := { s.fab with head := s.fab.head.set k w } })

/-- Whether an instant lies within three cycles of FCLK before now: the fabric sees an act of the bridge by then (R410). -/
def State.unseen (s : State) (t : Nat) : Bool := decide ((s.elapsed - t) * s.fab.fclkMhz < 3000)

/-- How many acts of the bridge on a queue its fabric side does not see, where its view lags (R410). -/
def State.lagOf (s : State) (k : Nat) (stale : Bool) : Nat :=
  if stale then ((s.fab.bridgeAt.get [] k).filter s.unseen).length else 0

/-- The bridge pushes or pops a queue: the fabric may see it later. -/
def State.bridgeActs (s : State) (k : Nat) : State :=
  { s with fab := { s.fab with
    bridgeAt := s.fab.bridgeAt.set k (s.elapsed :: (s.fab.bridgeAt.get [] k).filter s.unseen) } }

/-- The fabric pushes or pops a queue: the bridge may see it later. -/
def State.fabricActs (s : State) (k : Nat) : State :=
  { s with fab := { s.fab with fabricAt := s.fab.fabricAt.set k s.elapsed } }

/-- Whether the bridge may not see the fabric's last act on a queue yet: three cycles of KCLK, 7.5 ns (R410). -/
def State.bridgeLags (s : State) (k : Nat) : Bool :=
  match s.fab.fabricAt.lookup k with
  | some t => decide (s.elapsed < t + 8)
  | none => false

/-- The level of a queue in the view of a fabric push: words that the bridge popped may still count (R410). -/
def State.seenFull (s : State) (k : Nat) (stale : Bool) : Nat :=
  s.queueLevel k + (if s.bit (QC_CTL_pop_side k) then s.lagOf k stale else 0)

/-- The level of a queue in the view of a fabric pop: words that the bridge pushed may not count yet (R410). -/
def State.seenEmpty (s : State) (k : Nat) (stale : Bool) : Nat :=
  s.queueLevel k - (if s.bit (QC_CTL_push_side k) then s.lagOf k stale else 0)

/-- A push of the fabric side (R410): discarded as an overflow where the side sees the queue full. `stale` says that its
view lags behind the bridge. -/
def State.fabricPush (s : State) (k : Nat) (w : W36) (stale : Bool) : State :=
  if !s.isFifo k || s.bit (QC_CTL_push_side k) then s else
  if s.bramDepth k ≤ s.seenFull k stale then
    let s := s.inc (QC_STAT_ovf_cnt k)
    { s with fab := { s.fab with ovf := s.fab.ovf.set k true } }
  else (s.pushWord k w).fabricActs k

/-- A pop of the fabric side (R410): an underflow, where the side sees the queue empty, removes nothing. -/
def State.fabricPop (s : State) (k : Nat) (stale : Bool) : State :=
  if !s.isFifo k || s.bit (QC_CTL_pop_side k) then s else
  if s.seenEmpty k stale = 0 then
    let s := s.inc (QC_STAT_unf_cnt k)
    { s with fab := { s.fab with unf := s.fab.unf.set k true } }
  else (s.popWord k).2.fabricActs k

/-- A flush empties a queue; nothing is counted. The words that the fabric pushes in the same cycle go with it (R411). -/
def State.flushQueue (s : State) (k : Nat) : State :=
  if !s.isFifo k then s else
  let s := s.setFifo k []
  { s with fab := { s.fab with flushAt := s.fab.flushAt.set k s.elapsed } }

/-- Whether a write flushed a queue in the FCLK cycle that ends now. -/
def State.flushedNow (s : State) (k : Nat) : Bool :=
  match s.fab.flushAt.lookup k with
  | some t => decide ((s.elapsed - t) * s.fab.fclkMhz < 1000)
  | none => false

/-! ### Nets -/

/-- Output `j` of block RAM `k` (block-RAM output table). -/
def State.bramOut (s : State) (k j : Nat) : Bool :=
  if s.isFifo k then
    if j < 36 then ((s.queueOf k).headD (s.fab.head.get 0 k)).getLsbD j
    else if j = 72 then s.seenEmpty k (s.fab.lag.getLsbD k) == 0
    else if j = 73 then decide (s.bramDepth k ≤ s.seenFull k (s.fab.lag.getLsbD k))
    else if j = 74 then s.almostEmpty k
    else if j = 75 then s.almostFull k
    else if j = 76 then s.fab.ovf.get false k
    else if j = 77 then s.fab.unf.get false k
    else if 78 ≤ j ∧ j ≤ 90 then (s.queueLevel k).testBit (j - 78)
    else false
  else if j < 36 then (s.fab.readA.get 0 k).getLsbD j
  else if j < 72 then (s.fab.readB.get 0 k).getLsbD (j - 36)
  else false

/-- Output `j` of fabric I/O `m` (net table). -/
def State.fioNet (s : State) (m j : Nat) : Bool :=
  if j = 0 then (s.fab.fioIn.get (false, false) m).1
  else if j = 1 then (s.fab.fioIn.get (false, false) m).2
  else if j ≤ 8 then (s.fab.tap.get 0 m).testBit (j - 2)
  else false

/-- A bridge channel that no frame configures. -/
def BridgeSt.initial : BridgeSt :=
  { enabled := false, block := 0, hold := 0xFFFE, busy := false, done := false, error := false, words := [], need := 0,
    waits := false, ended := none, batch := [], copy := none, bulk := false, rejected := false, outcome := none }

/-- A bridge channel, and the state with one set. -/
def State.chan (s : State) (c : Nat) : BridgeSt := s.fab.bridge.get BridgeSt.initial c
def State.setChan (s : State) (c : Nat) (x : BridgeSt) : State :=
  { s with fab := { s.fab with bridge := s.fab.bridge.set c x } }

/-- A cell that no frame configures: its table is 0 and its sinks are the constant 0 (R405). -/
def CellCfg.initial : CellCfg := ⟨0, [], false, false, false, false, 0, 0⟩

/-- The level of a net (R401), with the pad levels of the GPIO pins. `n` bounds the chain of unregistered cells
(R400). -/
def State.net (s : State) (pads : BitVec 64) : Nat → Nat → Bool
  | 0, _ => false
  | n + 1, k =>
    if k < 0x5000 then
      let c := s.fab.cells.get CellCfg.initial k
      if c.registered then s.fab.ff.get false k
      else
        let i (j : Nat) : Nat := if s.net pads n (c.nets.getD j 0xFFFE) then 2 ^ j else 0
        c.table.getLsbD (i 3 + i 2 + i 1 + i 0)
    else if k < 0x9000 then s.bramOut ((k - 0x5000) / 0x80) (k % 0x80)
    else if k < 0x9600 then s.fioNet ((k - 0x9000) / 16) (k % 16)
    else if k < 0x9700 then
      let x := s.chan ((k - 0x9600) / 8)
      if k % 8 = 0 then x.busy else if k % 8 = 1 then x.done else if k % 8 = 2 then x.error else false
    else if k < 0x9740 then pads.getLsbD (k - 0x9700)
    else if k < 0x9760 then s.fab.strobe.contains (k - 0x9740)
    else if k < 0x9780 then s.fab.window.get false (k - 0x9760)
    else k == 0xFFFF

/-- The level of a net in the present cycle. -/
def State.netNow (s : State) (pads : BitVec 64) (k : Nat) : Bool := s.net pads (s.fab.cells.length + 1) k

/-- What a cell's flip-flop takes at an FCLK edge (R399). -/
def State.ffNext (s : State) (pads : BitVec 64) (k : Nat) (c : CellCfg) : Bool :=
  let v := s.netNow pads
  let line (g : Nat) : Bool := v (s.fab.gc.getD g 0xFFFE)
  if c.rstEn && line c.rstLine then c.rstVal
  else if c.ceEn && !line c.ceLine then s.fab.ff.get false k
  else
    let i (j : Nat) : Nat := if v (c.nets.getD j 0xFFFE) then 2 ^ j else 0
    c.table.getLsbD (i 3 + i 2 + i 1 + i 0)

/-- The number that sinks `from_` to `from_ + n - 1` of a list spell, lowest first. -/
def sinkBits (v : Nat → Bool) (l : List Nat) (from_ n : Nat) : Nat :=
  ((List.range n).map (fun i => if v (l.getD (from_ + i) 0xFFFE) then 2 ^ i else 0)).sum

/-- The ports of a block RAM in RAM use at an FCLK edge (R407): reads give the old words; port A's write goes over
port B's. `old` holds the words and the nets before the edge. -/
def State.ramEdge (s old : State) (pads : BitVec 64) (k : Nat) : State :=
  if s.isFifo k then s else
  let l := s.fab.bramSinks.get [] k
  let v := old.netNow pads
  let a := sinkBits v l 0 12
  let b := sinkBits v l 51 12
  let bFabric := !s.bit (QC_CTL_pop_side k)
  let s := s.when (bFabric && v (l.getD 99 0xFFFE)) (fun s => s.setRam k b (BitVec.ofNat 36 (sinkBits v l 63 36)))
  let s := s.when (v (l.getD 48 0xFFFE)) (fun s => s.setRam k a (BitVec.ofNat 36 (sinkBits v l 12 36)))
  let s := { s with fab := { s.fab with readA := s.fab.readA.set k (old.ramWord k a) } }
  if bFabric then { s with fab := { s.fab with readB := s.fab.readB.set k (old.ramWord k b) } } else s

/-- The fabric sides of a block RAM in FIFO use at an FCLK edge (R409–R411): pop and push, in the order in which a pop and a
push of a full queue both succeed and a pop of an empty one is an underflow; with a flush, both act uncounted and the
queue is empty after them. `old` holds the nets before the edge. -/
def State.fifoEdge (s old : State) (pads : BitVec 64) (k : Nat) : State :=
  if !s.isFifo k then s else
  let l := s.fab.bramSinks.get [] k
  let v (j : Nat) : Bool := old.netNow pads (l.getD j 0xFFFE)
  let lag := old.fab.lag.getLsbD k
  let pops := !s.bit (QC_CTL_pop_side k) && v 49
  if v 50 || s.flushedNow k then
    (s.when (pops && s.seenEmpty k lag != 0) (fun s => (s.popWord k).2)).setFifo k []
  else
    let s := s.when pops (fun s => s.fabricPop k lag)
    s.when (v 48) (fun s => s.fabricPush k (BitVec.ofNat 36 (sinkBits (old.netNow pads) l 12 36)) lag)

/-- The tap of a delay line after an edge with its increment and decrement sinks (R413): it stays within 0 to 127, and both at
once leave it unchanged. -/
def tapNext (t : Nat) (up down : Bool) : Nat := if up == down then t else if up then min (t + 1) 127 else t - 1

/-- A fabric I/O cell at an FCLK edge (R412, R413): a DDR input shows the two captures of the cycle just ended, and the tap
steps. -/
def State.fioEdge (s old : State) (pads : BitVec 64) (rise fall : BitVec 96) (m : Nat) (c : FioCfg) : State :=
  let v (j : Nat) : Bool := old.netNow pads (c.sinks.getD j 0xFFFE)
  let shown := if c.inDdr then (old.fab.fioCap.get false m, fall.getLsbD m) else (rise.getLsbD m, false)
  { s with fab := { s.fab with
    fioIn := s.fab.fioIn.set m shown,
    fioCap := s.fab.fioCap.set m (rise.getLsbD m),
    fioOut := s.fab.fioOut.set m (v 0, if c.outDdr then v 1 else v 0, v 2),
    tap := s.fab.tap.set m (tapNext (s.fab.tap.get 0 m) (v 3) (v 4)) } }

/-- The done and error outputs of a bridge channel pulse for the FCLK cycle after its command has ended (R416). -/
def BridgeSt.shown (x : BridgeSt) : BridgeSt :=
  { x with done := x.ended == some true, error := x.ended == some false, ended := none }

/-- A rising FCLK edge (R399, R401, R407, R409–R413, R429): everything takes its new value from the nets before the edge.
Whether the fabric side of a queue sees the bridge's last acts in the cycle that begins is free (R410). -/
def State.fclk (s : State) (rise fall : BitVec 96) (pads : BitVec 64) : State :=
  if !s.fpllLocked then s else
  let old := s
  let (x, s) := s.draw
  let (y, s) := s.draw
  let lag : BitVec 128 := x ++ y
  let regs := old.fab.cells.filter (fun c => c.2.registered)
  let ff := regs.map (fun c => (c.1, old.ffNext pads c.1 c.2)) ++
    old.fab.ff.filter (fun x => !regs.any (fun c => c.1 == x.1))
  let gpio := old.fab.gpioSinks.map (fun x => (x.1, (old.netNow pads x.2.1, old.netNow pads x.2.2)))
  let s := { s with fab := { s.fab with
    ff := ff, gpioOut := gpio, ovf := [], unf := [], lag := lag, strobe := s.fab.strobeNext, strobeNext := [],
    window := (List.range 32).map (fun n => (n, (old.bt n).open_)),
    bridge := s.fab.bridge.map (fun (x : Nat × BridgeSt) => (x.1, x.2.shown)) } }
  let s := s.each old.fab.bramSinks (fun s x => (s.ramEdge old pads x.1).fifoEdge old pads x.1)
  s.each old.fab.fio (fun s x => s.fioEdge old pads rise fall x.1 x.2)

/-- The strobe of a raster instant waits for the next FCLK edge (R401): 2g for a frame start, 2g + 1 for a line
start. -/
def State.strobe (s : State) (n : Nat) : State :=
  { s with fab := { s.fab with strobeNext := n :: s.fab.strobeNext.filter (· != n) } }

/-- A tap increment or decrement (R413). -/
def State.tapStep (s : State) (m : Nat) (up : Bool) : State :=
  { s with fab := { s.fab with tap := s.fab.tap.set m (tapNext (s.fab.tap.get 0 m) up (!up)) } }

/-! ### Functions of the GPIO pins, merging and pad levels -/

/-- The enable mask of a pin's functions (R423). -/
def State.pinMask (s : State) (p : Nat) : Nat := bitsOf (s.rd (GP_FSEL (p / 16) (p % 16 / 4))) (8 * (p % 4) + 7) (8 * (p % 4))

/-- Whether BAT_VIOL_SUM is non-zero: some monitor has counted a violation (R154). -/
def State.anyViol (s : State) : Bool := (List.range 16).any (fun i => s.rd (KEEP_VIOL i) != 0)

/-- Whether a pin offers a function (R421). -/
def pinOffers (p f : Nat) : Bool :=
  if f = 6 then decide (p % 16 < 5) else if f = 7 then decide (48 ≤ p) && decide (p % 16 < 6) else decide (f < 8)

/-- Level and output enable of a function of a pin (R421, R422). -/
def State.pinFunction (s : State) (p f : Nat) : Bool × Bool :=
  let b := p / 16
  let i := p % 16
  match f with
  | 0 => (s.bitOf (GP_OUT b) i, s.bitOf (GP_OE b) i)
  | 1 => s.fab.gpioOut.get (false, false) p
  | 2 => (s.rgRuns i && (s.rg i).line == 1, true)
  | 3 => ((s.bt (if b < 2 then i else 16 + i)).open_, true)
  | 4 => (s.reported p, true)
  | 5 => (if b < 2 then s.reported (64 + p)
      else s.bit (LP_STAT_cdr_locked (p - 32)) && s.bit (LP_STAT_trs_locked (p - 32)), true)
  | 6 => (s.pin.time.getLsbD i, true)
  | _ =>
    (match i with
      | 0 => s.dev.running
      | 1 => s.bit SYS_STATE_lead
      | 2 => s.dev == .holdover
      | 3 => s.g TB_STAT_tb_state == tbLocked
      | 4 => s.anyViol
      | _ => s.bit (AX_TROUPE_STAT_member 0), true)

/-- The claimants of a pin with their levels, lowest function code first (R424). -/
def State.claimants (s : State) (p : Nat) : List Bool :=
  ((List.range 8).filter (fun f => (s.pinMask p).testBit f && (s.pinFunction p f).2)).map (fun f => (s.pinFunction p f).1)

/-- The merged level of a pin and its output enable (R424). -/
def State.pinMerged (s : State) (p : Nat) : Bool × Bool :=
  let l := s.claimants p
  if s.bit (GP_CTL_merge (p / 16)) then (l.any id, !l.isEmpty) else (l.headD false, !l.isEmpty)

/-- What a pad drives for a level, an output enable and an open-drain setting (R430). -/
def padDrive (level oe od : Bool) : Option Bool :=
  if !oe then none else if od then (if level then none else some false) else some level

/-- Whether the supply of a bank is present: GPIO banks 0–3, fabric I/O banks 4–7. -/
def State.supplied (s : State) (b : Nat) : Bool := s.pin.supply.getLsbD b

/-- What a ball's boundary cells drive while the test port holds the pads (R482): nothing under HIGHZ or with the enable cell 0.
Balls 0–63 are the GPIO pads, 64–159 the fabric I/O pads. -/
def State.tapPad (s : State) (ball : Nat) : Option Bool :=
  let cell (i : Nat) : Bool := s.tap.boundary.getLsbD (Config.boundaryCell i % 546)
  if s.tap.highz || !cell (3 * ball + 2) then none else some (cell (3 * ball + 1))

/-- What a GPIO pad drives in the present state (R437, R438, R441): what the test port holds it at, its merged functions when configured, its latch
while its bank is held, nothing when quiet or without its supply. -/
def State.padOut (s : State) (p : Nat) : Option Bool :=
  let b := p / 16
  let i := p % 16
  if !s.supplied b then none
  else if s.tap.padsTaken then s.tapPad p
  else if s.bankHeld b then
    let w := s.pwr.latch.get 0 b
    padDrive (w.getLsbD i) (w.getLsbD (16 + i)) (w.getLsbD (48 + i))
  else if s.bankLive b then
    let (l, oe) := s.pinMerged p
    padDrive l oe (s.bitOf (GP_DRV b) (16 + i))
  else none

/-- The pull of a GPIO pad: 0 none, 1 up, 2 down. Off when quiet or without the bank's supply (R131, R430, R441). -/
def State.padPull (s : State) (p : Nat) : Nat :=
  let b := p / 16
  if !s.supplied b then 0
  else if s.bankHeld b then (s.pwr.latch.get 0 b).toNat / 2 ^ (64 + 2 * (p % 16)) % 4
  else if s.bankLive b then (s.rd (GP_PULL b)).toNat / 4 ^ (p % 16) % 4
  else 0

/-- What a fabric I/O pad drives from a rising FCLK edge and from the falling edge after it (R131, R147, R412, R415): its
output registers when configured, its latch while its bank is held, nothing when quiet or without its supply. -/
def State.fioPad (s : State) (m : Nat) : Option (Bool × Bool) :=
  let b := 4 + m / 24
  let i := m % 24
  if !s.supplied b then none
  else if s.tap.padsTaken then (s.tapPad (64 + m)).map (fun l => (l, l))
  else if s.bankHeld b then
    let w := s.pwr.latch.get 0 b
    if w.getLsbD (24 + i) then some (w.getLsbD i, w.getLsbD i) else none
  else if s.bankLive b then
    let o := s.fab.fioOut.get (false, false, false) m
    if o.2.2 then some (o.1, o.2.1) else none
  else none

/-- The pull of a fabric I/O pad: 0 none, 1 up, 2 down. -/
def State.fioPull (s : State) (m : Nat) : Nat :=
  let b := 4 + m / 24
  let i := m % 24
  if !s.supplied b then 0
  else if s.bankHeld b then
    let w := s.pwr.latch.get 0 b
    (if w.getLsbD (48 + i) then 1 else 0) + (if w.getLsbD (72 + i) then 2 else 0)
  else if s.bankLive b then
    match s.fab.fio.lookup m with
    | some c => (if c.pullUp then 1 else 0) + (if c.pullDown then 2 else 0)
    | none => 0
  else 0

/-- The level at a GPIO pad: what the device drives, else what stands there from outside (R431). -/
def State.padLevel (s : State) (p : Nat) : Bool := (s.padOut p).getD (s.pin.outside.getLsbD p)

/-- The pad levels of a bank. -/
def State.bankLevels (s : State) (b : Nat) : Nat :=
  ((List.range 16).map (fun i => if s.padLevel (16 * b + i) then 2 ^ i else 0)).sum

/-- The pad levels of all 64 GPIO pins. -/
def State.padLevels (s : State) : BitVec 64 := BitVec.ofNat 64 ((List.range 4).map (fun b => s.bankLevels b * 2 ^ (16 * b))).sum

/-! ### The bridge -/

/-- The service of a bridge channel. -/
def State.chanSvc (s : State) (c : Nat) : Nat := (s.ownerOf kFb c).byte

/-- Whether the range of frame memory overlaps a base of an enabled stream of another service (R417). -/
def State.rangeFenced (s : State) (svc addr bytes : Nat) : Bool :=
  s.streamsOn.any (fun d => s.g (DS_CTL_service d) != svc && (List.range (s.dsBases d)).any (fun b =>
    let lo := (s.rd (DS_BASE d b)).toNat
    decide (addr < lo + s.dsLines d * s.dsStride d) && decide (lo < addr + bytes)))

/-- Whether a channel may begin the command at the head of its block (R416): enabled, idle, its hold sink 0, and word 0 there.
A reserved opcode counts as a NOP, with its word 0 only. -/
def State.bridgeMay (s : State) (c op : Nat) : Bool :=
  let x := s.chan c
  s.dev.active && x.enabled && !x.busy && !s.netNow s.padLevels x.hold &&
    (match s.queueOf x.block with
     | [] => false
     | w :: _ =>
       let o := w.toNat / 2 ^ 32
       o == op || (op == 0 && decide (5 < o)))

/-- The words of a command that are there are popped, as many as it still takes (R410, R416). -/
def State.bridgePops (s : State) (c : Nat) : State :=
  let x := s.chan c
  let l := (s.queueOf x.block).take x.need
  if l.isEmpty then s else
  let s := (s.each l (fun s _ => ((s.popWord x.block).2).bridgeActs x.block))
  s.setChan c { x with words := x.words ++ l, need := x.need - l.length }

/-- A command of `n` words begins (R416, R417): it is counted, the channel is busy, and its first words are popped. -/
def State.bridgeTake (s : State) (c n : Nat) : State :=
  let s := (s.incWrap (word FB_CMD_CNT)).setBitOf FB_BUSY c true
  (s.setChan c { s.chan c with busy := true, words := [], need := n, waits := true, copy := none, bulk := false,
                               rejected := false, outcome := none }).bridgePops c

/-- A command is rejected with a reason (R417). -/
def State.bridgeReject (s : State) (c why : Nat) : State :=
  let svc := s.chanSvc c
  let s := s.inc (cnt16 FB_REJECT_CNT)
  let s := (s.p FB_LAST_REJECT_service svc).p FB_LAST_REJECT_channel c |>.p FB_LAST_REJECT_reason why
  let s := s.eventNow 0x15 svc (BitVec.ofNat 32 (c * 256 + why))
  s.setChan c { s.chan c with rejected := true }

/-- The CUE commands held open by CHAIN are submitted (R115, R416); in DRAIN the refused records are counted
(R417). -/
def State.submitBatch (s : State) (c : Nat) (l : List CueRec) : State :=
  let s := s.setChan c { s.chan c with batch := [] }
  if l.isEmpty then s
  else if s.dev = .drain then s.drainDrop l.length
  else { s with cue := { s.cue with engIn := s.cue.engIn ++ [(s.chanSvc c, l)] } }

/-- A command that is no CUE closes the batch before it (R416). -/
def State.closeBatch (s : State) (c : Nat) : State := s.submitBatch c (s.chan c).batch

/-- The low 32 bits of word `i` of a command. -/
def cmdWord (l : List W36) (i : Nat) : W32 := (l.getD i 0).truncate 32

/-- Whether bits [35:32] of every word but the first are 0, as the command layouts have them. -/
def cmdPlain (l : List W36) : Bool := l.tail.all (fun w => decide (w.toNat < 2 ^ 32))

/-- NOP, and a command with a reserved opcode (R416, R417). -/
def State.bridgeNopCmd (s : State) (c : Nat) (l : List W36) : State :=
  let s := s.closeBatch c
  if l.getD 0 0 ≠ 0 then s.bridgeReject c 1 else s

/-- CUE: a record is submitted as source ENGINE with the channel's service in byte 13 (R101, R416). -/
def State.bridgeCueCmd (s : State) (c : Nat) (l : List W36) : State :=
  if cmdWord l 0 ≠ 0 ∨ !cmdPlain l then (s.closeBatch c).bridgeReject c 1 else
  let r := cueOfWords ((List.range 8).map (fun i => cmdWord l (i + 1)))
  let r := { r with service := BitVec.ofNat 8 (s.chanSvc c) }
  let batch := (s.chan c).batch ++ [r]
  if recChain r then s.setChan c { s.chan c with batch := batch } else s.submitBatch c batch

/-- A BARRIER cue or command sets the count of a barrier, or adds to it (R326, R327). -/
def State.setBarrier (s : State) (b : Nat) (add : Bool) (v : Nat) : State :=
  if !add then s.p (BA_COUNT_count b) v else
  let c := s.g (BA_COUNT_count b) + v
  let s := s.when (decide (65535 < c)) (fun s =>
    ((s.pb (BA_STAT_sat b) true).inc (cnt16 FM_BARRIER_SAT_CNT)).pb FM_STICKY_barrier_sat true)
  s.p (BA_COUNT_count b) (min c 65535)

/-- BARRIER: on a barrier of the channel's service whose src is CUE (R416, R417). -/
def State.bridgeBarrierCmd (s : State) (c : Nat) (l : List W36) : State :=
  let s := s.closeBatch c
  let w := cmdWord l 0
  let b := bitsOf w 23 16
  if bitsOf w 31 25 ≠ 0 then s.bridgeReject c 1
  else if s.g (BA_CTL_service b) ≠ s.chanSvc c then s.bridgeReject c 3
  else if !s.bit (BA_CTL_src b) then s.bridgeReject c 1
  else s.setBarrier b (w.getLsbD 24) (bitsOf w 15 0)

/-- One 32-bit word of a copy in progress moves (R416): none where a queue has no word or no room. -/
def State.copyWord (s : State) (x : BridgeCopy) : Option (BridgeCopy × State) :=
  if x.left = 0 then none else
  let next := { x with ramWord := x.ramWord + 1, addr := x.addr + 4, left := x.left - 1 }
  if x.toFm then
    let put (s : State) (w : W36) : State := s.writeFm x.addr (bytesOf 4 (w.truncate 32 : W32).toNat)
    if x.fifo then
      match s.popWord x.block with
      | (some w, s) => some (next, put (s.bridgeActs x.block) w)
      | (none, _) => none
    else some (next, put s (s.ramWord x.block x.ramWord))
  else
    let w : W36 := (s.fmWord x.addr).zeroExtend 36
    if x.fifo then
      if s.queueLevel x.block < s.bramDepth x.block then some (next, (s.pushWord x.block w).bridgeActs x.block) else none
    else some (next, s.setRam x.block x.ramWord w)

/-- Words of a copy move until it waits for its queue or for frame memory, or is done; whether it waits for frame memory.
`n` bounds how many. -/
def State.copyWords (s : State) (x : BridgeCopy) : Nat → Bool × BridgeCopy × State
  | 0 => (false, x, s)
  | n + 1 =>
    if x.left != 0 && !s.roomNow (some (x.addr / 256 % 8)) then (true, x, s) else
    match s.copyWord x with
    | some (y, t) => (t.chanServes (fun k => if k = x.addr / 256 % 8 then 4 else 0)).copyWords y n
    | none => (false, x, s)

/-- The copy of a channel goes on as far as its queue and frame memory let it; for frame memory it waits for its turn (R336,
R410, R416). -/
def State.copyRun (s : State) (c : Nat) : State :=
  match (s.chan c).copy with
  | none => s
  | some x =>
    let (held, y, s) := s.copyWords x x.left
    let s := s.setChan c { s.chan c with copy := some y }
    if held then s.fmWait ⟨none, 64, .bridge c⟩ else s

/-- The copy of a channel goes on, unless accesses to frame memory are held before it (R336). -/
def State.copyOn (s : State) (c : Nat) : State :=
  match (s.chan c).copy with
  | none => s
  | some x =>
    if x.left = 0 then s else
    let s := s.rollWindow
    if s.fm.wait.isEmpty then s.copyRun c else s.fmWait ⟨none, 64, .bridge c⟩

/-- FM_WRITE and FM_READ (R416–R418). -/
def State.bridgeFmCmd (s : State) (c : Nat) (toFm : Bool) (l : List W36) : State :=
  let s := s.closeBatch c
  let w0 := cmdWord l 0
  let a := (cmdWord l 1).toNat
  let k := bitsOf w0 31 25
  let fifo := w0.getLsbD 24
  let bytes := 64 * (bitsOf (cmdWord l 2) 15 0 + 1)
  if bitsOf w0 23 12 ≠ 0 ∨ !cmdPlain l ∨ bitsOf (cmdWord l 2) 31 16 ≠ 0 ∨ a % 64 ≠ 0 ∨ fmSize < a + bytes then
    s.bridgeReject c 1
  else if s.ownerOf kBr k ≠ .svc (s.chanSvc c) ∨ s.rangeFenced (s.chanSvc c) a bytes then s.bridgeReject c 3
  else
    let wrongUse := s.isFifo k != fifo
    let side := if fifo && !toFm then s.bit (QC_CTL_push_side k) else s.bit (QC_CTL_pop_side k)
    if wrongUse ∨ s.g (QC_CTL_width k) ≠ 2 ∨ !side then
      let s := s.when wrongUse (fun s => (s.inc (cnt16 FB_USE_REFUSE_CNT)).pb (QC_STAT_refused k) true)
      s.bridgeReject c 8
    else
      (s.setChan c { s.chan c with copy := some ⟨toFm, k, fifo, bitsOf w0 11 0, a, bytes / 4⟩ }).copyOn c

/-- BULK starts a transfer (R394, R417, R418). -/
def State.bridgeBulkCmd (s : State) (c : Nat) (l : List W36) : State :=
  let s := s.closeBatch c
  let la := (cmdWord l 1).toNat
  let ra := (cmdWord l 2).toNat
  let w := cmdWord l 3
  let bytes := 64 * (bitsOf w 15 0 + 1)
  if cmdWord l 0 ≠ 0 ∨ !cmdPlain l ∨ bitsOf w 31 28 ≠ 0 ∨ la % 64 ≠ 0 ∨ ra % 64 ≠ 0 ∨ fmSize < la + bytes ∨
      fmSize < ra + bytes then s.bridgeReject c 1
  else if s.rangeFenced (s.chanSvc c) la bytes then s.bridgeReject c 3
  else
    let s := (s.setChan c { s.chan c with bulk := true }).bulkGo la ra (BitVec.ofNat 12 (bitsOf w 27 16)) bytes (some c)
    if s.bulkBusy then s else s.setChan c { s.chan c with outcome := some false }

/-- A command whose words have all been popped has its effect (R416); BULK waits while the member's BULK initiator is WAITING
or RUNNING (R418). -/
def State.bridgeRun (s : State) (c : Nat) : State :=
  let x := s.chan c
  let op := (x.words.getD 0 0).toNat / 2 ^ 32
  if !x.busy || !x.waits || x.need != 0 || (op == 5 && s.bulkBusy) then s else
  let s := s.setChan c { x with waits := false }
  match op with
  | 1 => s.bridgeCueCmd c x.words
  | 2 => s.bridgeBarrierCmd c x.words
  | 3 => s.bridgeFmCmd c true x.words
  | 4 => s.bridgeFmCmd c false x.words
  | 5 => s.bridgeBulkCmd c x.words
  | _ => s.bridgeNopCmd c x.words

/-- How many words a command takes before its data (bridge command table). -/
def bridgeWords (op : Nat) : Nat := match op with | 1 => 9 | 3 => 3 | 4 => 3 | 5 => 4 | _ => 1

/-- A channel begins the command at the head of its block, of the given opcode, and runs it once its words are there; a
channel whose command still takes words goes on with it (R416). -/
def State.bridgeCommand (s : State) (c op : Nat) : State :=
  if s.bridgeMay c op then (s.bridgeTake c (bridgeWords op)).bridgeRun c
  else if s.dev.active then (s.bridgePops c).bridgeRun c else s

/-- The outcome of a channel's command, once it may complete: whether its done output pulses, else its error output
(R416–R418). A CUE is done when the cue engine has taken the record. -/
def State.bridgeOutcome (s : State) (c : Nat) : Option Bool :=
  let x := s.chan c
  if !x.busy || x.waits then none
  else if x.rejected then some false
  else if x.bulk then x.outcome
  else match x.copy with
    | some y => if y.left = 0 then some true else none
    | none => if s.cue.engIn.any (fun b => b.1 == s.chanSvc c) then none else some true

/-- What a channel has under way goes on: its words, its command, its copy. -/
def State.bridgeGoes (s : State) (c : Nat) : State := ((s.bridgePops c).bridgeRun c).copyOn c

/-- A command completes (R416). -/
def State.bridgeComplete (s : State) (c : Nat) : State :=
  let s := s.bridgeGoes c
  match s.bridgeOutcome c with
  | none => s
  | some ok =>
    let s := s.setBitOf FB_BUSY c false
    s.setChan c { s.chan c with busy := false, ended := some ok, words := [], copy := none, bulk := false,
                                rejected := false, outcome := none }

/-- The bridge side pops or pushes a block (R410): the channels that take words from it, or copy from it or to it, go on, and
nothing overflows or underflows. A view that lags behind the fabric (`stale`) makes it wait. -/
def State.bridgeStep (s : State) (k : Nat) (stale : Bool) : State :=
  if stale && s.bridgeLags k then s else
  s.each (s.fab.bridge.filter (fun x => (x.2.need != 0 && x.2.block == k) ||
      (match x.2.copy with | some y => y.block == k | none => false)))
    (fun s x => s.bridgeGoes x.1)

/-- A DONE ends a BULK transfer of the member: the channel that started it has its outcome, and the first channel with a BULK
command that waits starts (R394, R418). -/
def State.bulkEnds (s : State) (p : Nat) (h : AxHdr) (refused : Bool) : State :=
  let before := s.bulkOf s.memberId h.channel.toNat
  let s := s.bulkEnd p h refused
  match before with
  | none => s
  | some b =>
    if (s.bulkOf b.initiator b.tag).isSome then s else
    let s := match b.channel with
      | some c => if (s.chan c).bulk then s.setChan c { s.chan c with outcome := some (!refused) } else s
      | none => s
    match (List.range 32).find? (fun c => (s.chan c).busy && (s.chan c).waits && (s.chan c).need == 0) with
    | some c => s.bridgeRun c
    | none => s

end Sys2Proof.Machine
end

