-- ==== Sys2Proof/Machine/Pins.lean ====
section
/-! DEFINITION. GPIO pins, pin event lines and pad latches (R421–R442), and what every command ends with. -/

namespace Sys2Proof.Machine

/-! ### Pads -/

/-- The levels that stand at the GPIO pads from outside are seen. -/
def State.seePads (s : State) (pads : BitVec 64) : State := { s with pin := { s.pin with outside := pads } }

/-- Entry to STANDBY latches every GPIO and fabric I/O pad (R147, R438). -/
def State.latchPads (s : State) : State :=
  let gpio := (List.range 4).map (fun b =>
    let m := (List.range 16).map (fun i => s.pinMerged (16 * b + i))
    let lv := (m.zipIdx.map (fun x => if x.1.1 then 2 ^ x.2 else 0)).sum
    let oe := (m.zipIdx.map (fun x => if x.1.2 then 2 ^ x.2 else 0)).sum
    (b, BitVec.ofNat 96 (lv + 2 ^ 16 * oe + 2 ^ 32 * (s.rd (GP_DRV b)).toNat + 2 ^ 64 * (s.rd (GP_PULL b)).toNat)))
  let fio := (List.range 4).map (fun j =>
    let o := (List.range 24).map (fun i => s.fab.fioOut.get (false, false, false) (24 * j + i))
    let lv := (o.zipIdx.map (fun x => if x.1.1 then 2 ^ x.2 else 0)).sum
    let oe := (o.zipIdx.map (fun x => if x.1.2.2 then 2 ^ x.2 else 0)).sum
    let up := ((List.range 24).map (fun i =>
      match s.fab.fio.lookup (24 * j + i) with | some c => if c.pullUp then 2 ^ i else 0 | none => 0)).sum
    let down := ((List.range 24).map (fun i =>
      match s.fab.fio.lookup (24 * j + i) with | some c => if c.pullDown then 2 ^ i else 0 | none => 0)).sum
    (4 + j, BitVec.ofNat 96 (lv + 2 ^ 24 * oe + 2 ^ 48 * up + 2 ^ 72 * down)))
  { s with pwr := { s.pwr with latch := gpio ++ fio } }

/-- Entry to STANDBY from LOAD latches the quiet pads: no level, no output enable, no pull (R131, R147). -/
def State.latchQuiet (s : State) : State :=
  { s with pwr := { s.pwr with latch := (List.range 8).map (fun b => (b, 0)) } }

/-! ### Conflicts -/

/-- Whether a pin is in conflict (R425): in a PRIORITY bank, with two or more claimants. -/
def State.inConflict (s : State) (p : Nat) : Bool :=
  s.dev.active && !s.bit (GP_CTL_merge (p / 16)) && decide (2 ≤ (s.claimants p).length)

/-- A pin in conflict has its bit set, and the first cycle of an episode is counted and logged (R425). -/
def State.pinScan (s : State) : State :=
  let l := (List.range 64).filter s.inConflict
  let new := l.filter (fun p => !s.pin.conflict.getLsbD p)
  let s := { s with pin := { s.pin with conflict := BitVec.ofNat 64 (l.map (fun p => 2 ^ p)).sum } }
  let s := s.each l (fun s p => s.setBitOf (GP_CONFLICT (p / 16)) (p % 16) true)
  s.each new (fun s p =>
    let s := s.inc (cnt16 (GP_CONFLICT_CNT (p / 16)))
    s.eventNow 0x38 (s.ownerOf kGpio p).byte (BitVec.ofNat 32 p))

/-! ### Every command -/

/-- An instruction of the test access port that has taken the pads gives them back when the device leaves INERT, or RESET
with RESET_N low (R482). -/
def State.tapReturn (s : State) : State :=
  if s.tap.padsTaken && !(s.dev == .inert || (s.dev == .reset && !s.pwr.resetN)) then
    { s with tap := { s.tap with padsTaken := false, highz := false } }
  else s

/-- What every command ends with: the device state follows its timebase (R137), idle times run on (R143), and the
pins are merged (R424, R425). -/
def State.settle (s : State) : State := s.follow.trackIdle.pinScan.tapReturn

/-- The KEEP words of the battery block that a command has changed are shown in BAT_KEEP_STAT (R157). -/
def State.markKeep (s old : State) : State :=
  if s.dev = .off ∨ old.dev = .off then s else
  s.each ((List.range 32).filter (fun n => s.rd (KEEP_MEMBER + 4 * n) != old.rd (KEEP_MEMBER + 4 * n)))
    (fun s n => s.setBitOf BAT_KEEP_STAT n true)

/-- What every command begins with: the frames of the command before are off the wire, and time passes to the instant
of the command. -/
def State.atTime (s : State) (t : TT) : State := { s with ax := { s.ax with wire := [] } }.passTo t

/-- What every command ends with, `old` being the state before it. -/
def State.ended (s old : State) : State := (s.markKeep old).settle

/-- A command at an instant: time passes to it, its effect comes about, and the device settles. -/
def timed (t : TT) (f : State → State) (s : State) : Host.Outcome State Fault Refusal :=
  .next ((f (s.atTime t)).ended s)

/-! ### Writes of pins -/

/-- A PIN cue takes effect (R426): the masked levels change, and it is recorded. -/
def State.pinCue (s : State) (b : Nat) (levels mask : Nat) (launch : BitVec 64) : State :=
  let old := s.g (GP_OUT_level b)
  let new := (List.range 16).map (fun i => if (if mask.testBit i then levels.testBit i else old.testBit i) then 2 ^ i else 0)
  let s := (s.p (GP_OUT_level b) new.sum).incWrap (word GPIO_PIN_CUE_CNT)
  let s := (s.wr GPIO_LAST_PIN (BitVec.ofNat 32 (mask * 65536 + levels))).wr64 GPIO_LAST_PIN_TT_LO launch
  s.p GPIO_STAT_last_bank b

/-- The owner of the resource whose state a function shows, where it has one of its own (R421). -/
def State.functionOwner (s : State) (p f : Nat) : Owner :=
  let i := p % 16
  match f with
  | 2 => s.ownerOf kRg i
  | 3 => s.ownerOf kBt (if p < 32 then i else 16 + i)
  | 4 => s.ownerOf kWm p
  | 5 => if p < 32 then s.ownerOf kWm (64 + p) else s.ownerOf kLpRx (p - 32)
  | _ => .pool

/-- Whether a value of GPb_FSELr sets a bit for a function that its pin does not offer (R423). -/
def fselReserved (b r : Nat) (v : W32) : Bool :=
  (List.range 32).any (fun j => v.getLsbD j && !pinOffers (16 * b + 4 * r + j / 8) (j % 8))

/-- Whether a value of GPb_FSELr enables anew a function whose source belongs to another service than the pin's
owner (R345, R423). -/
def State.fselFenced (s : State) (b r : Nat) (v : W32) : Bool :=
  (List.range 32).any (fun j =>
    let p := 16 * b + 4 * r + j / 8
    v.getLsbD j && !(s.rd (GP_FSEL b r)).getLsbD j && !(s.ownerOf kGpio p).mayName (s.functionOwner p (j % 8)))

/-! ### Pin event lines -/

/-- The pin that a line watches (R432). -/
def pelPin (ctl : W32) (k : Nat) : Nat := 16 * (PEL_CTL_bank 0).of ctl + k

/-- The debounced level and the last sample of a line (PEL_STAT). -/
def State.pelLevel (s : State) (k : Nat) : Bool := s.bitOf PEL_STAT k
def State.setPel (s : State) (k : Nat) (last level : Bool) : State :=
  (s.setBitOf PEL_STAT k level).setBitOf PEL_STAT (16 + k) last

/-- Whether the lines sample their pads: every state but OFF, KEEP, RESET and LOAD (R433). -/
def State.pelRuns (s : State) : Bool :=
  s.dev.powered && s.dev != .reset && s.dev != .load

/-- The state with the level that stands at a pad from outside seen. -/
def State.seePad (s : State) (p : Nat) (l : Bool) : State :=
  let m : BitVec 64 := BitVec.ofNat 64 (2 ^ p)
  s.seePads (if l then s.pin.outside ||| m else s.pin.outside &&& ~~~m)

/-- Whether the pad that a line watches may show a level: not where the device drives the other (R431, R432). -/
def State.padMay (s : State) (k : Nat) (l : Bool) : Bool :=
  (s.padOut (pelPin (s.rd (PEL_CTL k)) k)).getD l == l

/-- Whether a run of a new level with its first sample at `cause` is accepted now (R433): the samples have differed from the
debounced level since, for the debounce time, and the run began after that level last changed. -/
def State.pelDue (s : State) (k cause : Nat) : Bool :=
  decide (s.pin.pelAt.get 0 k ≤ cause) && decide (cause + 1000 * s.g (PEL_CTL_deb k) ≤ s.now)

/-- The run of a line starts anew: its debounced level has changed, or a run was discarded. -/
def State.pelFrom (s : State) (k : Nat) : State :=
  { s with pin := { s.pin with pelAt := s.pin.pelAt.set k s.now } }

/-- The debounced level of a line changes; in a selected direction that is an event (R434). -/
def State.pelChange (s : State) (k : Nat) (rises : Bool) (cause : Nat) : State :=
  if !s.pelRuns || s.pelLevel k == rises || !s.padMay k rises || !s.pelDue k cause then s else
  let s := ((s.seePad (pelPin (s.rd (PEL_CTL k)) k) rises).setPel k rises rises).pelFrom k
  let edge := s.g (PEL_CTL_edge k)
  if !s.bit (PEL_CTL_enable k) || !edge.testBit (if rises then 0 else 1) then s else
  let s := s.inc (PEL_CNT_events k)
  let s := if rises then s.setBitOf PEL_RISE k true else s.setBitOf PEL_FALL k true
  let s := s.wr PEL_LAST (BitVec.ofNat 32 ((if rises then 0 else 16) + k))
  let s := s.wr64 PEL_LAST_TT_LO (BitVec.ofNat 64 cause)
  if s.bitOf SYS_WAKE_SRC k then (s.fire (0xC0 + k) cause).wakeSource (BitVec.ofNat 32 (16 * k + 4))
  else s.fire (0xC0 + k) cause

/-- A run that ends before it is accepted is a glitch (R433); a line that is not enabled counts nothing (R434). -/
def State.pelGlitchSeen (s : State) (k : Nat) : State :=
  if !s.pelRuns || s.g (PEL_CTL_deb k) == 0 || !s.padMay k (s.pelLevel k) then s else
  let s := (s.seePad (pelPin (s.rd (PEL_CTL k)) k) (s.pelLevel k)).setPel k (s.pelLevel k) (s.pelLevel k)
  if s.bit (PEL_CTL_enable k) then s.inc (PEL_CNT_glitch k) else s

/-- PELk_CTL has been written (R436): a change of bank or deb discards any run, and the debounced level takes the
next sample without firing. -/
def State.pelChanged (s : State) (k : Nat) (old : W32) : State :=
  let new := s.rd (PEL_CTL k)
  if (PEL_CTL_bank 0).of old ≠ (PEL_CTL_bank 0).of new ∨ (PEL_CTL_deb 0).of old ≠ (PEL_CTL_deb 0).of new then
    let l := s.padLevel (pelPin new k)
    (s.setPel k l l).pelFrom k
  else s

/-! ### TIME outputs and supplies -/

/-- The bit of a TIME function (R421). -/
def timeIx : TimeFn → Nat
  | .pps => 0 | .wclk48 => 1 | .wclk96 => 2 | .wclk192 => 3 | .clk10m => 4

/-- Whether an edge of a TIME function falls at an instant (R422), taken down to the whole nanosecond. -/
def timeEdgeAt (f : TimeFn) (rises : Bool) (t : Nat) : Bool :=
  let wclk (hz : Nat) : Bool :=
    let h := if rises then 2 * ((t * hz + secNs - 1) / secNs)
      else 2 * ((2 * t * hz + secNs - 1) / secNs / 2) + 1
    h * secNs / (2 * hz) == t
  match f with
  | .pps => if rises then t % secNs == 0 else t % secNs == 100000
  | .wclk48 => wclk 48000
  | .wclk96 => wclk 96000
  | .wclk192 => wclk 192000
  | .clk10m => if rises then t % 100 == 0 else t % 100 == 50

/-- A TIME function changes level at its instant (R422). -/
def State.timeEdge (s : State) (f : TimeFn) (rises : Bool) : State :=
  if !s.dev.active || !timeEdgeAt f rises s.now then s else
  let i := timeIx f
  let t := if rises then s.pin.time ||| BitVec.ofNat 5 (2 ^ i) else s.pin.time &&& ~~~(BitVec.ofNat 5 (2 ^ i))
  { s with pin := { s.pin with time := t } }

/-- The bit of a bank in the supplies. -/
def bankIx : Bank → Nat
  | .gpio b => b.val
  | .fio j => 4 + j.val

/-- A bank supply is lost or returns (R415, R438, R441). -/
def State.setSupply (s : State) (b : Bank) (on : Bool) : State :=
  let m : BitVec 8 := BitVec.ofNat 8 (2 ^ bankIx b)
  { s with pin := { s.pin with supply := if on then s.pin.supply ||| m else s.pin.supply &&& ~~~m } }

end Sys2Proof.Machine
end

