-- ==== Sys2Proof/Machine/Device.lean ====
section
/-! DEFINITION. State requests, the end of DRAIN, KEEP and OFF, the auto-sleep update, the fuses, and the event log's
commit and streaming (R132–R157, R176–R178, R446–R458). -/

namespace Sys2Proof.Machine

/-! ### Requests -/

/-- Whether the present state has a transition for a request (R132, R134), by the codes of SYS_STATE_REQ. -/
def State.mayRequest (s : State) (code : Nat) : Bool :=
  match code with
  | 1 => s.dev.running
  | 2 => s.dev == .standby
  | 3 => s.dev.running || s.dev == .inert || s.dev == .standby || s.dev == .inspect
  | 4 => s.dev.running && !s.sealed
  | 5 => s.dev.powered
  | _ => false

/-- A request is accepted or refused (R134): SYS_REQ_STAT shows it, and an accepted one takes its transition. -/
def State.request (s : State) (code : Nat) : Bool × State :=
  let ok := s.mayRequest code
  let s := (s.p SYS_REQ_STAT_req code).p SYS_REQ_STAT_outcome (if ok then 1 else 2)
  if !ok then
    let s := s.inc (cnt16 SYS_REQ_REFUSE_CNT)
    (false, if code = 4 ∧ s.sealed then s.inc (cnt16 CFG_CHAN_REFUSE_CNT) else s)
  else
    (true,
      if code = 5 then s.enterReset (some 3) 2
      else if code = 2 then s.wakeUp 1
      else if s.dev.running then (s.saveAllEq).enterDrain code
      else s.enterReset (some 3) 3)

/-! ### The end of DRAIN -/

/-- What stops when every resource sleeps (R143, R146): paths, engines and links hold nothing in progress. -/
def State.stopAll (s : State) : State :=
  let s := s.each (List.range 32) (fun s p =>
    let s := s.saveAsleep p
    (((s.pb (LP_STAT_cdr_locked p) false).p (LP_STAT_rx_rate p) 0).pb (LP_STAT_trs_locked p) false).setLp p
      { s.lpSt p with
        sending := false, delivering := false, lastLine := 0, lockSince := none, lineNow := 0, wait := [], sentKind := 0 })
  let s := s.each (List.range 4) (fun s p =>
    let s := s.setPort p { PortSt.initial with lastRx := s.elapsed, alignFrom := s.elapsed }
    let s := (s.p (AX_STAT_state p) (if s.bit (AX_CTL_enable p) then axLane else axDisabled)).wr (AX_CREDIT p) 0
    ((s.pb (AX_STAT_time_ok p) false).pb (AX_STAT_tree p) false).pb (AX_STAT_parent p) false)
  let s := { s with ax := { s.ax with parent := none, routes := [], bulk := [], rmt := none, iso := [], replay := [] } }
  let s := s.each s.streamsOn (fun s d => s.p (DS_STAT_state d) 1)
  { s with se := { s.se with acts := [], running := [], queues := [], xfers := [] },
           fm := { s.fm with asked := [], flows := [], beyond := [], wentOver := [], chan := [], wait := [] } }

/-- The device reaches the target of its drain (step 5 of DRAIN, R146, R147). A wake latched on the way is taken at
once (R149). -/
def State.finishDrain (s : State) : State :=
  match s.pwr.drain with
  | none => s
  | some d =>
    let s := s.when (d.dropped != 0) (fun s => s.eventNow 0x05 0 (BitVec.ofNat 32 (min d.dropped 65535)))
    let s := s.p SYS_DRAIN_STAT_busy 0
    let wake := s.pwr.wakeLatched
    let s := { s with pwr := { s.pwr with drain := none, wakeLatched := none } }
    if d.req = 3 then s.enterReset (some 3) 3
    else
      let s := s.when (d.req == 1) (fun s => s.latchPads)
      let s := s.each (List.range 48) (fun s c => s.cellStops c)
      let s := (s.when (d.req == 1) (fun s => s.stopAll)).sleepAll
      if d.req = 1 then
        let s := ((s.changeState .standby).inc (cnt16 SYS_STANDBY_CNT)).dequalifyAll.monsRestart
        match wake with
        | some c => s.wakeUp c
        | none => s
      else (s.changeState .inspect).monsRestart

/-- At T_end the cues with later launch times are removed and a LEAVE goes out (steps 3 and 4 of DRAIN, R146, R386). -/
def State.drainEnds (s : State) : State :=
  match s.pwr.drain, s.drainEnd with
  | some d, some t =>
    if s.dev != .drain || d.cut || decide (s.now < t) then s else
    let s := { s with pwr := { s.pwr with drain := some { d with cut := true } } }
    (s.drainCut t).sendLeave
  | _, _ => s

/-- Whether a stream is in the middle of a unit that its writer goes on with (R146). -/
def State.midUnit (s : State) (d : Nat) : Bool :=
  let n := (s.stream d).line
  s.g (DS_STAT_state d) == 2 && decide (0 < n) && decide (n < s.dsLines d) &&
    (s.bit (DS_CTL_timing d) || s.rgRuns (s.g (DS_CTL_rg d)))

/-- Whether every output has completed what T_end met, so that the drain may end (step 4 of DRAIN, R146): no line port is
still sending its frame, no stream is in a unit, no engine has an activation left, no access to frame memory is held,
and every analogue output has come to the end of its frame. A drain never lasts longer than 127 ms. -/
def State.drainDone (s : State) : Bool :=
  match s.pwr.drain with
  | none => false
  | some d =>
    s.dev == .drain && d.cut &&
      (decide (d.from_ + 127 * msNs ≤ s.now) ||
        ((List.range 32).all (fun p => !(s.lpSt p).sending || !s.rgRuns (s.g (LP_TX_CTL_rg p))) &&
          s.streamsOn.all (fun d => !s.midUnit d) && s.se.acts.isEmpty && s.se.running.isEmpty && s.fm.wait.isEmpty &&
          (List.range 48).all (fun c => s.outMode c == .off)))

/-- Time at which the TT alarm stands (R149). -/
def State.alarmDue (s : State) : Bool :=
  s.bit SYS_WAKE_SRC_tt_alarm && decide ((s.rd64 SYS_WAKE_AT_LO).toNat ≤ s.now)

/-! ### KEEP, OFF and RESET -/

/-- The device loses its main supply and keeps its battery domain (R132, R133): the words of code K, the fuses and the
episodes of the monitors that run in KEEP stay. -/
def State.enterKeep (s : State) : State :=
  let b := State.reset
  let old := s.dev
  let t : State := { b with
    pending := s.pending, cells := s.cells.filter (fun c => keepAddr c.1), free := s.free,
    cfg := { b.cfg with fuses := s.cfg.fuses },
    log := { b.log with episodes := s.log.episodes.filter (fun e => e.1 == 13 || e.1 == 14) },
    pin := { b.pin with outside := s.pin.outside, supply := s.pin.supply },
    pwr := { b.pwr with state := .keep, onVbat := s.pwr.onVbat, causes := 0, mainLost := true, railsUp := false,
                        softErrs := s.pwr.softErrs } }
  let t := ((t.p KEEP_LAST_STATE_cause 1).p KEEP_LAST_STATE_state old.code).keepWritten 6
  ((t.inc (cnt16 KEEP_ENTRY_CNT)).keepWritten 7).pb BAT_STAT_keep_seen true

/-- The device is off: only the fuses stay (R132). -/
def State.enterOff (s : State) : State :=
  let b := State.reset
  { b with pending := s.pending, free := s.free, cfg := { b.cfg with fuses := s.cfg.fuses },
           pin := { b.pin with outside := s.pin.outside, supply := s.pin.supply },
           pwr := { b.pwr with state := .off, causes := 0, mainLost := true, railsUp := false } }

/-- The rails are up: RESET with the straps sampled (R132, R460). -/
def State.powerUp (s : State) (mode a1 a0 : Bool) : State :=
  let s := (s.enterReset none 0).scrubKeep
  { s with
    obs := { s.obs with i2c := mode, addrLow := (if a1 then 2 else 0) + (if a0 then 1 else 0) },
    pwr := { s.pwr with railsUp := true, mainLost := false } }

/-- RESET is left for LOAD (R132): SYS_RESET_CAUSE shows its causes, and the loader starts. -/
def State.leaveReset (s : State) : State :=
  let s := (s.wr SYS_RESET_CAUSE (s.pwr.causes.zeroExtend 32)).changeState .load
  let s := { s with pwr := { s.pwr with resetN := true, causes := 0 } }
  ((s.pb CFG_STAT_loading true).p CFG_STAT_slot 3).wr CFG_AO_SEC_AT_LOAD (s.keepRd 4)

/-- WIND ends in the running state that the timebase gives (R136, R137). -/
def State.leaveWind (s : State) : State :=
  if s.windDone then ({ s with pwr := { s.pwr with fmReady := true } } : State).changeState s.runState else s

/-! ### The 1 ms update -/

/-- Whether a 1 ms update of TT falls now: the first command in a new millisecond, in a state in which the loops run
(R144). -/
def State.updateDue (s : State) : Bool := s.dev.active && s.now / msNs != s.pwr.lastUpdate / msNs

/-- A sample of the junction temperature is shown, with its extremes (R457, R459). -/
def State.showTemp (s : State) (t : Int) : State :=
  let s := s.wr SYS_TEMP (sword t)
  let hi := signedField 16 (s.g (cnt16 VM_TEMP_MAX))
  let lo := signedField 16 (s.g (cnt16 VM_TEMP_MIN))
  let s := s.when (decide (hi < t)) (fun s => s.p (cnt16 VM_TEMP_MAX) (t % 65536).toNat)
  s.when (decide (t < lo)) (fun s => s.p (cnt16 VM_TEMP_MIN) (t % 65536).toNat)

/-- Measured quantities take fresh values: the junction temperature and the rail voltages (R457), the temperatures of the
quads (DESIGN CHOICE, notes/assumptions/2); and the shares of the last 1 ms in use are shown (R312, R341, R398). -/
def State.sampleRails (s : State) : State :=
  let hot := (s.log.episodes.lookup 10).isSome || (s.log.episodes.lookup 11).isSome
  let (t, s) := if hot then s.drawInt (-32768) 32767 else s.drawInt (-880) 2000
  let s := s.showTemp t
  let s := s.each (List.range 10) (fun s n =>
    let (v, s) := s.drawIn 0 65535
    s.wr (VM_RAIL_MV n) (BitVec.ofNat 32 v))
  let s := s.each (List.range 12) (fun s q =>
    let (v, s) := s.drawIn 0 65535
    s.p (AC_QUAD_STAT_temp (4 * q)) v)
  (s.seUtil.axUtil).fmUtil

/-- The 1 ms update: the sleep-delay loops update, and then every resource past its delay falls asleep; a locked line
port writes its warm-start word first (R143, R144, R199). -/
def State.sleepUpdate (s : State) : State :=
  if !s.updateDue then s else
  let s := { s with pwr := { s.pwr with lastUpdate := s.now, updates := s.pwr.updates + 1 } }
  let s := s.each (List.range 6) (fun s k => s.delayStep k)
  let tired := (List.range 127).filter s.fallsAsleep
  let s := s.each tired (fun s r => (s.when (decide (r < 32)) (fun s => s.saveAsleep r)).fallAsleep r)
  s.sampleRails

/-- A domain is switched off no later than 2 µs after its resource began to fall asleep (R143, R156). -/
def State.switchedOff (s : State) (r : Nat) : State :=
  let x := s.res r
  match x.power with
  | .switching t => if s.elapsed - t ≤ 2000 then s.setRes r { x with power := .asleep } else s
  | _ => s

/-- A WAKE hold runs out (R143). -/
def State.holdEnds (s : State) (r : Nat) : State :=
  let x := s.res r
  match x.holdUntil with
  | some t => if t ≤ s.elapsed then s.setRes r { x with holdUntil := none } else s
  | none => s

/-! ### Fuses and rollback -/

/-- The bytes of the fuse data words 0 to `n - 1` (R176), word 0 holding bytes 0–3. -/
def State.fuseBytes (s : State) (n : Nat) : List Byte :=
  (List.range n).flatMap (fun i => bytesOf 4 (s.cfg.fuseData.get 0 i).toNat)

/-- Whether a fuse command may run (R176): in INERT, with fuse_lock at 0, its field not yet programmed. -/
def State.fuseMay (s : State) (cmd : Nat) : Bool :=
  let f := s.cfg.fuses
  s.dev == .inert && !f.fuseLock &&
    (match cmd with
     | 1 => f.keyHash.isNone
     | 2 => f.aesKey.isNone
     | 3 => !f.requireSeal
     | 4 => !f.requireEncrypt
     | 5 => !f.privateJtagOff
     | 6 => true
     | _ => false)

/-- A fuse command programs its field, or is refused; the data registers clear either way (R176). -/
def State.fuseCommand (s : State) (cmd : Nat) : Bool × State :=
  let ok := s.fuseMay cmd
  let f := s.cfg.fuses
  let key := s.fuseBytes 8
  let hash := s.fuseBytes 12
  let f' : FuseSt := if !ok then f else
    match cmd with
    | 1 => { f with keyHash := some hash }
    | 2 => { f with aesKey := some key }
    | 3 => { f with requireSeal := true }
    | 4 => { f with requireEncrypt := true }
    | 5 => { f with privateJtagOff := true }
    | _ => { f with fuseLock := true }
  let s := { s with cfg := { s.cfg with fuses := f', fuseData := [] } }
  let s := s.p CFG_FUSE_RESULT_last (if ok then 1 else 2)
  (ok, s)

/-- A write of CFG_ROLLBACK_ADV (R178): accepted in a running state with an image that allows it and whose
security_version lies above the count. -/
def State.rollbackGo (s : State) (v : W32) : Bool × State :=
  if v == 0xA5 && s.dev.running && s.cfg.allowAdvance && decide (s.cfg.fuses.rollback < s.cfg.secVersion) then
    (true, { s with cfg := { s.cfg with advanceTo := some s.cfg.secVersion } })
  else (false, s)

/-- One rollback step is programmed (R178). -/
def State.rollbackNext (s : State) : State :=
  match s.cfg.advanceTo with
  | none => s
  | some n =>
    let c := min (s.cfg.fuses.rollback + 1) 64
    { s with cfg := { s.cfg with fuses := { s.cfg.fuses with rollback := c },
                                 advanceTo := if c < n then some n else none } }

/-! ### Event log -/

/-- The type code of a LOG frame in its class (R369). -/
def mgmtLogType : Nat := 3

/-- The committed records that wait for streaming are sent in index order (R453): a record overwritten before it is sent
is skipped; one without a route is counted lost. `n` bounds how many. -/
def State.streamLog (s : State) : Nat → State
  | 0 => s
  | n + 1 =>
    let head := s.rd EL_HEAD
    let pos := s.rd EL_STREAM_POS
    if head = pos then s else
    let pos := if 4096 < (head - pos).toNat then head - 4096 else pos
    let slot := pos.toNat % 4096
    let body := [s.rd (RING_W slot 0), s.rd (RING_W slot 1), s.rd (RING_W slot 2), s.rd (RING_W slot 3), pos, 0]
    let m : MemberId := BitVec.ofNat 12 (s.g EL_CTL_collector)
    let s := match (if s.isMember && m != s.memberId then s.routeTo m else none) with
      | some p => s.sendFrame p (s.frame clMgmt mgmtLogType m body)
      | none => s.inc (cnt16 EL_STREAM_LOST_CNT)
    (s.wr EL_STREAM_POS (pos + 1)).streamLog n

/-- The instant of TT at which a pending record commits (R446): 512 µs after its cause, or after a step that it lies
before. -/
def State.horizon (s : State) (r : LogRec) : Nat :=
  match s.clock.stepTo with
  | some t => if r.cause < t then t + 512000 else r.cause + 512000
  | none => r.cause + 512000

/-- Every pending record whose horizon is reached goes into the ring in order (R42, R446), and committed records are
streamed where that is enabled (R453). -/
def State.commitDue (s : State) : State :=
  if !s.dev.timed then s else
  let due (r : LogRec) : Bool := decide (s.horizon r ≤ s.now)
  let out := s.log.stage.filter due
  let s := { s with log := { s.log with stage := s.log.stage.filter (fun r => !due r) } }
  let s := s.each out (fun s r => s.commitRec r)
  if s.bit EL_CTL_stream_en then s.streamLog 4096 else s.wr EL_STREAM_POS (s.rd EL_HEAD)

/-- Entry to INERT commits the pending records at once (R447). -/
def State.commitAll (s : State) : State :=
  let out := s.log.stage
  ({ s with log := { s.log with stage := [] } } : State).each out (fun s r => s.commitRec r)

/-- A collector entry is written at its place in the collector's ring (R454). -/
def State.collectAt (s : State) : Nat :=
  (s.rd EL_COLLECT_BASE).toNat + (s.rd EL_COLLECT_HEAD).toNat % 2 ^ s.g EL_COLLECT_CTL_size * 32
def State.collectStore (s : State) (entry : List Byte) : State :=
  (s.writeFm s.collectAt entry).incWrap (word EL_COLLECT_HEAD)

/-- A LOG frame arrives at its collector (R454): written as a 32-byte entry, as unreserved traffic of frame memory (R336), or
dropped while the collector is disabled. -/
def State.logIn (s : State) (p : Nat) (h : AxHdr) (payload : List Byte) : State :=
  let words := (List.range 6).map (fun i => BitVec.ofNat 32 (ofBytes ((payload.drop (4 * i)).take 4)))
  let (mine, s) := s.arrives p clMgmt mgmtLogType h words
  if !mine then s
  else if !s.bit EL_COLLECT_CTL_enable then s.inc (cnt16 EL_COLLECT_DROP_CNT)
  else
    let at_ (i : Nat) : Byte := payload.getD i 0
    let entry := (List.range 16).map at_ ++ bytesOf 2 h.source.toNat ++ [0, 0] ++
      (List.range 4).map (fun i => at_ (16 + i)) ++ List.replicate 8 0
    let s := s.rollWindow
    if s.spareRoom s.collectAt then s.collectStore entry else s.fmWait ⟨none, 32, .entry entry⟩

/-- Whether the collector's ring in frame memory would break R454: outside frame memory, or over a base of a descriptor
whose DS_GEOM is not 0. Bits [11:0] of the base, which must be 0, are stored and used as written: the spec does not say
whether they are ignored or the write is refused (DESIGN CHOICE, notes/assumptions/71). -/
def State.collectBad (s : State) (base size : Nat) : Bool :=
  let len := 2 ^ size * 32
  decide (fmSize < base + len) || (List.range 1024).any (fun d =>
    s.rd (DS_GEOM d) != 0 && (List.range (s.dsBases d)).any (fun b =>
      let lo := (s.rd (DS_BASE d b)).toNat
      decide (base < lo + s.dsLines d * s.dsStride d) && decide (lo < base + len)))

/-- Whether a written EL_TAIL is refused (R451). -/
def State.tailBad (s : State) (v : W32) : Bool := decide (4096 < (s.rd EL_HEAD - v).toNat)

/-- A read of word 0 of a ring slot snapshots its other words (R452). -/
def State.snapSlot (s : State) (slot : Nat) : State :=
  { s with log := { s.log with
    snap := some (slot, s.rd (RING_W slot 1), s.rd (RING_W slot 2), s.rd (RING_W slot 3)) } }

/-! ### Violations -/

/-- Whether a violation monitor runs in the present state (R457). -/
def State.violRuns (s : State) (m : Nat) : Bool :=
  if m = 13 ∨ m = 14 then s.dev != .off else s.dev.powered

/-- The operating windows of rails 0–9 in mV (main-rail table of R487); rail 9 by its magnitude. -/
def railWindow (n : Nat) : Nat × Nat :=
  [(776, 824), (873, 927), (1710, 1890), (1067, 1133), (1710, 1890), (1710, 1890), (873, 927), (873, 927), (2425, 2575),
   (2425, 2575)].getD n (0, 65535)

/-- Whether a rail's voltage lies within its operating window. -/
def railOk (n value : Nat) : Bool := decide ((railWindow n).1 ≤ value) && decide (value ≤ (railWindow n).2)

/-- Whether a monitor's value is beyond its condition, and the condition has stood long enough to be detected (R457): a rail
out of its window for 1 µs, a temperature sample above +125 °C or below −55 °C, no edge of AOCLK for 122.1 µs, VBAT below
2.0 V, an analogue pin beyond its maximum for 20 ns. `since` is the time since the condition's first instant. -/
def violMet (m value since : Nat) : Bool :=
  if m < 10 then !railOk m value && decide (1000 ≤ since)
  else if m = 10 then decide (2000 < signedField 16 value)
  else if m = 11 then decide (signedField 16 value < -880)
  else if m = 13 then value == 0 && decide (122100 ≤ since)
  else if m = 14 then decide (value < 2000)
  else if m = 15 then decide (value < 96) && decide (20 ≤ since)
  else true

/-- Whether an episode that began `since` ns ago may have ended by its time (R457): a rail is inside for 100 µs after 1 µs
outside, REFCLK within tolerance for 1 s, the pins within for 1 µs after 20 ns. -/
def violOver (m since : Nat) : Bool :=
  if m < 10 then decide (101000 ≤ since)
  else if m = 12 then decide (secNs ≤ since)
  else if m = 15 then decide (1020 ≤ since)
  else true

/-- What a monitor may measure when its episode ends, from the lowest value to the highest (R457): a rail in its window, the
junction at most +123 °C or at least −53 °C, VBAT at 2.05 V or above. -/
def violClear (m : Nat) : Int × Int :=
  if m < 10 then ((railWindow m).1, (railWindow m).2)
  else if m = 10 then (-880, 1968)
  else if m = 11 then (-848, 2000)
  else (2050, 4095)

/-- The registers that show what a monitor measures take a value: a rail's voltage, the temperature with its extremes, VBAT
(R457, R459). -/
def State.violShow (s : State) (m value : Nat) : State :=
  if m < 10 then s.wr (VM_RAIL_MV m) (BitVec.ofNat 32 value)
  else if m = 10 ∨ m = 11 then s.showTemp (signedField 16 value)
  else if m = 14 then s.wr BAT_VBAT_MV (BitVec.ofNat 32 value)
  else s

/-- An episode begins (R37, R154, R458): counted once, recorded, and logged; in KEEP no record is sent. Its value locates an
analogue pin (R247). -/
def State.violStart (s : State) (m value cause : Nat) : State :=
  if !s.violRuns m || (s.log.episodes.lookup m).isSome || (s.dev.timed && !violMet m value (s.now - cause)) then s else
  let s := { s with log := { s.log with episodes := s.log.episodes.set m (s.elapsed - (s.now - cause)) } }
  let s := (s.inc (cnt16 (KEEP_VIOL m))).keepWritten (8 + m)
  let s := (s.p BAT_VIOL_LAST_index m).p BAT_VIOL_LAST_state s.dev.code
  let s := s.wr64 BAT_VIOL_TT_LO (BitVec.ofNat 64 (if s.dev.timed then cause else 0))
  let s := s.violShow m value
  let s := s.when (m == 14) (fun s => s.pb BAT_STAT_vbat_low true)
  let s := s.when (m == 13) (fun s => s.pb BAT_STAT_aoclk_ok false)
  let s := s.when (m == 15 && decide (value < 96)) (fun s => s.pb (AMX_AP_CTL_ov value) true)
  let s := s.event 0x3C 0 (BitVec.ofNat 32 (value * 65536 + s.dev.code * 256 + m)) cause
  -- A count of the REFCLK monitor is a loss condition of PPS+FREQ (source table, R61).
  s.when (m == 12 && s.servoOn) (fun s => s.loseSource 2 cause)

/-- An episode ends, its monitor measuring a free value that ends it, and its length is recorded (R457, R458). -/
def State.violEnd (s : State) (m : Nat) : State :=
  match s.log.episodes.lookup m with
  | none => s
  | some t =>
    if s.dev.timed && !violOver m (s.elapsed - t) then s else
    let (v, s) := s.drawInt (violClear m).1 (violClear m).2
    let s := s.violShow m (v % 65536).toNat
    let s := { s with log := { s.log with episodes := s.log.episodes.filter (fun e => e.1 != m) } }
    let s := s.when (m == 14) (fun s => s.pb BAT_STAT_vbat_low false)
    let s := s.when (m == 13) (fun s => s.pb BAT_STAT_aoclk_ok true)
    (s.p VM_LAST_LEN_monitor m).p VM_LAST_LEN_us (min ((s.elapsed - t) / usNs) 268435455)

/-- A second of AOCLK passes in the battery domain (R157): the KEEP words are scrubbed (R152), the seconds are counted
while enabled, and the slow monitors sample. -/
def State.aoSecond (s : State) : State :=
  if s.dev = .off then s else
  let s := s.scrubKeep
  let s := if !s.bit BAT_CTL_sec_en then s else
    let n := (s.rd64 KEEP_AO_SEC_LO).toNat + 1
    ((s.wr64 KEEP_AO_SEC_LO (BitVec.ofNat 64 (n % 2 ^ 48))).keepWritten 4).keepWritten 5
  let s := s.when (s.log.episodes.lookup 13).isNone (fun s => s.pb BAT_STAT_aoclk_ok true)
  -- VBAT below 2.0 V comes with the start of its episode (R457).
  let (v, s) := s.drawIn (if (s.log.episodes.lookup 14).isSome then 0 else 2000) 4095
  let s := s.wr BAT_VBAT_MV (BitVec.ofNat 32 v)
  let (v, s) := s.drawIn 0 4095
  let s := s.wr BAT_VDDAO_MV (BitVec.ofNat 32 v)
  if !s.dev.powered then s else
  let (v, s) := s.draw
  let s := s.wr VM_AOCLK_PPM (v.truncate 32)
  let (v, s) := s.draw
  s.wr VM_REFCLK_PPM (v.truncate 32)

end Sys2Proof.Machine
end

