-- ==== Sys2Proof/Machine/Writes.lean ====
section
/-! DEFINITION. A write of one register, whoever makes it: the judgement of access codes, encodings, ownership and
the owning chapters' own rules (R15–R18, R91, R92, R345, R513), and what the write brings about. -/

namespace Sys2Proof.Machine

/-- How a write is answered. `fence` and `housekeeping` are reasons of cues alone; for an observer both answers are
ACCESS. -/
inductive Why where
  | ok | busy | access | encoding | sealed | state | fence | housekeeping
  deriving DecidableEq, Repr

/-- The observer status code (R467). -/
def Why.status : Why → Nat
  | .ok => 0
  | .busy => 1
  | .encoding => 6
  | .sealed => 7
  | .state => 9
  | _ => 5

/-- The reason code of a rejected cue (R128). -/
def Why.reason : Why → Nat
  | .fence => whyFence
  | .housekeeping => whyHousekeeping
  | .encoding => whyEncoding
  | _ => whyAccess

/-- Who writes: an observer access, a cue with its service and action code, or a record of the image. -/
inductive Writer where
  | observer
  | cue (svc act : Nat)
  | image
  deriving DecidableEq, Repr

/-- Whether a writer is a cue. -/
def Writer.isCue : Writer → Bool
  | .cue _ _ => true
  | _ => false

/-! ### Fields -/

/-- The register that holds the word of a mirrored address: a register of a group of line ports, of a quad, of the
carousel or of the member, which every instance of its block shows. -/
def homeOf (a : Nat) : Nat :=
  match locate a with
  | some (.lp, i, 0x018) => LP_GROUP_CTL (i / 4 * 4)
  | some (.ac, i, 0x068) => AC_QUAD_CTL (i / 4 * 4)
  | some (.ac, i, 0x06C) => AC_QUAD_STAT (i / 4 * 4)
  | some (.se, _, off) => if 0x044 ≤ off ∧ off ≤ 0x050 then 0x400000 + off else a
  | some (.ax, _, off) => if 0x090 ≤ off ∧ off ≤ 0x0BC then 0x700000 + off else a
  | _ => a

/-- The fields of the register at an address; a mirror of a register is read-only (R398, R312). SYS_KA3 holds bits of
two kinds (R145), and mgmt_rx and bulk_rx are reserved in AX1_CTL to AX3_CTL (R398). -/
def regFields (a : Nat) : List FieldDesc :=
  if a = SYS_KA 3 then [⟨30, 5, .rwl, []⟩, ⟨4, 0, .rw, []⟩]
  else if a = AX_CTL 1 ∨ a = AX_CTL 2 ∨ a = AX_CTL 3 then [⟨31, 31, .rw, []⟩, ⟨30, 30, .rwl, []⟩, ⟨27, 24, .rwl, []⟩]
  else if homeOf a ≠ a then [⟨31, 0, .ro, []⟩]
  else match rowOf a with
    | some r => r.fields
    | none => []

/-- The bits of a field. -/
def FieldDesc.mask (f : FieldDesc) : W32 := BitVec.ofNat 32 (2 ^ (f.hi + 1) - 2 ^ f.lo)

/-- The value that a word holds in a field. -/
def FieldDesc.of (f : FieldDesc) (w : W32) : Nat := bitsOf w f.hi f.lo

/-- Whether a field's value is one that its table lists (R18). -/
def FieldDesc.lists (f : FieldDesc) (v : Nat) : Bool :=
  f.admits.isEmpty || f.admits.any (fun r => decide (r.1 ≤ v) && decide (v ≤ r.2))

/-- Whether an access code marks a field that only the image writes (code L). -/
def Acc.isL : Acc → Bool
  | .rwl | .rol | .wol => true
  | _ => false

/-- Whether an access code refuses every write (RO, RC). -/
def Acc.fixed : Acc → Bool
  | .ro | .rc => true
  | _ => false

/-- The word that a write leaves in a register (R15, R513): written values in RW fields, bits cleared in W1C fields,
0 in WO fields. `img` lets L fields be written. -/
def newWord (img : Bool) (fs : List FieldDesc) (old v mask : W32) : W32 :=
  fs.foldl (fun w f =>
    let m := f.mask &&& mask
    match f.acc with
    | .rw => (w &&& ~~~m) ||| (v &&& m)
    | .rwl | .rol => if img then (w &&& ~~~m) ||| (v &&& m) else w
    | .w1c => w &&& ~~~(v &&& m)
    | _ => w) old

/-- The written values of WO fields. -/
def actWord (fs : List FieldDesc) (v mask : W32) : W32 :=
  fs.foldl (fun w f => match f.acc with
    | .wo | .wol => w ||| (v &&& f.mask &&& mask)
    | _ => w) 0

/-- Whether the access codes of a register refuse a write (R15, R16, R513). -/
def accessRefuses (w : Writer) (fs : List FieldDesc) (old v mask : W32) : Bool :=
  if fs.all (fun f => f.acc.fixed) then true
  else if w = .image then false
  else
    fs.any (fun f => f.acc == .wol) ||
    fs.any (fun f => f.acc.isL && (old ^^^ v) &&& f.mask &&& mask != 0) ||
    (w.isCue && mask != 0 && (fs.foldl (fun m f => if f.acc.fixed then m &&& ~~~f.mask else m) mask == 0))

/-- Whether a write would place a reserved encoding in a field that it writes (R18). -/
def encodingRefuses (w : Writer) (fs : List FieldDesc) (old v mask : W32) : Bool :=
  fs.any (fun f => !f.acc.fixed && f.acc != .w1c && (w = .image || !f.acc.isL) && f.mask &&& mask != 0 &&
    !f.lists (f.of ((old &&& ~~~mask) ||| (v &&& mask))))

/-! ### Owners -/

/-- Whether a cue of a service may change resources of the given owners, those of other services first (R92). -/
def ownersOk (svc : Nat) (l : List Owner) : Why :=
  if l.any (fun o => match o with | .svc n => n != svc | .pool => false) then .fence
  else if l.contains .pool then .housekeeping
  else .ok

/-- The owners of the line-port directions that a write of a register concerns: those whose part changes, else those
that are claimed (R342, R50). -/
def State.lpOwners (s : State) (p off : Nat) (old new v mask : W32) : List Owner :=
  let rx := s.ownerOf kLpRx p
  let tx := s.ownerOf kLpTx p
  let claimed := match [rx, tx].filter (· != .pool) with | [] => [.pool] | l => l
  let parts (r t : Bool) : List Owner := match r, t with
    | true, true => [rx, tx] | true, false => [rx] | false, true => [tx] | false, false => claimed
  if off = 0x000 then
    let m := old.toNat % 8
    let m' := new.toNat % 8
    let r (m : Nat) : Nat := if m = 4 then 2 else if m = 1 ∨ m = 3 then 1 else 0
    parts (r m != r m') (([2, 3].contains m) != [2, 3].contains m')
  else if off = 0x090 then
    let d := old ^^^ new
    parts (d &&& 0x32 != 0) (d &&& 0x31 != 0)
  else if off = 0x038 then
    let d := v &&& mask
    parts (d &&& 0x1F != 0) (d &&& 0x1E0 != 0)
  else [s.regOwner (LP_MODE_CTL p + off)]

/-- The owner of a task slot of an engine's registers: its descriptor's service (R344); an unused slot is in the
pool. -/
def State.slotOwner (s : State) (n slot : Nat) : Owner :=
  match s.task (n, slot) with | some t => .svc t.service | none => .pool

/-- The owner of a script entry: its template's service (R344). -/
def State.scriptOwner (s : State) (e : Nat) : Owner :=
  match s.script e with | some x => .svc (recSvc x.template) | none => .pool

/-- The judgement of ownership for a cue of a service on a register (R92, R145, R344, R428). -/
def State.cueOwns (s : State) (svc act a : Nat) (old new v mask : W32) : Why :=
  let setClear := act == 2 || act == 3
  match locate a with
  | some (.sys, _, off) =>
    if setClear && [0x040, 0x044, 0x048].contains off && (off != 0x048 || mask.toNat < 65536) then
      let dirs (p : Nat) : List Owner := match [s.ownerOf kLpRx p, s.ownerOf kLpTx p].filter (· != .pool) with
        | [] => [.pool] | l => l
      ownersOk svc ((bitList mask).flatMap (fun i =>
        if off = 0x040 then dirs i else [s.ownerOf kQuad ((i + (if off = 0x048 then 32 else 0)) / 4)]))
    else .housekeeping
  | some (.cue, _, off) =>
    if setClear && decide (0x080 ≤ off) && decide (off < 0x100) &&
        (bitList mask).all (fun i => s.scriptOwner (8 * (off - 0x080) + i) == .svc svc) then .ok
    else .housekeeping
  | some (.se, n, off) =>
    if 0x004 ≤ off ∧ off < 0x01C then
      let bits := if off < 0x014 then (if setClear then mask else old ^^^ new) else v &&& mask
      match bitList bits with
      | [] => if (s.se.tasks.any (fun t => t.id.1 == n && t.service == svc)) then .ok else .housekeeping
      | l => ownersOk svc (l.map (fun i => s.slotOwner n (32 * ((off - 4) / 4 % 2) + i)))
    else .housekeeping
  | some (.lp, p, off) => ownersOk svc (s.lpOwners p off old new v mask)
  | some (.gp, b, off) =>
    let d := old ^^^ new
    let pins := if off = 0x0C then [] else
      if off < 0x0C then (bitList d).map (fun i => i % 16)
      else if off = 0x10 then (bitList d).map (fun i => i / 2)
      else if off = 0x14 then (bitList d).map (fun i => i % 16)
      else if off < 0x28 then (bitList d).map (fun i => 4 * ((off - 0x18) / 4) + i / 8)
      else bitList (v &&& mask)
    if off = 0x0C then .housekeeping
    else match pins with
      | [] => if (List.range 16).any (fun i => s.ownerOf kGpio (16 * b + i) == .svc svc) then .ok else .housekeeping
      | l => ownersOk svc (l.map (fun i => s.ownerOf kGpio (16 * b + i)))
  | some (.gpio, _, off) =>
    if off = 0xAC ∨ off = 0xB0 then
      ownersOk svc (match bitList (v &&& mask) with | [] => [.pool] | l => l.map (fun i => s.ownerOf kPel i))
    else ownersOk svc [s.regOwner a]
  | some (.sv, i, _) => if i = svc then .access else .fence
  | _ => ownersOk svc [s.regOwner a]

/-- The owner of a stream. -/
def State.dsOwner (s : State) (d : Nat) : Owner := .svc (s.g (DS_CTL_service d))

/-- The name of a ring channel (kind 1) or a stream (kind 2) in a setting of an owner; a channel without a producer is free
to be named (R258, R305). -/
def State.linkName (s : State) (own : Owner) (kind idx : Nat) : List (Owner × Owner) :=
  if kind = 1 then [(own, s.ringOwner idx)]
  else if kind = 2 then [(own, s.dsOwner idx)] else []

/-- The names of other resources that a write sets anew: the owner of the setting and the owner of what it names
(R345, R346). In LOAD, channels and streams have no owner yet; the loader judges their names when the sections that give
the owners have been applied (DEDUCED, notes/assumptions/15). A name that stays as it is is judged where the written
register is in use, so that a resource is enabled with no name of another service in it (DEDUCED,
notes/assumptions/49). -/
def State.namesOf (s : State) (a : Nat) (old new : W32) : List (Owner × Owner) :=
  let used (on : Bool) (f : Fld) (l : List (Owner × Owner)) : List (Owner × Owner) :=
    if f.of old = f.of new && !on then [] else l
  let ch := used false
  let link (own : Owner) (kind idx : Nat) : List (Owner × Owner) :=
    if s.dev == .load then [] else s.linkName own kind idx
  match locate a with
  | some (.sys, _, 0x024) => ch SYS_DRAIN_CTL_rg [(.pool, s.ownerOf kRg (SYS_DRAIN_CTL_rg.of new))]
  | some (.cue, _, 0x000) => ch CUE_CTL_late_rg [(.pool, s.ownerOf kRg (CUE_CTL_late_rg.of new))]
  | some (.tb, _, off) =>
    if off = 0x060 then
      ch TB_GEN_CTL_cell [(.pool, s.ownerOf kQuad (TB_GEN_CTL_cell.of new / 4))] ++
      ch TB_GEN_CTL_wm [(.pool, s.ownerOf kWm (TB_GEN_CTL_wm.of new))]
    else if 0x200 ≤ off then
      let n := (off - 0x200) / 4
      used ((TB_BT_CTL_enable n).of new == 1) (TB_BT_CTL_rg n) [(s.ownerOf kBt n, s.ownerOf kRg (btRg new))]
    else []
  | some (.lp, p, off) =>
    let rx := s.ownerOf kLpRx p
    let tx := s.ownerOf kLpTx p
    let m := new.toNat % 8
    if off = 0x000 then
      (if [1, 3].contains m then [(rx, s.ownerOf kRg (s.g (LP_RX_CTL_rg p)))] else []) ++
        (if [2, 3].contains m then [(tx, s.ownerOf kRg (s.g (LP_TX_CTL_rg p)))] else [])
    else if off = 0x004 then
      used ([1, 3].contains (s.g (LP_MODE_CTL_mode p))) (LP_RX_CTL_rg p) [(rx, s.ownerOf kRg ((LP_RX_CTL_rg p).of new))]
    else if off = 0x008 then
      used ([2, 3].contains (s.g (LP_MODE_CTL_mode p))) (LP_TX_CTL_rg p) [(tx, s.ownerOf kRg ((LP_TX_CTL_rg p).of new))]
    else if off = 0x00C then
      let k := (LP_TX_SRC_kind p).of new
      let i := (LP_TX_SRC_index p).of new
      ch ⟨LP_TX_SRC p, 11, 0⟩ (if k = 3 then [(tx, s.ownerOf kLpRx i)] else link tx k i)
    else if off = 0x010 then
      ch ⟨LP_RX_DEST p, 11, 0⟩ (link rx ((LP_RX_DEST_kind p).of new) ((LP_RX_DEST_index p).of new))
    else []
  | some (.ac, c, 0x000) => used ((AC_CTL_enable c).of new == 1) (AC_CTL_key_bt c) [(s.ownerOf kQuad (c / 4), s.ownerOf kBt ((AC_CTL_key_bt c).of new))]
  | some (.amx, _, off) =>
    if off < 0x040 then
      let own := s.ownerOf kBus (off / 4)
      let v := new.toNat % 256
      ch ⟨a, 7, 0⟩ (if v = 0 then [] else if v < 0x80 then [(own, s.ownerOf kPin (v - 1))]
        else [(own, s.ownerOf kQuad ((v - 0x80) / 4))])
    else if off < 0x080 then
      let k := (off - 0x040) / 4
      ch (AMX_AB_TIME_rg k) [(s.ownerOf kBus k, s.ownerOf kRg ((AMX_AB_TIME_rg k).of new))]
    else if 0x100 ≤ off ∧ off < 0x280 then
      let n := (off - 0x100) / 4
      let own := s.ownerOf kPin n
      let d := (AMX_AP_CTL_drv n).of new
      let same := d = (AMX_AP_CTL_drv n).of old ∧ (AMX_AP_CTL_use n).of new ≠ 2
      if same then [] else if 16 ≤ d then [(own, s.ownerOf kBus (d - 16))]
      else if (AMX_AP_CTL_use n).of new = 2 then [(own, s.ownerOf kQuad (n / 8))] else []
    else if 0x280 ≤ off then
      let c := (off - 0x280) / 4
      let own := s.ownerOf kQuad (c / 4)
      let v := new.toNat % 64
      ch ⟨a, 5, 0⟩ (if v = 1 ∨ v = 2 then [(own, s.ownerOf kPin (2 * c + v - 1))]
        else if 16 ≤ v then [(own, s.ownerOf kBus (v - 16))] else [])
    else []
  | some (.wm, m, 0x0) =>
    let own := s.ownerOf kWm m
    let idx := (WM_CTL_src_idx m).of new
    let on := (WM_CTL_enable m).of new == 1
    used (on && (WM_CTL_bl_en m).of new == 1) (WM_CTL_bt m) [(own, s.ownerOf kBt ((WM_CTL_bt m).of new))] ++
    used on ⟨WM_CTL m, 15, 0⟩ [(own, if (WM_CTL_src_kind m).of new = 0 then s.ownerOf kPin idx else s.ownerOf kQuad (idx / 4))]
  | some (.fc, c, 0x004) =>
    ch ⟨FC_LINK c, 11, 0⟩ (link (s.ownerOf kQuad (c / 4)) ((FC_LINK_kind c).of new) ((FC_LINK_index c).of new))
  | some (.gpio, _, off) =>
    if off < 0x40 then
      let k := off / 4
      used ((PEL_CTL_enable k).of new == 1) (PEL_CTL_bank k) [(s.ownerOf kPel k, s.ownerOf kGpio (pelPin new k))]
    else []
  | _ => []

/-- Whether a write breaks a rule on the names of other services (R193, R345, R346, R423). -/
def State.namesRefuse (s : State) (a : Nat) (old new : W32) : Bool :=
  (s.namesOf a old new).any (fun x => !x.1.mayName x.2) ||
  (match locate a with
   | some (.lp, p, 0x000) => new.toNat % 8 == 4 && old.toNat % 8 != 4 && s.ownerOf kLpTx (partner p) != s.ownerOf kLpRx p
   | some (.gp, b, off) => decide (0x18 ≤ off) && decide (off < 0x28) && s.fselFenced b ((off - 0x18) / 4) new
   | _ => false)

/-! ### The rules of the owning chapters -/

/-- A signed field of ten bits. -/
def signed10 (f : Fld) (w : W32) : Int := signedField 10 (f.of w)

/-- The sum of the quotas with one of them written (R350). -/
def State.quotaSum (s : State) (n q : Nat) : Nat :=
  ((List.range 256).map (fun i => if i = n then q else s.g (SV_CTL_quota i))).foldl (· + ·) 0

/-- Whether a value written to RGn_CTL or RGn_OFFSET breaks R78. -/
def rasterRefuses (ctl off : W32) : Bool :=
  match formatOf (ctl.toNat % 64) with
  | none => ctl.toNat % 64 != 0
  | some f => decide ((f.periodNs : Int) ≤ off.toInt) || decide (off.toInt ≤ -(f.periodNs : Int))

/-- Whether a new value breaks a rule of its owning chapter that refuses it whole, as R18 does. `act` holds the
written values of WO fields. -/
def State.ruleRefuses (s : State) (w : Writer) (a : Nat) (old new act mask : W32) : Bool :=
  match locate a with
  | some (.sys, _, off) =>
    if 0x070 ≤ off ∧ off < 0x088 then
      let k := (off - 0x070) / 4
      decide ((SYS_SLEEP_CTL_dly_max k).of new < (SYS_SLEEP_CTL_dly_min k).of new)
    else false
  | some (.tb, _, off) =>
    if off = 0x014 then
      let l := ([0, 3, 6, 9].map (fun i => new.toNat / 2 ^ i % 8)).filter (· != 0)
      !decide l.Nodup
    else if 0x02C ≤ off ∧ off < 0x038 then
      let i := (off - 0x02C) / 4
      let hi := (TB_SERVO_WIN_bw_max i).of new
      decide (servoHw (i + 1) < (hi : Int)) || decide (hi < (TB_SERVO_WIN_bw_min i).of new)
    else if 0x100 ≤ off ∧ off < 0x180 then
      let n := (off - 0x100) / 8
      if off % 8 = 0 then rasterRefuses new (s.rd (TB_RG_OFFSET n)) else rasterRefuses (s.rd (TB_RG_CTL n)) new
    else false
  | some (.cue, _, 0x010) => decide (7 < act.toNat % 8 + bitsOf act 10 8)
  | some (.lp, p, off) => s.lpRefuses p off new mask ||
      ((off == 0x004 && old != new || off == 0x010 || off == 0x000) && !(s.wr a new).ringOk)
  | some (.ac, c, off) =>
    (off == 0x014 && decide (signed10 (AC_DCR_CTL_dcr_max c) new < signed10 (AC_DCR_CTL_dcr_min c) new)) ||
    (off == 0x000 && !(s.wr a new).ringOk)
  | some (.wm, m, off) => s.monRefuses m off new
  | some (.fc, c, off) =>
    if off = 0x000 then
      let p := (FC_CTL_preset c).of new
      (p == 3 && p != (FC_CTL_preset c).of old && s.bit (AC_QUAD_CTL_family (c / 4 * 4))) ||
        (FC_CTL_resp c).of new / 4 != p || !(s.wr a new).ringOk
    else if off = 0x004 then
      ((FC_LINK_kind c).of new == 1 && decide (256 ≤ (FC_LINK_index c).of new)) || !(s.wr a new).ringOk
    else off == 0x00C && decide (signed10 (FC_DCB_CTL_dcb_max c) new < signed10 (FC_DCB_CTL_dcb_min c) new)
  | some (.se, n, off) =>
    if off = 0x004 ∨ off = 0x008 then
      w != .image && (s.taskRefuses n ((off - 0x004) / 4) false new || !(s.wr a new).ringOk)
    else if off = 0x00C ∨ off = 0x010 then w != .image && s.taskRefuses n ((off - 0x00C) / 4) true new
    else if off = 0x044 then decide ((SE_CAR_CTL_d_max 0).of new < (SE_CAR_CTL_d_min 0).of new)
    else false
  | some (.sv, n, 0x0) => decide (4096 < s.quotaSum n ((SV_CTL_quota n).of new))
  | some (.gp, b, off) =>
    if off = 0x10 then (List.range 16).any (fun i => new.toNat / 4 ^ i % 4 == 3)
    else decide (0x18 ≤ off) && decide (off < 0x28) && fselReserved b ((off - 0x18) / 4) new
  | some (.el, _, off) =>
    if off = 0x00C then s.tailBad new
    else if off = 0x034 then s.collectBad (s.rd EL_COLLECT_BASE).toNat (EL_COLLECT_CTL_size.of new)
    else if off = 0x038 then s.collectBad new.toNat (s.g EL_COLLECT_CTL_size)
    else false
  | some (.ds, d, 0x00) => w != .image && new.getLsbD 31 && !old.getLsbD 31 && decide (400000 < s.resSum d true)
  | _ => false

/-- A write that its register's access code, or a rule of its chapter, refuses in the present state (R153, R176,
R178, R181, R252, R408, R419): the answer, and what the device counts. -/
def State.gate (s : State) (w : Writer) (a : Nat) (old new v mask act : W32) : Why × State :=
  if w = .image then (.ok, s) else
  let batRefused : Why × State := (.access, s.inc (cnt16 BAT_WR_REFUSE_CNT))
  let chan : State := s.inc (cnt16 CFG_CHAN_REFUSE_CNT)
  match locate a with
  | some (.bat, _, off) =>
    if (off = 0x080 ∨ off = 0x084) ∧ !(s.dev == .inert || s.dev == .standby || s.dev == .inspect) then batRefused
    else if 0x0E0 ≤ off ∧ off < 0x100 ∧ s.bitOf BAT_USER_LOCK ((off - 0x0E0) / 4) then batRefused
    else (.ok, s)
  | some (.cfg, _, off) =>
    if off = 0x0F0 then
      if s.sealed then (.sealed, chan)
      else if s.dev = .inspect ∧ s.bit CFG_CHAN_CTL_en then (.ok, s)
      else (.state, chan)
    else (.ok, s)
  | some (.fc, c, 0x000) =>
    if (FC_CTL_preset c).of old ≠ (FC_CTL_preset c).of new ∧ s.bit (AC_CTL_enable c) then (.access, s) else (.ok, s)
  | some (.qc, k, 0x0) =>
    let fixed := (old ^^^ v) &&& mask &&& 0xEC000000 != 0
    if fixed ∨ (act.getLsbD 28 ∧ !s.isFifo k) then (.access, s.pb (QC_STAT_refused k) true) else (.ok, s)
  | _ => (.ok, s)

/-! ### What a write brings about -/

/-- A loop's setting has been written, or the loop frozen, so an update of its loop at this instant is discarded (R33,
R34). -/
def State.seed (s : State) (stat : Nat) : State := { s with seeded := s.seeded.set stat (s.elapsed + 1) }

/-- A loop's setting takes a written value, and the loop's update of this instant is discarded (R33, R34). -/
def State.seedLoop (s : State) (set : Fld) (v stat cnt : Nat) : State :=
  ((s.loopUndo set stat cnt false).p set v).seed stat

/-- A loop enters FROZEN: it holds the setting of its last update before this instant (R34). -/
def State.freezeLoop (s : State) (set : Fld) (stat cnt : Nat) : State := (s.loopUndo set stat cnt true).seed stat

/-- A written setting is clamped into the window, or while the loop is FROZEN into the hardware range (R33). -/
def seedClamp (mode : Nat) (win hw : Int × Int) (v : Int) : Int :=
  let b := if mode = 2 then hw else win
  clampInt b.1 b.2 v

/-- The windows of the loops other than the equalizer and the servo in BOUNDED mode. -/
def loopWindow (mode : Nat) (hw win : Int × Int) : Int × Int := if mode = 1 then win else hw

/-- Writes of the system block. -/
def State.sysWritten (s : State) (off : Nat) (old : W32) : State :=
  if 0x040 ≤ off ∧ off < 0x050 then
    let k := (off - 0x040) / 4
    s.each ((bitList (s.rd (SYS_KA k) &&& ~~~old)).filter (fun i => decide (32 * k + i < 127)))
      (fun s i => s.wakeUsed (32 * k + i))
  else if 0x070 ≤ off ∧ off < 0x088 then
    let k := (off - 0x070) / 4
    s.when (s.g (SYS_SLEEP_CTL_mode k) == 2) (fun s =>
      s.freezeLoop (SYS_SLEEP_DLY_d k) (SYS_SLEEP_STAT k) (SYS_SLEEP_BOUND_CNT k))
  else if 0x088 ≤ off ∧ off < 0x0A0 then
    let k := (off - 0x088) / 4
    let m := s.g (SYS_SLEEP_CTL_mode k)
    let hw : Int × Int := (1, 1023)
    let v := seedClamp m (loopWindow m hw (s.g (SYS_SLEEP_CTL_dly_min k), s.g (SYS_SLEEP_CTL_dly_max k))) hw
      (s.g (SYS_SLEEP_DLY_d k))
    s.seedLoop (SYS_SLEEP_DLY_d k) v.toNat (SYS_SLEEP_STAT k) (SYS_SLEEP_BOUND_CNT k)
  else s

/-- A time-of-day value is taken (R56, R67, R68): it steps TT where TT is not valid, else, under OBSERVER, it is the phase
target that TT is slewed to. -/
def State.todApply (s : State) (tod : BitVec 64) : State :=
  let err : Int := 256 * ((s.now : Int) - (tod.toNat : Int))
  let s := s.refEvent 4 err true true
  if s.activeSrc = 4 ∧ s.ttValid then
    { s with tb := { s.tb with phaseTarget := ((tod.toNat : Int) - (s.now : Int)) * (secNs : Int) } }
  else s

/-- A write of TB_TOD_CTL.arm (R68). In STANDBY, where no source is taken, it has no effect (DESIGN CHOICE,
notes/assumptions/27). -/
def State.todArmed (s : State) : State :=
  if !s.servoOn then s else
  let v := s.rd64 TB_TOD_LO
  if s.bit TB_TOD_CTL_at_pps then
    { s with tb := { s.tb with tod := some (v, s.elapsed) } }.pb TB_TOD_CTL_armed true
  else ({ s with tb := { s.tb with tod := none } }.pb TB_TOD_CTL_armed false).todApply v

/-- Writes of the timebase block. -/
def State.tbWritten (s : State) (off : Nat) (act : W32) : State :=
  if off = 0x014 then s.when s.servoOn (fun s => s.selectSource s.now)
  else if off = 0x020 then s.when (s.g TB_SERVO_CTL_mode == 2) (fun s =>
    s.freezeLoop TB_SERVO_BW_b TB_SERVO_STAT TB_SERVO_BOUND_CNT)
  else if off = 0x028 then
    let c := s.activeSrc
    let v := seedClamp (s.g TB_SERVO_CTL_mode) (s.servoWindow c) (0, servoHw c) (s.g TB_SERVO_BW_b)
    s.seedLoop TB_SERVO_BW_b v.toNat TB_SERVO_STAT TB_SERVO_BOUND_CNT
  else if off = 0x054 then s.when (act.getLsbD 0) (fun s => s.todArmed)
  else if 0x100 ≤ off ∧ off < 0x180 then
    let s := s.rgChanged ((off - 0x100) / 8)
    s.each (List.range 48) (fun s c => s.gridCheck c)
  else if 0x200 ≤ off then (s.btChanged ((off - 0x200) / 4)).blankAll
  else s

/-- Mailbox slots `first` to `first + count` are submitted (R127, R129). -/
def State.submitSlots (s : State) (first count : Nat) : State :=
  let l := (List.range (count + 1)).map (fun i => first + i)
  let s := s.each l (fun s k => s.p (mbxStat k) 1)
  { s with cue := { s.cue with mailbox := s.cue.mailbox ++ [l] } }

/-- Writes of the cue engine's block. -/
def State.cueWritten (s : State) (off : Nat) (old act : W32) : State :=
  if off = 0x010 then s.submitSlots (act.toNat % 8) (bitsOf act 10 8)
  else if 0x080 ≤ off ∧ off < 0x100 then
    let i := (off - 0x080) / 4
    let new := s.rd (CUE_SCRIPT_EN i)
    let s := s.each (bitList (old &&& ~~~new)) (fun s b => s.disableScript (32 * i + b))
    s.each (bitList (new &&& ~~~old)) (fun s b => s.when s.intakeOpen (fun s => s.enableScript (32 * i + b)))
  else s

/-- Writes of a line-port block. A ROUTE cue takes effect at its switching line, so its source is in force at once where
that line has begun (R211). -/
def State.lpWritten (s : State) (p off : Nat) (old : W32) (w : Writer) : State :=
  if off = 0x00C then
    match w with
    | .cue _ 0x5 =>
      s.when ((s.rg (s.g (LP_TX_CTL_rg p))).switchingLine) (fun s =>
        s.setLp p { s.lpSt p with src := s.rd (LP_TX_SRC p) })
    | _ => s
  else if off = 0x000 then
    s.lpSettle p w.isCue
  else if off = 0x004 then
    (s.when (s.lpReceives p && old.toNat % 16 != s.g (LP_RX_CTL_rate p)) (fun s => s.startSearch p)).lpSettle p false
  else if off = 0x008 ∨ off = 0x030 then s.lpSettle p w.isCue
  else if off = 0x02C then s.keepWritten (32 + p)
  else if off = 0x01C then s.when (s.g (LP_EQ_CTL_mode p) == 2) (fun s =>
    s.freezeLoop (LP_EQ_SET_code p) (LP_EQ_STAT p) (LP_EQ_BOUND_CNT p))
  else if off = 0x020 then
    let w := s.eqWindow p
    let v := seedClamp (s.g (LP_EQ_CTL_mode p)) (w.1, w.2) (0, eqMaxCode (s.lpRate p)) (s.g (LP_EQ_SET_code p))
    s.seedLoop (LP_EQ_SET_code p) v.toNat (LP_EQ_STAT p) (LP_EQ_BOUND_CNT p)
  else s

/-- Writes of a cell's block. -/
def State.acWritten (s : State) (c off : Nat) (old mask : W32) (cue : Bool) : State :=
  if off = 0x000 then
    let s := s.when (!s.bit (AC_CTL_enable c)) (fun s => (s.cellStops c).tapsDie c)
    let s := s.setCell c { s.cellSt c with
      keyedFrom := if s.bit (AC_CTL_enable c) && (s.bt (s.g (AC_CTL_key_bt c))).open_ then
          some ((s.cellSt c).keyedFrom.getD s.elapsed) else none }
    let s := s.when (!old.getLsbD 31 && s.bit (AC_CTL_enable c) && s.isReady (rAc c)) (fun s => s.cellReady c)
    (s.wakeUsed (rAc c)).gridCheck c
  else if off = 0x008 then s.gainWritten c mask
  else if off = 0x010 then s.when (s.rd (AC_FILT_CTL c) != old && s.dev != .load) (fun s => s.filtWritten c cue)
  else if off = 0x014 then s.when (s.g (AC_DCR_CTL_mode c) == 2) (fun s =>
    s.freezeLoop (AC_DCR_SET_offset c) (AC_DCR_STAT c) (AC_DCR_BOUND_CNT c))
  else if off = 0x01C then
    let m := s.g (AC_DCR_CTL_mode c)
    let hw : Int × Int := (-512, 511)
    let w := loopWindow m hw (signed10 (AC_DCR_CTL_dcr_min c) (s.rd (AC_DCR_CTL c)),
      signed10 (AC_DCR_CTL_dcr_max c) (s.rd (AC_DCR_CTL c)))
    let v := seedClamp m w hw (signed10 (AC_DCR_SET_offset c) (s.rd (AC_DCR_SET c)))
    s.seedLoop (AC_DCR_SET_offset c) (v % 1024).toNat (AC_DCR_STAT c) (AC_DCR_BOUND_CNT c)
  else s

/-- Writes of a chain's block. -/
def State.fcWritten (s : State) (c off : Nat) (old : W32) : State :=
  if off = 0x000 then
    let s := s.when (s.isReady (rAc c)) (fun s => s.p (FC_STAT_preset c) (s.g (FC_CTL_preset c)))
    let s := s.when ((FC_CTL_dcb_en c).of old == 0) (fun s =>
      s.setChain c { s.chain c with dcbCount := 0, dcbSum := 0, dcbMarked := false, dcbDue := none })
    s.gridCheck c
  else if off = 0x00C then s.when (s.g (FC_DCB_CTL_mode c) == 2) (fun s =>
    s.freezeLoop (FC_DCB_SET_e c) (FC_DCB_STAT c) (FC_DCB_BOUND_CNT c))
  else if off = 0x010 then
    let m := s.g (FC_DCB_CTL_mode c)
    let hw : Int × Int := (-131072, 131071)
    let w := loopWindow m hw (256 * signed10 (FC_DCB_CTL_dcb_min c) (s.rd (FC_DCB_CTL c)),
      256 * signed10 (FC_DCB_CTL_dcb_max c) (s.rd (FC_DCB_CTL c)))
    let v := seedClamp m w hw (signedField 18 (s.g (FC_DCB_SET_e c)))
    s.seedLoop (FC_DCB_SET_e c) (v % 262144).toNat (FC_DCB_STAT c) (FC_DCB_BOUND_CNT c)
  else s

/-- Writes of an engine's block. A cue's quantum for the task registers is the line start itself (R291). -/
def State.seWritten (s : State) (n off : Nat) (old act : W32) (cue : Bool) : State :=
  if 0x004 ≤ off ∧ off < 0x014 then
    let d := old ^^^ s.rd (0x400000 + 0x1000 * n + off)
    s.taskChanged n (if cue then (bitList d).map (fun i => 32 * ((off - 4) / 4 % 2) + i) else [])
  else if off = 0x014 ∨ off = 0x018 then s.cancelWrite n ((off - 0x014) / 4) act
  else if off = 0x044 then s.when (s.g (SE_CAR_CTL_mode 0) == 2) (fun s =>
    s.freezeLoop (SE_CAR_DWELL_d 0) (SE_CAR_STAT 0) (SE_CAR_BOUND_CNT 0))
  else if off = 0x048 then
    let m := s.g (SE_CAR_CTL_mode 0)
    let hw : Int × Int := (1, 1023)
    let v := seedClamp m (loopWindow m hw (s.g (SE_CAR_CTL_d_min 0), s.g (SE_CAR_CTL_d_max 0))) hw (s.g (SE_CAR_DWELL_d 0))
    s.seedLoop (SE_CAR_DWELL_d 0) v.toNat (SE_CAR_STAT 0) (SE_CAR_BOUND_CNT 0)
  else s

/-- A remote access starts (R395): the request goes to its target; a target without a route is unreachable. An access to
the member's own ID stays outstanding until the access that started it is over, and is then performed here. -/
def State.rmtGo (s : State) (wr : Bool) : State :=
  let target : MemberId := BitVec.ofNat 12 (s.g (AX_RMT_CTL_target 0))
  let addr := s.rd (AX_RMT_ADDR 0)
  let tag := s.ax.tag % 65536
  let s := { s with ax := { s.ax with tag := s.ax.tag + 1 } }
  if target != s.memberId && (!s.isMember || (s.routeTo target).isNone) then
    s.wr (AX_RMT_STAT 0) 0xF0
  else
    let s := { s with ax := { s.ax with rmt := some (tag, s.elapsed) } }.wr (AX_RMT_STAT 0) 0x80000000
    if target = s.memberId then s else
      s.sendTo target { s.frame clMgmt (if wr then 1 else 0) target
        (if wr then [addr, s.rd (AX_RMT_DATA 0)] else [addr]) with channel := tag }

/-- Writes of an Axlink port's block. -/
def State.axWritten (s : State) (p off : Nat) (old act : W32) : State :=
  if off = 0x000 then s.axChanged p (old.getLsbD 31)
  else if off = 0x0A0 then s.when (act.getLsbD 31) (fun s => s.rmtGo (s.bit (AX_RMT_CTL_write 0)))
  else if off = 0x0B8 then
    s.when (act.getLsbD 31) (fun s => s.bulkGo (s.rd (AX_BULK_LADDR 0)).toNat (s.rd (AX_BULK_RADDR 0)).toNat
      (BitVec.ofNat 12 (s.g (AX_BULK_CTL_target 0))) (64 * (s.g (AX_BULK_CTL_length 0) + 1)) none)
  else s

/-- What an accepted write brings about, beside the new word. -/
def State.written (s : State) (w : Writer) (a : Nat) (old v act mask : W32) : State :=
  match locate a with
  | some (.sys, _, off) => s.sysWritten off old
  | some (.bat, _, off) =>
    if off = 0x014 then s.each ((bitList act).filter (fun i => decide (i < 16))) (fun s i =>
      (s.wr (KEEP_VIOL i) 0).keepWritten (8 + i))
    else if 0x080 ≤ off then s.keepWritten ((off - 0x080) / 4)
    else if off = 0x01C then s.wr BAT_USER_LOCK (old ||| (v &&& 0xFF))
    else s
  | some (.tb, _, off) => s.tbWritten off act
  | some (.cue, _, off) => s.cueWritten off old act
  | some (.cfg, _, off) =>
    if 0x090 ≤ off ∧ off < 0x0C0 then
      { s with cfg := { s.cfg with fuseData := s.cfg.fuseData.set ((off - 0x090) / 4) act } }
    else s
  | some (.lp, p, off) => s.lpWritten p off old w
  | some (.ac, c, off) => s.acWritten c off old mask w.isCue
  | some (.amx, _, off) =>
    if off < 0x040 then
      s.busSwitch (off / 4) (match w with
        | .cue _ 0x5 => (s.busAt (off / 4)).getD (cycleEdge s.now)
        | .cue _ _ => cycleEdge s.now
        | _ => s.now)
    else if 0x100 ≤ off ∧ off < 0x280 then s.pinWritten ((off - 0x100) / 4) old
    else if 0x280 ≤ off then
      s.when (s.rd a != old) (fun s => s.inputSwitched ((off - 0x280) / 4))
    else s
  | some (.wm, m, off) =>
    if off = 0x0 then s.monChanged m old (s.rd (WM_THR m))
    else if off = 0x4 then s.monChanged m (s.rd (WM_CTL m)) old
    else s
  | some (.fc, c, off) => s.fcWritten c off old
  | some (.se, n, off) => s.seWritten n off old act w.isCue
  | some (.ax, p, off) => if w = .image then s else s.axWritten p off old act
  | some (.gp, _, off) =>
    s.when (w == .observer && decide (off < 0x08)) (fun s => s.incWrap (word GPIO_WRITE_CNT))
  | some (.gpio, _, off) => if off < 0x40 then s.pelChanged (off / 4) old else s
  | some (.sv, n, 0x0) => s.when (w == .observer) (fun s => s.quotaWritten n old)
  | some (.qc, k, 0x0) => s.when (act.getLsbD 28) (fun s => s.flushQueue k)
  | some (.el, _, 0x000) => s.when (!old.getLsbD 31) (fun s => s.wr EL_STREAM_POS (s.rd EL_HEAD))
  | some (.ds, d, 0x00) => s.dsChanged d
  | _ => s

/-! ### The write -/

/-- Commands of the mailbox, the state request, the fuses, the rollback counter, remote accesses and BULK transfers,
which have answers of their own (R129, R134, R176, R178, R394, R395, R477); none for any other register. `act` holds
the written values of WO fields, `new` the new word. -/
def State.special (s : State) (w : Writer) (a : Nat) (act : W32) : Option Why :=
  if w = .image then none else
  match locate a with
  | some (.cue, _, off) =>
    if off = 0x010 then
      let l := (List.range (bitsOf act 10 8 + 1)).map (fun i => act.toNat % 8 + i)
      if s.dev = .standby ∨ s.dev = .inspect then some .access
      else if s.dev = .drain then some .busy
      else if 7 < act.toNat % 8 + bitsOf act 10 8 then none
      else if l.any (fun k => s.g (mbxStat k) == 1) then some .busy
      else none
    else if 0x100 ≤ off ∧ s.g (mbxStat ((off - 0x100) / 32)) = 1 then some .busy
    else none
  | some (.ax, 0, 0x0A0) => if act.getLsbD 31 ∧ s.ax.rmt.isSome then some .busy else none
  | some (.ax, 0, 0x0B8) => if act.getLsbD 31 ∧ s.bulkBusy then some .busy else none
  | _ => none

/-- The XSVC counter that counts a rejected cue at its register's block (R81, R84, R428; FM_XSVC_REFUSE_CNT). -/
def State.countFence (s : State) (a : Nat) (why : Why) : State :=
  match locate a with
  | some (.tb, _, off) => s.when (decide (0x100 ≤ off)) (fun s => s.inc (cnt16 TB_XSVC_REFUSE_CNT))
  | some (.ds, _, _) => s.when (why == .fence) (fun s => s.inc (cnt16 FM_XSVC_REFUSE_CNT))
  | some (.ba, _, _) => s.when (why == .fence) (fun s => s.inc (cnt16 FM_XSVC_REFUSE_CNT))
  | some (.gp, _, _) => s.when (why == .fence) (fun s => s.inc (cnt16 GPIO_XSVC_REFUSE_CNT))
  | _ => s

/-- A refused cue is counted at its block where that keeps a counter. -/
def State.refuseWrite (s : State) (w : Writer) (a : Nat) (why : Why) : Why × State :=
  (why, if w.isCue ∧ (why = .fence ∨ why = .housekeeping) then s.countFence a why else s)

/-- The ownership of a written register and the names in it, as the writer meets them (R92, R345). -/
def State.ownWhy (s : State) (w : Writer) (a : Nat) (old new v mask : W32) : Why :=
  match w with
  | .cue svc act =>
    let o := s.cueOwns svc act a old new v mask
    if o = .fence then o
    else if s.namesRefuse a old new ∧ o = .ok then .fence else o
  | _ => .ok

/-- Registers whose write is an action with an answer of its own: the state request, the fuse commands and the rollback
counter. -/
def State.actionWrite (s : State) (a : Nat) (val act : W32) : Option (Why × State) :=
  match locate a with
  | some (.sys, _, 0x00C) =>
    let code := act.toNat % 8
    let ok := s.request code
    some (if code = 0 ∨ 5 < code then .encoding else if ok.1 then .ok
      else if code = 4 ∧ s.sealed then .sealed else .access, ok.2)
  | some (.cfg, _, 0x050) =>
    if act.toNat % 16 = 0 ∨ 6 < act.toNat % 16 then some (.encoding, s) else
    let ok := s.fuseCommand (act.toNat % 16)
    some (if ok.1 then .ok else .access, ok.2)
  | some (.cfg, _, 0x058) =>
    let ok := s.rollbackGo act
    some (if ok.1 then .ok else .access, ok.2)
  | some (.se, n, 0x040) =>
    let t := s.paramPut n val
    some (if t.rd (SE_PARAM_STAT n) = 1 then .ok else .access, t)
  | _ => none

/-- A write of one register: the bits that `mask` names take the bits of `v`. The answer, and the state, which a
refused write leaves as it was but for what the device counts (R15–R18, R92, R345, R513). The address names a register
(R472), and its block answers (R469). -/
def State.writeReg (s : State) (w : Writer) (a : Nat) (v mask : W32) : Why × State :=
  let fs := regFields a
  let old := s.rd a
  let new := newWord (w == .image) fs old v mask
  let act := actWord fs v mask
  let own := s.ownWhy w a old new v mask
  if own = .fence ∨ own = .housekeeping then s.refuseWrite w a own else
  let (g, s') := s.gate w a old new v mask act
  if g ≠ .ok then s'.refuseWrite w a g else
  if own ≠ .ok ∨ accessRefuses w fs old v mask then s.refuseWrite w a .access else
  match s.actionWrite a (v &&& mask) act with
  | some r => r
  | none =>
    match s.special w a act with
    | some why => s.refuseWrite w a why
    | none =>
      if encodingRefuses w fs old v mask || s.ruleRefuses w a old new act mask then s.refuseWrite w a .encoding
      else if !w.isCue && s.namesRefuse a old new then s.refuseWrite w a .access
      else if (locate a).any (fun x => x.1 == .wm && x.2.2 == 0x8) then
        (.ok, s.monClear ((a - 0x340000) / 16) (v &&& mask))
      else (.ok, (s.wr a new).written w a old v act mask)

end Sys2Proof.Machine
end

