-- ==== Sys2Proof/Machine/Reads.lean ====
section
/-! DEFINITION. A read of one register: the value that it returns, computed where the register shows a state that is
held elsewhere, and what a whole read clears or snapshots (R15, R20, R55, R451, R474). -/

namespace Sys2Proof.Machine

/-- The word whose bit `i` is given by a function. -/
def wordBits (f : Nat → Bool) : W32 := BitVec.ofNat 32 (((List.range 32).filter f).map (2 ^ ·)).sum

/-- The number of a truth value. -/
def b2n (b : Bool) : Nat := if b then 1 else 0

/-- The service of an owner in an owner register; 0 in the housekeeping pool. -/
def ownerByte (o : Owner) : Nat := o.byte

/-- The low half of a pair _LO and _HI (R474): registers whose 32-bit read snapshots the word after them. -/
def isLo (a : Nat) : Bool :=
  [SYS_STATE_TT_LO, SYS_WAKE_AT_LO, BAT_VIOL_TT_LO, KEEP_AO_SEC_LO, TB_TT_NS_LO, TB_TOD_LO, FM_LAST_ERR_TT_LO,
    GPIO_IN_LO, GPIO_LAST_PIN_TT_LO, PEL_LAST_TT_LO].contains a ||
  (match locate a with | some (.ac, _, 0x048) => true | _ => false)

/-- The pairs that are written by halves (R474). -/
def isRwLo (a : Nat) : Bool := a == SYS_WAKE_AT_LO || a == TB_TOD_LO

/-- The estimated power in mW of a line port (R515). -/
def State.lpPower (s : State) (p : Nat) : Nat :=
  let m := s.lpMode p
  let mask := s.g (LP_RX_CTL_auto_mask p)
  let rx := if s.bit (LP_STAT_cdr_locked p) then s.g (LP_STAT_rx_rate p)
    else if s.g (LP_RX_CTL_rate p) = 15 then ((List.range 11).filter (fun i => mask.testBit i)).foldl (fun a i => Nat.max a (i + 1)) 0
    else s.g (LP_RX_CTL_rate p)
  let tx := s.g (LP_TX_CTL_rate p)
  let rate := Nat.max (if s.lpReceives p then rx else 0) (if s.lpSends p || m == 0 then tx else 0)
  if 8 ≤ rate then 250 else if 6 ≤ rate then 180 else 120

/-- SYS_POWER_EST (R515), from the table of maximum power. -/
def State.powerEst (s : State) : Nat :=
  let awake := (List.range 127).filter s.isAwake
  let each (r : Nat) : Nat :=
    if r < 32 then s.lpPower r else if r < 80 then 90 else if r < 96 then 420 else if r < 100 then 550
    else if r = 100 then 2600 else if r < 109 then 80 else if r < 121 then 50 else if r = 121 then 100
    else if r = 122 then 0 else 50
  1600 + (awake.map each).foldl (· + ·) 0 +
    (if s.cfg.hasFabric && s.dev.active then 800 * s.fab.fclkMhz / 400 else 0) +
    2 * ((List.range 96).filter s.monRuns).length

/-- Which summary registers of block EL are computed from which registers (register table of R459). -/
def State.sumWord (s : State) (i : Nat) : W32 :=
  let nz (a : Nat) : Bool := s.rd a != 0
  if i = 0 then wordBits (fun n => nz (LP_STICKY n))
  else if i < 3 then wordBits (fun n => decide (32 * (i - 1) + n < 48) && nz (AC_STICKY (32 * (i - 1) + n)))
  else if i < 5 then wordBits (fun n => decide (32 * (i - 3) + n < 48) && nz (FC_STICKY (32 * (i - 3) + n)))
  else if i < 8 then wordBits (fun n => (s.monStat (32 * (i - 5) + n) (s.rd (WM_STAT (32 * (i - 5) + n)))).toNat % 8 != 0)
  else if i = 8 then wordBits (fun n => decide (n < 16) && nz (SE_STICKY n))
  else if i = 9 then wordBits (fun n => decide (n < 4) && nz (AX_STICKY n))
  else if i < 14 then wordBits (fun n =>
    let k := 32 * (i - 10) + n
    s.g (QC_STAT_ovf_cnt k) != 0 || s.g (QC_STAT_unf_cnt k) != 0 || s.bit (QC_STAT_refused k))
  else if i = 14 then wordBits (fun n => match n with
    | 0 => nz FM_STICKY
    | 1 => (List.range 4).any (fun b => nz (GP_CONFLICT b))
    | 2 => s.anyViol
    | 3 => s.bit BAT_STAT_keep_err
    | 4 => s.bit TB_SERVO_STAT_bound_sticky
    | 5 => (List.range 6).any (fun k => s.bitOf (SYS_SLEEP_STAT k) 0)
    | 6 => s.bit (SE_CAR_STAT_bound_sticky 0)
    | 7 => s.bit (AX_TROUPE_STAT_conflict 0)
    | _ => false)
  else wordBits (fun n => s.bit (BA_STAT_sat (32 * (i - 15) + n)))

/-- SUM_ALL, then the others. -/
def State.sumReg (s : State) (i : Nat) : W32 :=
  if i = 23 then wordBits (fun n => decide (n < 23) && s.sumWord n != 0) else s.sumWord i

/-- Reads of the system block that show states held elsewhere. -/
def State.readSys (s : State) (off : Nat) (w : W32) : W32 :=
  if off = 0x008 then
    (SYS_STATE_state.put (SYS_STATE_lead.put w (b2n (s.bit (AX_TROUPE_STAT_lead 0)))) s.dev.code)
  else if off = 0x03C then
    wordBits (fun i =>
      if i = 31 then s.kclkLocked
      else if i = 0 then s.fpllLocked
      else decide (5 ≤ i) && s.isReady (96 + i))
  else if 0x050 ≤ off ∧ off < 0x060 then
    wordBits (fun i => decide (8 * (off - 0x050) + i < 127) && s.isAwake (8 * (off - 0x050) + i))
  else if 0x060 ≤ off ∧ off < 0x070 then
    wordBits (fun i => decide (8 * (off - 0x060) + i < 127) && s.isClaimed (8 * (off - 0x060) + i))
  else if off = 0x0F0 then BitVec.ofNat 32 (min s.powerEst 65535)
  else if off = 0x0FC then
    wordBits (fun i => match i with
      | 0 => true
      | 1 => s.dev.active || s.dev == .load || s.dev == .inspect
      | 2 => s.dev.active || s.dev == .inspect
      | _ => false)
  else if off = 0x0F8 then wordBits (fun b => decide (b < 8) && s.bankHeld b)
  else w

/-- Reads of the battery block. -/
def State.readBat (s : State) (off : Nat) (w : W32) : W32 :=
  if off = 0x018 then wordBits (fun i => decide (i < 16) && s.rd (KEEP_VIOL i) != 0)
  else if off = 0x020 then
    Config.keepCrc ((List.range 32).map (fun i => s.rd (KEEP_MEMBER + 4 * i)) ++
      (List.range 32).map (fun p => s.rd (LP_KEEP_EQ p)))
  else if 0x080 ≤ off then s.keepValue ((off - 0x080) / 4) w
  else w

/-- Reads of the timebase block. -/
def State.readTb (s : State) (off : Nat) (w : W32) : W32 :=
  if off = 0x008 then s.clock.ns.truncate 32
  else if off = 0x00C then (s.obs.snapHi.lookup TB_TT_NS_LO).getD ((s.clock.ns >>> 32).truncate 32)
  else if off = 0x010 then s.obs.snapFrac.getD (s.clock.sub >>> 16)
  else if off = 0x040 then sword s.freqAdj
  else if off = 0x05C then TB_HO_STAT_secs.put w s.holdSecs
  else if off = 0x074 then s.rgStat
  else if off = 0x078 then s.btStat
  else w

/-- Reads of the cue engine's block. -/
def State.readCue (s : State) (off : Nat) (w : W32) : W32 :=
  if off = 0x004 then BitVec.ofNat 32 s.queueLen
  else if off = 0x00C then BitVec.ofNat 32 s.memberId.toNat
  else if off = 0x070 then BitVec.ofNat 32 s.armedLen
  else if off = 0x07C then BitVec.ofNat 32 s.cue.scripts.length
  else w

/-- The word of flip-flops that CFG_RB_CTL selects (R419). -/
def State.readback (s : State) (i : Nat) : W32 := wordBits (fun b => s.fab.ff.get false (32 * i + b))

/-- Whether readback of flip-flops answers (R419). -/
def State.readbackOk (s : State) : Bool := !s.sealed && s.dev == .inspect && s.bit CFG_CHAN_CTL_en

/-- Reads of the configuration block (R176, R419). -/
def State.readCfg (s : State) (off : Nat) (w : W32) : W32 :=
  let f := s.cfg.fuses
  if off = 0x04C then
    let put (x : W32) (g : Fld) (b : Bool) : W32 := g.put x (b2n b)
    let x := CFG_FUSE_STAT_rollback.put 0 f.rollback
    let x := put (put (put x CFG_FUSE_STAT_key_hash_set f.keyHash.isSome) CFG_FUSE_STAT_aes_key_set f.aesKey.isSome)
      CFG_FUSE_STAT_require_seal f.requireSeal
    put (put (put x CFG_FUSE_STAT_require_encrypt f.requireEncrypt) CFG_FUSE_STAT_private_jtag_off f.privateJtagOff)
      CFG_FUSE_STAT_fuse_lock f.fuseLock
  else if off = 0x054 then
    CFG_FUSE_RESULT_kcv.put w (match f.aesKey with | some k => keyCheckValue k | none => 0)
  else if 0x060 ≤ off ∧ off < 0x090 then
    BitVec.ofNat 32 (ofBytes (((f.keyHash.getD []).drop (off - 0x060)).take 4))
  else if off = 0x0F4 then (if s.readbackOk then s.readback (s.g CFG_RB_CTL_index) else 0)
  else w

/-- Reads of a cell's block. -/
def State.readAc (s : State) (c off : Nat) (w : W32) : W32 :=
  let x := s.cellSt c
  if off = 0x00C then
    match x.rampA, x.rampB with
    | some r, _ => BitVec.ofNat 32 (2 ^ 31 + (r.len - r.done))
    | none, some r => BitVec.ofNat 32 (2 ^ 31 + 2 ^ 16 + (r.len - r.done))
    | none, none => 0
  else if off = 0x028 then (AC_STAT_ready c).put w (b2n (s.cellUp c))
  else if off = 0x050 then
    match x.ovrFrom with | some t => BitVec.ofNat 32 (min (s.now - t) 0xFFFFFFFF) | none => w
  else if off = 0x06C then
    (AC_QUAD_STAT_ref_ready c).put (s.rd (AC_QUAD_STAT (c / 4 * 4)))
      (b2n ((List.range 4).any (fun i => s.isReady (rAc (c / 4 * 4 + i)))))
  else if off = 0x078 then
    match s.ownerOf kQuad (c / 4) with | .svc n => BitVec.ofNat 32 n | .pool => 0x100
  else w

/-- Reads of the routing matrix. -/
def State.readAmx (s : State) (off : Nat) (w : W32) : W32 :=
  if 0x080 ≤ off ∧ off < 0x0C0 then
    let k := (off - 0x080) / 4
    (AMX_AB_STAT_settled k).put w (match s.bus.lookup k with
      | some (q, b, _) => b2n (decide (q + 20 ≤ s.now) || b == s.g (AMX_AB_STAT_src k))
      | none => 0)
  else if 0x100 ≤ off ∧ off < 0x280 then
    let n := (off - 0x100) / 4
    (AMX_AP_CTL_driving n).put w (b2n (s.pinDriven n))
  else w

/-- The state code of a task in SEn_TASK_STAT. -/
def State.taskState (s : State) (t : TaskId) : Nat :=
  let e := s.engineOf t
  let run := match s.se.running.lookup e with | some (a, _) => a.task == t | none => false
  if !(s.taskSt t).on then 0
  else if run then 3
  else match s.se.acts.find? (fun a => a.task == t && !a.fill) with
    | some a => if a.partWait then 5 else if a.xfers != 0 then 4 else 2
    | none => 1

/-- Reads of an engine's block. -/
def State.readSe (s : State) (n off : Nat) (w : W32) : W32 :=
  let sel : TaskId := (n, s.g (SE_TASK_SEL_slot n))
  let x := s.taskSt sel
  if off = 0x000 then
    let run := match s.se.running.lookup n with | some (a, _) => a.task.2 | none => 0
    let w := (SE_STAT_running n).put ((SE_STAT_ready n).put w (b2n (s.isReady (rSe n)))) run
    let w := (SE_STAT_nready n).put w ((s.actsAt n).filter Act.isReady).length
    let w := (SE_STAT_xfers n).put w (s.issued n).length
    (SE_STAT_transit n).put ((SE_STAT_part n).put w (s.enginePart n)) (b2n s.se.moving)
  else if off = 0x01C ∨ off = 0x020 then
    wordBits (fun i => s.se.acts.any (fun a => a.isReady && a.task == (n, 8 * (off - 0x01C) + i)))
  else if off = 0x024 ∨ off = 0x028 then
    wordBits (fun i => s.se.acts.any (fun a => !a.isReady && !a.fill && a.task == (n, 8 * (off - 0x024) + i)))
  else if off = 0x030 then
    match s.task sel with
    | none => 0
    | some t => BitVec.ofNat 32 (t.service % 256 * 2 ^ 24 + b2n (decide (56 ≤ sel.2)) * 2 ^ 23 + t.kernel % 32 * 2 ^ 18 +
        b2n x.on * 2 ^ 17 + x.bank % 2 * 2 ^ 16 + s.taskState sel * 2 ^ 13)
  else if off = 0x034 then BitVec.ofNat 32 x.acts
  else if off = 0x038 then BitVec.ofNat 32 (min (s.se.sheds.get 0 (64 * n + sel.2)) 65535)
  else if off = 0x040 then
    s.lmWord (bankAddr (n, s.g (SE_PARAM_ADDR_slot n)) (s.g (SE_PARAM_ADDR_bank n)) (s.g (SE_PARAM_ADDR_word n)))
  else if off = 0x058 then
    let mine := s.se.tasks.filter (fun t => t.id.1 == n && (s.taskSt t.id).on)
    let rings (l : List (Nat × Nat)) : Nat := (l.filter (fun x => x.1 == 1)).length
    BitVec.ofNat 32 ((mine.map (fun t => rings t.outs)).sum % 256 * 256 + (mine.map (fun t => rings t.ins)).sum % 256)
  else w

/-- Reads of the frame-memory block. -/
def State.readFmReg (s : State) (off : Nat) (w : W32) : W32 :=
  if off = 0x004 then
    wordBits (fun i =>
      if i = 31 then s.isReady rFm else if i = 30 then !s.isAwake rFm
      else if i = 29 then s.pwr.fmReady else decide (i < 8) && s.isReady rFm)
  else if off = 0x008 then BitVec.ofNat 32 ((s.streamsOn.map (fun d => s.g (DS_RES_res d))).foldl (· + ·) 0)
  else if off = 0x05C then BitVec.ofNat 32 s.streamsOn.length
  else if 0x060 ≤ off ∧ off < 0x080 then (FM_CH_STAT_ready ((off - 0x060) / 4)).put w (b2n (s.isReady rFm))
  else if 0x080 ≤ off ∧ off < 0x100 then wordBits (fun i => s.bit (DS_CTL_enable (8 * (off - 0x080) + i)))
  else w

/-- Reads of a GPIO port's block. -/
def State.readGp (s : State) (b off : Nat) (w : W32) : W32 :=
  let own (i : Nat) : Owner := s.ownerOf kGpio (16 * b + i)
  if off = 0x08 then BitVec.ofNat 32 (s.bankLevels b)
  else if off = 0x0C then
    wordBits (fun i => if i < 16 then w.getLsbD i else own (i - 16) == .pool)
  else if 0x28 ≤ off ∧ off < 0x38 then
    BitVec.ofNat 32 (((List.range 4).map (fun q => ownerByte (own ((off - 0x28) + q)) * 256 ^ q)).sum)
  else w

/-- Reads of the shared half of the GPIO block. -/
def State.readGpio (s : State) (off : Nat) (w : W32) : W32 :=
  if off < 0x40 then
    let k := off / 4
    match s.ownerOf kPel k with
    | .svc n => (PEL_CTL_owner k).put ((PEL_CTL_hk k).put w 0) n
    | .pool => (PEL_CTL_owner k).put ((PEL_CTL_hk k).put w 1) 0
  else if off = 0x80 then
    let ok := (List.range 4).map (fun b => if s.supplied b then 2 ^ b else 0)
    (GPIO_STAT_pport.put (GPIO_STAT_bank_ok.put w ok.sum) (b2n (s.dev.active && s.kclkLocked))) |||
      wordBits (fun b => decide (b < 4) && s.bankHeld b)
  else if off = 0x84 then BitVec.ofNat 32 (s.bankLevels 0 + 65536 * s.bankLevels 1)
  else if off = 0x88 then
    (s.obs.snapHi.lookup GPIO_IN_LO).getD (BitVec.ofNat 32 (s.bankLevels 2 + 65536 * s.bankLevels 3))
  else if off = 0xA8 then
    if s.pelRuns then wordBits (fun j => if j < 16 then w.getLsbD j else s.padLevel (pelPin (s.rd (PEL_CTL (j - 16))) (j - 16)))
    else w
  else if off = 0x8C then wordBits (fun b => decide (b < 4) && s.rd (GP_CONFLICT b) != 0)
  else w

/-- Reads of the event log's block. -/
def State.readEl (s : State) (off : Nat) (w : W32) : W32 :=
  if off = 0x004 then BitVec.ofNat 32 (b2n s.dev.timed * 2 ^ 31 + s.log.stage.length % 2048 * 2 ^ 16 +
    min (s.rd EL_HEAD).toNat 4096)
  else if off = 0x040 then wordBits (fun i => decide (i < 16) && (s.log.episodes.lookup i).isSome)
  else if off = 0x08C then wordBits (fun c => (s.chan c).busy)
  else if 0x0A0 ≤ off ∧ off < 0x100 then s.sumReg ((off - 0x0A0) / 4)
  else w

/-- The value that a read of a register returns, without a snapshot of a pair: the stored word, with the fields that
show a state held elsewhere. -/
def State.valueOf (s : State) (a : Nat) : W32 :=
  let w := s.rd (homeOf a)
  match locate a with
  | some (.sys, _, off) => s.readSys off w
  | some (.bat, _, off) => s.readBat off w
  | some (.tb, _, off) => s.readTb off w
  | some (.cue, _, off) => s.readCue off w
  | some (.cfg, _, off) => s.readCfg off w
  | some (.lp, p, 0x02C) => s.keepValue (32 + p) w
  | some (.lp, p, 0x034) =>
    (LP_STAT_loop_out p).put ((LP_STAT_ready p).put w (b2n (s.isReady (rLp p)))) (b2n (s.loopOut p))
  | some (.lp, p, 0x09C) => BitVec.ofNat 32 (ownerByte (s.ownerOf kLpTx p) * 256 + ownerByte (s.ownerOf kLpRx p))
  | some (.ac, c, off) => s.readAc c off w
  | some (.amx, _, off) => s.readAmx off w
  | some (.wm, m, 0x8) => s.monStat m w
  | some (.fc, c, 0x01C) =>
    (FC_STAT_settling c).put ((FC_STAT_ready c).put w (b2n (s.cellUp c))) (b2n ((s.chain c).settleLeft != 0))
  | some (.se, n, off) => s.readSe n off w
  | some (.sv, n, 0x0) => (SV_CTL_occupancy n).put w (s.occupancy n)
  | some (.fm, _, off) => s.readFmReg off w
  | some (.ax, p, 0x004) => (AX_STAT_ready p).put w (b2n (s.isReady (rAx p)))
  | some (.gp, b, off) => s.readGp b off w
  | some (.gpio, _, off) => s.readGpio off w
  | some (.qc, k, 0x4) =>
    let w := (QC_STAT_level k).put w (s.queueLevel k)
    if s.isFifo k then (QC_STAT_af k).put ((QC_STAT_ae k).put w (b2n (s.almostEmpty k))) (b2n (s.almostFull k)) else w
  | some (.el, _, off) => s.readEl off w
  | some (.ba, b, 0x8) =>
    let d := s.g (BA_CTL_stream b)
    let on := s.bit (BA_CTL_enable b)
    let cw := match s.stageOf d with | some t => !s.barrierLets t d | none => false
    (BA_STAT_pwait b).put ((BA_STAT_cwait b).put w (b2n (on && cw))) (b2n (on && s.producerWaits d))
  | some (.ring, slot, off) =>
    match s.log.snap with
    | some (n, w1, w2, w3) =>
      if n = slot ∧ off ≠ 0 then (if off = 4 then w1 else if off = 8 then w2 else w3) else w
    | none => w
  | _ => w

/-- The value of a read, with the snapshots of R474: a read of _HI returns the word taken at the last read of its _LO;
where there has been none, the word in force. -/
def State.readValue (s : State) (a : Nat) : W32 :=
  if 4 ≤ a && isLo (a - 4) then (s.obs.snapHi.lookup (a - 4)).getD (s.valueOf a) else s.valueOf a

/-- The word in force at a _HI address, whatever snapshot stands. -/
def State.fresh (s : State) (a : Nat) : W32 :=
  { s with obs := { s.obs with snapHi := [], snapFrac := none } }.valueOf a

/-- What a whole 32-bit read brings about beside its value: RC fields clear (R15), CUE_PEAK falls to the occupancy,
the extremes of the temperature to the present one, a read of _LO snapshots _HI (R474), with the fraction of TT (R55),
and a read of word 0 of a ring slot its other words (R452). -/
def State.readEffect (s : State) (a : Nat) : State :=
  let s : State := if isLo a then { s with obs := { s.obs with snapHi := s.obs.snapHi.set a (s.fresh (a + 4)) } } else s
  let s : State := if a = TB_TT_NS_LO then { s with obs := { s.obs with snapFrac := some (s.clock.sub >>> 16) } } else s
  match locate a with
  | some (.ring, slot, 0) => s.snapSlot slot
  | some (.se, n, 0x038) =>
    { s with se := { s.se with sheds := s.se.sheds.set (64 * n + s.g (SE_TASK_SEL_slot n)) 0 } }
  | _ =>
    let s := match keepIndex a with | some n => s.checkKeep n | none => s
    if a = CUE_PEAK then s.wr a (BitVec.ofNat 32 s.queueLen)
    else if a = VM_TEMP_MAX ∨ a = VM_TEMP_MIN then s.wr a (BitVec.ofNat 32 ((s.rd SYS_TEMP).toNat % 65536))
    else (regFields a).foldl (fun s f => if f.acc == .rc then s.wr a (s.rd a &&& ~~~f.mask) else s) s

end Sys2Proof.Machine
end

