-- ==== Sys2Proof/Machine/Observer.lean ====
section
/-! DEFINITION. The observer port, the private JTAG instructions and the accesses of other members: units, frames and
their status (R460–R483, R395). -/

namespace Sys2Proof.Machine

/-! ### One unit -/

/-- Observer status codes (R467). -/
def stOk : Nat := 0
def stBusy : Nat := 1
def stSize : Nat := 2
def stAlign : Nat := 3
def stReserved : Nat := 4
def stAccess : Nat := 5
def stSealed : Nat := 7
def stFormat : Nat := 8
def stState : Nat := 9

/-- Whether a block answers in the present state (R469). -/
def State.answers (s : State) (b : Block) : Bool :=
  match s.dev with
  | .off | .keep => false
  | .reset | .load => [Block.sys, .bat, .cfg].contains b
  | .inert => [Block.sys, .bat, .cfg, .el, .ring].contains b
  | _ => true

/-- The byte of frame memory that an address of the window names (R317). -/
def windowByte (a : Nat) : Option Nat :=
  if 0x40000000 ≤ a ∧ a < 0x40000000 + fmSize then some (a - 0x40000000) else none

/-- Whether frame memory can be reached through the window: it is ready, or kept running in INSPECT (R317). -/
def State.windowServed (s : State) : Bool := s.isReady rFm || s.dev == .inspect

/-- Frame memory is in use while an access through the window is pending: it wakes, or its idle time begins anew
(R142, R143). -/
def State.windowUses (s : State) : State :=
  if !s.dev.active then s
  else if s.isUp rFm then s.setRes rFm { s.res rFm with idleFrom := none }
  else s.wake rFm

/-- Whether the frame-memory window answers an access to `n` bytes (R181, R317), with what the device counts when it does
not: it is served with what the accesses of streams, BULK and the bridge leave over (R336). -/
def State.windowGate (s : State) (a n : Nat) : Nat × State :=
  if s.sealed then (stSealed, s.inc (cnt16 CFG_CHAN_REFUSE_CNT))
  else if !(s.dev.running || s.dev == .inspect) then (stState, s.inc (cnt16 CFG_CHAN_REFUSE_CNT))
  else
    let s := s.windowUses.rollWindow
    if s.windowServed && s.spareRoom a then (stOk, s.chanAccess a n) else (stBusy, s.inc (cnt16 FM_WIN_BUSY_CNT))

/-- How an access to a register is answered before the register is asked: its address and its block (R469, R472). -/
def State.addrStatus (s : State) (a : Nat) : Nat :=
  match rowOf a, locate a with
  | some _, some (b, _, _) => if s.answers b then stOk else stState
  | _, _ => stReserved

/-- Bytes of an access size of at most 32 bits. -/
def sizeBytes : Size → Nat
  | .s8 => 1
  | .s16 => 2
  | .s32 => 4
  | .s64 => 8

/-- One read access of at most 32 bits: its status, the value, and the state (R15, R470–R474). -/
def State.readAccess (s : State) (sz : Nat) (a : Nat) : Nat × Nat × State :=
  if a % sz ≠ 0 then (stAlign, 0, s) else
  match windowByte a with
  | some b =>
    let (st, s) := s.windowGate b sz
    if st = stOk then (stOk, ofBytes (s.readFm b sz), s) else (st, 0, s)
  | none =>
    let base := a / 4 * 4
    let st := s.addrStatus base
    if st ≠ stOk then (st, 0, s)
    else if sz < 4 ∧ (locate a).any (fun x => x.1 == .ring) then (stSize, 0, s)
    else if base = CFG_RB_DATA ∧ !s.readbackOk then
      ((if s.sealed then stSealed else stState), 0, s.inc (cnt16 CFG_CHAN_REFUSE_CNT))
    else
      let v := (s.readValue base).toNat
      if sz < 4 then (stOk, v / 256 ^ (a % 4) % 256 ^ sz, s) else (stOk, v, s.readEffect base)

/-- A word written by halves: a write of _LO to an RW pair is held, and takes effect with the next write of _HI
(R474). -/
def State.writePair (s : State) (a : Nat) (v : W32) : Nat × State :=
  if isRwLo a then (stOk, { s with obs := { s.obs with heldLo := some (a, v) } })
  else if 4 ≤ a ∧ isRwLo (a - 4) then
    let s := match s.obs.heldLo with
      | some (l, lo) =>
        if l = a - 4 then
          { (s.writeReg .observer l lo 0xFFFFFFFF).2 with obs := { s.obs with heldLo := none } }
        else s
      | none => s
    let (w, s) := s.writeReg .observer a v 0xFFFFFFFF
    (w.status, s)
  else
    let (w, s) := s.writeReg .observer a v 0xFFFFFFFF
    (w.status, s)

/-- One write access of at most 32 bits (R470–R472). -/
def State.writeAccess (s : State) (sz : Nat) (a v : Nat) : Nat × State :=
  if a % sz ≠ 0 then (stAlign, s) else
  match windowByte a with
  | some b =>
    let (st, s) := s.windowGate b sz
    if st = stOk then (stOk, s.writeFm b (bytesOf sz v)) else (st, s)
  | none =>
    let base := a / 4 * 4
    let st := s.addrStatus base
    if st ≠ stOk then (st, s)
    else if 4 ≤ sz then s.writePair base (BitVec.ofNat 32 v)
    else
      match rowOf base with
      | some r =>
        if !r.bytes then (stSize, s) else
        let sh := 256 ^ (a % 4)
        let (w, s) := s.writeReg .observer base (BitVec.ofNat 32 (v % 256 ^ sz * sh))
          (BitVec.ofNat 32 ((256 ^ sz - 1) * sh))
        (w.status, s)
      | none => (stReserved, s)

/-- A unit whose status is not OK is counted with its address (R468). -/
def State.countUnit (s : State) (st a : Nat) : State :=
  if st = stOk then s else
  let c := if st = stState then stBusy else st
  { s with obs := { s.obs with counts := s.obs.counts.set c (min (s.obs.counts.get 0 c + 1) 65535),
                               lastAddr := BitVec.ofNat 32 a } }

/-- A remote access to the member's own ID is performed when the access that started it is over (R395). -/
def State.ownRemote (s : State) : State :=
  if s.ax.rmt.isNone || BitVec.ofNat 12 (s.g (AX_RMT_CTL_target 0)) != s.memberId then s else
  let a := (s.rd (AX_RMT_ADDR 0)).toNat
  let wr := s.bit (AX_RMT_CTL_write 0)
  let (st, v, s) := if wr then
      let (st, s) := s.writeAccess 4 a (s.rd (AX_RMT_DATA 0)).toNat
      (st, 0, s)
    else s.readAccess 4 a
  let s := s.countUnit st a
  let s := s.when (!wr) (fun s => s.wr (AX_RMT_DATA 0) (BitVec.ofNat 32 v))
  { s.wr (AX_RMT_STAT 0) (BitVec.ofNat 32 st) with ax := { s.ax with rmt := none } }

/-- One access of a unit, counted (R468). -/
def State.access (s : State) (wr : Bool) (sz a v : Nat) : Nat × Nat × State :=
  if wr then
    let (st, s) := s.writeAccess sz a v
    (st, 0, (s.countUnit st a).ownRemote)
  else
    let (st, v, s) := s.readAccess sz a
    (st, v, s.countUnit st a)

/-- One unit of a frame at an address: the statuses of its accesses with their values (two for 64 bits, R473). -/
def State.unitOf (s : State) (wr : Bool) (sz : Size) (a v : Nat) (busy : Bool) : List (Nat × Nat) × State :=
  if busy then ([(stBusy, 0)], s.countUnit stBusy a) else
  match sz with
  | .s64 =>
    let (st0, v0, s) := s.access wr 4 a (v % 2 ^ 32)
    let (st1, v1, s) := s.access wr 4 (a + 4) (v / 2 ^ 32)
    ([(st0, v0), (st1, v1)], s)
  | _ =>
    let (st, v, s) := s.access wr (sizeBytes sz) a v
    ([(st, v)], s)

/-! ### Frames -/

/-- The size of an op byte (R462). -/
def opSize (op : Byte) : Size :=
  match op.toNat / 16 % 4 with
  | 0 => .s8
  | 1 => .s16
  | 2 => .s32
  | _ => .s64

/-- Whether an op byte and a length byte keep the table of R462. -/
def headerOk (op len : Byte) (addr : W32) : Bool :=
  let o := op.toNat / 64
  let n := len.toNat
  decide (o < 3) && op.toNat % 8 == 0 && (o == 2 || !op.getLsbD 3) &&
    (if o = 2 then n == 0 && addr == 0
     else match opSize op with | .s8 | .s16 => n == 0 | .s32 => true | .s64 => decide (n < 128))

/-- The outcome of a frame: the status of the first unit that is not OK with its index in 32-bit words, and the data
bytes read (R463). -/
structure FrameOut where
  status : Nat
  index : Nat
  data : List Byte
  deriving DecidableEq, Repr

/-- The accesses of one unit are added to the outcome; `i` is the place of the unit in 32-bit words. -/
def FrameOut.add (o : FrameOut) (i : Nat) (width : Nat) (l : List (Nat × Nat)) : FrameOut :=
  let o := (l.zipIdx).foldl (fun o x =>
    if o.status = stOk ∧ x.1.1 ≠ stOk then { o with status := x.1.1, index := i + x.2 } else o) o
  { o with data := o.data ++ (l.flatMap (fun x => bytesOf width x.2)) }

/-- The units of a frame in order (R463, R473). -/
def State.units (s : State) (wr : Bool) (sz : Size) (addr : Nat) (vals : List Nat) (full : List Nat) : FrameOut × State :=
  let words := ((sizeBytes sz) + 3) / 4
  vals.zipIdx.foldl (fun (acc : FrameOut × State) x =>
    let a := addr + x.2 * (sizeBytes sz)
    let (l, s) := acc.2.unitOf wr sz a x.1 (full.contains x.2)
    let l := if l.length < words then l ++ [(stOk, 0)] else l
    (acc.1.add (x.2 * words) (min (sizeBytes sz) 4) l, s)) (⟨stOk, 0, []⟩, s)

/-- The values of whole units in data bytes, at most `n` of them. -/
def unitValues (size : Nat) (data : List Byte) : Nat → List Nat
  | 0 => []
  | n + 1 => if data.length < size then [] else ofBytes (data.take size) :: unitValues size (data.drop size) n

/-- The port answers a frame with its status phase and data (R463). -/
def State.answerWith (s : State) (o : FrameOut) : State :=
  { s with obs := { s.obs with answer := BitVec.ofNat 8 o.status :: BitVec.ofNat 8 o.index :: o.data } }

/-- A frame of the observer port, whatever interface carries it: refused whole for its header or an unaligned start
(R462, R471), else its units are applied; a unit of which only a part has arrived is counted as FORMAT (R464). -/
def State.frameIn (s : State) (op len : Byte) (addr : W32) (data : List Byte) (full : List Nat) : State :=
  if !s.dev.powered then s else
  let a := addr.toNat
  let sz := opSize op
  let o := op.toNat / 64
  let wrote (s : State) (r : FrameOut) : State :=
    if o = 1 then { s with obs := { s.obs with wrStatus := BitVec.ofNat 8 r.status, wrIndex := BitVec.ofNat 8 r.index } } else s
  if !headerOk op len addr then
    let r : FrameOut := ⟨stFormat, 0, []⟩
    (wrote (s.countUnit stFormat a) r).answerWith r
  else if o = 2 then
    let cs := (List.range 8).flatMap (fun i => bytesOf 2 (s.obs.counts.get 0 (i + 1)))
    let s' := s.answerWith ⟨stOk, 0, cs ++ bytesOf 4 s.obs.lastAddr.toNat⟩
    if op.getLsbD 3 then { s' with obs := { s'.obs with counts := [], lastAddr := 0 } } else s'
  else if (sz = .s32 ∨ sz = .s64) ∧ a % 4 ≠ 0 then
    let r : FrameOut := ⟨stAlign, 0, []⟩
    (wrote (s.countUnit stAlign a) r).answerWith r
  else
    let n := len.toNat + 1
    let vals := if o = 1 then unitValues (sizeBytes sz) data n else List.replicate n 0
    let (r, s) := s.units (o == 1) sz a vals full
    let part := o == 1 && decide (vals.length < n) && decide (data.length % (sizeBytes sz) ≠ 0)
    let s := s.when part (fun s => s.countUnit stFormat (a + vals.length * (sizeBytes sz)))
    let r := if o = 1 then { r with data := [] } else r
    (wrote s r).answerWith r

/-- Op bytes of frames that carry one unit of 32 or 64 bits (R462). -/
def opRead32 : Byte := 0x20
def opRead64 : Byte := 0x30
def opWrite32 : Byte := 0x60

/-- A write of one register through the port. -/
def State.portWrite (s : State) (a : Nat) (v : W32) : State :=
  s.frameIn opWrite32 0 (BitVec.ofNat 32 a) (bytesOf 4 v.toNat) []

/-- A read of one register, or of a pair as one 64-bit unit, through the port. -/
def State.portRead (s : State) (a : Nat) (wide : Bool) : State :=
  s.frameIn (if wide then opRead64 else opRead32) 0 (BitVec.ofNat 32 a) [] []

/-- A frame cut off: the units that arrived whole are applied, those of a read with its header; no status is returned (R464,
R476). A STAT frame has sent nothing that clears (R468). -/
def State.frameCut (s : State) (bytes : List Byte) (full : List Nat) : State :=
  match bytes with
  | op :: len :: a3 :: a2 :: a1 :: a0 :: data =>
    if op.toNat / 64 == 2 then s else
    let s := s.frameIn op len (a3 ++ a2 ++ a1 ++ a0) data full
    { s with obs := { s.obs with answer := [] } }
  | _ => s

/-- Whether an aligned access to the frame-memory window finds frame memory ready but no room at this instant (R317, R336). -/
def State.windowWaits (s : State) (sz : Size) (a : Nat) : Bool :=
  !s.sealed && (s.dev.running || s.dev == .inspect) && s.windowServed && !s.spareRoom a &&
    decide (a % min (sizeBytes sz) 4 = 0) && decide (0x40000000 ≤ a) && decide (a + sizeBytes sz ≤ 0x40000000 + fmSize)

/-- An access to the frame-memory window that is served later within its 10 µs (R317, R477). -/
def State.windowLater (s : State) (write : Bool) (sz : Size) (a v : Nat) : List (Nat × Nat) × State :=
  let b := a - 0x40000000
  let n := min (sizeBytes sz) 4
  let l := List.range (sizeBytes sz / n)
  if write then (l.map (fun _ => (stOk, 0)), s.writeFm b (bytesOf (sizeBytes sz) v))
  else (l.map (fun i => (stOk, ofBytes (s.readFm (b + n * i) n))), s)

/-- An access to one byte run of the frame-memory window (R317); `served` as the command gives it. -/
def State.windowAccess (s : State) (write : Bool) (sz : Size) (a : Nat) (v : Nat) (served : Bool) : State :=
  if !s.dev.powered then s else
  let (r, s) : FrameOut × State :=
    if (sz = .s32 ∨ sz = .s64) ∧ a % 4 ≠ 0 then (⟨stAlign, 0, []⟩, s.countUnit stAlign a)
    else
      let w := s.rollWindow
      let (l, s) := if served && w.windowWaits sz a then w.windowLater write sz a v else s.unitOf write sz a v false
      ((FrameOut.mk stOk 0 []).add 0 (min (sizeBytes sz) 4) l, s)
  if write then
    ({ s with obs := { s.obs with
        wrStatus := BitVec.ofNat 8 r.status, wrIndex := BitVec.ofNat 8 r.index } } : State).answerWith { r with data := [] }
  else s.answerWith r

/-! ### JTAG -/

/-- Whether EXTEST, HIGHZ and CLAMP take the pads (R482). -/
def State.tapMay (s : State) : Bool := s.dev == .inert || (s.dev == .reset && !s.pwr.resetN)

/-- The state with the test access port changed; it is powered in every state but OFF and KEEP (R481). -/
def State.withTap (s : State) (f : TapSt → TapSt) : State :=
  if s.dev.powered then { s with tap := f s.tap } else s

/-- The bits of a register, the lowest first. -/
def bitsList (n : Nat) (v : BitVec n) : List Bool := (List.range n).map v.getLsbD

/-- The port is reset: IDCODE is loaded and the pads are the device's. -/
def State.tapClear (s : State) : State :=
  s.withTap (fun t => { t with ir := 0x02, padsTaken := false, highz := false, bypassBit := false })

/-- EXTEST and SAMPLE/PRELOAD: the pads are captured, and the cells loaded (R481, R482). -/
def State.tapBoundary (s : State) (ir : Byte) (pads shiftIn : BitVec 546) : State :=
  let take := ir == 0x00 && s.tapMay
  s.withTap (fun t => { t with ir := ir, scan := bitsList 546 pads, boundary := shiftIn, padsTaken := take, highz := false })

/-- Whether the private instructions are refused (R480, R483). -/
def State.privateOff (s : State) : Bool := s.cfg.fuses.privateJtagOff || s.sealed

/-- A private instruction refused acts as BYPASS and is counted (R483). -/
def State.privateRefused (s : State) (ir : Byte) : State :=
  if !s.dev.powered then s else
  (s.inc (cnt16 CFG_CHAN_REFUSE_CNT)).withTap (fun t =>
    { t with ir := ir, bypassBit := false, padsTaken := false, highz := false })

/-- OBS_ACCESS: one observer unit (R483). -/
def State.tapAccess (s : State) (dr : BitVec 72) (full : Bool) : State :=
  if s.privateOff then s.privateRefused 0x40 else
  if !s.dev.powered then s else
  let n := dr.toNat
  let op := n / 2 ^ 70
  let a := n / 2 ^ 32 % 2 ^ 32
  let ok := decide (op < 2) && n / 2 ^ 68 % 4 == 2 && n / 2 ^ 64 % 16 == 0
  let (st, v, s) := if !ok then (stFormat, 0, s.countUnit stFormat a)
    else match s.unitOf (op == 1) .s32 a (n % 2 ^ 32) full with
      | ((st, v) :: _, s) => (st, v, s)
      | ([], s) => (stOk, 0, s)
  s.withTap (fun t => { t with
    ir := 0x40, padsTaken := false, highz := false, dr := BitVec.ofNat 72 (st * 2 ^ 64 + a * 2 ^ 32 + v) })

/-- RB_SCAN: the flip-flops of every logic cell, or zeros (R419, R483). -/
def State.tapScan (s : State) : State :=
  if s.privateOff then s.privateRefused 0x41 else
  if !s.dev.powered then s else
  let ok := s.readbackOk
  let s := s.when (!ok) (fun s => s.inc (cnt16 CFG_CHAN_REFUSE_CNT))
  s.withTap (fun t => { t with
    ir := 0x41, padsTaken := false, highz := false,
    scan := (List.range 20480).map (fun i => ok && s.fab.ff.get false i) })

/-! ### Accesses of other members -/

/-- A RESPONSE to a remote access (R395): the status and the data. -/
def State.respond (s : State) (h : AxHdr) (st v : Nat) : State :=
  s.sendTo h.source { s.frame clMgmt 2 h.source [BitVec.ofNat 32 st, BitVec.ofNat 32 v] with channel := h.channel.toNat }

/-- A remote access arrives at its target, which performs it as though at its own port (R395), or refuses it while
AX0_CTL.mgmt_rx is 0. -/
def State.remoteIn (s : State) (p : Nat) (h : AxHdr) (wr : Bool) (addr val : W32) : State :=
  let (mine, s) := s.arrives p clMgmt (if wr then 1 else 0) h (if wr then [addr, val] else [addr])
  if !mine then s
  else if !s.bit (AX_CTL_mgmt_rx 0) then s.respond h 0xF2 0
  else
    let (st, v, s) := s.access wr 4 addr.toNat val.toNat
    s.respond h st v

/-- A RESPONSE arrives at the initiator (R395). -/
def State.remoteDone (s : State) (p : Nat) (h : AxHdr) (st : Byte) (data : W32) : State :=
  let (mine, s) := s.arrives p clMgmt 2 h [BitVec.ofNat 32 st.toNat, data]
  match s.ax.rmt with
  | some (tag, _) =>
    if !mine || tag != h.channel.toNat then s else
    let s := s.when (!s.bit (AX_RMT_CTL_write 0)) (fun s => s.wr (AX_RMT_DATA 0) data)
    { s.wr (AX_RMT_STAT 0) (BitVec.ofNat 32 st.toNat) with ax := { s.ax with rmt := none } }
  | none => s

/-- 100 µs pass without an answer (R395). -/
def State.remoteLate (s : State) : State :=
  match s.ax.rmt with
  | some (_, t) =>
    if s.elapsed < t + 100 * usNs then s
    else { s.wr (AX_RMT_STAT 0) 0xF1 with ax := { s.ax with rmt := none } }
  | none => s

end Sys2Proof.Machine
end

