-- ==== Sys2Proof/Machine/CueActions.lean ====
section
/-! DEFINITION. Cues at their targets: the judgement at hand-over, the expansion of scenes, and what each action does
at its launch quantum (R91–R96, R104–R110). -/

namespace Sys2Proof.Machine

/-! ### Order and quanta -/

/-- Whether an action acts on a target (NOP, CANCEL and NOTIFY do not). -/
def actTargets (act : Nat) : Bool := !List.contains [0x0, 0xE, 0xF] act

/-- The resource on which a cue acts, if any. -/
def Entry.key (e : Entry) : Option Nat :=
  if actTargets (recAct e.rec_) then some (targetKey (recTarget e.rec_)) else none

/-- Whether a waiting cue goes before another on the same resource (R39, R96). -/
def Entry.blocks (x e : Entry) : Bool :=
  x.id != e.id && x.waits && x.key.isSome && x.key == e.key && x.before e

/-- The raster of the task that a cue on a task register of an engine concerns: the first of several (DESIGN CHOICE,
notes/assumptions/19). -/
def State.taskRg (s : State) (r : CueRec) : Option Nat :=
  let a := recTarget r
  match locate a with
  | some (.se, n, off) =>
    if 0x004 ≤ off ∧ off < 0x014 then
      match (slotsOf a (recAct r) r.a r.b).findSome? (fun i => s.task (n, i)) with
      | some t => if t.rg = 255 then none else some t.rg
      | none => none
    else none
  | _ => none

/-- Whether a cue writes a field in its register's bits `hi` to `lo`. -/
def recWrites (r : CueRec) (hi lo : Nat) : Bool :=
  let m : W32 := BitVec.ofNat 32 (2 ^ (hi + 1) - 2 ^ lo)
  (if recAct r = 1 then BitVec.ofNat 32 ((2 ^ (bitsOf r.b 9 5 + 1) - 1) * 2 ^ (r.b.toNat % 32)) else r.a) &&& m != 0

/-- The quantum of a cue (R94): for the task registers of an engine the line of the task's raster; for FCn_CTL the next
output sample where it writes the response, else the cycle. -/
def State.recQuantum (s : State) (r : CueRec) : Quantum :=
  let a := recTarget r
  match locate a with
  | some (.se, _, _) => (match s.taskRg r with | some rg => .line rg | none => .cycle)
  | some (.fc, c, 0x000) => if recWrites r (FC_CTL_resp 0).hi (FC_CTL_resp 0).lo then .sample c else .cycle
  | _ => if actTargets (recAct r) then s.quantumOf (recAct r) a else .cycle

/-- Whether what gives a quantum does not run: its raster, its chain, or for DIRECTION its cell's keying window, which
never opens (R94, R231, R245). For a quantum other than those of a bus, a raster generator, a timer and DIRECTION the
spec does not say what follows (DESIGN CHOICE, notes/assumptions/19). -/
def State.notRunning (s : State) : Quantum → Bool
  | .cycle => false
  | .line rg => !s.rgOn rg
  | .switching rg => !s.rgOn rg
  | .frame rg => !s.rgOn rg
  | .due rg => !s.rgOn rg
  | .bus k => !s.rgOn (s.g (AMX_AB_TIME_rg k))
  | .sample c => !s.cellUp c
  | .window c => s.neverKeyed c

/-- The quantum at which a cue takes effect: the cycle where what gives its quantum was found not to run at hand-over. -/
def State.entryQuantum (s : State) (e : Entry) : Quantum := if e.atCycle then .cycle else s.recQuantum e.rec_

/-- Whether a frame start that a late cue waits for has begun (R106); a raster that does not run gives none to wait for
(DESIGN CHOICE, notes/assumptions/20). -/
def State.frameReached (s : State) (e : Entry) (q : Nat) : Bool :=
  match e.frameFrom with
  | none => true
  | some f =>
    match s.entryQuantum e with
    | .due _ => decide (f ≤ q)
    | _ =>
      let rg := (s.taskRg e.rec_).getD (s.targetRg (recTarget e.rec_))
      !s.rgOn rg || (s.rgRuns rg && decide (f ≤ (s.rg rg).frameAt) && decide (f ≤ q))

/-- Whether a handed-over cue has reached its quantum: one has begun at or after its earliest instant (R94, R95, R106). -/
def State.quantumReached (s : State) (e : Entry) : Bool :=
  e.stage == .handed &&
  (match s.quantumAt (s.entryQuantum e) with
   | some q => decide (e.earliest ≤ q) && s.frameReached e q
   | none => false)

/-- The seq and origin of the cue that a CANCEL cue names (R91). -/
def Entry.names (e : Entry) : CueId := ⟨BitVec.ofNat 12 (e.rec_.b.toNat % 4096), e.rec_.a, 0⟩

/-- Whether a CANCEL cue of a cue's own service that names it, or the SCENE cue it belongs to, takes effect in this
cycle: the CANCEL wins (R108, R109). -/
def State.cancelled (s : State) (e : Entry) : Bool :=
  s.cue.entries.any (fun x => x.id != e.id && recAct x.rec_ == 0xE && x.names == { e.id with sub := 0 } &&
    recSvc x.rec_ == recSvc e.rec_ && s.quantumReached x)

/-- Whether a cue takes effect now: it has reached its quantum, no cue before it on the same resource still waits, and no
CANCEL of this cycle revokes it (R94, R96, R106, R109). -/
def State.mayEffect (s : State) (e : Entry) : Bool :=
  s.dev.active && s.banksLive && s.quantumReached e && !s.cue.entries.any (fun x => x.blocks e) && !s.cancelled e

/-! ### The actions -/

/-- The register write that an action makes, as value and mask: WRITE_FIELD, SET_BITS, CLEAR_BITS, ROUTE, FREEZE and
RELEASE (R91); none where an operand breaks its range. -/
def writeOf (r : CueRec) : Option (W32 × W32) :=
  match recAct r with
  | 0x1 =>
    let lo := r.b.toNat % 32
    let width := bitsOf r.b 9 5 + 1
    if 32 < lo + width ∨ 2 ^ width ≤ r.a.toNat then none
    else some (BitVec.ofNat 32 (r.a.toNat * 2 ^ lo), BitVec.ofNat 32 ((2 ^ width - 1) * 2 ^ lo))
  | 0x2 => some (r.a, r.a)
  | 0x3 => some (0, r.a)
  | 0x5 => some (r.a, 0xFFFFFFFF)
  | 0xB => some (2, 3)
  | 0xC => if r.a.toNat < 2 then some (r.a, 3) else none
  | _ => none

/-- Whether the target of an action is of the kind that its row names (R91). -/
def targetFits (act a : Nat) : Bool :=
  match act, locate a with
  | 0x5, some (.lp, _, off) => off == 0x00C
  | 0x5, some (.amx, _, off) => decide (off < 0x040)
  | 0x5, _ => false
  | 0x6, some (.ac, _, off) => off == 0x008
  | 0x6, _ => false
  | 0x7, some (.ac, _, off) => off == 0x004
  | 0x7, _ => false
  | 0x8, some (.gp, _, off) => off == 0x00
  | 0x8, _ => false
  | 0x9, some (.ds, _, _) => true
  | 0x9, _ => false
  | 0xA, some (.ba, _, _) => true
  | 0xA, _ => false
  | 0xB, some (b, _, off) | 0xC, some (b, _, off) =>
    (b == .sys && decide (0x070 ≤ off) && decide (off < 0x088)) || (b == .tb && off == 0x020) ||
    (b == .lp && off == 0x01C) || (b == .ac && off == 0x014) || (b == .fc && off == 0x00C) || (b == .se && off == 0x044)
  | 0xB, none => false
  | 0xC, none => false
  | _, _ => true

/-- Whether a cue of a service may change what an action acts on; a pin in a PIN cue's mask that is not the service's
own makes FENCE, one of the housekeeping pool with it (R92, R121: DEDUCED, notes/assumptions/18). -/
def actOwned (act svc : Nat) (l : List Owner) : Why :=
  let w := ownersOk svc l
  if act = 0x8 ∧ w = .housekeeping then .fence else w

/-- The owners of the resource that a cue of an action without a register write acts on. -/
def State.actOwners (s : State) (r : CueRec) : List Owner :=
  let a := recTarget r
  match recAct r, locate a with
  | 0x8, some (.gp, b, _) => (bitList (r.b &&& 0xFFFF)).map (fun i => s.ownerOf kGpio (16 * b + i))
  | 0xD, some (.lp, p, _) =>
    (match [s.ownerOf kLpRx p, s.ownerOf kLpTx p].filter (· != .pool) with | [] => [.pool] | l => l)
  | 0xD, some (.se, n, _) =>
    (match s.se.tasks.filter (fun t => t.id.1 == n && Owner.svc t.service == .svc (recSvc r)) with
     | [] => [.pool] | _ => [.svc (recSvc r)])
  | _, _ => [s.regOwner a]

/-- A WAKE cue (R91): the resource wakes with its dependencies, and does not fall asleep for the given time after it is
ready. -/
def State.wakeHold (s : State) (a us : Nat) : State :=
  match targetRes a with
  | none => s
  | some r =>
    let s := s.wake r
    let x := s.res r
    if x.power == .ready then s.setRes r { x with holdUntil := some (s.elapsed + us * usNs) }
    else s.setRes r { x with holdUs := us }

/-- A CANCEL cue (R108–R110): the cue it names leaves the queue with its chain; one of another service is left, and one
that is not there is missed. -/
def State.cancelCue (s : State) (e : Entry) : Why × State :=
  match s.entry e.names with
  | none => (.ok, (s.inc (cnt16 CUE_CANCEL_MISS_CNT)).eventNow 0x12 (recSvc e.rec_) e.rec_.a)
  | some x =>
    if recSvc x.rec_ ≠ recSvc e.rec_ then (.fence, s)
    else (.ok, ((s.removeCue x).inc (cnt16 CUE_CANCEL_CNT)).nextInstances)

/-- What a cue of a service brings about at its target, with the answer that R92 gives it: the effect of its action
(R91). A SCENE cue itself changes nothing; its internal cues do (R93). -/
def State.act (s : State) (e : Entry) : Why × State :=
  let r := e.rec_
  let a := recTarget r
  let svc := recSvc r
  let code := recAct r
  let owned : Why := actOwned code svc (s.actOwners r)
  let refuse (why : Why) : Why × State :=
    (why, s.when (why == .fence || why == .housekeeping) (fun s => s.countFence a why))
  if !actTargets code then
    (if code = 0xE then s.cancelCue e
     else if code = 0xF then (.ok, s.eventNow 0x00 svc r.a)
     else (.ok, s))
  else if code = 0x4 then (.ok, s)
  else if !targetFits code a then (if owned = .ok then refuse .access else refuse owned)
  else if [0x1, 0x2, 0x3, 0x5, 0xB, 0xC].contains code then
    match writeOf r with
    | some (v, m) => if (rowOf a).isNone then refuse .access else s.writeReg (.cue svc code) a v m
    | none => if s.cueOwns svc code a 0 0 0 0 = .fence then refuse .fence else refuse .encoding
  else if owned ≠ .ok then refuse owned
  else match code, locate a with
    | 0x6, some (.ac, c, _) =>
      if 720 < r.a.toNat % 1024 then refuse .encoding
      else (.ok, s.gainCue c (r.a.toNat % 1024) (r.a.getLsbD 16) (r.b.toNat % 65536))
    | 0x7, some (.ac, c, _) => (.ok, s.turn c (r.a.toNat % 2) e.atCycle)
    | 0x8, some (.gp, b, _) => (.ok, s.pinCue b (r.a.toNat % 65536) (r.b.toNat % 65536) r.launch)
    | 0x9, some (.ds, d, _) =>
      if s.bit (DS_CTL_timing d) then refuse .access
      else if s.g (DS_CTL_nb d) < r.a.toNat % 4 then refuse .encoding
      else (.ok, s.setStream d { s.stream d with arm := some (r.a.toNat % 4) })
    | 0xA, some (.ba, b, _) => (.ok, s.setBarrier b (r.a.getLsbD 16) (r.a.toNat % 65536))
    | 0xD, _ => (.ok, s.wakeHold a (r.a.toNat % 65536))
    | _, _ => refuse .access

/-! ### Hand-over -/

/-- The check of R92 at hand-over: what the action would be answered at this moment. -/
def State.judge (s : State) (e : Entry) : Why :=
  if recAct e.rec_ = 0xE then .ok else (s.act e).1

/-- The cue-engine cycle in which a cue falls due for hand-over: 1 µs before its launch time (R104). -/
def Entry.dueCycle (e : Entry) : Nat := (e.rec_.launch.toNat - 1000) * 2 / 5

/-- Whether a cue could be handed over now: it is queued, its launch time is 1 µs ahead or less, and its target is ready. -/
def State.fallsDue (s : State) (e : Entry) : Bool :=
  e.stage == .queued && e.id.sub == 0 && decide (e.rec_.launch.toNat ≤ s.now + 1000) &&
    (!actTargets (recAct e.rec_) || s.targetReady (recTarget e.rec_))

/-- Whether a cue goes before another of the same cycle on a different resource: class code, then service, then CUE ORDER
(R348). -/
def State.classBefore (s : State) (x e : Entry) : Bool :=
  let cx := s.g (SV_CTL_class (recSvc x.rec_))
  let ce := s.g (SV_CTL_class (recSvc e.rec_))
  if cx ≠ ce then cx < ce
  else if recSvc x.rec_ ≠ recSvc e.rec_ then recSvc x.rec_ < recSvc e.rec_ else x.before e

/-- Whether it is a cue's turn among those that fall due in its cycle: it is the first on its resource, and of the first
ones of all resources none goes before it (R39, R348). -/
def State.handoverTurn (s : State) (e : Entry) : Bool :=
  let l := s.cue.entries.filter (fun x => s.fallsDue x && x.dueCycle == e.dueCycle)
  let first := l.filter (fun x => l.all (fun y => !y.blocks x))
  e.id.sub != 0 || (l.all (fun y => !y.blocks e) && first.all (fun x => x.id == e.id || !s.classBefore x e))

/-- A cue that is due is handed over, rejected, or found late (R92, R104–R107). An internal cue of a scene is treated in
the same way (R93). -/
def State.handoverOne (s : State) (id : CueId) : State :=
  match s.entry id with
  | none => s
  | some e =>
    let a := recTarget e.rec_
    let launch := e.rec_.launch.toNat
    if e.stage != .queued || !s.dev.active || decide (s.now + 1000 < launch) then s else
    let ready := !actTargets (recAct e.rec_) || s.targetReady a
    let behindLate := s.cue.entries.any (fun x => x.late && x.blocks e)
    let s := if !e.late && (!ready || behindLate) then s.becomeLate e else s
    match s.entry id with
    | none => s
    | some e =>
      if !ready || !s.handoverTurn e then s else
      match s.judge e with
      | .ok =>
        s.updEntry id (fun x => { x with
          stage := .handed,
          earliest := if e.late then Nat.max launch (s.now + 1000) else launch,
          frameFrom := if e.late && recPolicy e.rec_ == 1 then
              some (Nat.max (s.now - (s.elapsed - s.targetReadyAt a)) e.lateAt + 1000) else none,
          atCycle := s.notRunning (s.recQuantum e.rec_) })
      | why => ((s.act e).2).rejectCue e why.reason

/-- The internal cues of a scene, in pool order: launch time, seq, origin, service and LATE policy are the SCENE cue's
(R93). -/
def State.sceneEntries (s : State) (e : Entry) (sc : SceneSt) : List Entry :=
  sc.entries.zipIdx.map (fun x => { e with
    id := { e.id with sub := x.2 + 1 },
    rec_ := { e.rec_ with target := x.1.1, action := x.1.2.1, a := x.1.2.2.1, b := x.1.2.2.2,
                          flags := e.rec_.flags &&& 0x60 },
    stage := .queued, claims := [], script := none, order := s.cue.order + x.2 })

/-- A cue is handed over; a SCENE cue is expanded into its internal cues (R92, R93, R171). -/
def State.handover (s : State) (id : CueId) : State :=
  match s.entry id with
  | none => s
  | some e =>
    let s := s.handoverOne id
    match s.entry id with
    | none => s
    | some h =>
      if recAct e.rec_ ≠ 0x4 ∨ e.stage ≠ .queued ∨ h.stage ≠ .handed then s else
      match s.cue.scenes[e.rec_.a.toNat]? with
      | none => s.rejectCue h whyEncoding
      | some sc =>
        if sc.service ≠ recSvc e.rec_ then s.rejectCue h whyFence else
        let l := s.sceneEntries h sc
        let s := s.setEntries (s.cue.entries ++ l)
        let s := { s with cue := { s.cue with order := s.cue.order + l.length } }
        s.each (l.map (fun x => x.id)) (fun s i => s.handoverOne i)

/-! ### Effect -/

/-- A cue takes effect at its quantum, or is refused there by a rule that its target has come under since its hand-over
(R92, R94–R96). -/
def State.takeEffect (s : State) (e : Entry) : State :=
  match s.act e with
  | (.ok, s') => s'.cueDone e
  | (why, s') => s'.rejectCue e why.reason

/-- The cue of an action takes effect, once it may. -/
def State.cueEffect (s : State) (code : Nat) (id : CueId) : State :=
  match s.entry id with
  | none => s
  | some e =>
    if recAct e.rec_ == code && code != 0x4 && s.mayEffect e then s.takeEffect e else s

/-- The internal cues of a scene that may take effect now do so, in pool order (R93). -/
def State.sceneEffect (s : State) (id : CueId) : State :=
  let mine := s.cue.entries.filter (fun x => x.id.origin == id.origin && x.id.seq == id.seq && x.id.sub != 0)
  s.each mine (fun s x =>
    match s.entry x.id with
    | some e => if s.mayEffect e then s.takeEffect e else s
    | none => s)

/-- The wake of a pre-roll (R102): from launch time − preroll µs on. -/
def State.prerollDue (s : State) (id : CueId) : State :=
  match s.entry id with
  | some e =>
    if recPreroll e.rec_ && e.stage == .queued && s.dev.active &&
        decide (e.rec_.launch.toNat ≤ s.now + e.rec_.preroll.toNat * usNs) then s.wakeCue e
    else s
  | none => s

/-- A cue that enters the queue after T_end of a drain is removed if its launch time does not lie before T_end (step 3 of
DRAIN, R146). -/
def State.drainLate (s : State) : State :=
  match s.pwr.drain, s.drainEnd with
  | some d, some t => if d.cut then s.drainCut t else s
  | _, _ => s

/-- A parked successor leaves its parking once its predecessor has taken effect, and enters the queue with its delay
counted from that instant (R115). -/
def State.unpark (s : State) (id : CueId) : State :=
  match s.entry id with
  | some e =>
    match e.stage with
    | .released t => (s.goQueued id (t + e.rec_.launch.toNat)).drainLate
    | _ => s
  | none => s

/-! ### Intake -/

/-- Removal of the first entry of a mailbox slot list. -/
def cueOfSlot (s : State) (k : Nat) : CueRec := cueOfWords ((List.range 8).map (fun i => s.rd (CUE_MBX (8 * k + i))))

/-- The status that a mailbox slot shows (R129), with the seq it was assigned. -/
def State.slotTaken (s : State) (k : Nat) (t : Taken) : State :=
  let s := s.p (mbxStat k) t.status
  match t with
  | .accepted q => s.wr (CUE_MBX_SEQ k) q
  | _ => s

/-- The next record of the mailbox is taken in slot order (R129): a record that ends its chain, or a single one, is judged
with the records of the chain taken before it; the submission's end leaves a chain open (R115, R116). -/
def State.takeMailbox (s : State) : State :=
  match s.cue.mailbox with
  | [] => s
  | [] :: rest => { s with cue := { s.cue with mailbox := rest } }
  | (k :: l) :: rest =>
    let slots := s.cue.slotsTaken ++ [k]
    let open_ := recChain (cueOfSlot s k)
    let s := { s with cue := { s.cue with mailbox := if l.isEmpty then rest else l :: rest } }
    if open_ && !l.isEmpty then { s with cue := { s.cue with slotsTaken := slots } } else
    let s := { s with cue := { s.cue with slotsTaken := [] } }
    let (res, s) := s.acceptChain .observer (slots.map (cueOfSlot s)) open_ none
    s.each (slots.zip res) (fun s x => s.slotTaken x.1 x.2)

/-- The next record of the ENGINE source is taken, with its owner in byte 13 (R101); chains as for the mailbox (R115). -/
def State.takeEngine (s : State) : State :=
  match s.cue.engIn with
  | [] => s
  | (_, []) :: rest => { s with cue := { s.cue with engIn := rest } }
  | (svc, r :: l) :: rest =>
    let recs := s.cue.engTaken ++ [{ r with service := BitVec.ofNat 8 svc }]
    let open_ := recChain r
    let s := { s with cue := { s.cue with engIn := if l.isEmpty then rest else (svc, l) :: rest } }
    if open_ && !l.isEmpty then { s with cue := { s.cue with engTaken := recs } }
    else (({ s with cue := { s.cue with engTaken := [] } } : State).acceptChain .engine recs open_ none).2

/-- The next record of an instance of a script entry is taken (R124); the instance with its chain is inserted with its last
record. An instance of another entry does not come between (R115). -/
def State.takeScript (s : State) (e : Nat) : State :=
  if !s.cue.scriptIn.contains e then s else
  let n := if s.cue.scriptTaken.1 = e then s.cue.scriptTaken.2 + 1 else 1
  if s.cue.scriptTaken.2 ≠ 0 ∧ s.cue.scriptTaken.1 ≠ e then s
  else if n < (s.scriptChain e 17).length then { s with cue := { s.cue with scriptTaken := (e, n) } }
  else
    ({ s with cue := { s.cue with
      scriptIn := s.cue.scriptIn.filter (· != e), scriptTaken := (0, 0) } } : State).insertScript e

/-- The next record of the AXLINK source is taken (R89). -/
def State.takeAxlink (s : State) : State :=
  match s.cue.axIn with
  | [] => s
  | r :: rest => (({ s with cue := { s.cue with axIn := rest } } : State).acceptChain .axlink [r] false none).2

/-- A fired cue enters the queue as source EVENT (R111, R113): its launch time is the cause time plus its delay. -/
def State.takeFired (s : State) : State :=
  match s.cue.entries.find? (fun e => match e.stage with | .fired _ => true | _ => false) with
  | some e =>
    match e.stage with
    | .fired c => ((s.incWrap (word (sourceCnt .event))).goQueued e.id (c + e.rec_.launch.toNat)).drainLate
    | _ => s
  | none => s

/-- The index of a source in the intake's rotation, in the order of the cue sources' table. -/
def intakeIndex : Intake → Nat
  | .script _ => 0 | .observer => 1 | .axlink => 2 | .event => 3 | .engine => 4

/-- Whether a source has a record pending. In DRAIN intake is closed, and only a cue that has fired enters the queue (R113,
R129, R146). -/
def State.pendingFrom (s : State) (i : Nat) : Bool :=
  if i = 3 then s.cue.entries.any (fun e => match e.stage with | .fired _ => true | _ => false)
  else s.intakeOpen &&
    (if i = 0 then !s.cue.scriptIn.isEmpty else if i = 1 then !s.cue.mailbox.isEmpty
     else if i = 2 then !s.cue.axIn.isEmpty else !s.cue.engIn.isEmpty)

/-- The source whose turn it is: the first with a record pending in the rotation (R100). The order of the rotation is that
of the cue sources' table (DESIGN CHOICE, notes/assumptions/23). -/
def State.nextSource (s : State) : Option Nat :=
  ((List.range 5).map (fun i => (s.cue.turn + i) % 5)).find? (fun i => s.pendingFrom i)

/-- Whether the intake takes a record of a source now: it is open, no record has been taken in this cycle, and it is the
source's turn (R100, R129). -/
def State.mayTake (s : State) (i : Nat) : Bool :=
  (s.intakeOpen || s.dev == .drain) && decide (s.cue.takenCycle ≤ s.cueCycle) && s.nextSource == some i

/-- The cue engine takes the next record of a source (R88, R100). A cue that has fired still enters the queue in DRAIN,
where only what is armed is removed (R113, R146). -/
def State.intake (s : State) (src : Intake) : State :=
  if !s.mayTake (intakeIndex src) then s else
  let s := { s with cue := { s.cue with turn := (intakeIndex src + 1) % 5, takenCycle := s.cueCycle + 1 } }
  match src with
  | .script e => s.takeScript e.val
  | .observer => s.takeMailbox
  | .axlink => s.takeAxlink
  | .event => s.takeFired
  | .engine => s.takeEngine

end Sys2Proof.Machine
end

