-- ==== Sys2Proof/Machine/Registers.lean ====
section
/-! DEFINITION. Commands of the register map as a whole: plain writes and reads, seeds of the adaptive loops, and
resources that become ready. -/

namespace Sys2Proof.Machine

/-- REGISTER_WRITE (R513): a write to a register, judged field by field and applied or refused. -/
def execRegisterWrite (at_ : TT) (addr val : W32) (s : State) : Host.Outcome State Fault Refusal :=
  timed at_ (fun s => s.portWrite addr.toNat val) s

/-- CLEARING_READ (R15): a whole 32-bit read returns the value, and the RC fields clear. -/
def execClearingRead (at_ : TT) (addr : W32) (s : State) : Host.Outcome State Fault Refusal :=
  timed at_ (fun s => s.portRead addr.toNat false) s

/-- PAIR_LO_READ (R474): a read of a _LO register snapshots its _HI partner; a 64-bit read returns both. -/
def execPairLoRead (at_ : TT) (addr : W32) (wide : Bool) (s : State) : Host.Outcome State Fault Refusal :=
  timed at_ (fun s => s.portRead addr.toNat wide) s

/-- TT_SNAPSHOT_READ (R55): a read of TB_TT_NS_LO snapshots TB_TT_NS_HI and TB_TT_FRAC. -/
def execTtSnapshotRead (at_ : TT) (wide : Bool) (s : State) : Host.Outcome State Fault Refusal :=
  timed at_ (fun s => s.portRead TB_TT_NS_LO wide) s

/-- The register that holds the setting of a loop (loop table, R27). -/
def loopSet : LoopId → Nat
  | .eq p => LP_EQ_SET p
  | .servo => TB_SERVO_BW
  | .dcr c => AC_DCR_SET c
  | .dcb c => FC_DCB_SET c
  | .sleep k => SYS_SLEEP_DLY k
  | .carousel => SE_CAR_DWELL 0

/-- LOOP_SEED_WRITE (R33): a write of a loop's setting seeds the loop, clamped. -/
def execLoopSeedWrite (at_ : TT) (l : LoopId) (val : W32) (s : State) : Host.Outcome State Fault Refusal :=
  timed at_ (fun s => s.portWrite (loopSet l) val) s

/-- The CDR of a receiving port locks (R200–R202): the rate locked, the time from isolation release, and an INFO event. An
AUTO that has no rate to try does not lock. -/
def State.lockCdr (s : State) (p : Nat) : State :=
  if !(s.dev.active && s.lpReceives p && s.isReady (rLp p) && s.bit (LP_STAT_signal p)) ||
      s.bit (LP_STAT_cdr_locked p) then s else
  let x := s.lpSt p
  let rate := if s.g (LP_RX_CTL_rate p) = 15 then x.trialRate else s.g (LP_RX_CTL_rate p)
  if rate = 0 then s else
  let s := (s.pb (LP_STAT_cdr_locked p) true).p (LP_STAT_rx_rate p) rate
  let s := s.wr (LP_LOCK_TIME p) (BitVec.ofNat 32 (min (s.elapsed - x.searchFrom) 262143))
  let s := s.setLp p { s.lpSt p with lockSince := some s.elapsed }
  s.eventNow 0x19 (s.ownerOf kLpRx p).byte (BitVec.ofNat 32 (rate * 256 + p))

/-- Whether a receiving line port may become ready now: with lock, at any time up to the bound, without it at the bound
(R138). -/
def State.lpReadyNow (s : State) (p : Nat) (locked : Bool) : Bool :=
  !s.lpReceives p || (locked && s.bit (LP_STAT_signal p)) ||
    (match (s.res (rLp p)).power with | .winding t _ => s.elapsed - t == 12000 | _ => false)

/-- A resource becomes ready (R138): a line port that receives starts its search at its isolation release, 4 µs after
the wake (R200), and may lock at this instant; a cell starts its chain. -/
def State.becomeReady (s : State) (r : Nat) (locked : Bool) : State :=
  if !s.readyNow r || (decide (r < 32) && !s.lpReadyNow r locked) then s else
  let from_ := match (s.res r).power with | .winding t _ => t + 4000 | _ => s.elapsed
  let s := s.markReady r
  if r < 32 then
    if !s.lpReceives r then s else
    let s := s.startSearch r
    let s := s.setLp r { s.lpSt r with searchFrom := min from_ s.elapsed, trialFrom := min from_ s.elapsed }
    s.when locked (fun s => s.lockCdr r)
  else if r < 80 then s.cellReady (r - 32)
  else s

/-- RESOURCE_READY (R138, R140): a resource that winds up becomes ready; `locked` says that a receiving line port's CDR
locks at this instant. -/
def execResourceReady (at_ : TT) (r : Fin 127) (locked : Bool) (s : State) : Host.Outcome State Fault Refusal :=
  timed at_ (fun s => s.becomeReady r locked) s

end Sys2Proof.Machine
end

