-- ==== Sys2Proof/Machine/TroupeTime.lean ====
section
/-! DEFINITION. Commands of troupe time: the reference sources, the servo, time of day, raster generators and blanking
timers. -/

namespace Sys2Proof.Machine

/-! ### Reference sources -/

/-- A reference frame of the named format is detected (R65, R66). -/
def State.genlockSeen (s : State) (format : Nat) (err : Int) : State :=
  match formatOf (s.g TB_GEN_CTL_format) with
  | none => s
  | some f =>
    if !s.servoOn || f.code != format then s else
    let s := s.loseOverdue 1
    s.refEvent 1 (f.wrapErr err) (s.refFollows 1) (s.refPresent 1)

/-- GENLOCK_FRAME (R65): the operands are the format detected and TT minus the reference's instant in 2⁻⁸ ns. -/
def execGenlockFrame (at_ : TT) (format : BitVec 6) (err : BitVec 64) (s : State) : Host.Outcome State Fault Refusal :=
  timed at_ (fun s => s.genlockSeen format.toNat err.toInt) s

/-- An armed time of day that has met no edge within 2 s is discarded with a NOTICE (R68). -/
def State.todExpire (s : State) : State :=
  match s.tb.tod with
  | some (_, t) =>
    if s.elapsed < t + 2 * secNs then s else
    (({ s with tb := { s.tb with tod := none } } : State).pb TB_TOD_CTL_armed false).eventNow 0x0A 0 0
  | none => s

/-- Whether a PPS edge arrives inside the window about an expected instant of a qualified source, whole seconds after its
last edge (source table, R61). -/
def State.ppsExpected (s : State) : Bool :=
  match (s.srcSt 2).lastAt with
  | some t =>
    let d := s.elapsed - t
    decide (10000 < d) && (decide (d % secNs ≤ 10000) || decide (secNs - 10000 ≤ d % secNs))
  | none => false

/-- A PPS_IN edge. A qualified source takes it as a reference event inside ± 10 µs of an expected instant; outside it
leaves that instant without an edge (R61). Otherwise it follows the last edge where it comes 1 s ± 10 µs after it
(source table). An armed time of day is applied (R68). -/
def State.ppsSeen (s : State) (err : Int) : State :=
  if !s.servoOn then s else
  let s := s.loseOverdue 2
  let follows := s.refFollows 2 && (match (s.srcSt 2).lastAt with
    | some t => decide (secNs - 10000 ≤ s.elapsed - t)
    | none => false)
  let s := if s.qualified 2 then (if s.ppsExpected then s.refEvent 2 err true true else s)
    else s.refEvent 2 err follows (s.refPresent 2)
  let s := s.todExpire
  match s.tb.tod with
  | some (v, _) => (({ s with tb := { s.tb with tod := none } } : State).pb TB_TOD_CTL_armed false).todApply v
  | none => s

/-- PPS_EDGE (R68, R71): the operand is TT minus the whole second of the edge in 2⁻⁸ ns. -/
def execPpsEdge (at_ : TT) (err : BitVec 64) (s : State) : Host.Outcome State Fault Refusal :=
  timed at_ (fun s => s.ppsSeen err.toInt) s

/-- A source that must be present for requal_s without a loss condition qualifies, its initial qualification met (R54,
R60); OBSERVER needs no presence. -/
def State.requalify (s : State) (c : Nat) : State :=
  let x := s.srcSt c
  match x.since with
  | none => s
  | some t =>
    if !s.servoOn || c == 4 || s.qualified c || !x.requal || !s.refPresent c || decide (x.run < initialRun c) ||
        decide (s.elapsed < t + s.g TB_SRC_QUAL_requal_s * secNs) then s
    else s.qualify c

/-- SOURCE_REQUALIFY (R60). -/
def execSourceRequalify (at_ : TT) (src : RefSrc) (s : State) : Host.Outcome State Fault Refusal :=
  timed at_ (fun s => s.requalify (srcCode src)) s

/-- SRC_LOSS (R61): a qualified source meets its loss condition, `cause` being the expected instant of the last missed
reference event; OBSERVER is never lost. -/
def execSrcLoss (at_ : TT) (src : RefSrc) (cause : TT) (s : State) : Host.Outcome State Fault Refusal :=
  timed at_ (fun s => if s.servoOn && src != .observer then s.loseSource (srcCode src) cause.toNat else s) s

/-- TB_SRC_PRIO_WRITE (R59, R61): a source that becomes ineligible gives way to the next, or to HOLD. -/
def execTbSrcPrioWrite (at_ : TT) (val : W32) (s : State) : Host.Outcome State Fault Refusal :=
  timed at_ (fun s => s.portWrite TB_SRC_PRIO val) s

/-! ### Servo, time of day, ageing -/

/-- The 1 s update, at a whole second of TT: the mean of the second, the servo's loop, and the takeover of R62 (R62,
R71). -/
def State.secondUpdate (s : State) : State :=
  if !s.dev.timed || s.now % secNs != 0 || decide (s.elapsed ≤ s.tb.secondAt) then s else
  let s := s.closeSecond
  s.when s.servoOn (fun s => s.servoStep.revertStep)

/-- SERVO_UPDATE (R71). -/
def execServoUpdate (at_ : TT) (s : State) : Host.Outcome State Fault Refusal :=
  timed at_ (fun s => s.secondUpdate) s

/-- TOD_ARM (R68): a write of TB_TOD_CTL. -/
def execTodArm (at_ : TT) (val : W32) (s : State) : Host.Outcome State Fault Refusal :=
  timed at_ (fun s => s.portWrite TB_TOD_CTL val) s

/-- TOD_DISCARD (R68). -/
def execTodDiscard (at_ : TT) (s : State) : Host.Outcome State Fault Refusal :=
  timed at_ (fun s => s.todExpire) s

/-- After 24 h of continuous lock, and every hour from then on, the fit of the last 24 hourly means is averaged into
KEEP_OSC_AGEING at weight 1/8 and counted (R74, R157). -/
def State.fitAgeing (s : State) : State :=
  match s.tb.lockSince with
  | none => s
  | some t =>
    let dt := s.elapsed - t
    if s.g TB_STAT_tb_state != tbLocked || dt < 86400 * secNs || dt % (3600 * secNs) != 0 ||
        s.tb.hourMeans.length < 86400 || (s.tb.fitAt == s.elapsed && s.elapsed != 0) then s else
    let a := (s.keepRd 1).toInt
    let b := a + (ageingSlope (hourSums s.tb.hourMeans 24) - a) / 8
    let s := { s with tb := { s.tb with fitAt := s.elapsed } }
    let s := (s.inc (cnt16 KEEP_AGE_FITS)).keepWritten 2
    ((s.wr KEEP_OSC_AGEING (sword (clampInt (-2147483648) 2147483647 b))).keepWritten 1).pb TB_HO_STAT_learned true

/-- AGEING_FIT (R74). -/
def execAgeingFit (at_ : TT) (s : State) : Host.Outcome State Fault Refusal :=
  timed at_ (fun s => s.fitAgeing) s

/-! ### Raster instants -/

/-- A line of a raster begins: the clamps judge the line just ended, task bits come into force, yo-yo fill and waiting
filter settings follow it, and line ports take and send their lines (R77, R94, R232). -/
def State.lineWork (s : State) (n : Nat) : State :=
  let line := (s.rg n).lineNo
  let s := s.keyedLine n
  let s := (((s.taskLine n).yoyoLine n).filtLine n).monPeriod n false
  let s := s.strobe (2 * n + 1)
  let s := s.each (List.range 32) (fun s p => s.portLine n p)
  let s := s.each (List.range 32) (fun s p => s.rxLineStart n p line)
  s.each (List.range 32) (fun s p => s.txLineStart n p)

/-- The waiting changes of the timers of a raster take hold (R85). -/
def State.timersApply (s : State) (n : Nat) : State :=
  s.each (List.range 32) (fun s b =>
    let x := s.bt b
    if x.change && btRg x.ctl == n then s.btTakes b else s)

/-- The frame that a generator waits for begins under the settings in its registers; it ends an interval of R80, which
makes one adjusted frame. -/
def State.frameBegins (s : State) (n : Nat) : State :=
  let r := s.rg n
  match formatOf (s.g (TB_RG_CTL_format n)) with
  | none => s
  | some f =>
    let off := s.rgOffset n
    let k := r.nextFrame
    let s := s.setRg n { r with
      running := true, waiting := false, format := f.code, offset := off, frame := k, frameAt := r.nextAt,
      frameFrac := BitVec.toNat (BitVec.ofNat 16 (f.frac k)), line := 1, lineAt := r.nextAt, nextFrame := k + 1,
      nextAt := (f.inst off (k + 1) 1 0).toNat, change := false, interval := none, stepped := false }
    let s := s.when r.interval.isSome (fun s =>
      s.event 0x0C (s.ownerOf kRg n).byte (BitVec.ofNat 32 n) r.nextAt)
    let s := ((s.timersApply n).blankAll.gridsCheck).monPeriod n true
    let s := s.yoyoFrame n k
    let s := s.each (List.range 32) (fun s p => (s.portLine n p).txFrameStart n p r.interval.isSome)
    ((s.drainFrame n r.nextAt).strobe (2 * n)).lineWork n

/-- A transmitting port ends its last frame when its raster stops (R80, R213). -/
def State.txStop (s : State) (n p : Nat) : State :=
  let s := s.txLineEnd p
  let x := s.lpSt p
  if !s.txOn n p || !x.sending then s else
  let s := (s.incWrap (word (LP_TX_FRAME_CNT p))).when (x.marked != 0) (fun s =>
    s.eventNow 0x1D (s.ownerOf kLpTx p).byte (BitVec.ofNat 32
      (min x.marked 1048575 * 4096 + (if x.satSeen then 2048 else 0) + (if x.fillSeen then 1024 else 0) + p)))
  s.setLp p { s.lpSt p with
    marked := 0, satSeen := false, fillSeen := false, sending := false, lineNow := 0, wait := [], sentKind := 0 }

/-- A generator stops at a frame start: the frame in progress ends, an interval with it, which line ports count as an
adjusted frame (R214); waiting changes of its timers take hold, and its timers' windows close (R80, R83, R85). -/
def State.rasterStops (s : State) (n : Nat) : State :=
  let r := s.rg n
  let s := s.when r.interval.isSome (fun s =>
    s.event 0x0C (s.ownerOf kRg n).byte (BitVec.ofNat 32 n) r.nextAt)
  let s := s.each (List.range 32) (fun s p => s.when r.interval.isSome (fun s => s.txAdjusted n p))
  let s := s.each (List.range 32) (fun s p => s.txStop n p)
  let s := s.keyedLine n
  let s := s.setRg n { r with running := false, waiting := false, change := false, interval := none, stepped := false }
  let s := s.each (List.range 32) (fun s p => s.lpSettle p false)
  ((((s.timersApply n).closeTimers n).blankAll).gridsCheck).drainFrame n r.nextAt

/-- A generator reaches its next frame start (R80): a change takes effect there, with an interval up to the first
frame start of the new settings; where no frame has begun yet, the generator waits on for that frame start. -/
def State.frameDue (s : State) (n : Nat) : State :=
  let r := s.rg n
  if !s.dev.timed || !s.rgOn n || decide (s.now < r.nextAt) then s
  else if r.change then
    if !s.rgEnabled n then s.rasterStops n
    else
      let s := s.rgSchedule n r.nextAt { r with change := false }
      let r' := s.rg n
      if r'.nextAt = r.nextAt then s.frameBegins n
      else if r.running then s.setRg n { r' with interval := some (r.interval.getD r.nextAt) }
      else s
  else s.frameBegins n

/-- FRAME_START (R77, R80). -/
def execFrameStart (at_ : TT) (rg : Fin 16) (s : State) : Host.Outcome State Fault Refusal :=
  timed at_ (fun s => s.frameDue rg.val) s

/-- A generator reaches its next line start; beyond the last line, lines go on only in an interval of R80. -/
def State.lineDue (s : State) (n : Nat) : State :=
  let r := s.rg n
  match formatOf r.format, r.nextLineAt with
  | some f, some t =>
    if !s.dev.timed || !r.running || decide (s.now < t) || (decide (f.lines ≤ r.line) && !r.held) ||
        decide (r.nextAt ≤ t) then s
    else (s.setRg n { r with line := r.line + 1, lineAt := t }).lineWork n
  | _, _ => s

/-- LINE_START (R77). -/
def execLineStart (at_ : TT) (rg : Fin 16) (s : State) : Host.Outcome State Fault Refusal :=
  timed at_ (fun s => s.lineDue rg.val) s

/-- RGN_CTL_WRITE (R78, R80): a write of RGn_CTL, or of RGn_OFFSET. -/
def execRgnCtlWrite (at_ : TT) (rg : Fin 16) (offset : Bool) (val : W32) (s : State) :
    Host.Outcome State Fault Refusal :=
  timed at_ (fun s => s.portWrite (if offset then TB_RG_OFFSET rg.val else TB_RG_CTL rg.val) val) s

/-- BTN_CTL_WRITE (R85). -/
def execBtnCtlWrite (at_ : TT) (bt : Fin 32) (val : W32) (s : State) : Host.Outcome State Fault Refusal :=
  timed at_ (fun s => s.portWrite (TB_BT_CTL bt.val) val) s

/-- A timer's window opens or closes where its raster places it (R82): keyed cells and blanked monitors follow. -/
def State.windowEdge (s : State) (n : Nat) (opens : Bool) : State :=
  let b := s.bt n
  if b.open_ == opens || s.btCovers b.ctl != opens then s else (s.windowSet n opens).blankAll

/-- BT_WINDOW_EDGE (R82). -/
def execBtWindowEdge (at_ : TT) (bt : Fin 32) (opens : Bool) (s : State) : Host.Outcome State Fault Refusal :=
  timed at_ (fun s => s.windowEdge bt.val opens) s

end Sys2Proof.Machine
end

