-- ==== Sys2Proof/Machine/Cues.lean ====
section
/-! DEFINITION. Commands of the cue engine: records taken, woken for and handed over, the effect of each action, and the
script entries. -/

namespace Sys2Proof.Machine

/-- MAILBOX_SUBMIT (R129): a write of CUE_MBX_SUBMIT. -/
def execMailboxSubmit (at_ : TT) (val : W32) (s : State) : Host.Outcome State Fault Refusal :=
  timed at_ (fun s => s.portWrite CUE_MBX_SUBMIT val) s

/-- CUE_ACCEPT (R88): the cue engine takes the next record of a source. -/
def execCueAccept (at_ : TT) (src : Intake) (s : State) : Host.Outcome State Fault Refusal :=
  timed at_ (fun s => s.intake src) s

/-- PREROLL_WAKE (R102). -/
def execPrerollWake (at_ : TT) (id : CueId) (s : State) : Host.Outcome State Fault Refusal :=
  timed at_ (fun s => s.prerollDue id) s

/-- CUE_HANDOVER (R92, R104). -/
def execCueHandover (at_ : TT) (id : CueId) (s : State) : Host.Outcome State Fault Refusal :=
  timed at_ (fun s => s.handover id) s

/-- NOP: it takes effect at its cycle and does nothing (R91). -/
def execNop (at_ : TT) (id : CueId) (s : State) : Host.Outcome State Fault Refusal :=
  timed at_ (fun s => s.cueEffect 0x0 id) s

/-- WRITE_FIELD: a field of the target register is written at its quantum (R91). -/
def execWriteField (at_ : TT) (id : CueId) (s : State) : Host.Outcome State Fault Refusal :=
  timed at_ (fun s => s.cueEffect 0x1 id) s

/-- SET_BITS: bits of the target register are set at its quantum (R91). -/
def execSetBits (at_ : TT) (id : CueId) (s : State) : Host.Outcome State Fault Refusal :=
  timed at_ (fun s => s.cueEffect 0x2 id) s

/-- CLEAR_BITS: bits of the target register are cleared at its quantum (R91). -/
def execClearBits (at_ : TT) (id : CueId) (s : State) : Host.Outcome State Fault Refusal :=
  timed at_ (fun s => s.cueEffect 0x3 id) s

/-- SCENE: the internal cues of an applied scene take effect at their targets' quanta, in pool order (R93). -/
def execScene (at_ : TT) (id : CueId) (s : State) : Host.Outcome State Fault Refusal :=
  timed at_ (fun s => s.sceneEffect id) s

/-- ROUTE: the source of a line-port output, matrix bus or stream changes at its quantum (R91). -/
def execRoute (at_ : TT) (id : CueId) (s : State) : Host.Outcome State Fault Refusal :=
  timed at_ (fun s => s.cueEffect 0x5 id) s

/-- GAIN_STEP: a PGA gain is set or ramped (R91, R221). -/
def execGainStep (at_ : TT) (id : CueId) (s : State) : Host.Outcome State Fault Refusal :=
  timed at_ (fun s => s.cueEffect 0x6 id) s

/-- DIRECTION: a cell begins to change its direction (R228, R231). -/
def execDirection (at_ : TT) (id : CueId) (s : State) : Host.Outcome State Fault Refusal :=
  timed at_ (fun s => s.cueEffect 0x7 id) s

/-- PIN: the masked function-0 levels of a GPIO bank are written (R426). -/
def execPin (at_ : TT) (id : CueId) (s : State) : Host.Outcome State Fault Refusal :=
  timed at_ (fun s => s.cueEffect 0x8 id) s

/-- STREAM_ARM: a stream's base index is set at its unit start (R91, R322). -/
def execStreamArm (at_ : TT) (id : CueId) (s : State) : Host.Outcome State Fault Refusal :=
  timed at_ (fun s => s.cueEffect 0x9 id) s

/-- BARRIER: a barrier count is set or added to (R327). -/
def execBarrier (at_ : TT) (id : CueId) (s : State) : Host.Outcome State Fault Refusal :=
  timed at_ (fun s => s.cueEffect 0xA id) s

/-- FREEZE: an adaptive loop holds its setting (R31, R91). -/
def execFreeze (at_ : TT) (id : CueId) (s : State) : Host.Outcome State Fault Refusal :=
  timed at_ (fun s => s.cueEffect 0xB id) s

/-- RELEASE: an adaptive loop resumes in FREE or BOUNDED mode (R31, R91). -/
def execRelease (at_ : TT) (id : CueId) (s : State) : Host.Outcome State Fault Refusal :=
  timed at_ (fun s => s.cueEffect 0xC id) s

/-- WAKE: a resource wakes and is held awake (R91). -/
def execWake (at_ : TT) (id : CueId) (s : State) : Host.Outcome State Fault Refusal :=
  timed at_ (fun s => s.cueEffect 0xD id) s

/-- WAKE_HOLD_EXPIRE (R143): the hold of a WAKE cue runs out. -/
def execWakeHoldExpire (at_ : TT) (r : Fin 127) (s : State) : Host.Outcome State Fault Refusal :=
  timed at_ (fun s => s.holdEnds r.val) s

/-- CANCEL: the named cue is removed with its successors (R108–R110). -/
def execCancel (at_ : TT) (id : CueId) (s : State) : Host.Outcome State Fault Refusal :=
  timed at_ (fun s => s.cueEffect 0xE id) s

/-- NOTIFY: an event record carries the cue's operand (R91). -/
def execNotify (at_ : TT) (id : CueId) (s : State) : Host.Outcome State Fault Refusal :=
  timed at_ (fun s => s.cueEffect 0xF id) s

/-- CHAIN_SUCCESSOR_RELEASE (R115). -/
def execChainSuccessorRelease (at_ : TT) (id : CueId) (s : State) : Host.Outcome State Fault Refusal :=
  timed at_ (fun s => s.unpark id) s

/-- The entry of an origin that has been silent for 500 µs of TT leaves the de-duplication table (R119). -/
def State.dedupExpire (s : State) (origin : MemberId) : State :=
  { s with cue := { s.cue with dedup := s.cue.dedup.filter (fun d => d.origin != origin || d.live s.elapsed) } }

/-- DEDUP_ENTRY_EXPIRE (R119). -/
def execDedupEntryExpire (at_ : TT) (origin : MemberId) (s : State) : Host.Outcome State Fault Refusal :=
  timed at_ (fun s => s.dedupExpire origin) s

/-- A write of CUE_SCRIPT_ENw through the port that changes the bit of one entry. -/
def State.scriptWrite (s : State) (e : Nat) (on : Bool) : State :=
  let old := s.rd (CUE_SCRIPT_EN (e / 32))
  let bit : W32 := BitVec.ofNat 32 (2 ^ (e % 32))
  s.portWrite (CUE_SCRIPT_EN (e / 32)) (if on then old ||| bit else old &&& ~~~bit)

/-- SCRIPT_ENTRY_ENABLE (R125): the entry's enable bit is set by a write of CUE_SCRIPT_ENw. -/
def execScriptEntryEnable (at_ : TT) (e : Fin 1024) (s : State) : Host.Outcome State Fault Refusal :=
  timed at_ (fun s => s.scriptWrite e.val true) s

/-- SCRIPT_ENTRY_DISABLE (R125): the entry's enable bit is cleared by a write of CUE_SCRIPT_ENw. -/
def execScriptEntryDisable (at_ : TT) (e : Fin 1024) (s : State) : Host.Outcome State Fault Refusal :=
  timed at_ (fun s => s.scriptWrite e.val false) s

/-- An instance refused for quota is tried again when its time has come (R125, R126). -/
def State.retryScript (s : State) (e : Nat) : State :=
  match s.script e with
  | none => s
  | some x =>
    match x.retryAt with
    | none => s
    | some t => if s.intakeOpen && decide (t ≤ s.elapsed) then s.insertScript e else s

/-- SCRIPT_INSTANCE_RETRY (R125, R126). -/
def execScriptInstanceRetry (at_ : TT) (e : Fin 1024) (s : State) : Host.Outcome State Fault Refusal :=
  timed at_ (fun s => s.retryScript e.val) s

end Sys2Proof.Machine
end

