-- ==== Sys2Proof/Machine/States.lean ====
section
/-! DEFINITION. Commands of the device states, of sleep and wind-up, and of the battery domain. The steps of the image
loader stand in Load.lean. -/

namespace Sys2Proof.Machine

/-- REQ_STANDBY (R134): a STANDBY request enters DRAIN towards STANDBY, or is refused; a write of SYS_STATE_REQ. -/
def execReqStandby (at_ : TT) (s : State) : Host.Outcome State Fault Refusal :=
  timed at_ (fun s => s.portWrite SYS_STATE_REQ 1) s

/-- REQ_RUN (R134): a RUN request wakes the device from STANDBY, or is refused; a write of SYS_STATE_REQ. -/
def execReqRun (at_ : TT) (s : State) : Host.Outcome State Fault Refusal :=
  timed at_ (fun s => s.portWrite SYS_STATE_REQ 2) s

/-- REQ_RELOAD (R134): a RELOAD request passes through DRAIN or directly to RESET and then LOAD; a write of SYS_STATE_REQ. -/
def execReqReload (at_ : TT) (s : State) : Host.Outcome State Fault Refusal :=
  timed at_ (fun s => s.portWrite SYS_STATE_REQ 3) s

/-- REQ_INSPECT (R134): an INSPECT request enters DRAIN towards INSPECT, or is refused; a write of SYS_STATE_REQ. -/
def execReqInspect (at_ : TT) (s : State) : Host.Outcome State Fault Refusal :=
  timed at_ (fun s => s.portWrite SYS_STATE_REQ 4) s

/-- REQ_RESET (R134): a RESET request puts the device into RESET; a write of SYS_STATE_REQ. -/
def execReqReset (at_ : TT) (s : State) : Host.Outcome State Fault Refusal :=
  timed at_ (fun s => s.portWrite SYS_STATE_REQ 5) s

/-- MAIN_SUPPLY_LOST (R132, R133): the device enters KEEP, its battery domain supplied. -/
def execMainSupplyLost (at_ : TT) (s : State) : Host.Outcome State Fault Refusal :=
  timed at_ (fun s => if s.dev.powered then s.enterKeep else s) s

/-- POWER_OFF (R132): VDD_AO and VBAT are both lost. -/
def execPowerOff (at_ : TT) (s : State) : Host.Outcome State Fault Refusal :=
  timed at_ (fun s => s.enterOff) s

/-- MAIN_RAILS_UP (R132, R460): RESET is entered from OFF or KEEP, and the observer straps are sampled. -/
def execMainRailsUp (at_ : TT) (mode a1 a0 : Bool) (s : State) : Host.Outcome State Fault Refusal :=
  timed at_ (fun s => if s.dev.powered then s else s.powerUp mode a1 a0) s

/-- RESET_N is held low for 1 µs: RESET is entered, or gains a cause (R132). -/
def State.pinReset (s : State) : State :=
  if !s.dev.powered then s else
  let s := s.enterReset (some 2) 1
  { s with pwr := { s.pwr with resetN := false } }

/-- RESET_N_ASSERT (R132). -/
def execResetNAssert (at_ : TT) (s : State) : Host.Outcome State Fault Refusal :=
  timed at_ (fun s => s.pinReset) s

/-- RESET_RELEASE (R132): 1 ms after every cause is released the device enters LOAD and resets the flash. -/
def execResetRelease (at_ : TT) (s : State) : Host.Outcome State Fault Refusal :=
  timed at_ (fun s => if s.dev == .reset then s.leaveReset else s) s

/-- WIND_EXIT (R136, R137). -/
def execWindExit (at_ : TT) (s : State) : Host.Outcome State Fault Refusal :=
  timed at_ (fun s => s.leaveWind) s

/-- DRAIN_T_END (R146). -/
def execDrainTEnd (at_ : TT) (s : State) : Host.Outcome State Fault Refusal :=
  timed at_ (fun s => s.drainEnds) s

/-- DRAIN_COMPLETE (R146, R147): the device enters the target of its drain. -/
def execDrainComplete (at_ : TT) (s : State) : Host.Outcome State Fault Refusal :=
  timed at_ (fun s =>
    let s := s.drainEnds
    if s.drainDone then s.finishDrain else s) s

/-- TT_ALARM (R149). -/
def execTtAlarm (at_ : TT) (s : State) : Host.Outcome State Fault Refusal :=
  timed at_ (fun s => if s.alarmDue then s.wakeSource 2 else s) s

/-- AUTO_SLEEP_UPDATE (R143, R144): the 1 ms update. -/
def execAutoSleepUpdate (at_ : TT) (s : State) : Host.Outcome State Fault Refusal :=
  timed at_ (fun s => s.sleepUpdate) s

/-- KEEP_AWAKE_WRITE (R145): a write of SYS_KAk. -/
def execKeepAwakeWrite (at_ : TT) (k : Fin 4) (val : W32) (s : State) : Host.Outcome State Fault Refusal :=
  timed at_ (fun s => s.portWrite (SYS_KA k.val) val) s

/-- The battery domain changes its supply without losing a KEEP word; switches to VBAT are counted (R150). -/
def State.switchBattery (s : State) (toVbat : Bool) : State :=
  if s.dev == .off || s.pwr.onVbat == toVbat then s else
  ({ s with pwr := { s.pwr with onVbat := toVbat } } : State).when toVbat (fun s => s.inc (cnt16 BAT_SWITCH_CNT))

/-- BATTERY_SWITCH (R150). -/
def execBatterySwitch (at_ : TT) (toVbat : Bool) (s : State) : Host.Outcome State Fault Refusal :=
  timed at_ (fun s => s.switchBattery toVbat) s

/-- BAT_VIOL_CLR_WRITE (R154). -/
def execBatViolClrWrite (at_ : TT) (val : W32) (s : State) : Host.Outcome State Fault Refusal :=
  timed at_ (fun s => s.portWrite BAT_VIOL_CLR val) s

/-- BAT_USER_LOCK_WRITE (R153): the lock bits are set-only. -/
def execBatUserLockWrite (at_ : TT) (val : W32) (s : State) : Host.Outcome State Fault Refusal :=
  timed at_ (fun s => s.portWrite BAT_USER_LOCK val) s

/-- DOMAIN_SWITCHED_OFF (R143, R156): a resource that falls asleep finishes isolating and switching off its domain. -/
def execDomainSwitchedOff (at_ : TT) (r : Fin 127) (s : State) : Host.Outcome State Fault Refusal :=
  timed at_ (fun s => s.switchedOff r.val) s

/-- AOCLK_SECOND (R157). -/
def execAoclkSecond (at_ : TT) (s : State) : Host.Outcome State Fault Refusal :=
  timed at_ (fun s => s.aoSecond) s

end Sys2Proof.Machine
end

