-- ==== Sys2Proof/Machine/Security.lean ====
section
/-! DEFINITION. Commands of the fuses, the rollback counter and configuration readback. -/

namespace Sys2Proof.Machine

/-- FUSE_PROGRAM_KEY_HASH (R176): fuse command 1, by which the public-key hash is programmed; a write of CFG_FUSE_CMD. -/
def execFuseProgramKeyHash (at_ : TT) (s : State) : Host.Outcome State Fault Refusal :=
  timed at_ (fun s => s.portWrite CFG_FUSE_CMD 1) s

/-- FUSE_PROGRAM_AES_KEY (R176): fuse command 2, by which the AES key is programmed, and its check value reported; a write of CFG_FUSE_CMD. -/
def execFuseProgramAesKey (at_ : TT) (s : State) : Host.Outcome State Fault Refusal :=
  timed at_ (fun s => s.portWrite CFG_FUSE_CMD 2) s

/-- FUSE_REQUIRE_SEAL (R176): fuse command 3, by which require_seal is programmed; a write of CFG_FUSE_CMD. -/
def execFuseRequireSeal (at_ : TT) (s : State) : Host.Outcome State Fault Refusal :=
  timed at_ (fun s => s.portWrite CFG_FUSE_CMD 3) s

/-- FUSE_REQUIRE_ENCRYPT (R176): fuse command 4, by which require_encrypt is programmed; a write of CFG_FUSE_CMD. -/
def execFuseRequireEncrypt (at_ : TT) (s : State) : Host.Outcome State Fault Refusal :=
  timed at_ (fun s => s.portWrite CFG_FUSE_CMD 4) s

/-- FUSE_PRIVATE_JTAG_OFF (R176): fuse command 5, by which private_jtag_off is programmed; a write of CFG_FUSE_CMD. -/
def execFusePrivateJtagOff (at_ : TT) (s : State) : Host.Outcome State Fault Refusal :=
  timed at_ (fun s => s.portWrite CFG_FUSE_CMD 5) s

/-- FUSE_LOCK (R176): fuse command 6, by which fuse_lock is programmed; a write of CFG_FUSE_CMD. -/
def execFuseLock (at_ : TT) (s : State) : Host.Outcome State Fault Refusal :=
  timed at_ (fun s => s.portWrite CFG_FUSE_CMD 6) s

/-- ROLLBACK_ADVANCE (R178): a write of CFG_ROLLBACK_ADV. -/
def execRollbackAdvance (at_ : TT) (val : W32) (s : State) : Host.Outcome State Fault Refusal :=
  timed at_ (fun s => s.portWrite CFG_ROLLBACK_ADV val) s

/-- ROLLBACK_STEP (R178): one step completes programming. -/
def execRollbackStep (at_ : TT) (s : State) : Host.Outcome State Fault Refusal :=
  timed at_ (fun s => s.rollbackNext) s

/-- READBACK_SELECT (R419): a write of CFG_RB_CTL. -/
def execReadbackSelect (at_ : TT) (val : W32) (s : State) : Host.Outcome State Fault Refusal :=
  timed at_ (fun s => s.portWrite CFG_RB_CTL val) s

end Sys2Proof.Machine
end

