-- ==== Sys2Proof/Machine/LinePorts.lean ====
section
/-! DEFINITION. Commands of the line ports. -/

namespace Sys2Proof.Machine

/-- LP_MODE_WRITE (R191–R193): a write of LPn_MODE_CTL. -/
def execLpModeWrite (at_ : TT) (p : Fin 32) (val : W32) (s : State) : Host.Outcome State Fault Refusal :=
  timed at_ (fun s => s.portWrite (LP_MODE_CTL p.val) val) s

/-- Whether a port's receive path runs in the present state. -/
def State.lpRunsRx (s : State) (p : Nat) : Bool := s.dev.active && s.lpReceives p && s.isReady (rLp p)

/-- The equalizer's loop update, every 4,096 received words while the CDR is locked (R197). The setting that the update
computes is the receiver's, and no rule gives it: it is the operand. -/
def State.eqStep (s : State) (p : Nat) (computed : Int) : State :=
  if !s.lpRunsRx p || !s.bit (LP_STAT_cdr_locked p) || !s.bit (LP_STAT_signal p) ||
      s.g (LP_EQ_CTL_mode p) == 2 || s.loopBlocked (LP_EQ_STAT p) then s else
  let w := s.eqWindow p
  let (v, side) := loopApply (s.g (LP_EQ_SET_code p)) computed w.1 w.2
  s.loopDone (LP_EQ_SET_code p) v.toNat (LP_EQ_STAT p) (LP_EQ_BOUND_CNT p) side

/-- EQ_UPDATE (R197). -/
def execEqUpdate (at_ : TT) (p : Fin 32) (computed : Int) (s : State) : Host.Outcome State Fault Refusal :=
  timed at_ (fun s => s.eqStep p.val computed) s

/-- CDR_LOCK (R200–R202). -/
def execCdrLock (at_ : TT) (p : Fin 32) (s : State) : Host.Outcome State Fault Refusal :=
  timed at_ (fun s => s.lockCdr p.val) s

/-- CDR_LOCK_LOSS (R202): `cause` is the instant of the first of the 64 words. -/
def execCdrLockLoss (at_ : TT) (p : Fin 32) (cause : TT) (s : State) : Host.Outcome State Fault Refusal :=
  timed at_ (fun s => s.loseLock p.val cause.toNat) s

/-- A trial of AUTO that has not locked by its end gives way to the next rate (R201): 10 µs where it started warm, else
210 µs. -/
def State.trialEnds (s : State) (p : Nat) : State :=
  let x := s.lpSt p
  let len := if s.warmTrial p then 10 * usNs else 210 * usNs
  if !s.lpRunsRx p || s.bit (LP_STAT_cdr_locked p) || s.g (LP_RX_CTL_rate p) != 15 || !s.bit (LP_STAT_signal p) ||
      decide (s.elapsed < x.trialFrom + len) then s
  else s.startTrial p (x.trial + 1)

/-- AUTO_RATE_TRIAL_END (R201). -/
def execAutoRateTrialEnd (at_ : TT) (p : Fin 32) (s : State) : Host.Outcome State Fault Refusal :=
  timed at_ (fun s => s.trialEnds p.val) s

/-- After 1 s of unbroken lock the warm-start word is written (R199). -/
def State.keepEq (s : State) (p : Nat) : State :=
  match (s.lpSt p).lockSince with
  | some t => if s.lpRunsRx p && decide (t + secNs ≤ s.elapsed) then s.saveEq p else s
  | none => s

/-- LP_KEEP_EQ_UPDATE (R199). -/
def execLpKeepEqUpdate (at_ : TT) (p : Fin 32) (s : State) : Host.Outcome State Fault Refusal :=
  timed at_ (fun s => s.keepEq p.val) s

/-- Whether a port's signal detector runs: its receive path is in use and its domain powered. -/
def State.lpDetects (s : State) (p : Nat) : Bool := s.dev.active && s.lpReceives p && s.isAwake (rLp p)

/-- The input has been below its threshold for 1 µs (R198, R203). -/
def State.signalGone (s : State) (p : Nat) : State :=
  if s.lpDetects p && s.bit (LP_STAT_signal p) then
    (s.pb (LP_STAT_signal p) false).inc (cnt16 (LP_LOS_CNT p))
  else s

/-- SIGNAL_LOSS (R203). -/
def execSignalLoss (at_ : TT) (p : Fin 32) (s : State) : Host.Outcome State Fault Refusal :=
  timed at_ (fun s => s.signalGone p.val) s

/-- The input has been above its threshold for 1 µs: acquisition starts from the setting in force (R198, R203). -/
def State.signalBack (s : State) (p : Nat) : State :=
  if s.lpDetects p && !s.bit (LP_STAT_signal p) then
    let s := s.pb (LP_STAT_signal p) true
    if s.bit (LP_STAT_cdr_locked p) then s
    else s.setLp p { s.lpSt p with searchFrom := s.elapsed, trialFrom := s.elapsed, sweep := none }
  else s

/-- SIGNAL_RETURN (R203). -/
def execSignalReturn (at_ : TT) (p : Fin 32) (s : State) : Host.Outcome State Fault Refusal :=
  timed at_ (fun s => s.signalBack p.val) s

/-- One EAV against the flywheel (R204): three in a row at one place align it there; one that is missing or misplaced
while it runs is counted. -/
def State.eavSeen (s : State) (p : Nat) (seen : EavSeen) : State :=
  if !s.rxLive p then s else
  let x := s.lpSt p
  let on := s.bit (LP_STAT_trs_locked p)
  let bad (s : State) : State :=
    s.when on (fun s => (s.inc (cnt16 (LP_TRS_ERR_CNT p))).pb (LP_STICKY_trs_err p) true)
  match seen with
  | .inPlace =>
    let n := min (x.posRun + 1) 3
    let s := s.setLp p { x with posRun := n, offRun := 0 }
    s.when (n == 3) (fun s => s.pb (LP_STAT_trs_locked p) true)
  | .missing => (bad s).setLp p { x with posRun := 0, offRun := 0 }
  | .misplaced pos =>
    let n := if x.offRun != 0 && x.offPos == pos.toNat then x.offRun + 1 else 1
    let s := bad s
    if n < 3 then s.setLp p { x with posRun := 0, offPos := pos.toNat, offRun := n }
    else (s.setLp p { x with posRun := 3, offRun := 0 }).pb (LP_STAT_trs_locked p) true

/-- EAV_RECEIVED (R204). -/
def execEavReceived (at_ : TT) (p : Fin 32) (seen : EavSeen) (s : State) : Host.Outcome State Fault Refusal :=
  timed at_ (fun s => s.eavSeen p.val seen) s

/-- A line's time of received bits: under test they are compared with the pattern, and the bit errors found are counted
(R217); else the line is checked and delivered (R205, R206). -/
def State.lineIn (s : State) (p : Nat) (l : LineData) : State :=
  if s.lpRunsRx p && s.bit (LP_STAT_cdr_locked p) && s.bit (LP_PRBS_CTL_check p) &&
      s.g (LP_PRBS_CTL_pattern p) != 0 then
    let (n, s) := s.drawIn 0 65535
    s.addSat (cnt16 (LP_PRBS_ERR_CNT p)) n
  else s.rxLine p l

/-- The received bits of a looping port leave through its partner's driver as they came (R192). -/
def State.loopCarries (s : State) (p : Nat) (l : LineData) : State :=
  if s.lpMode p == 4 && s.lpRunsRx p && s.bit (LP_STAT_cdr_locked p) then
    s.setLp (partner p) { s.lpSt (partner p) with
      lastSent := l.slices, sentKind := 5, sentLine := l.number.toNat, sentPid := none }
  else s

/-- LINE_RECEIVED (R205, R206). -/
def execLineReceived (at_ : TT) (p : Fin 32) (line : LineData) (s : State) : Host.Outcome State Fault Refusal :=
  timed at_ (fun s => (s.loopCarries p.val line).lineIn p.val line) s

/-- A received frame start: counted, measured against the raster, and its payload ID read (R207, R208, R218). -/
def State.frameSeen (s : State) (p : Nat) (f : RxFrame) : State :=
  if !s.rxLive p then s else
  let s := s.incWrap (word (LP_RX_FRAME_CNT p))
  let s := (s.wr (LP_RX_FREQ p) f.freq).wr (LP_EYE p) (f.eye.zeroExtend 32)
  let code := if (formatOf f.format.toNat).isSome then f.format.toNat else 0
  let s := (s.pb (LP_RX_FMT_level_b p) f.levelB).p (LP_RX_FMT_format p) code
  (s.rxAlign p f.offsetNs.toInt).rxPid p f.pid

/-- RX_FRAME_START (R207, R208). -/
def execRxFrameStart (at_ : TT) (p : Fin 32) (f : RxFrame) (s : State) : Host.Outcome State Fault Refusal :=
  timed at_ (fun s => s.frameSeen p.val f) s

/-- The sweep of acquisition goes on from a state of it: where it started, and how far it has come above and below; none
where a code is not its next step (R197). Steps go above and below in turn, each further than the step before on either
side, and on one side alone once the other bound is reached; a sweep that has covered the window starts again. -/
def sweepStep (lo hi : Nat) (at_ : Nat × Nat × Nat) (code : Nat) : Option (Nat × Nat × Nat) :=
  let (f, up, down) := at_
  let (up, down) := if hi ≤ f + up ∧ f ≤ lo + down then (0, 0) else (up, down)
  let above := decide (f + up < hi)
  let below := decide (lo + down < f)
  if above && (decide (up ≤ down) || !below) then
    if f + up < code ∧ code ≤ hi ∧ (down < code - f ∨ code = hi) then some (f, code - f, down) else none
  else if below then
    if lo ≤ code ∧ code + down < f ∧ (up ≤ f - code ∨ code = lo) then some (f, up, f - code) else none
  else none

/-- Where a port's sweep stands: it begins at the setting in force, clamped into the window (R197). -/
def State.sweepFrom (s : State) (p : Nat) : Nat × Nat × Nat :=
  let w := s.eqWindow p
  let start := (Nat.max w.1 (min w.2 (s.g (LP_EQ_SET_code p))), 0, 0)
  match (s.lpSt p).sweep with
  | some v => if w.1 ≤ v.1 ∧ v.1 ≤ w.2 then v else start
  | none => start

/-- A step of acquisition while the CDR is not locked (R197): no loop update. The widths of the steps are the receiver's,
so the code is the operand; one that is no step of the sweep has no effect (DESIGN CHOICE, notes/assumptions/36). -/
def State.acquire (s : State) (p code : Nat) : State :=
  if !s.lpRunsRx p || s.bit (LP_STAT_cdr_locked p) || s.g (LP_EQ_CTL_mode p) == 2 || !s.bit (LP_STAT_signal p) then s
  else
    match sweepStep (s.eqWindow p).1 (s.eqWindow p).2 (s.sweepFrom p) code with
    | some v => (s.setLp p { s.lpSt p with sweep := some v }).p (LP_EQ_SET_code p) code
    | none => s

/-- EQ_ACQUIRE_STEP (R197). -/
def execEqAcquireStep (at_ : TT) (p : Fin 32) (code : BitVec 10) (s : State) : Host.Outcome State Fault Refusal :=
  timed at_ (fun s => s.acquire p.val code.toNat) s

end Sys2Proof.Machine
end

