-- ==== Sys2Proof/Machine/Cells.lean ====
section
/-! DEFINITION. Commands of the analogue cells and their filter chains. -/

namespace Sys2Proof.Machine

/-- DIRECTION_CHANGE_COMPLETE (R228). -/
def execDirectionChangeComplete (at_ : TT) (c : Fin 48) (s : State) : Host.Outcome State Fault Refusal :=
  timed at_ (fun s => s.turned c.val) s

/-- DC_RESTORE_UPDATE (R232, R233): the clamp's update at the end of a keyed line, `level` being the level at the modulator
on the target's 12-bit scale. -/
def execDcRestoreUpdate (at_ : TT) (c : Fin 48) (level : BitVec 12) (s : State) : Host.Outcome State Fault Refusal :=
  timed at_ (fun s => s.dcrStep c.val level.toNat) s

/-- OVER_RANGE_BEGIN (R234, R236). -/
def execOverRangeBegin (at_ : TT) (c : Fin 48) (s : State) : Host.Outcome State Fault Refusal :=
  timed at_ (fun s => s.ovrBegin c.val) s

/-- OVER_RANGE_END (R234): the instant is that of the first of the four in-range periods. -/
def execOverRangeEnd (at_ : TT) (c : Fin 48) (s : State) : Host.Outcome State Fault Refusal :=
  timed at_ (fun s => s.ovrEnd c.val) s

/-- SUSPECT_INTERVAL_END (R236). -/
def execSuspectIntervalEnd (at_ : TT) (c : Fin 48) (s : State) : Host.Outcome State Fault Refusal :=
  timed at_ (fun s => s.suspectEnd c.val) s

/-- CAL_STALE (R240). -/
def execCalStale (at_ : TT) (c : Fin 48) (s : State) : Host.Outcome State Fault Refusal :=
  timed at_ (fun s => s.staleNow c.val) s

/-- DC_BLOCK_UPDATE (R262, R263): the update for the last 256 output samples. Where the computed estimate lies between two
settings, `up` says which of them is taken: the spec does not give it. -/
def execDcBlockUpdate (at_ : TT) (c : Fin 48) (up : Bool) (s : State) : Host.Outcome State Fault Refusal :=
  timed at_ (fun s => s.dcbStep c.val up) s

/-- DAC_INPUT_UNDERRUN (R260): the instant of a sample of a chain in DAC direction whose input has not arrived. -/
def execDacInputUnderrun (at_ : TT) (c : Fin 48) (s : State) : Host.Outcome State Fault Refusal :=
  timed at_ (fun s => if s.dacMissing c.val then s.chainSample c.val 0 else s) s

/-- CHAIN_OUTPUT_SAMPLE (R264): an output sample boundary; in ADC direction `value` is the sample that the decimator makes of
the modulator's output, in 2⁻²⁴ of full scale. -/
def execChainOutputSample (at_ : TT) (c : Fin 48) (value : Int) (s : State) : Host.Outcome State Fault Refusal :=
  timed at_ (fun s => s.chainSample c.val value) s

end Sys2Proof.Machine
end

