-- ==== Sys2Proof/Machine/WindowMonitors.lean ====
section
/-! DEFINITION. Commands of the window monitors. -/

namespace Sys2Proof.Machine

/-- MONITOR_READY (R268). -/
def execMonitorReady (at_ : TT) (m : Fin 96) (s : State) : Host.Outcome State Fault Refusal :=
  timed at_ (fun s => s.monReady m.val) s

/-- MONITOR_TRANSITION (R271–R274): the output follows a level that the tap took 1.5 ns before. -/
def execMonitorTransition (at_ : TT) (m : Fin 96) (level : MicroVolt) (s : State) : Host.Outcome State Fault Refusal :=
  timed at_ (fun s => s.monLevel m.val level) s

/-- MONITOR_HOLD_END (R273): the monitor compares the present level against its new settings. -/
def execMonitorHoldEnd (at_ : TT) (m : Fin 96) (level : MicroVolt) (s : State) : Host.Outcome State Fault Refusal :=
  timed at_ (fun s => s.monHoldEnd m.val level) s

/-- LATCH_CLEAR_WRITE (R276, R277): a write of WMn_STAT. -/
def execLatchClearWrite (at_ : TT) (m : Fin 96) (val : W32) (s : State) : Host.Outcome State Fault Refusal :=
  timed at_ (fun s => s.portWrite (WM_STAT m.val) val) s

end Sys2Proof.Machine
end

