-- ==== Sys2Proof/Machine/StreamEngines.lean ====
section
/-! DEFINITION. Commands of the stream engines, their ring and the carousel. -/

namespace Sys2Proof.Machine

/-- ACTIVATION_READY (R285, R300, R308): `cancelled` says that a cancel arrives in the same engine cycle. -/
def execActivationReady (at_ : TT) (se : Fin 16) (slot : Fin 64) (cancelled : Bool) (s : State) :
    Host.Outcome State Fault Refusal :=
  timed at_ (fun s => s.actReady se.val slot.val cancelled) s

/-- ACTIVATION_END (R286, R311): `obs` says what the activation met in local memory. -/
def execActivationEnd (at_ : TT) (se : Fin 16) (obs : ActEnd) (s : State) : Host.Outcome State Fault Refusal :=
  timed at_ (fun s => s.actEnd se.val obs) s

/-- TRANSFER_GRANT (R306): the arbiter considers the waiting transfers at an engine cycle of the present nanosecond. -/
def execTransferGrant (at_ : TT) (cycle : Nat) (s : State) : Host.Outcome State Fault Refusal :=
  timed at_ (fun s =>
    let now := s.cycleNow
    s.grantAll (if now ≤ cycle ∧ cycle ≤ now + 1 then cycle else now)) s

/-- TRANSFER_COMPLETE (R288, R306): a granted transfer of a stop of the ring completes. -/
def execTransferComplete (at_ : TT) (init : Fin 24) (s : State) : Host.Outcome State Fault Refusal :=
  timed at_ (fun s => s.xferDone init.val) s

/-- PARAM_WRITE (R292): a write of SEn_PARAM_DATA. -/
def execParamWrite (at_ : TT) (se : Fin 16) (val : W32) (s : State) : Host.Outcome State Fault Refusal :=
  timed at_ (fun s => s.portWrite (SE_PARAM_DATA se.val) val) s

/-- TASK_CANCEL (R307, R309): a write of SEn_TASK_CANCEL0 or SEn_TASK_CANCEL1. -/
def execTaskCancel (at_ : TT) (se : Fin 16) (half : Bool) (val : W32) (s : State) : Host.Outcome State Fault Refusal :=
  timed at_ (fun s => s.portWrite (SE_TASK_CANCEL se.val (if half then 1 else 0)) val) s

/-- CAROUSEL_STEP (R300, R302). -/
def execCarouselStep (at_ : TT) (s : State) : Host.Outcome State Fault Refusal :=
  timed at_ (fun s => s.carStep) s

/-- The oldest activation of a slot that waits past its deadline for its part or a transfer is shed (R288, R300,
R310). -/
def State.deadlinePasses (s : State) (e slot : Nat) : State :=
  match s.se.acts.find? (fun a => a.task == s.slotTask e slot && !a.isReady && !a.fill && decide (a.deadline < s.now)) with
  | some a => s.shed a
  | none => s

/-- ACTIVATION_DEADLINE_PASS (R288, R300, R310). -/
def execActivationDeadlinePass (at_ : TT) (se : Fin 16) (slot : Fin 64) (s : State) :
    Host.Outcome State Fault Refusal :=
  timed at_ (fun s => s.deadlinePasses se.val slot.val) s

end Sys2Proof.Machine
end

