-- ==== Sys2Proof/Machine/FrameMemory.lean ====
section
/-! DEFINITION. Commands of frame memory, its streams and its window. -/

namespace Sys2Proof.Machine

/-- STREAM_ENABLE (R321, R335): a write of DS_CTL that sets its enable bit, the other bits as the word has them. -/
def execStreamEnable (at_ : TT) (ds : Fin 1024) (val : W32) (s : State) : Host.Outcome State Fault Refusal :=
  timed at_ (fun s => s.portWrite (DS_CTL ds.val) ((DS_CTL_enable ds.val).put val 1)) s

/-- STREAM_DISABLE (R321): a write of DS_CTL that clears its enable bit, the other bits as the word has them. -/
def execStreamDisable (at_ : TT) (ds : Fin 1024) (val : W32) (s : State) : Host.Outcome State Fault Refusal :=
  timed at_ (fun s => s.portWrite (DS_CTL ds.val) ((DS_CTL_enable ds.val).put val 0)) s

/-- Whether a unit of a stream starts now (R321, R332): with timing RASTER at a frame start of its raster, an even one
for pairs, once for each; with timing SOURCE when its producer's next line 1 comes. -/
def State.unitDue (s : State) (d : Nat) : Bool :=
  let r := s.rg (s.g (DS_CTL_rg d))
  s.dev.active && s.g (DS_STAT_state d) != 0 &&
    (s.bit (DS_CTL_timing d) ||
      (r.running && r.frameAt == s.now && (!s.bit (DS_CTL_pair d) || r.frame % 2 == 0) &&
        (s.stream d).unitAt != some s.now))

/-- A unit start of a stream; from the T_end of a drain on, no new unit begins (R146, R321, R322). -/
def State.unitBegins (s : State) (d : Nat) : State :=
  if !s.unitDue d then s
  else if (match s.drainEnd with | some t => decide (t ≤ s.now) | none => false) then
    (s.endReading d).p (DS_STAT_state d) (if s.bit (DS_CTL_enable d) then 1 else 0)
  else s.unitStart d

/-- STREAM_UNIT_START (R321, R322). -/
def execStreamUnitStart (at_ : TT) (ds : Fin 1024) (s : State) : Host.Outcome State Fault Refusal :=
  timed at_ (fun s => s.unitBegins ds.val) s

/-! ### The service of accesses -/

/-- A line of a stream is read for its readers and for the ISO channels that send it (R324, R390). -/
def State.lineRead (s : State) (d base line : Nat) (check : LineCheck) : State :=
  (s.readLine d base line check).isoSend d line

/-- What an access that waited brings about when it is served. -/
def State.serve (s : State) (r : FmReq) : State :=
  match r.stream, r.work with
  | some d, .read base line check => (s.lineServes d r.bytes).lineRead d base line check
  | some d, .write base pos a bytes => ((s.lineServes d r.bytes).writeFm a bytes).lineStored d base pos
  | _, .bulkIn i tag a bytes => s.bulkStore i tag a bytes
  | _, .bulkOut => s.bulkOn
  | _, .bridge c => s.copyRun c
  | _, .entry bytes => s.collectStore bytes
  | none, _ => s

/-- The rank of an access among those held (R336): within its stream's credit, beyond it by class code and service, or of
BULK and the bridge. -/
def State.rankOf (s : State) (r : FmReq) : Nat × Nat × Nat :=
  match r.stream with
  | some d =>
    if s.inCredit d r.bytes then (0, 0, 0)
    else let svc := s.g (DS_CTL_service d); (1, s.classOfSvc svc, svc)
  | none => (2, 0, 0)

/-- Whether a rank goes before another. -/
def rankBefore (x y : Nat × Nat × Nat) : Bool :=
  x.1 < y.1 || (x.1 == y.1 && (x.2.1 < y.2.1 || (x.2.1 == y.2.1 && x.2.2 < y.2.2)))

/-- The access that the channels serve next: of those that no earlier one of the same stream is before, the one of the first
rank, and among these the one requested first. -/
def State.nextServed (s : State) : Option FmReq :=
  (s.fm.wait.foldl (fun (acc : List (Option Nat) × Option FmReq) r =>
    if r.stream.isSome && acc.1.contains r.stream then acc
    else (r.stream :: acc.1, match acc.2 with
      | none => some r
      | some b => if rankBefore (s.rankOf r) (s.rankOf b) then some r else some b)) ([], none)).2

/-- The held accesses are served in their order while the channels have room; one within its stream's credit is served
whatever they have (R336, R337). `n` bounds how many. -/
def State.serveHeld (s : State) : Nat → State
  | 0 => s
  | n + 1 =>
    match s.nextServed with
    | none => s
    | some r =>
      if (s.rankOf r).1 = 0 ∨ s.roomNow none then
        let s := { s with fm := { s.fm with wait := s.fm.wait.erase r } }
        (s.serve r).serveHeld n
      else s

/-- A window of 1 µs of TT ends: streams that went beyond their credit are marked and counted, and so are accesses and
Axlink frames still held (R335, R337, R372); then what is held is served anew, and the ISO channels have their
reservations again (R369). How the accesses of a line spread over its time is not stated; the operands name the streams
with a line under way that went beyond their credit, and the accesses and ports held, by a spread that the model's even one
does not show. -/
def State.windowEnds (s : State) (above : List Nat) (held : Bool) (heldPorts : BitVec 4) : State :=
  if !s.dev.active || s.now % usNs != 0 then s else
  let s := s.rollWindow
  let flow (d : Nat) : Bool := !(s.fm.flows.get [] d).isEmpty
  let l := s.streamsOn.filter (fun d => s.fm.wentOver.contains d || (above.contains d && flow d))
  let s := { s with fm := { s.fm with wentOver := [] } }
  let s := s.each l (fun s d =>
    (s.setBitOf (FM_STREAM_OVER (d / 32)) (d % 32) true).inc (DS_OVER_over d))
  let s := s.when (!l.isEmpty) (fun s => (s.inc (cnt16 FM_OVER_RES_CNT)).pb FM_STICKY_over_res true)
  let s := s.when (!s.fm.wait.isEmpty || (held && s.streamsOn.any flow)) (fun s =>
    (s.inc (cnt16 FM_HELD_CNT)).pb FM_STICKY_held true)
  let s := s.each ((List.range 4).filter (fun p => s.portUp p && (s.holdsFrame p || heldPorts.getLsbD p)))
    (fun s p => s.inc (cnt16 (AX_HOLD_CNT p)))
  (s.isoWindow).serveHeld s.fm.wait.length

/-- BANDWIDTH_WINDOW (R335–R337). -/
def execBandwidthWindow (at_ : TT) (above : List (Fin 1024)) (held : Bool) (heldPorts : BitVec 4) (s : State) :
    Host.Outcome State Fault Refusal :=
  timed at_ (fun s => s.windowEnds (above.map (fun d => d.val)) held heldPorts) s

/-- A line is asked for, and read at once if its turn is now (R324, R336). -/
def State.lineAsked (s : State) (d line : Nat) (check : LineCheck) : State :=
  if !s.dev.active || !s.isReady rFm then s else
  let base := s.g (DS_STAT_ridx d)
  let (now, s) := s.askLine d line check
  if now then s.lineRead d base line check else s

/-- FM_LINE_READ (R324, R338, R339): the operand says what the checks of the line found. -/
def execFmLineRead (at_ : TT) (ds : Fin 1024) (line : BitVec 16) (check : LineCheck) (s : State) :
    Host.Outcome State Fault Refusal :=
  timed at_ (fun s => s.lineAsked ds.val line.toNat check) s

/-- The scrubber reads a word of 64 bits and goes on to the next, with what every other access leaves over (R336,
R340). -/
def State.scrub (s : State) (corrected uncorrectable : Bool) : State :=
  let s := s.rollWindow
  let a := (s.rd FM_SCRUB_POS).toNat
  if !s.bit FM_CTL_scrub_en || !s.isReady rFm || !s.dev.active || !s.spareRoom a then s else
  let s := s.chanServes (fun c => if c = a / 256 % 8 then 8 else 0)
  let s := s.when corrected (fun s => s.fmCorrected a 1)
  let s := s.when uncorrectable (fun s =>
    (s.inc (cnt16 FM_SCRUB_UNCORR_CNT)).eventNow 0x2C 0 (BitVec.ofNat 32 a))
  if a + 8 < fmSize then s.wr FM_SCRUB_POS (BitVec.ofNat 32 (a + 8))
  else (s.wr FM_SCRUB_POS 0).incWrap (word FM_SCRUB_PASS_CNT)

/-- SCRUB_READ (R340): the operands say what the check of the word found. -/
def execScrubRead (at_ : TT) (corrected uncorrectable : Bool) (s : State) : Host.Outcome State Fault Refusal :=
  timed at_ (fun s => s.scrub corrected uncorrectable) s

/-- FM_WINDOW_ACCESS (R317, R477): an access through the frame-memory window; `served` says of one that finds no room at once
whether it is served within the 10 µs that a unit waits. -/
def execFmWindowAccess (at_ : TT) (write : Bool) (size : Size) (addr : W32) (val : BitVec 64) (served : Bool) (s : State) :
    Host.Outcome State Fault Refusal :=
  timed at_ (fun s => s.windowAccess write size addr.toNat val.toNat served) s

end Sys2Proof.Machine
end

