-- ==== Sys2Proof/Machine/Services.lean ====
section
/-! DEFINITION. The command of the service contexts. -/

namespace Sys2Proof.Machine

/-- QUOTA_WRITE (R350): a write of SVn_CTL. -/
def execQuotaWrite (at_ : TT) (svc : Fin 256) (val : W32) (s : State) : Host.Outcome State Fault Refusal :=
  timed at_ (fun s => s.portWrite (SV_CTL svc.val) val) s

end Sys2Proof.Machine
end

