-- ==== Sys2Proof/Machine/Troupe.lean ====
section
/-! DEFINITION. Commands of Axlink and the troupe. The header operand `h` of a received frame holds the fields of R368
that the receiving rules read. -/

namespace Sys2Proof.Machine

/-! ### Link states -/

/-- AX_ALIGN (R362, R365). -/
def execAxAlign (at_ : TT) (p : Fin 4) (s : State) : Host.Outcome State Fault Refusal :=
  timed at_ (fun s => s.aligned p.val) s

/-- A port that has been ready for 1 ms without alignment shows it (R363). -/
def State.alignLate (s : State) (p : Nat) : State :=
  if s.dev.active && s.bit (AX_CTL_enable p) && s.isReady (rAx p) && decide (s.axState p < axHello) &&
      decide ((s.port p).alignFrom + msNs ≤ s.elapsed) then s.pb (AX_STICKY_no_align p) true
  else s

/-- NO_ALIGN_TIMEOUT (R363). -/
def execNoAlignTimeout (at_ : TT) (p : Fin 4) (s : State) : Host.Outcome State Fault Refusal :=
  timed at_ (fun s => s.alignLate p.val) s

/-- AX_LOCK_LOSS (R366): a port that is UP goes down; one that waits for its neighbour returns to LANE. -/
def execAxLockLoss (at_ : TT) (p : Fin 4) (cause : TT) (s : State) : Host.Outcome State Fault Refusal :=
  timed at_ (fun s => if s.axState p.val < axHello then s else s.portDown p.val 0 cause.toNat) s

/-- AX_SILENCE_TIMEOUT (R366): 40 µs without any frame received. -/
def execAxSilenceTimeout (at_ : TT) (p : Fin 4) (s : State) : Host.Outcome State Fault Refusal :=
  timed at_ (fun s =>
    if s.portUp p.val && decide ((s.port p.val).lastRx + 40 * usNs ≤ s.elapsed) then s.portDown p.val 1 s.now
    else s) s

/-- A frame that must be discarded, or a corrected codeword, is counted (R368). -/
def State.badFrame (s : State) (p : Nat) (why : BadFrame) : State :=
  if s.axState p < axHello then s else
  match why with
  | .crc => (s.inc (cnt16 (AX_CRC_ERR_CNT p))).pb (AX_STICKY_crc p) true
  | .uncorrectable => s.inc (cnt16 (AX_FEC_UNCORR_CNT p))
  | .corrected => s.inc (cnt16 (AX_FEC_CORR_CNT p))

/-- AX_BAD_FRAME (R368). -/
def execAxBadFrame (at_ : TT) (p : Fin 4) (why : BadFrame) (s : State) : Host.Outcome State Fault Refusal :=
  timed at_ (fun s => s.badFrame p.val why) s

/-! ### Neighbours, lead and roster -/

/-- HELLO_TIMER (R380): a port that waits for its neighbour, or is UP, sends a HELLO. -/
def execHelloTimer (at_ : TT) (p : Fin 4) (s : State) : Host.Outcome State Fault Refusal :=
  timed at_ (fun s => s.sendHello p.val) s

/-- HELLO (R365, R380, R381). -/
def execHello (at_ : TT) (p : Fin 4) (h : Hello) (s : State) : Host.Outcome State Fault Refusal :=
  timed at_ (fun s => s.helloIn p.val h) s

/-- The lead's epoch advances every 100 µs (R380). -/
def State.epochTick (s : State) : State :=
  if s.dev.active && s.isMember && s.bit SYS_STATE_lead && decide (s.ax.epochAt + 100 * usNs ≤ s.elapsed) then
    ({ s with ax := { s.ax with epoch := (s.ax.epoch + 1) % 65536, epochAt := s.elapsed } } : State).showRoster
  else s

/-- LEAD_EPOCH_TICK (R380). -/
def execLeadEpochTick (at_ : TT) (s : State) : Host.Outcome State Fault Refusal :=
  timed at_ (fun s => s.epochTick) s

/-- An advertisement whose epoch has not advanced for 400 µs is ignored, and the election made anew (R380, R381). -/
def State.advertLate (s : State) (p : Nat) : State :=
  match (s.port p).advert with
  | some a => if s.portUp p && decide (a.epochAt + 400 * usNs ≤ s.elapsed) then s.elect s.ax.parent s.now else s
  | none => s

/-- ADVERT_STALE (R380). -/
def execAdvertStale (at_ : TT) (p : Fin 4) (s : State) : Host.Outcome State Fault Refusal :=
  timed at_ (fun s => s.advertLate p.val) s

/-- JOIN (R382, R383). -/
def execJoin (at_ : TT) (p : Fin 4) (id : MemberId) (nonce : BitVec 64) (s : State) :
    Host.Outcome State Fault Refusal :=
  timed at_ (fun s => s.joinIn p.val id nonce) s

/-- ROSTER (R383). -/
def execRoster (at_ : TT) (p : Fin 4) (id : MemberId) (nonce : BitVec 64) (s : State) :
    Host.Outcome State Fault Refusal :=
  timed at_ (fun s => s.rosterIn p.val id nonce) s

/-- LEAVE (R386): treated as the port going down. -/
def execLeave (at_ : TT) (p : Fin 4) (s : State) : Host.Outcome State Fault Refusal :=
  timed at_ (fun s => if s.portUp p.val then (s.heard p.val 0).portDown p.val 3 s.now else s) s

/-! ### Acknowledgement and credit -/

/-- ACK (R370). -/
def execAck (at_ : TT) (p : Fin 4) (cls : AxClass) (seq : BitVec 16) (s : State) : Host.Outcome State Fault Refusal :=
  timed at_ (fun s => s.ackIn p.val (classCode cls) seq.toNat) s

/-- NAK (R370). -/
def execNak (at_ : TT) (p : Fin 4) (cls : AxClass) (seq : BitVec 16) (s : State) : Host.Outcome State Fault Refusal :=
  timed at_ (fun s => s.nakIn p.val (classCode cls) seq.toNat) s

/-- RETX_TIMEOUT (R370). -/
def execRetxTimeout (at_ : TT) (p : Fin 4) (cls : AxClass) (s : State) : Host.Outcome State Fault Refusal :=
  timed at_ (fun s => s.retxDue p.val (classCode cls)) s

/-- CREDIT (R372). -/
def execCredit (at_ : TT) (p : Fin 4) (cueFrames mgmtUnits bulkUnits : Nat) (s : State) :
    Host.Outcome State Fault Refusal :=
  timed at_ (fun s => s.creditIn p.val cueFrames mgmtUnits bulkUnits) s

/-- CREDIT_TIMER (R372). -/
def execCreditTimer (at_ : TT) (p : Fin 4) (s : State) : Host.Outcome State Fault Refusal :=
  timed at_ (fun s => s.creditOut p.val) s

/-! ### Time exchanges -/

/-- TIME_EXCHANGE_START (R373): t₁ is the present instant with the fraction `t1Frac` in 2⁻¹⁶ ns; an exchange without an
answer goes missing first. -/
def execTimeExchangeStart (at_ : TT) (p : Fin 4) (t1Frac : BitVec 16) (s : State) : Host.Outcome State Fault Refusal :=
  timed at_ (fun s => (s.exchangeMiss p.val).exchangeStart p.val t1Frac) s

/-- TIME_REQ (R373). -/
def execTimeReq (at_ : TT) (p : Fin 4) (t2Frac : BitVec 16) (t3 : TT) (t3Frac : BitVec 16) (s : State) :
    Host.Outcome State Fault Refusal :=
  timed at_ (fun s => s.exchangeAnswer p.val t2Frac t3 t3Frac) s

/-- TIME_RESP (R373–R375). -/
def execTimeResp (at_ : TT) (p : Fin 4) (t2 : TT) (t2Frac : BitVec 16) (t3 : TT) (t3Frac : BitVec 16)
    (t4Frac : BitVec 16) (s : State) : Host.Outcome State Fault Refusal :=
  timed at_ (fun s =>
    s.exchangeEnd p.val (t2.toNat * 65536 + t2Frac.toNat : Nat) (t3.toNat * 65536 + t3Frac.toNat : Nat) t4Frac) s

/-- TIME_EXCHANGE_MISS (R375). -/
def execTimeExchangeMiss (at_ : TT) (p : Fin 4) (s : State) : Host.Outcome State Fault Refusal :=
  timed at_ (fun s => s.exchangeMiss p.val) s

/-! ### Cues and ISO -/

/-- CUE_RECORD (R387, R389). -/
def execCueRecord (at_ : TT) (p : Fin 4) (h : AxHdr) (r : CueRec) (s : State) : Host.Outcome State Fault Refusal :=
  timed at_ (fun s => s.cueIn p.val h r) s

/-- REPLAY_REQ (R388). -/
def execReplayReq (at_ : TT) (p : Fin 4) (h : AxHdr) (s : State) : Host.Outcome State Fault Refusal :=
  timed at_ (fun s => s.replayIn p.val h) s

/-- ISO_LINE (R390): `lineDone` says that the frame ends its line. -/
def execIsoLine (at_ : TT) (p : Fin 4) (h : AxHdr) (bytes : List Byte) (lineDone : Bool) (s : State) :
    Host.Outcome State Fault Refusal :=
  timed at_ (fun s => s.isoIn p.val h bytes lineDone false) s

/-- ISO_UNIT (R390): the frame belongs to the first line of a unit. -/
def execIsoUnit (at_ : TT) (p : Fin 4) (h : AxHdr) (bytes : List Byte) (lineDone : Bool) (s : State) :
    Host.Outcome State Fault Refusal :=
  timed at_ (fun s => s.isoIn p.val h bytes lineDone true) s

/-! ### BULK -/

/-- BULK_START (R394): a write of AX0_BULK_CTL. -/
def execBulkStart (at_ : TT) (val : W32) (s : State) : Host.Outcome State Fault Refusal :=
  timed at_ (fun s => s.portWrite (AX_BULK_CTL 0) val) s

/-- BULK_REQUEST (R392, R393). -/
def execBulkRequest (at_ : TT) (p : Fin 4) (h : AxHdr) (raddr length : W32) (s : State) :
    Host.Outcome State Fault Refusal :=
  timed at_ (fun s => s.bulkAsk p.val h raddr.toNat length.toNat) s

/-- BULK_GRANT (R393). -/
def execBulkGrant (at_ : TT) (p : Fin 4) (h : AxHdr) (s : State) : Host.Outcome State Fault Refusal :=
  timed at_ (fun s => s.bulkGranted p.val h) s

/-- BULK_CONFIRM (R393). -/
def execBulkConfirm (at_ : TT) (p : Fin 4) (h : AxHdr) (s : State) : Host.Outcome State Fault Refusal :=
  timed at_ (fun s => s.bulkConfirmed p.val h) s

/-- BULK_RELEASE (R393). -/
def execBulkRelease (at_ : TT) (p : Fin 4) (h : AxHdr) (s : State) : Host.Outcome State Fault Refusal :=
  timed at_ (fun s => s.bulkReleased p.val h) s

/-- BULK_DATA (R392). -/
def execBulkData (at_ : TT) (p : Fin 4) (h : AxHdr) (raddr : W32) (bytes : List Byte) (s : State) :
    Host.Outcome State Fault Refusal :=
  timed at_ (fun s => s.bulkDataIn p.val h raddr.toNat bytes) s

/-- BULK_DONE (R394): `refused` says that the target refused the transfer. -/
def execBulkDone (at_ : TT) (p : Fin 4) (h : AxHdr) (refused : Bool) (s : State) : Host.Outcome State Fault Refusal :=
  timed at_ (fun s => s.bulkEnds p.val h refused) s

/-! ### MGMT -/

/-- RMT_ACCESS_START (R395): a write of AX0_RMT_CTL. -/
def execRmtAccessStart (at_ : TT) (val : W32) (s : State) : Host.Outcome State Fault Refusal :=
  timed at_ (fun s => s.portWrite (AX_RMT_CTL 0) val) s

/-- MGMT_READ (R395). -/
def execMgmtRead (at_ : TT) (p : Fin 4) (h : AxHdr) (addr : W32) (s : State) : Host.Outcome State Fault Refusal :=
  timed at_ (fun s => s.remoteIn p.val h false addr 0) s

/-- MGMT_WRITE (R395). -/
def execMgmtWrite (at_ : TT) (p : Fin 4) (h : AxHdr) (addr val : W32) (s : State) : Host.Outcome State Fault Refusal :=
  timed at_ (fun s => s.remoteIn p.val h true addr val) s

/-- MGMT_RESPONSE (R395). -/
def execMgmtResponse (at_ : TT) (p : Fin 4) (h : AxHdr) (status : Byte) (data : W32) (s : State) :
    Host.Outcome State Fault Refusal :=
  timed at_ (fun s => s.remoteDone p.val h status data) s

/-- RMT_TIMEOUT (R395). -/
def execRmtTimeout (at_ : TT) (s : State) : Host.Outcome State Fault Refusal :=
  timed at_ (fun s => s.remoteLate) s

/-- MGMT_LOG (R454). -/
def execMgmtLog (at_ : TT) (p : Fin 4) (h : AxHdr) (payload : List Byte) (s : State) :
    Host.Outcome State Fault Refusal :=
  timed at_ (fun s => s.logIn p.val h payload) s

end Sys2Proof.Machine
end

