-- ==== Sys2Proof/Machine/LogicFabric.lean ====
section
/-! DEFINITION. Commands of the logic fabric, its queues and the bridge. -/

namespace Sys2Proof.Machine

/-- FIFO_PUSH (R409, R410): a push of the fabric side, or of the bridge side, which moves the words of the copies in
progress. `stale` says that the side's view of the queue lags behind the other side. -/
def execFifoPush (at_ : TT) (k : Fin 128) (bridge : Bool) (data : W36) (stale : Bool) (s : State) :
    Host.Outcome State Fault Refusal :=
  timed at_ (fun s =>
    if !s.dev.active then s else if bridge then s.bridgeStep k.val stale else s.fabricPush k.val data stale) s

/-- FIFO_POP (R409, R410): a pop of the fabric side, or of the bridge side, as for a push. -/
def execFifoPop (at_ : TT) (k : Fin 128) (bridge : Bool) (stale : Bool) (s : State) :
    Host.Outcome State Fault Refusal :=
  timed at_ (fun s =>
    if !s.dev.active then s else if bridge then s.bridgeStep k.val stale else s.fabricPop k.val stale) s

/-- FIFO_FLUSH (R411). -/
def execFifoFlush (at_ : TT) (k : Fin 128) (s : State) : Host.Outcome State Fault Refusal :=
  timed at_ (fun s => if s.dev.active then s.flushQueue k.val else s) s

/-- FIO_TAP_INCREMENT (R413). -/
def execFioTapIncrement (at_ : TT) (m : Fin 96) (s : State) : Host.Outcome State Fault Refusal :=
  timed at_ (fun s => if s.dev.active then s.tapStep m.val true else s) s

/-- FIO_TAP_DECREMENT (R413). -/
def execFioTapDecrement (at_ : TT) (m : Fin 96) (s : State) : Host.Outcome State Fault Refusal :=
  timed at_ (fun s => if s.dev.active then s.tapStep m.val false else s) s

/-- BRIDGE_NOP (R416): command NOP completes with no effect; a reserved opcode is rejected. -/
def execBridgeNop (at_ : TT) (c : Fin 32) (s : State) : Host.Outcome State Fault Refusal :=
  timed at_ (fun s => s.bridgeCommand c.val 0) s

/-- BRIDGE_CUE (R416): a cue record is submitted as source ENGINE. -/
def execBridgeCue (at_ : TT) (c : Fin 32) (s : State) : Host.Outcome State Fault Refusal :=
  timed at_ (fun s => s.bridgeCommand c.val 1) s

/-- BRIDGE_BARRIER (R416): a barrier whose source is CUE is set or added to. -/
def execBridgeBarrier (at_ : TT) (c : Fin 32) (s : State) : Host.Outcome State Fault Refusal :=
  timed at_ (fun s => s.bridgeCommand c.val 2) s

/-- BRIDGE_FM_WRITE (R416): block RAM data is copied into frame memory. -/
def execBridgeFmWrite (at_ : TT) (c : Fin 32) (s : State) : Host.Outcome State Fault Refusal :=
  timed at_ (fun s => s.bridgeCommand c.val 3) s

/-- BRIDGE_FM_READ (R416): frame memory is copied into block RAM. -/
def execBridgeFmRead (at_ : TT) (c : Fin 32) (s : State) : Host.Outcome State Fault Refusal :=
  timed at_ (fun s => s.bridgeCommand c.val 4) s

/-- BRIDGE_BULK (R418): a BULK transfer starts once the member's initiator is free. -/
def execBridgeBulk (at_ : TT) (c : Fin 32) (s : State) : Host.Outcome State Fault Refusal :=
  timed at_ (fun s => s.bridgeCommand c.val 5) s

/-- BRIDGE_COMMAND_COMPLETE (R416): the command in progress finishes, and done or error pulses. -/
def execBridgeCommandComplete (at_ : TT) (c : Fin 32) (s : State) : Host.Outcome State Fault Refusal :=
  timed at_ (fun s => s.bridgeComplete c.val) s

/-- FCLK_EDGE (R399, R401, R407, R409–R413): a rising edge, with the fabric I/O pads captured at this edge, those captured at
the falling edge before it, and the levels that stand at the GPIO pads from outside.  A DDR input pairs the falling capture
with the capture of the rising edge before it (log entry 53). -/
def execFclkEdge (at_ : TT) (fioRise fioFall : BitVec 96) (gpio : BitVec 64) (s : State) :
    Host.Outcome State Fault Refusal :=
  timed at_ (fun s =>
    let s := s.seePads gpio
    s.fclk fioRise fioFall s.padLevels) s

end Sys2Proof.Machine
end

