-- ==== Sys2Proof/Machine/GpioPins.lean ====
section
/-! DEFINITION. Commands of the GPIO pins, pin-event lines, TIME outputs and bank supplies. -/

namespace Sys2Proof.Machine

/-- The op byte of a one-unit write of a size (R462). -/
def opWriteOf : Size → Byte
  | .s8 => 0x40
  | .s16 => 0x50
  | .s32 => 0x60
  | .s64 => 0x70

/-- The data bytes of a written value. -/
def sizedBytes (sz : Size) (v : W32) : List Byte :=
  bytesOf (match sz with | .s8 => 1 | .s16 => 2 | .s32 => 4 | .s64 => 8) v.toNat

/-- GPIO_OUT_WRITE (R427): an observer write of GPb_OUT, of 8, 16 or 32 bits at a byte offset. -/
def execGpioOutWrite (at_ : TT) (b : Fin 4) (size : Size) (byteOff : Fin 4) (val : W32) (s : State) :
    Host.Outcome State Fault Refusal :=
  timed at_ (fun s =>
    s.frameIn (opWriteOf size) 0 (BitVec.ofNat 32 (GP_OUT b.val + byteOff.val)) (sizedBytes size val) []) s

/-- GPIO_IN_SNAPSHOT_READ (R431, R474): a read of GPIO_IN_LO, with the levels that stand at the pads from outside. -/
def execGpioInSnapshotRead (at_ : TT) (pads : BitVec 64) (s : State) : Host.Outcome State Fault Refusal :=
  timed at_ (fun s => (s.seePads pads).portRead GPIO_IN_LO false) s

/-- PEL_EVENT (R434): the debounced level of a line changes; `cause` is the instant of the run's first sample. -/
def execPelEvent (at_ : TT) (k : Fin 16) (rises : Bool) (cause : TT) (s : State) : Host.Outcome State Fault Refusal :=
  timed at_ (fun s => s.pelChange k.val rises cause.toNat) s

/-- PEL_GLITCH (R433). -/
def execPelGlitch (at_ : TT) (k : Fin 16) (s : State) : Host.Outcome State Fault Refusal :=
  timed at_ (fun s => s.pelGlitchSeen k.val) s

/-- PELK_CTL_WRITE (R436): a write of PELk_CTL. -/
def execPelkCtlWrite (at_ : TT) (k : Fin 16) (val : W32) (s : State) : Host.Outcome State Fault Refusal :=
  timed at_ (fun s => s.portWrite (PEL_CTL k.val) val) s

/-- TIME_OUTPUT_EDGE (R422). -/
def execTimeOutputEdge (at_ : TT) (f : TimeFn) (rises : Bool) (s : State) : Host.Outcome State Fault Refusal :=
  timed at_ (fun s => s.timeEdge f rises) s

/-- BANK_SUPPLY_LOSS (R415, R441). -/
def execBankSupplyLoss (at_ : TT) (b : Bank) (s : State) : Host.Outcome State Fault Refusal :=
  timed at_ (fun s => s.setSupply b false) s

/-- BANK_SUPPLY_RETURN (R415, R441). -/
def execBankSupplyReturn (at_ : TT) (b : Bank) (s : State) : Host.Outcome State Fault Refusal :=
  timed at_ (fun s => s.setSupply b true) s

end Sys2Proof.Machine
end

