-- ==== Sys2Proof/Machine/EventLog.lean ====
section
/-! DEFINITION. Commands of the event log and the violation monitors. -/

namespace Sys2Proof.Machine

/-- EVENT_COMMIT (R446, R453): records whose time has come go into the ring in cause order, and are streamed. -/
def execEventCommit (at_ : TT) (s : State) : Host.Outcome State Fault Refusal :=
  timed at_ (fun s => s.commitDue) s

/-- EL_TAIL_WRITE (R451). -/
def execElTailWrite (at_ : TT) (val : W32) (s : State) : Host.Outcome State Fault Refusal :=
  timed at_ (fun s => s.portWrite EL_TAIL val) s

/-- EL_RECORD_WORD0_READ (R452): a read of word 0 of a ring slot snapshots its other words. -/
def execElRecordWord0Read (at_ : TT) (slot : Fin 4096) (s : State) : Host.Outcome State Fault Refusal :=
  timed at_ (fun s => s.portRead (RING_W slot.val 0) false) s

/-- VIOLATION_EPISODE_START (R37, R154, R458): a monitor detects its condition, `cause` being its instant. -/
def execViolationEpisodeStart (at_ : TT) (m : MonitorIx) (value : BitVec 16) (cause : TT) (s : State) :
    Host.Outcome State Fault Refusal :=
  timed at_ (fun s => s.violStart m.val value.toNat cause.toNat) s

/-- VIOLATION_EPISODE_END (R457). -/
def execViolationEpisodeEnd (at_ : TT) (m : MonitorIx) (s : State) : Host.Outcome State Fault Refusal :=
  timed at_ (fun s => s.violEnd m.val) s

end Sys2Proof.Machine
end

