-- ==== Sys2Proof/Machine/Ports.lean ====
section
/-! DEFINITION. Commands of the observer port and the test access port. `full` lists the units of a frame that meet a
full access queue (R465, R467). -/

namespace Sys2Proof.Machine

/-! ### Observer port -/

/-- OBS_READ (R462, R463): a READ frame; a frame of another op is taken as the op byte says. -/
def execObsRead (at_ : TT) (op len : Byte) (addr : W32) (full : List Nat) (s : State) :
    Host.Outcome State Fault Refusal :=
  timed at_ (fun s => s.frameIn op len addr [] full) s

/-- OBS_WRITE (R462, R463): a WRITE frame. -/
def execObsWrite (at_ : TT) (op len : Byte) (addr : W32) (data : List Byte) (full : List Nat) (s : State) :
    Host.Outcome State Fault Refusal :=
  timed at_ (fun s => s.frameIn op len addr data full) s

/-- OBS_STAT (R468): a STAT frame. -/
def execObsStat (at_ : TT) (op len : Byte) (addr : W32) (s : State) : Host.Outcome State Fault Refusal :=
  timed at_ (fun s => s.frameIn op len addr [] []) s

/-- OBS_CS_ABORT (R464): a frame is cut off after the given bytes. -/
def execObsCsAbort (at_ : TT) (bytes : List Byte) (full : List Nat) (s : State) : Host.Outcome State Fault Refusal :=
  timed at_ (fun s => s.frameCut bytes full) s

/-- I2C_STATUS_READ (R466): a bare read returns the status and index of the latest write frame. -/
def execI2cStatusRead (at_ : TT) (s : State) : Host.Outcome State Fault Refusal :=
  timed at_ (fun s =>
    if s.dev.powered && s.obs.i2c then
      { s with obs := { s.obs with answer := [s.obs.wrStatus, s.obs.wrIndex] } }
    else s) s

/-! ### Test access port -/

/-- TAP_RESET (R481). -/
def execTapReset (at_ : TT) (s : State) : Host.Outcome State Fault Refusal :=
  timed at_ (fun s => s.tapClear) s

/-- EXTEST (R481, R482): the pads are captured, and driven where that is allowed. -/
def execExtest (at_ : TT) (pads shiftIn : BitVec 546) (s : State) : Host.Outcome State Fault Refusal :=
  timed at_ (fun s => s.tapBoundary 0x00 pads shiftIn) s

/-- SAMPLE_PRELOAD (R481): the pads are captured, and the boundary cells loaded. -/
def execSamplePreload (at_ : TT) (pads shiftIn : BitVec 546) (s : State) : Host.Outcome State Fault Refusal :=
  timed at_ (fun s => s.tapBoundary 0x01 pads shiftIn) s

/-- IDCODE (R481). -/
def execIdcode (at_ : TT) (s : State) : Host.Outcome State Fault Refusal :=
  timed at_ (fun s => s.withTap (fun t =>
    { t with ir := 0x02, dr := 0x12080C6B, padsTaken := false, highz := false })) s

/-- HIGHZ (R481, R482). -/
def execHighz (at_ : TT) (s : State) : Host.Outcome State Fault Refusal :=
  timed at_ (fun s => s.withTap (fun t => { t with ir := 0x03, padsTaken := s.tapMay, highz := s.tapMay })) s

/-- CLAMP (R481, R482). -/
def execClamp (at_ : TT) (s : State) : Host.Outcome State Fault Refusal :=
  timed at_ (fun s => s.withTap (fun t => { t with ir := 0x04, padsTaken := s.tapMay, highz := false })) s

/-- OBS_ACCESS (R483): one observer unit; `full` says that it meets a full access queue. -/
def execObsAccess (at_ : TT) (dr : BitVec 72) (full : Bool) (s : State) : Host.Outcome State Fault Refusal :=
  timed at_ (fun s => s.tapAccess dr full) s

/-- RB_SCAN (R419, R483). -/
def execRbScan (at_ : TT) (s : State) : Host.Outcome State Fault Refusal :=
  timed at_ (fun s => s.tapScan) s

/-- The instruction codes that are not BYPASS (R481). -/
def tapListed (code : Byte) : Bool := [(0x00 : Byte), 0x01, 0x02, 0x03, 0x04, 0x40, 0x41].contains code

/-- BYPASS (R481): any unlisted code selects the bypass register. -/
def execBypass (at_ : TT) (code : Byte) (tdi : Bool) (s : State) : Host.Outcome State Fault Refusal :=
  timed at_ (fun s => s.withTap (fun t =>
    { t with ir := if tapListed code then 0xFF else code, bypassBit := tdi, padsTaken := false, highz := false })) s

end Sys2Proof.Machine
end

