-- ==== Sys2Proof/Machine/Image.lean ====
section
/-! DEFINITION. The configuration image: its header, its section table, and what each section brings into the device,
with the checks of R168–R174, R183 and the rules that they name. A check that fails gives the detail of the load
result: a section, record or item index (DEDUCED, notes/assumptions/15). -/

namespace Sys2Proof.Machine

/-! ### Bytes -/

/-- `n` bytes from an offset, and the number that they spell, least significant first. -/
def cutBytes (b : List Byte) (o n : Nat) : List Byte := (b.drop o).take n
def num (b : List Byte) (o n : Nat) : Nat := ofBytes (cutBytes b o n)

/-- Whether `n` bytes from an offset are all 0. -/
def zeroAt (b : List Byte) (o n : Nat) : Bool := (cutBytes b o n).all (· == 0)

/-- The little-endian words that bytes spell. -/
def wordsOf (b : List Byte) : List W32 := (List.range (b.length / 4)).map (fun i => BitVec.ofNat 32 (num b (4 * i) 4))

/-- CRC-32 of IEEE 802.3 (R164): reflected, from all ones, complemented. -/
def crcByte (c : BitVec 32) (b : Byte) : BitVec 32 :=
  (List.range 8).foldl (fun c _ => if c.getLsbD 0 then (c >>> 1) ^^^ 0xEDB88320 else c >>> 1) (c ^^^ b.zeroExtend 32)
def crc32 (l : List Byte) : BitVec 32 := ~~~ (l.foldl crcByte 0xFFFFFFFF)

/-! ### Directory, header and table -/

/-- A valid copy of the slot directory (R164). -/
def dirValid (b : List Byte) : Bool :=
  b.length == 64 && num b 0 4 == 0x52444258 && num b 4 2 == 1 && num b 60 4 == (crc32 (b.take 60)).toNat

/-- A flag of the header: 0 signed, 1 encrypted, 2 sealed, 3 allow_advance. -/
def hdrFlag (b : List Byte) (i : Nat) : Bool := (b.getD 16 0).getLsbD i

/-- The rules of the header table whose breach is refused with cause FORMAT (R168). -/
def headerForm (b : List Byte) (slotSize : Nat) : Bool :=
  let len := num b 8 4
  num b 4 2 == 1 && decide (1 ≤ num b 6 2) && decide (num b 6 2 ≤ 32) &&
  decide (1024 ≤ len) && decide (len ≤ 31457280) && len % 64 == 0 && decide (len ≤ slotSize) &&
  decide (num b 15 1 ≤ 1) && decide (num b 16 1 < 16) && decide (num b 17 1 ≤ 64) && decide (num b 18 1 ≤ 4) &&
  decide (25 ≤ num b 19 1) && decide (num b 19 1 ≤ 200) &&
  zeroAt b 168 88 && zeroAt b 352 160 && (hdrFlag b 0 || (zeroAt b 72 96 && zeroAt b 256 96))

/-- Step 1 of R174: the cause with which a header is refused, 0x01 for a header that keeps every rule. A header that
could not be read is refused with cause FLASH. -/
def headerCause (b : List Byte) (slotSize : Nat) : Nat :=
  if b.length < 512 then 0x0E
  else if num b 0 4 ≠ 0x4D494258 then 0x04
  else if num b 12 2 ≠ 0x2080 ∨ 0xB0 < num b 14 1 then 0x05
  else if headerForm b slotSize then 0x01 else 0x06

/-- Steps 2 to 5 of R174: key, signature, policy and rollback. -/
def FuseSt.verdict (f : FuseSt) (b : List Byte) : Nat :=
  let key := cutBytes b 72 96
  if f.keyHash.isSome && !(hdrFlag b 0 && f.keyHash == some (sha384 key)) then 0x07
  else if hdrFlag b 0 && !ecdsaVerifies key (sha384 (b.take 256)) (cutBytes b 256 96) then 0x08
  else if (hdrFlag b 2 && !hdrFlag b 0) || (hdrFlag b 1 && f.aesKey.isNone) || (f.requireSeal && !hdrFlag b 2) ||
      (f.requireEncrypt && !hdrFlag b 1) then 0x09
  else if num b 17 1 < f.rollback then 0x0A
  else 0x01

/-- Steps 1 to 5 of R174: the cause with which the header is refused, 0x01 where the slot's sections are read. -/
def FuseSt.admits (f : FuseSt) (slotSize : Nat) (b : List Byte) : Nat :=
  let c := headerCause b slotSize
  if c = 1 then f.verdict b else c

/-- An entry of the section table (R169). -/
def entryBytes (b : List Byte) (i : Nat) : List Byte := cutBytes b (512 + 128 * i) 128

/-- Whether a section type is one of the section-type table. -/
def sectType (t : Nat) : Bool := (decide (1 ≤ t) && decide (t ≤ 8)) || t == 0x7F

/-- Whether an entry keeps the rules of R169, by itself and against the entries before it: sections are stored, by their
offsets, in ascending order of type, only USER sections sharing one (DEDUCED, notes/assumptions/15). -/
def entryForm (b : List Byte) (i : Nat) : Bool :=
  let e := entryBytes b i
  let n := num b 6 2
  let typ := num e 0 1
  let off := num e 4 4
  let len := num e 8 4
  sectType typ && decide (num e 1 1 ≤ 1) && zeroAt e 2 2 && zeroAt e 12 4 && zeroAt e 28 4 && zeroAt e 96 32 &&
  off % 64 == 0 && decide (512 + 128 * n ≤ off) && decide (off + len ≤ num b 8 4) &&
  ((e.getD 1 0).getLsbD 0 || (zeroAt e 16 12 && zeroAt e 80 16)) &&
  (typ == 0x7F || (e.getD 1 0).getLsbD 0 == hdrFlag b 1) &&
  (List.range i).all (fun j =>
    let d := entryBytes b j
    let t := num d 0 1
    let before := decide (num d 4 4 + num d 8 4 ≤ off)
    let after := decide (off + len ≤ num d 4 4)
    if t < typ then before else if typ < t then after else typ == 0x7F && (before || after))

/-- The first entry of the section table that breaks R169; the index after the last where REGISTERS is missing. -/
def tableFault (b : List Byte) : Option Nat :=
  let n := num b 6 2
  match (List.range n).find? (fun i => !entryForm b i) with
  | some i => some i
  | none => if (List.range n).any (fun i => num (entryBytes b i) 0 1 == 1) then none else some n

/-- Entry indices with one more, by the place of their sections. -/
def placeEntry (b : List Byte) (i : Nat) : List Nat → List Nat
  | [] => [i]
  | j :: l =>
    let at_ (k : Nat) : Nat := num (entryBytes b k) 4 4 * 256 + num (entryBytes b k) 0 1
    if at_ i < at_ j then i :: j :: l else j :: placeEntry b i l

/-- The entries of the section table in the order in which their sections are stored (R169). -/
def storedOrder (b : List Byte) : List Nat := (List.range (num b 6 2)).foldl (fun l i => placeEntry b i l) []

/-! ### REGISTERS -/

/-- Whether a record may address a register (R170). -/
def mayRecord (a : Nat) : Bool :=
  a % 4 == 0 && (rowOf a).isSome &&
  (match locate a with
   | some (.bat, _, _) => false
   | some (.cfg, _, _) => false
   | some (.ring, _, _) => false
   | some (.ds, _, _) => false
   | some (.ba, _, _) => false
   | some (.sys, _, _) =>
     ((List.range 4).map SYS_KA ++ (List.range 6).map SYS_SLEEP_CTL ++ (List.range 6).map SYS_SLEEP_DLY ++
       [SYS_WIND_CTL, SYS_DRAIN_CTL, SYS_WAKE_SRC, SYS_WAKE_AT_LO, SYS_WAKE_AT_HI]).contains a
   | some _ => true
   | none => false)

/-- A record of SVn_CLAIM gives service `n` resources of one kind (R342), unless R343 refuses it. -/
def State.claimRecord (s : State) (n : Nat) (v : W32) : Option State :=
  let kind := (SV_CLAIM_kind n).of v
  let first := (SV_CLAIM_first n).of v
  let last := (SV_CLAIM_last n).of v
  if last < first ∨ kindCount kind ≤ last then none
  else if (List.range (last + 1 - first)).any (fun i =>
      s.ownerOf kind (first + i) != .pool && s.ownerOf kind (first + i) != .svc n) then none
  else some { s with claims := s.claims ++ [(kind, first, last, n)] }

/-- One register record: a whole 32-bit write (R170); none where it is refused. -/
def State.record (s : State) (a : Nat) (v : W32) : Option State :=
  if !mayRecord a then none else
  match locate a with
  | some (.sv, n, 0x4) => s.claimRecord n v
  | _ =>
    let r := s.writeReg .image a v 0xFFFFFFFF
    if r.1 = .ok then some r.2 else none

/-- Records applied in order; the index of a refused one, counted from 1 (corner of R183). -/
def State.records (s : State) : Nat → List (Nat × W32) → Except Nat State
  | _, [] => .ok s
  | i, (a, v) :: l =>
    match s.record a v with
    | some t => t.records (i + 1) l
    | none => .error (i + 1)

/-- The REGISTERS section (R170). -/
def State.loadRegisters (s : State) (b : List Byte) : Except Nat State :=
  if b.length % 8 ≠ 0 then .error (b.length / 8 + 1) else
  s.records 0 ((List.range (b.length / 8)).map (fun i => (num b (8 * i) 4, BitVec.ofNat 32 (num b (8 * i + 4) 4))))

/-! ### FABRIC -/

/-- The frames of a FABRIC section (R405): type, index and payload; and whether the bytes end with the last frame. `n`
bounds how many. -/
def framesOf : Nat → List Byte → List (Nat × Nat × List Byte) × Bool
  | 0, _ => ([], false)
  | n + 1, b =>
    if b.isEmpty then ([], true)
    else if b.length < 8 + num b 4 4 ∨ !zeroAt b 1 1 then ([], false)
    else
      let r := framesOf n (b.drop (8 + num b 4 4))
      ((num b 0 1, num b 2 2, cutBytes b 8 (num b 4 4)) :: r.1, r.2)

/-- The number of indices and the payload length of a frame type (R405). -/
def frameShape (t : Nat) : Option (Nat × Nat) :=
  match t with
  | 1 => some (640, 384) | 2 => some (128, 204) | 3 => some (96, 16) | 4 => some (32, 4)
  | 5 => some (1, 40) | 6 => some (1, 256) | 0x7F => some (1, 2560) | _ => none

/-- Whether a net number is assigned (R401). -/
def netOk (n : Nat) : Bool := decide (n < 0x9780) || decide (0xFFFE ≤ n)

/-- `k` sinks of two bytes each from an offset. -/
def sinksAt (b : List Byte) (o k : Nat) : List Nat := (List.range k).map (fun i => num b (o + 2 * i) 2)

/-- The sinks of a frame. -/
def frameSinks (t : Nat) (p : List Byte) : List Nat :=
  match t with
  | 1 => (List.range 32).flatMap (fun i => sinksAt p (12 * i + 2) 4)
  | 2 => sinksAt p 4 100
  | 3 => sinksAt p 4 5
  | 4 => sinksAt p 2 1
  | 5 => sinksAt p 8 16
  | 6 => sinksAt p 0 128
  | _ => []

/-- The reserved bits and ranges of a frame's payload (R405). -/
def frameForm (t : Nat) (p : List Byte) : Bool :=
  match t with
  | 1 => (List.range 32).all (fun i => decide (num p (12 * i + 10) 1 < 16))
  | 2 => decide (num p 0 1 < 16) && num p 0 1 % 4 != 3 && zeroAt p 1 3
  | 3 => num p 0 1 / 32 % 4 != 3 && decide (num p 1 1 < 128) && decide (num p 2 1 < 4) && zeroAt p 3 1 && zeroAt p 14 2
  | 4 => decide (num p 0 1 ≤ 1) && decide (num p 1 1 < 128)
  | 5 => decide (25 ≤ num p 0 2) && decide (num p 0 2 ≤ 400) && (List.range 4).all (fun i => decide (num p (2 + i) 1 ≤ 3)) &&
      zeroAt p 6 2
  | _ => true

/-- Whether a frame keeps R401 and R405, given the frame before it. -/
def frameOk (before : Option (Nat × Nat × List Byte)) (f : Nat × Nat × List Byte) : Bool :=
  (match frameShape f.1 with
   | some (n, len) => decide (f.2.1 < n) && f.2.2.length == len
   | none => false) &&
  (match before with
   | some g => decide (g.1 < f.1) || (g.1 == f.1 && decide (g.2.1 < f.2.1))
   | none => true) &&
  frameForm f.1 f.2.2 && (frameSinks f.1 f.2.2).all netOk

/-- The cell that a 12-byte entry configures (R405). -/
def cellOf (e : List Byte) : CellCfg :=
  let b := e.getD 10 0
  { table := BitVec.ofNat 16 (num e 0 2), nets := sinksAt e 2 4, registered := b.getLsbD 0, ceEn := b.getLsbD 1,
    rstEn := b.getLsbD 2, rstVal := b.getLsbD 3, ceLine := num e 11 1 / 16, rstLine := num e 11 1 % 16 }

/-- The fabric I/O cell that a frame configures. -/
def fioOf (p : List Byte) : FioCfg :=
  let b := p.getD 0 0
  let c := p.getD 2 0
  { inDdr := b.getLsbD 0, outDdr := b.getLsbD 1, delayOut := b.getLsbD 2, pullUp := b.getLsbD 3, pullDown := b.getLsbD 4,
    drive := num p 0 1 / 32 % 4, fast := b.getLsbD 7, tap0 := num p 1 1 % 128, out0 := c.getLsbD 0, oe0 := c.getLsbD 1,
    sinks := sinksAt p 4 5 }

/-- One frame is applied (R405, R412, R413, R419). -/
def State.frameApply (s : State) (f : Nat × Nat × List Byte) : State :=
  let p := f.2.2
  let k := f.2.1
  match f.1 with
  | 1 => s.each (List.range 32) (fun s i => { s with fab := { s.fab with
      cells := s.fab.cells.set (32 * k + i) (cellOf (cutBytes p (12 * i) 12)) } })
  | 2 =>
    let s := ((s.p (QC_CTL_width k) (num p 0 1 % 4)).pb (QC_CTL_push_side k) ((p.getD 0 0).getLsbD 2)).pb
      (QC_CTL_pop_side k) ((p.getD 0 0).getLsbD 3)
    { s with fab := { s.fab with bramSinks := s.fab.bramSinks.set k (sinksAt p 4 100) } }
  | 3 =>
    let c := fioOf p
    { s with fab := { s.fab with fio := s.fab.fio.set k c, fioOut := s.fab.fioOut.set k (c.out0, c.out0, c.oe0),
                                 tap := s.fab.tap.set k c.tap0 } }
  | 4 => s.setChan k { BridgeSt.initial with enabled := (p.getD 0 0).getLsbD 0, block := num p 1 1, hold := num p 2 2 }
  | 5 => { s with fab := { s.fab with fclkMhz := num p 0 2, bankVolt := (List.range 4).map (fun i => num p (2 + i) 1),
                                      gc := sinksAt p 8 16 } }
  | 6 => { s with fab := { s.fab with
      gpioSinks := (List.range 64).map (fun i => (i, num p (4 * i) 2, num p (4 * i + 2) 2)) } }
  | _ => { s with fab := { s.fab with
      ff := ((List.range 20480).filter (fun c => (p.getD (c / 8) 0).getLsbD (c % 8))).map (fun c => (c, true)) } }

/-- Everything reached from a list by a step, the visited given. `n` bounds the steps. -/
def reached (next : Nat → List Nat) : Nat → List Nat → List Nat → List Nat
  | 0, _, seen => seen
  | n + 1, todo, seen =>
    match todo with
    | [] => seen
    | x :: rest => if seen.contains x then reached next n rest seen else reached next n (next x ++ rest) (x :: seen)

/-- More steps than the 20,480 cells can take, each with four inputs and two control lines. -/
def netFuel : Nat := 200000

/-- The control lines that a cell uses. -/
def CellCfg.lines (c : CellCfg) : List Nat := (if c.ceEn then [c.ceLine] else []) ++ (if c.rstEn then [c.rstLine] else [])

/-- The cells not registered that a cell not registered takes its inputs from. -/
def State.looseInputs (s : State) (c : Nat) : List Nat :=
  match s.fab.cells.lookup c with
  | some x => if x.registered then [] else
      x.nets.filter (fun n => match s.fab.cells.lookup n with | some y => !y.registered | none => false)
  | none => []

/-- The first cell of a loop that passes only through cells not registered (R400). -/
def State.looseLoop (s : State) : Option Nat :=
  (List.range 20480).find? (fun c => (reached s.looseInputs netFuel (s.looseInputs c) []).contains c)

/-- The first block that takes more than 96 nets from outside it (R402). -/
def State.wideBlock (s : State) : Option Nat :=
  (List.range 640).find? (fun b =>
    let cells := (s.fab.cells.filter (fun x => x.1 / 32 == b)).map (·.2)
    let nets := ((cells.flatMap (·.nets)).filter (fun n => decide (n < 0xFFFE) && (decide (0x5000 ≤ n) || n / 32 != b))).eraseDups
    decide (96 < nets.length + (cells.flatMap (·.lines)).eraseDups.length))

/-- The owner that a net of its own brings into an owner set (R403). -/
def State.netOwner (s : State) (n : Nat) : Owner :=
  if n < 0x5000 then .pool
  else if n < 0x9000 then s.ownerOf kBr ((n - 0x5000) / 0x80)
  else if n < 0x9600 then .pool
  else if n < 0x9700 then s.ownerOf kFb ((n - 0x9600) / 8)
  else if n < 0x9740 then s.ownerOf kGpio (n - 0x9700)
  else if n < 0x9760 then s.ownerOf kRg ((n - 0x9740) / 2)
  else if n < 0x9780 then s.ownerOf kBt (n - 0x9760)
  else .pool

/-- The nets from which a cell's net takes its owner set (R403). -/
def State.netFrom (s : State) (n : Nat) : List Nat :=
  match s.fab.cells.lookup n with
  | some c => c.nets ++ c.lines.map (fun g => s.fab.gc.getD g 0xFFFE)
  | none => []

/-- Whether a sink of an owner's resource may name a net (R403). -/
def State.sinkMay (s : State) (own : Owner) (n : Nat) : Bool :=
  own == .pool || (reached s.netFrom netFuel [n] []).all (fun m => s.netOwner m == .pool || s.netOwner m == own)

/-- The first block RAM, bridge channel or GPIO pin, in that order, with a sink that breaks R403. -/
def State.fencedSink (s : State) : Option Nat :=
  match s.fab.bramSinks.reverse.find? (fun x => !x.2.all (s.sinkMay (s.ownerOf kBr x.1))) with
  | some x => some x.1
  | none =>
    match s.fab.bridge.reverse.find? (fun x => !s.sinkMay (s.ownerOf kFb x.1) x.2.hold) with
    | some x => some x.1
    | none => (s.fab.gpioSinks.find? (fun x =>
        !(s.sinkMay (s.ownerOf kGpio x.1) x.2.1 && s.sinkMay (s.ownerOf kGpio x.1) x.2.2))).map (·.1)

/-- The FABRIC section (R173, R400–R405). -/
def State.loadFabric (s : State) (b : List Byte) : Except Nat State :=
  let r := framesOf (b.length + 1) b
  let l := r.1
  match (List.range l.length).find? (fun i => !frameOk (if i = 0 then none else l[i - 1]?) (l.getD i (0, 0, []))) with
  | some i => .error i
  | none =>
    if !r.2 || (l.getLast?.map (·.1)) != some 0x7F then .error l.length else
    let s := s.each l (fun s f => s.frameApply f)
    match s.looseLoop, s.wideBlock, s.fencedSink with
    | some c, _, _ => .error c
    | none, some k, _ => .error k
    | none, none, some k => .error k
    | none, none, none => .ok { s with cfg := { s.cfg with hasFabric := true } }

/-! ### BLOCK_RAM, ENGINE_LOCAL and CAROUSEL -/

/-- The next 64-byte boundary. -/
def up64 (n : Nat) : Nat := (n + 63) / 64 * 64

/-- One block RAM record: its use, and the words that its data give (R172, R406). -/
def State.bramRecord (s : State) (k : Nat) (fifo : Bool) (data : List Byte) : State :=
  let s := s.pb (QC_CTL_use k) fifo
  let w := s.bramWidth k
  let v := ofBytes data
  s.each (List.range ((8 * data.length + w - 1) / w)) (fun s i => s.setRam k i (BitVec.ofNat 36 (v / 2 ^ (i * w) % 2 ^ w)))

/-- The records of a BLOCK_RAM section (R172). `n` bounds how many. -/
def State.loadBram (s : State) : Nat → Nat → List Byte → Except Nat State
  | 0, i, _ => .error i
  | n + 1, i, b =>
    if b.isEmpty then .ok s else
    let len := num b 4 4
    let use := num b 1 1
    if b.length < 16 ∨ 128 ≤ num b 0 1 ∨ 1 < use ∨ !zeroAt b 2 2 ∨ !zeroAt b 8 8 ∨ 4608 < len ∨ (use = 1 ∧ len ≠ 0) ∨
        b.length < 16 + len then .error i
    else (s.bramRecord (num b 0 1) (use = 1) (cutBytes b 16 len)).loadBram n (i + 1) (b.drop (up64 (16 + len)))

/-- A byte of local memory is set, by its place in the words of `State.lmWord`. -/
def State.setLmByte (s : State) (a : Nat) (v : Byte) : State :=
  let w := s.lmWord (a / 4)
  let sh := 8 * (a % 4)
  s.setLm (a / 4) ((w &&& ~~~(0xFF#32 <<< sh)) ||| (v.zeroExtend 32 <<< sh))

/-- Bytes of local memory from a place on. -/
def State.loadLm (s : State) (a : Nat) : List Byte → State
  | [] => s
  | v :: l => (s.setLmByte a v).loadLm (a + 1) l

/-- Whether a record may write a range of local memory (R282): not the reserved part of the task area, and the carousel
area only without a CAROUSEL section. -/
def lmMay (carousel : Bool) (off len : Nat) : Bool :=
  decide (off + len ≤ 0x80000) && (len == 0 ||
    ((decide (off + len ≤ 0x7DE00) || decide (0x7E000 ≤ off)) && (!carousel || decide (0x40000 ≤ off))))

/-- The records of an ENGINE_LOCAL section (R172, R282). `n` bounds how many. -/
def State.loadLocal (s : State) (carousel : Bool) : Nat → Nat → List Byte → Except Nat State
  | 0, i, _ => .error i
  | n + 1, i, b =>
    if b.isEmpty then .ok s else
    let off := num b 4 4
    let len := num b 8 4
    if b.length < 16 ∨ 16 ≤ num b 0 1 ∨ !zeroAt b 1 3 ∨ !zeroAt b 12 4 ∨ !lmMay carousel off len ∨ b.length < 16 + len then
      .error i
    else (s.loadLm (0x80000 * num b 0 1 + off) (cutBytes b 16 len)).loadLocal carousel n (i + 1) (b.drop (up64 (16 + len)))

/-- The CAROUSEL section (R299): its parts follow the local memories of the engines. -/
def State.loadCarousel (s : State) (b : List Byte) : Except Nat State :=
  if 2097152 < b.length then .error 0 else .ok ((s.loadLm (16 * 0x80000) b).pb (SE_CAR_CTL_en 0) true)

/-! ### Task descriptors -/

/-- Whether the inputs and outputs that a descriptor names are those of its kernel (kernel table, R283, R328). -/
def ioMatches (k : Nat) (ins outs : List (Nat × Nat)) : Bool :=
  let i := ins.map (fun x => x.1 != 0)
  let o := outs.map (fun x => x.1 != 0)
  let none4 := [false, false, false, false]
  let one := [true, false, false, false]
  let two := [true, true, false, false]
  let three := [true, true, true, false]
  match k with
  | 1 => i == none4 && o == one
  | 2 => i == none4 && o == one
  | 13 => i == one && o == one && ins.map (·.1) == [2, 0, 0, 0]
  | 15 => i == two && o == one
  | 16 => i == two && o == one
  | 17 => i == one && (o == one || o == none4)
  | 20 => i == two && o == one
  | 21 => i == none4 && o == none4
  | 23 => (i == three && o == one) || (i == one && o == three)
  | _ => i == one && o == one

/-- Whether a buffer of a task lies in the areas of R282, or for a carousel task in its part (R299). -/
def bufferOk (carousel : Bool) (slot off len : Nat) : Bool :=
  len == 0 ||
  (if slot < 56 then decide ((if carousel then 0x40000 else 0) ≤ off) && decide (off + len ≤ 0x7D000)
   else decide (off + len ≤ 0x20000) && (decide (off + len ≤ 0x1F000) || decide (0x1F600 ≤ off)))

/-- A kind and index of a descriptor's input or output. -/
def portOf (v : Nat) : Nat × Nat := (v / 1024, if v / 1024 = 0 then 0 else v % 1024)

/-- The task that a descriptor describes (R283). -/
def taskOf (id : TaskId) (b : List Byte) : TaskDesc :=
  { id := id, kernel := num b 0 1, service := num b 1 1, repeatLine := (b.getD 2 0).getLsbD 0,
    half := (b.getD 2 0).getLsbD 1, rg := num b 3 1, ins := (List.range 4).map (fun i => portOf (num b (4 + 2 * i) 2)),
    outs := (List.range 4).map (fun i => portOf (num b (12 + 2 * i) 2)), budget := num b 20 2, width := num b 22 2,
    table := num b 24 4, tableLen := num b 28 4, black := (List.range 3).map (fun i => BitVec.ofNat 16 (num b (36 + 2 * i) 2)) }

/-- Whether a descriptor keeps its layout and R283. -/
def taskForm (carousel : Bool) (slot : Nat) (b : List Byte) : Bool :=
  let t := taskOf (0, slot) b
  decide (t.kernel < 0x18) && decide (num b 2 1 < 4) && (decide (t.rg < 16) || t.rg == 255) && decide (1 ≤ t.budget) &&
  zeroAt b 42 22 &&
  (t.ins ++ t.outs).all (fun x => decide (x.1 ≤ 2) && (x.1 != 1 || decide (x.2 < 256))) &&
  ioMatches t.kernel t.ins t.outs && bufferOk carousel slot t.table t.tableLen &&
  (!t.repeatLine || bufferOk carousel slot (num b 32 4) (4 * t.width))

/-- The bytes of the descriptor of a slot, or of a carousel task of a part (R282, R299). -/
def State.descBytes (s : State) (id : TaskId) : List Byte :=
  let k := if id.2 < 56 then 131072 * id.1 + (0x7D000 + 64 * id.2) / 4
    else 16 * 131072 + 32768 * id.1 + (0x1F000 + 64 * (id.2 - 56)) / 4
  (List.range 16).flatMap (fun i => bytesOf 4 (s.lmWord (k + i)).toNat)

/-- The slots of all engines, with the carousel tasks of the part that starts at each; an all-zero descriptor marks an
unused one (R283). The fault is the index 64 · engine + slot. -/
def State.loadTasks (s : State) (carousel : Bool) : Except Nat State :=
  let ids := (List.range 1024).map (fun i => ((i / 64, i % 64) : TaskId))
  let used := ids.filter (fun id => (carousel || decide (id.2 < 56)) && (s.descBytes id).any (· != 0))
  match used.find? (fun id => !taskForm carousel id.2 (s.descBytes id)) with
  | some id => .error (64 * id.1 + id.2)
  | none => .ok { s with se := { s.se with tasks := used.map (fun id => taskOf id (s.descBytes id)) } }

/-! ### SCENES and SCRIPT -/

/-- A pool entry as the record of its internal cue, for the checks of R88 and R91. -/
def poolRec (svc : Byte) (b : List Byte) : CueRec :=
  { launch := 0, target := BitVec.ofNat 32 (num b 0 4), action := b.getD 4 0, service := svc, flags := 0, eventSrc := 0,
    a := BitVec.ofNat 32 (num b 8 4), b := BitVec.ofNat 32 (num b 12 4), preroll := 0, origin := 0, seq := 0 }

/-- Whether a pool entry keeps R171. -/
def poolOk (b : List Byte) : Bool :=
  [1, 2, 3, 5, 6, 7, 8, 9, 10, 11, 12, 13].contains (num b 4 1) && zeroAt b 5 3 && formatOk true (poolRec 0 b) &&
    targetFits (num b 4 1) (num b 0 4)

/-- The SCENES section (R171). The fault is the index of the pool entry or scene. -/
def State.loadScenes (s : State) (b : List Byte) : Except Nat State :=
  let n := num b 0 2
  let m := num b 2 2
  let dir (i : Nat) : List Byte := cutBytes b (16 + 8 * i) 8
  let pool (i : Nat) : List Byte := cutBytes b (16 + 8 * n + 16 * i) 16
  if b.length < 16 + 8 * n + 16 * m ∨ 1024 < n ∨ 16384 < m ∨ !zeroAt b 4 12 then .error 0 else
  match (List.range n).find? (fun i => !(zeroAt (dir i) 1 1 && decide (1 ≤ num (dir i) 2 2) &&
      decide (num (dir i) 2 2 ≤ 256) && decide (num (dir i) 4 4 + num (dir i) 2 2 ≤ m))) with
  | some i => .error i
  | none =>
    match (List.range m).find? (fun i => !poolOk (pool i)) with
    | some i => .error i
    | none => .ok { s with cue := { s.cue with scenes := (List.range n).map (fun i =>
        { service := num (dir i) 0 1, entries := (List.range (num (dir i) 2 2)).map (fun j =>
            let r := poolRec 0 (pool (num (dir i) 4 4 + j))
            (r.target, r.action, r.a, r.b)) }) } }

/-- Whether a script entry keeps R122, R123 and R126; `chained` says that the entry before it has CHAIN set. -/
def State.scriptForm (s : State) (chained : Bool) (b : List Byte) : Bool :=
  let r := cueOfWords (wordsOf (b.take 32))
  let unit := num b 36 1
  let period := num b 32 4
  decide (num b 40 1 ≤ 1) && zeroAt b 41 7 &&
  (if chained then zeroAt b 32 9
   else if recOnEvent r then zeroAt b 32 6
   else if unit = 0 then zeroAt b 37 1 && decide (20000 ≤ period)
   else unit == 1 && decide (num b 37 1 < 16) && decide (1 ≤ period) &&
     (match formatOf (s.g (TB_RG_CTL_format (num b 37 1 % 16))) with
      | some f => decide (r.launch.toInt.natAbs * f.m < f.p)
      | none => true))

/-- The SCRIPT section (R122). The fault is the index of the entry. -/
def State.loadScript (s : State) (b : List Byte) : Except Nat State :=
  let n := num b 0 2
  let e (i : Nat) : List Byte := cutBytes b (16 + 48 * i) 48
  let tmpl (i : Nat) : CueRec := cueOfWords (wordsOf ((e i).take 32))
  if b.length < 16 + 48 * n ∨ 1024 < n ∨ num b 2 2 ≠ 48 ∨ !zeroAt b 4 12 then .error 0 else
  match (List.range n).find? (fun i => !s.scriptForm (decide (0 < i) && recChain (tmpl (i - 1))) (e i)) with
  | some i => .error i
  | none => .ok { s with
      cue := { s.cue with scripts := (List.range n).map (fun i =>
        { template := tmpl i, period := num (e i) 32 4, unit := num (e i) 36 1, rg := num (e i) 37 1 % 16,
          count := num (e i) 38 2, base := 0, next := 0, inserted := 0, retryAt := none }) },
      cfg := { s.cfg with enables := (List.range n).filter (fun i => num (e i) 40 1 = 1) } }

/-! ### DESCRIPTORS -/

/-- Whether a word may stand in a descriptor or barrier entry: 0 in its other fields, and listed values in those that
the section sets (R318, R320, R325). -/
def descWordOk (a : Nat) (v : W32) : Bool :=
  let fs := (regFields a).filter (fun f => f.acc == .rw || f.acc == .rwl)
  v &&& ~~~(fs.foldl (fun m f => m ||| f.mask) 0) == 0 && fs.all (fun f => f.lists (f.of v)) &&
    (match locate a with
     | some (.ds, _, off) => off < 0x08 || 0x18 ≤ off || (v &&& 0x80000FFF == 0)
     | _ => true)

/-- The address of word `i` of the section: the descriptors, then the barrier entries (R320). -/
def descAddr (i : Nat) : Nat := if i < 16384 then 0xC00000 + 4 * i else 0xC80000 + 4 * (i - 16384)

/-- The DESCRIPTORS section (R320). The fault is the index of the descriptor, or 1,024 and more for a barrier. -/
def State.loadDescriptors (s : State) (b : List Byte) : Except Nat State :=
  if b.length ≠ 69632 then .error 0 else
  let l := (wordsOf b).zipIdx
  match l.find? (fun x => !descWordOk (descAddr x.2) x.1) with
  | some x => .error (if x.2 < 16384 then x.2 / 16 else 1024 + (x.2 - 16384) / 4)
  | none => .ok (s.each (l.filter (fun x => x.1 != 0)) (fun s x => s.wr (descAddr x.2) x.1))

/-- The ranges that the used bases of a stream take (R319). -/
def State.baseRanges (s : State) (d : Nat) : List (Nat × Nat) :=
  (List.range (s.dsBases d)).map (fun i => ((s.rd (DS_BASE d i)).toNat, s.dsLines d * s.dsStride d))

/-- Whether two ranges overlap. -/
def rangesMeet (x y : Nat × Nat) : Bool := decide (x.1 < y.1 + y.2) && decide (y.1 < x.1 + x.2)

/-- The rules of R320 on one stream. -/
def State.streamForm (s : State) (d : Nat) : Bool :=
  let l := s.baseRanges d
  let on := s.bit (DS_CTL_enable d)
  let b := s.g (DS_CTL_bar d)
  l.all (fun x => x.2 == 0 || decide (x.1 + x.2 ≤ fmSize)) &&
  (!on || (List.range l.length).all (fun i => (List.range i).all (fun j =>
    !rangesMeet (l.getD i (0, 0)) (l.getD j (0, 0))))) &&
  (!s.bit (DS_CTL_bar_en d) || (s.bit (BA_CTL_enable b) && s.g (BA_CTL_service b) == s.g (DS_CTL_service d) &&
    s.g (BA_CTL_stream b) == d)) &&
  !(s.bit (DS_CTL_timing d) && !s.bit (DS_CTL_rotate d)) &&
  (!on || s.g (DS_RES_res d) != 0) &&
  (s.g (DS_CTL_lag d) != 0 || s.bit (DS_CTL_bar_en d) || s.se.tasks.all (fun t => !t.ins.contains (2, d))) &&
  (s.dsOwner d).mayName (s.ownerOf kRg (s.g (DS_CTL_rg d)))

/-- The streams of the section: those with a word that is not 0. -/
def State.usedStreams (s : State) : List Nat :=
  ((s.cells.filter (fun c => decide (0xC00000 ≤ c.1) && decide (c.1 < 0xC10000))).map
    (fun c => (c.1 - 0xC00000) / 64)).eraseDups

/-- The first stream that breaks R320, its bases against those of other services included. -/
def State.badStream (s : State) : Option Nat :=
  let l := s.usedStreams
  l.find? (fun d => !s.streamForm d || l.any (fun e => s.dsOwner d != s.dsOwner e &&
    (s.baseRanges d).any (fun x => (s.baseRanges e).any (rangesMeet x))))

/-! ### Checks over the whole image -/

/-- Whether a task keeps R345, and, enabled, the rules of R291 and R294. -/
def State.taskLoads (s : State) (t : TaskDesc) : Bool :=
  let own : Owner := .svc t.service
  let b := s.bankBit t.id
  (decide (16 ≤ t.rg) || own.mayName (s.ownerOf kRg t.rg)) &&
  (t.ins.all (fun x => (s.linkName own x.1 x.2).all (fun y => y.1.mayName y.2))) &&
  (t.outs.all (fun x => (s.linkName own x.1 x.2).all (fun y => y.1.mayName y.2))) &&
  (!s.enBit t.id || (bankOk t.kernel (fun w => s.bankWord t.id b w) && s.yoyoOk t b &&
    s.se.tasks.all (fun u => u.id == t.id || u.id.1 != t.id.1 || !s.enBit u.id ||
      !(s.resultsOf u (s.bankBit u.id)).any (s.resultsOf t b).contains)))

/-- The first slot that is enabled without a descriptor, or whose task breaks its rules (R283, R291, R345). -/
def State.badTask (s : State) : Option Nat :=
  (List.range 1024).find? (fun i =>
    match s.task (i / 64, i % 64) with
    | some t => !s.taskLoads t
    | none => s.enBit (i / 64, i % 64))

/-- The first line port or chain whose setting names a channel or stream against R345. -/
def State.badName (s : State) : Option Nat :=
  let fine (l : List (Owner × Owner)) : Bool := l.all (fun x => x.1.mayName x.2)
  (List.range 48).find? (fun i =>
    !(fine (s.linkName (s.ownerOf kQuad (i / 4)) (s.g (FC_LINK_kind i)) (s.g (FC_LINK_index i))) &&
      (decide (32 ≤ i) ||
        (fine (s.linkName (s.ownerOf kLpTx i) (s.g (LP_TX_SRC_kind i)) (s.g (LP_TX_SRC_index i))) &&
         fine (s.linkName (s.ownerOf kLpRx i) (s.g (LP_RX_DEST_kind i)) (s.g (LP_RX_DEST_index i)))))))

/-- The ISO reservations of a port in one direction (R390). -/
def State.isoSum (s : State) (p dir : Nat) : Nat :=
  (((List.range 8).filter (fun k => s.bit (AX_ISO_CTL_enable p k) && s.g (AX_ISO_CTL_dir p k) == dir)).map
    (fun k => s.g (AX_ISO_RES_res p k))).foldl (· + ·) 0

/-- The first Axlink port whose ISO channels break R390. -/
def State.badIso (s : State) : Option Nat :=
  (List.range 4).find? (fun p => decide (10000 < s.isoSum p 0) || decide (10000 < s.isoSum p 1) ||
    (List.range 8).any (fun k => s.bit (AX_ISO_CTL_enable p k) &&
      s.dsOwner (s.g (AX_ISO_CTL_stream p k)) != .svc (s.g (AX_ISO_CTL_service p k))))

/-- The first enabled bridge channel whose command block breaks R416. -/
def State.badBridge (s : State) : Option Nat :=
  (s.fab.bridge.reverse.find? (fun x => x.2.enabled && !(s.isFifo x.2.block && s.g (QC_CTL_width x.2.block) == 2 &&
    s.bit (QC_CTL_pop_side x.2.block) && s.ownerOf kBr x.2.block == s.ownerOf kFb x.1))).map (·.1)

/-- Whether the monitors and the cell that TB_GEN_CTL names keep R220 and R279. They lie in the pool whatever the image
does with them; their taps and blanking are judged where the image names a reference format or lists GENLOCK
(DEDUCED, notes/assumptions/15). -/
def State.genlockOk (s : State) : Bool :=
  let w := s.g TB_GEN_CTL_wm
  let c := s.g TB_GEN_CTL_cell
  decide (w ≤ 94) && s.ownerOf kWm w == .pool && s.ownerOf kWm (w + 1) == .pool && s.ownerOf kQuad (c / 4) == .pool &&
  ((!s.prioList.contains 1 && s.g TB_GEN_CTL_format == 0) ||
    [w, w + 1].all (fun m => s.g (WM_CTL_src_kind m) == 1 && s.g (WM_CTL_src_idx m) == c && !s.bit (WM_CTL_bl_en m)))

/-- The checks that need every section (R183): the detail of the first that fails. -/
def State.contentFault (s : State) : Option Nat :=
  match s.badStream, s.badTask, s.badName, s.badIso, s.badBridge with
  | some i, _, _, _, _ => some i
  | none, some i, _, _, _ => some i
  | none, none, some i, _, _ => some i
  | none, none, none, some i, _ => some i
  | none, none, none, none, some i => some i
  | none, none, none, none, none =>
    if !s.genlockOk ∨ 400000 < s.resSum 1024 false ∨ !s.ringOk then some 0 else none

/-! ### Sections in stored order -/

/-- Whether the section table holds a section of a type. -/
def hasSect (b : List Byte) (t : Nat) : Bool := (List.range (num b 6 2)).any (fun i => num (entryBytes b i) 0 1 == t)

/-- The content of one section is applied (R169–R173). -/
def State.applySection (s : State) (b : List Byte) (typ : Nat) (c : List Byte) : Except Nat State :=
  match typ with
  | 1 => s.loadRegisters c
  | 2 => s.loadFabric c
  | 3 => s.loadBram (c.length + 1) 0 c
  | 4 => s.loadLocal (hasSect b 5) (c.length + 1) 0 c
  | 5 => s.loadCarousel c
  | 6 => s.loadScenes c
  | 7 => s.loadScript c
  | 8 => s.loadDescriptors c
  | _ => .ok s

/-- Steps 7 to 9 of R174 for one section: the cause and detail of a failure. A section that could not be read whole
fails with cause FLASH. -/
def State.sectionStep (s : State) (b : List Byte) (i : Nat) : Except (Nat × Nat) State :=
  let e := entryBytes b i
  let stored := cutBytes b (num e 4 4) (num e 8 4)
  if stored.length ≠ num e 8 4 then .error (0x0E, i)
  else if sha384 stored ≠ cutBytes e 32 48 then .error (0x0B, i)
  else
    let plain := if (e.getD 1 0).getLsbD 0 then
        gcmDecrypt (s.cfg.fuses.aesKey.getD []) (cutBytes e 16 12) (e.take 32) stored (cutBytes e 80 16)
      else some stored
    match plain with
    | none => .error (0x0C, i)
    | some c =>
      match s.applySection b (num e 0 1) c with
      | .error d => .error (0x0D, d)
      | .ok t => .ok t

/-- The sections from an index on, in stored order. -/
def State.sections (s : State) (b : List Byte) : List Nat → Except (Nat × Nat) State
  | [] => .ok s
  | i :: l =>
    match s.sectionStep b i with
    | .error x => .error x
    | .ok t => t.sections b l

/-- Every check of R174 on a slot, in order: the state with the whole image applied, or the cause and detail of the
first failure. -/
def State.checkSlot (s : State) (read : SlotRead) : Except (Nat × Nat) State :=
  let b := read.bytes
  let c := s.cfg.fuses.admits s.cfg.slotSize b
  let table := cutBytes b 512 (128 * num b 6 2)
  if c ≠ 1 then .error (c, 0)
  else if table.length ≠ 128 * num b 6 2 then .error (0x0E, 0)
  else if sha384 table ≠ cutBytes b 24 48 then .error (0x0B, 0)
  else match tableFault b with
  | some i => .error (0x06, i)
  | none =>
    if read.failed then .error (0x0E, 0) else
    match s.sections b (storedOrder b) with
    | .error x => .error x
    | .ok t =>
      match t.loadTasks (hasSect b 5) with
      | .error d => .error (0x0D, d)
      | .ok t =>
        match t.contentFault with
        | some d => .error (0x0D, d)
        -- SE0_CAR_CTL.en shows whether the section was loaded, whatever a record says (R299).
        | none => .ok (t.pb (SE_CAR_CTL_en 0) (hasSect b 5))

end Sys2Proof.Machine
end

