-- ==== Sys2Proof/Machine/Load.lean ====
section
/-! DEFINITION. The steps of LOAD: discovery of the flash, the trial of the slots, and the end of start-up calibration
(R158–R185). -/

namespace Sys2Proof.Machine

/-! ### The flash balls -/

/-- What the device does with a ball of the flash interface: leaves it high-impedance, holds it low by a pull-down, or
drives it; or the test port holds it (R482). -/
inductive BallUse where
  | highZ
  | pulledLow
  | driven
  | heldByTest
  deriving DecidableEq, Repr

/-- FL_SCLK, FL_CS_N, FL_DQ0–FL_DQ7 and FL_DQS are driven in LOAD only (R158). -/
def State.flashBus (s : State) : BallUse := if s.tap.padsTaken then .heldByTest else if s.dev == .load then .driven else .highZ

/-- FL_RESET_N is driven in LOAD, low in the reset pulse with which LOAD begins, and held low by its pull-down in every
other state (R158). -/
def State.flashReset (s : State) : BallUse :=
  if s.tap.padsTaken then .heldByTest else if s.dev == .load then .driven else .pulledLow

/-! ### Slots -/

/-- A slot's result is recorded: cause and detail (load-result table). -/
def State.result (s : State) (slot cause detail : Nat) : State :=
  (s.p (CFG_RESULT_cause slot) cause).p (CFG_RESULT_detail slot) (min detail 0xFFFFFF)

/-- A slot is refused: recorded and counted (R166, R177). -/
def State.refuseSlot (s : State) (slot cause detail : Nat) : State :=
  ((s.result slot cause detail).inc (cnt16 CFG_REFUSE_CNT)).when (cause == 0x0A)
    (fun s => s.inc (cnt16 CFG_ROLLBACK_REFUSE_CNT))

/-- The detail of the records LOAD_RESULT and LOAD_FAILED: a slot and the causes of the three. -/
def State.loadDetail (s : State) (slot : Nat) : W32 :=
  BitVec.ofNat 32 (slot * 2 ^ 24 + s.g (CFG_RESULT_cause 0) * 2 ^ 16 + s.g (CFG_RESULT_cause 1) * 2 ^ 8 +
    s.g (CFG_RESULT_cause 2))

/-- The time spent in LOAD, in which TT does not run, is a free value (DESIGN CHOICE, notes/assumptions/2). -/
def State.loadTimed (s : State) : State :=
  let (t, s) := s.drawIn 0 0xFFFFF
  s.wr CFG_LOAD_TIME (BitVec.ofNat 32 t)

/-- No slot is accepted: the device enters INERT (R167, R184). -/
def State.enterInert (s : State) : State :=
  let s := ((s.p KEEP_IMG_SLOT_slot 3).keepWritten 3).pb CFG_STAT_loading false
  let s := s.loadTimed
  let s := (s.changeState .inert).commitAll
  s.event 0x03 0 (s.loadDetail 3) 0

/-- INERT where no slot is left to try. -/
def State.nextSlot (s : State) : State := if s.cfg.slots.isEmpty then s.enterInert else s

/-- The order in which two present slots A and B are tried, by their headers (R165): those that can be parsed by
security_version and then build_serial, higher first; on a tie the slot of KEEP_IMG_SLOT, else slot A. -/
def State.orderAB (s : State) (f : FlashFound) (okA okB : Bool) : List Nat :=
  if okA && !okB then [0, 1]
  else if okB && !okA then [1, 0]
  else
    let key (h : List Byte) : Nat := num h 17 1 * 2 ^ 32 + num h 20 4
    let a := key f.hdrA
    let b := key f.hdrB
    if b < a then [0, 1] else if a < b then [1, 0]
    else if KEEP_IMG_SLOT_slot.of (s.keepRd 3) = 1 then [1, 0] else [0, 1]

/-- The directory gives the slots (R164, R165): an absent slot, an offset that breaks the directory's rule, and a header
of slot A or B that cannot be parsed are recorded at once; the others wait in the order of trial. -/
def State.readDirectory (s : State) (f : FlashFound) (d : List Byte) : State :=
  let off (k : Nat) : Nat := num d (8 + 4 * k) 4
  let size := num d 20 4
  let hdr (k : Nat) : List Byte := if k = 0 then f.hdrA else if k = 1 then f.hdrB else f.hdrG
  let cause (k : Nat) : Nat :=
    if off k = 0 then 0x02 else if off k % 65536 ≠ 0 then 0x03
    else if k = 2 then 0x01 else headerCause (hdr k) size
  let present (k : Nat) : Bool := off k != 0
  let order := (s.orderAB f (cause 0 == 0x01) (cause 1 == 0x01) ++ [2]).filter present
  let place (i : Nat) : Nat := order.getD i 3
  let s := s.wr CFG_TRY_ORDER (BitVec.ofNat 32 (place 0 * 16 + place 1 * 4 + place 2))
  let s := s.each (List.range 3) (fun s k =>
    if cause k = 0x01 then s else if cause k = 0x02 then s.result k 0x02 0 else s.refuseSlot k (cause k) 0)
  { s with cfg := { s.cfg with slots := order.filter (fun k => cause k == 0x01), slotSize := size } }

/-- Discovery is over (R160, R164, R165): the flash and the directory are reported, and the order of trial is fixed, or
every slot is refused. A density above 16 MiB takes 4-byte addressing. It happens once in a LOAD. -/
def State.discovered (s : State) (f : FlashFound) : State :=
  if s.dev != .load || s.cfg.found then s else
  let s := { s with cfg := { s.cfg with found := true } }
  if !f.sfdp then (s.each (List.range 3) (fun s k => s.refuseSlot k 0x0E 0)).nextSlot else
  let s := (s.wr CFG_FLASH_SIZE (BitVec.ofNat 32 (f.sizeLog2 % 64))).p CFG_FLASH_STAT_addr_bytes
    (if decide (24 < f.sizeLog2) || f.fourByte then 2 else 1)
  let s := { s with cfg := { s.cfg with modes := f.modes.map (fun (x : Fin 5 × Nat) => (x.1.val, x.2)) } }
  if dirValid f.dir0 then ((s.pb CFG_DIR_STAT_found true).readDirectory f f.dir0).nextSlot
  else if dirValid f.dir1 then
    (((s.pb CFG_DIR_STAT_found true).pb CFG_DIR_STAT_copy true).readDirectory f f.dir1).nextSlot
  else (s.each (List.range 3) (fun s k => s.refuseSlot k 0x03 0)).nextSlot

/-- FLASH_DISCOVERY (R160, R164, R165). -/
def execFlashDiscovery (at_ : TT) (found : FlashFound) (s : State) : Host.Outcome State Fault Refusal :=
  timed at_ (fun s => s.discovered found) s

/-- The mode code and the clock in which a slot's sections are read (R161): the widest width that the flash advertises and
the header allows, DTR where it does both there, and the lowest of 200 MHz, the flash's maximum and the header's. A mode
that is not advertised itself takes the maximum of the other mode of its width, and single STR the 50 MHz of the header
reads (DEDUCED, notes/assumptions/15). -/
def readMode (modes : Tab Nat) (b : List Byte) : Nat × Nat :=
  let most := num b 18 1
  let listed (c : Nat) : Bool := (modes.lookup c).isSome
  let wide (str dtr : Nat) : Bool := (listed str || listed dtr) && decide (str ≤ most)
  let dtr (c : Nat) : Bool := listed c && decide (c ≤ most)
  let code := if wide 3 4 then (if dtr 4 then 4 else 3) else if wide 1 2 then (if dtr 2 then 2 else 1) else 0
  let other := modes.get 50 (if code = 3 then 4 else if code = 1 then 2 else 0)
  (code, min (min 200 (modes.get other code)) (num b 19 1))

/-- A slot is accepted (R167): CFG shows its header, and KEEP_IMG_SLOT names it. -/
def State.acceptSlot (s : State) (slot : Nat) (b : List Byte) : State :=
  let s := ((((s.pb CFG_STAT_signed (hdrFlag b 0)).pb CFG_STAT_encrypted (hdrFlag b 1)).pb CFG_STAT_sealed (hdrFlag b 2)).p
    CFG_STAT_start_state (num b 15 1)).p CFG_STAT_security_version (num b 17 1)
  let s := ((s.p CFG_STAT_slot slot).p KEEP_IMG_SLOT_slot slot).keepWritten 3
  let s := (s.wr CFG_BUILD (BitVec.ofNat 32 (num b 20 4))).wr CFG_IMG_LEN (BitVec.ofNat 32 (num b 8 4))
  let s := s.wr CFG_SECT_STAT (BitVec.ofNat 32
    (((List.range 8).filter (fun i => hasSect b (i + 1))).map (fun i => 2 ^ (i + 1))).sum)
  let s := (s.inc (cnt16 CFG_LOAD_CNT)).when (slot == 2) (fun s => s.inc (cnt16 CFG_GOLDEN_CNT))
  let s := s.result slot 0x01 0
  { s with cfg := { s.cfg with
    accepted := some slot, slots := [], startStandby := num b 15 1 == 1, allowAdvance := hdrFlag b 3,
    secVersion := num b 17 1 } }

/-- The next slot of the order has been read and checked (R165, R166, R174): accepted, or refused with nothing of it in
force. -/
def State.trySlot (s : State) (r : SlotRead) : State :=
  match s.cfg.slots with
  | [] => s
  | slot :: rest =>
    if s.dev != .load || s.cfg.accepted.isSome then s else
    let m := readMode s.cfg.modes r.bytes
    let s := s.when (s.cfg.fuses.admits s.cfg.slotSize r.bytes == 1) (fun s =>
      (s.p CFG_FLASH_STAT_mhz m.2).p CFG_FLASH_STAT_mode m.1)
    match s.checkSlot r with
    | .ok t => t.acceptSlot slot r.bytes
    | .error (cause, detail) =>
      (({ s with cfg := { s.cfg with slots := rest } } : State).refuseSlot slot cause detail).nextSlot

/-- SLOT_CHECK_COMPLETE (R165, R166, R174). -/
def execSlotCheckComplete (at_ : TT) (read : SlotRead) (s : State) : Host.Outcome State Fault Refusal :=
  timed at_ (fun s => s.trySlot read) s

/-- The trims of the four cells of a quad: converter offset and gain, PGA gains and filter f0 (R179, R239). -/
def State.cellTrims (s : State) (q : Nat) : State :=
  s.each (List.range 4) (fun s i =>
    let c := 4 * q + i
    let (v, s) := s.draw
    ((s.wr (AC_TRIM_CONV c) (v.truncate 32)).wr (AC_TRIM_PGA c) (BitVec.ofNat 32 ((v >>> 32).toNat % 65536))).wr
      (AC_TRIM_F0 c) (BitVec.ofNat 32 ((v >>> 48).toNat % 256)))

/-- The trims that calibration found are free values: those of each quad and port that converged, and the threshold
offsets of the monitors. One that did not converge keeps its nominal trims, the reset values (R179, R180;
DESIGN CHOICE, notes/assumptions/2). CFG shows which quads and ports converged. -/
def State.calibrated (s : State) (quads : BitVec 12) (ports : W32) : State :=
  let s := ((s.pb CFG_CAL_STAT_run true).p CFG_CAL_STAT_quads quads.toNat).wr CFG_LINE_TRIM_STAT ports
  let s := s.each ((List.range 12).filter (fun q => quads.getLsbD q)) (fun s q =>
    let (v, s) := s.drawIn 0 65535
    (s.wr (CFG_CAL_Q q) (BitVec.ofNat 32 v)).cellTrims q)
  let s := s.each ((List.range 32).filter (fun p => ports.getLsbD p)) (fun s p =>
    let (v, s) := s.draw
    { s with cfg := { s.cfg with driverTrims := s.cfg.driverTrims.set p (v.truncate 32) } })
  let s := s.each (List.range 96) (fun s m =>
    let (v, s) := s.draw
    { s with cfg := { s.cfg with thresholdTrims := s.cfg.thresholdTrims.set m (v.truncate 32) } })
  let (t, s) := s.drawIn 0 20000
  s.wr CFG_CAL_TIME (BitVec.ofNat 32 t)

/-- The records of a start with cause time TT 0: the load's result, and each failed calibration (R167, R180). -/
def State.logStart (s : State) (slot : Nat) (quads : BitVec 12) (ports : W32) : State :=
  let s := s.event 0x02 0 (s.loadDetail slot) 0
  let s := s.each ((List.range 12).filter (fun q => !quads.getLsbD q)) (fun s q => s.event 0x04 0 (BitVec.ofNat 32 q) 0)
  s.each ((List.range 32).filter (fun p => !ports.getLsbD p)) (fun s p => s.event 0x04 0 (BitVec.ofNat 32 (256 + p)) 0)

/-- The image's settings come into force at the end of LOAD: the directions, filters and chains of the cells, the task bits, the streams,
the Axlink ports with a nonce of their own (R380), the timers' blanking, and the script entries enabled by the image
(R122). -/
def State.settingsStart (s : State) : State :=
  let s := s.each (List.range 48) (fun s c =>
    let s := (s.p (AC_STAT_dir c) (s.g (AC_CONV_CTL_dir c))).p (FC_STAT_interp c) (s.g (AC_CONV_CTL_dir c))
    let s := (s.p (FC_STAT_preset c) (s.g (FC_CTL_preset c))).p (FC_STAT_resp c) (s.g (FC_CTL_resp c))
    let s := s.setCell c { s.cellSt c with filt := s.rd (AC_FILT_CTL c) }
    s.setChain c { s.chain c with link := s.rd (FC_LINK c), phase := s.g (FC_PHASE_steps c) })
  let s := s.each s.se.tasks (fun s t => s.taskBits t)
  let s := s.each s.streamsOn (fun s d => s.dsChanged d)
  let s := s.each ((List.range 4).filter (fun p => s.bit (AX_CTL_enable p))) (fun s p => s.axChanged p false)
  let s := s.blankAll
  let s := s.each (s.cfg.enables.filter (· < 1024)) (fun s e => s.setBitOf (CUE_SCRIPT_EN (e / 32)) (e % 32) true)
  let (n, s) := s.draw
  { s with ax := { s.ax with nonce := n }, cfg := { s.cfg with enables := [], accepted := none } }

/-- Start-up calibration is over (R179, R180): LOAD ends, and the device enters WIND, or STANDBY where the header says
so. In STANDBY the pads hold the quiet level that they have at that instant (R131, R147). -/
def State.calibrationDone (s : State) (quads : BitVec 12) (ports : W32) : State :=
  match s.cfg.accepted with
  | none => s
  | some slot =>
    if s.dev != .load then s else
    let s := (((s.calibrated quads ports).loadTimed).pb CFG_STAT_loading false).settingsStart
    if s.cfg.startStandby then
      let s := (s.changeState .standby).inc (cnt16 SYS_STANDBY_CNT)
      s.latchQuiet.logStart slot quads ports
    else s.enterWind.logStart slot quads ports

/-- START_CALIBRATION_DONE (R179, R180). -/
def execStartCalibrationDone (at_ : TT) (quads : BitVec 12) (ports : W32) (s : State) :
    Host.Outcome State Fault Refusal :=
  timed at_ (fun s => s.calibrationDone quads ports) s

end Sys2Proof.Machine
end

