-- ==== Sys2Proof/Machine/Dispatch.lean ====
section
/-! DEFINITION. The meaning of every command: one arm per constructor of `Instr`, each one call of that command's
meaning. -/

namespace Sys2Proof.Machine

def exec (i : Instr) (s : State) : Host.Outcome State Fault Refusal :=
  match i with
  | .registerWrite at_ addr val => Sys2Proof.Machine.execRegisterWrite at_ addr val s
  | .clearingRead at_ addr => Sys2Proof.Machine.execClearingRead at_ addr s
  | .pairLoRead at_ addr wide => Sys2Proof.Machine.execPairLoRead at_ addr wide s
  | .ttSnapshotRead at_ wide => Sys2Proof.Machine.execTtSnapshotRead at_ wide s
  | .loopSeedWrite at_ l val => Sys2Proof.Machine.execLoopSeedWrite at_ l val s
  | .resourceReady at_ r locked => Sys2Proof.Machine.execResourceReady at_ r locked s
  | .genlockFrame at_ format err => Sys2Proof.Machine.execGenlockFrame at_ format err s
  | .ppsEdge at_ err => Sys2Proof.Machine.execPpsEdge at_ err s
  | .sourceRequalify at_ src => Sys2Proof.Machine.execSourceRequalify at_ src s
  | .srcLoss at_ src cause => Sys2Proof.Machine.execSrcLoss at_ src cause s
  | .tbSrcPrioWrite at_ val => Sys2Proof.Machine.execTbSrcPrioWrite at_ val s
  | .servoUpdate at_ => Sys2Proof.Machine.execServoUpdate at_ s
  | .todArm at_ val => Sys2Proof.Machine.execTodArm at_ val s
  | .todDiscard at_ => Sys2Proof.Machine.execTodDiscard at_ s
  | .ageingFit at_ => Sys2Proof.Machine.execAgeingFit at_ s
  | .frameStart at_ rg => Sys2Proof.Machine.execFrameStart at_ rg s
  | .lineStart at_ rg => Sys2Proof.Machine.execLineStart at_ rg s
  | .rgnCtlWrite at_ rg offset val => Sys2Proof.Machine.execRgnCtlWrite at_ rg offset val s
  | .btnCtlWrite at_ bt val => Sys2Proof.Machine.execBtnCtlWrite at_ bt val s
  | .btWindowEdge at_ bt opens => Sys2Proof.Machine.execBtWindowEdge at_ bt opens s
  | .mailboxSubmit at_ val => Sys2Proof.Machine.execMailboxSubmit at_ val s
  | .cueAccept at_ src => Sys2Proof.Machine.execCueAccept at_ src s
  | .prerollWake at_ id => Sys2Proof.Machine.execPrerollWake at_ id s
  | .cueHandover at_ id => Sys2Proof.Machine.execCueHandover at_ id s
  | .nop at_ id => Sys2Proof.Machine.execNop at_ id s
  | .writeField at_ id => Sys2Proof.Machine.execWriteField at_ id s
  | .setBits at_ id => Sys2Proof.Machine.execSetBits at_ id s
  | .clearBits at_ id => Sys2Proof.Machine.execClearBits at_ id s
  | .scene at_ id => Sys2Proof.Machine.execScene at_ id s
  | .route at_ id => Sys2Proof.Machine.execRoute at_ id s
  | .gainStep at_ id => Sys2Proof.Machine.execGainStep at_ id s
  | .direction at_ id => Sys2Proof.Machine.execDirection at_ id s
  | .pin at_ id => Sys2Proof.Machine.execPin at_ id s
  | .streamArm at_ id => Sys2Proof.Machine.execStreamArm at_ id s
  | .barrier at_ id => Sys2Proof.Machine.execBarrier at_ id s
  | .freeze at_ id => Sys2Proof.Machine.execFreeze at_ id s
  | .release at_ id => Sys2Proof.Machine.execRelease at_ id s
  | .wake at_ id => Sys2Proof.Machine.execWake at_ id s
  | .wakeHoldExpire at_ r => Sys2Proof.Machine.execWakeHoldExpire at_ r s
  | .cancel at_ id => Sys2Proof.Machine.execCancel at_ id s
  | .notify at_ id => Sys2Proof.Machine.execNotify at_ id s
  | .chainSuccessorRelease at_ id => Sys2Proof.Machine.execChainSuccessorRelease at_ id s
  | .dedupEntryExpire at_ origin => Sys2Proof.Machine.execDedupEntryExpire at_ origin s
  | .scriptEntryEnable at_ e => Sys2Proof.Machine.execScriptEntryEnable at_ e s
  | .scriptEntryDisable at_ e => Sys2Proof.Machine.execScriptEntryDisable at_ e s
  | .scriptInstanceRetry at_ e => Sys2Proof.Machine.execScriptInstanceRetry at_ e s
  | .reqStandby at_ => Sys2Proof.Machine.execReqStandby at_ s
  | .reqRun at_ => Sys2Proof.Machine.execReqRun at_ s
  | .reqReload at_ => Sys2Proof.Machine.execReqReload at_ s
  | .reqInspect at_ => Sys2Proof.Machine.execReqInspect at_ s
  | .reqReset at_ => Sys2Proof.Machine.execReqReset at_ s
  | .mainSupplyLost at_ => Sys2Proof.Machine.execMainSupplyLost at_ s
  | .powerOff at_ => Sys2Proof.Machine.execPowerOff at_ s
  | .mainRailsUp at_ mode a1 a0 => Sys2Proof.Machine.execMainRailsUp at_ mode a1 a0 s
  | .resetNAssert at_ => Sys2Proof.Machine.execResetNAssert at_ s
  | .resetRelease at_ => Sys2Proof.Machine.execResetRelease at_ s
  | .flashDiscovery at_ found => Sys2Proof.Machine.execFlashDiscovery at_ found s
  | .slotCheckComplete at_ read => Sys2Proof.Machine.execSlotCheckComplete at_ read s
  | .startCalibrationDone at_ quads ports => Sys2Proof.Machine.execStartCalibrationDone at_ quads ports s
  | .windExit at_ => Sys2Proof.Machine.execWindExit at_ s
  | .drainTEnd at_ => Sys2Proof.Machine.execDrainTEnd at_ s
  | .drainComplete at_ => Sys2Proof.Machine.execDrainComplete at_ s
  | .ttAlarm at_ => Sys2Proof.Machine.execTtAlarm at_ s
  | .autoSleepUpdate at_ => Sys2Proof.Machine.execAutoSleepUpdate at_ s
  | .keepAwakeWrite at_ k val => Sys2Proof.Machine.execKeepAwakeWrite at_ k val s
  | .batterySwitch at_ toVbat => Sys2Proof.Machine.execBatterySwitch at_ toVbat s
  | .batViolClrWrite at_ val => Sys2Proof.Machine.execBatViolClrWrite at_ val s
  | .batUserLockWrite at_ val => Sys2Proof.Machine.execBatUserLockWrite at_ val s
  | .fuseProgramKeyHash at_ => Sys2Proof.Machine.execFuseProgramKeyHash at_ s
  | .fuseProgramAesKey at_ => Sys2Proof.Machine.execFuseProgramAesKey at_ s
  | .fuseRequireSeal at_ => Sys2Proof.Machine.execFuseRequireSeal at_ s
  | .fuseRequireEncrypt at_ => Sys2Proof.Machine.execFuseRequireEncrypt at_ s
  | .fusePrivateJtagOff at_ => Sys2Proof.Machine.execFusePrivateJtagOff at_ s
  | .fuseLock at_ => Sys2Proof.Machine.execFuseLock at_ s
  | .rollbackAdvance at_ val => Sys2Proof.Machine.execRollbackAdvance at_ val s
  | .rollbackStep at_ => Sys2Proof.Machine.execRollbackStep at_ s
  | .readbackSelect at_ val => Sys2Proof.Machine.execReadbackSelect at_ val s
  | .lpModeWrite at_ p val => Sys2Proof.Machine.execLpModeWrite at_ p val s
  | .eqUpdate at_ p computed => Sys2Proof.Machine.execEqUpdate at_ p computed s
  | .cdrLock at_ p => Sys2Proof.Machine.execCdrLock at_ p s
  | .cdrLockLoss at_ p cause => Sys2Proof.Machine.execCdrLockLoss at_ p cause s
  | .autoRateTrialEnd at_ p => Sys2Proof.Machine.execAutoRateTrialEnd at_ p s
  | .lpKeepEqUpdate at_ p => Sys2Proof.Machine.execLpKeepEqUpdate at_ p s
  | .signalLoss at_ p => Sys2Proof.Machine.execSignalLoss at_ p s
  | .signalReturn at_ p => Sys2Proof.Machine.execSignalReturn at_ p s
  | .eavReceived at_ p seen => Sys2Proof.Machine.execEavReceived at_ p seen s
  | .lineReceived at_ p line => Sys2Proof.Machine.execLineReceived at_ p line s
  | .rxFrameStart at_ p f => Sys2Proof.Machine.execRxFrameStart at_ p f s
  | .directionChangeComplete at_ c => Sys2Proof.Machine.execDirectionChangeComplete at_ c s
  | .dcRestoreUpdate at_ c level => Sys2Proof.Machine.execDcRestoreUpdate at_ c level s
  | .overRangeBegin at_ c => Sys2Proof.Machine.execOverRangeBegin at_ c s
  | .overRangeEnd at_ c => Sys2Proof.Machine.execOverRangeEnd at_ c s
  | .suspectIntervalEnd at_ c => Sys2Proof.Machine.execSuspectIntervalEnd at_ c s
  | .calStale at_ c => Sys2Proof.Machine.execCalStale at_ c s
  | .dcBlockUpdate at_ c up => Sys2Proof.Machine.execDcBlockUpdate at_ c up s
  | .dacInputUnderrun at_ c => Sys2Proof.Machine.execDacInputUnderrun at_ c s
  | .monitorReady at_ m => Sys2Proof.Machine.execMonitorReady at_ m s
  | .monitorTransition at_ m level => Sys2Proof.Machine.execMonitorTransition at_ m level s
  | .monitorHoldEnd at_ m level => Sys2Proof.Machine.execMonitorHoldEnd at_ m level s
  | .latchClearWrite at_ m val => Sys2Proof.Machine.execLatchClearWrite at_ m val s
  | .activationReady at_ se slot cancelled => Sys2Proof.Machine.execActivationReady at_ se slot cancelled s
  | .activationEnd at_ se obs => Sys2Proof.Machine.execActivationEnd at_ se obs s
  | .transferGrant at_ cycle => Sys2Proof.Machine.execTransferGrant at_ cycle s
  | .transferComplete at_ init => Sys2Proof.Machine.execTransferComplete at_ init s
  | .paramWrite at_ se val => Sys2Proof.Machine.execParamWrite at_ se val s
  | .taskCancel at_ se half val => Sys2Proof.Machine.execTaskCancel at_ se half val s
  | .carouselStep at_ => Sys2Proof.Machine.execCarouselStep at_ s
  | .streamEnable at_ ds val => Sys2Proof.Machine.execStreamEnable at_ ds val s
  | .streamDisable at_ ds val => Sys2Proof.Machine.execStreamDisable at_ ds val s
  | .streamUnitStart at_ ds => Sys2Proof.Machine.execStreamUnitStart at_ ds s
  | .bandwidthWindow at_ above held heldPorts => Sys2Proof.Machine.execBandwidthWindow at_ above held heldPorts s
  | .fmLineRead at_ ds line check => Sys2Proof.Machine.execFmLineRead at_ ds line check s
  | .scrubRead at_ corrected uncorrectable => Sys2Proof.Machine.execScrubRead at_ corrected uncorrectable s
  | .fmWindowAccess at_ write size addr val served => Sys2Proof.Machine.execFmWindowAccess at_ write size addr val served s
  | .quotaWrite at_ svc val => Sys2Proof.Machine.execQuotaWrite at_ svc val s
  | .axAlign at_ p => Sys2Proof.Machine.execAxAlign at_ p s
  | .noAlignTimeout at_ p => Sys2Proof.Machine.execNoAlignTimeout at_ p s
  | .axLockLoss at_ p cause => Sys2Proof.Machine.execAxLockLoss at_ p cause s
  | .axSilenceTimeout at_ p => Sys2Proof.Machine.execAxSilenceTimeout at_ p s
  | .helloTimer at_ p => Sys2Proof.Machine.execHelloTimer at_ p s
  | .hello at_ p h => Sys2Proof.Machine.execHello at_ p h s
  | .leadEpochTick at_ => Sys2Proof.Machine.execLeadEpochTick at_ s
  | .advertStale at_ p => Sys2Proof.Machine.execAdvertStale at_ p s
  | .ack at_ p cls seq => Sys2Proof.Machine.execAck at_ p cls seq s
  | .nak at_ p cls seq => Sys2Proof.Machine.execNak at_ p cls seq s
  | .retxTimeout at_ p cls => Sys2Proof.Machine.execRetxTimeout at_ p cls s
  | .credit at_ p cueFrames mgmtUnits bulkUnits => Sys2Proof.Machine.execCredit at_ p cueFrames mgmtUnits bulkUnits s
  | .creditTimer at_ p => Sys2Proof.Machine.execCreditTimer at_ p s
  | .join at_ p id nonce => Sys2Proof.Machine.execJoin at_ p id nonce s
  | .roster at_ p id nonce => Sys2Proof.Machine.execRoster at_ p id nonce s
  | .leave at_ p => Sys2Proof.Machine.execLeave at_ p s
  | .timeExchangeStart at_ p t1Frac => Sys2Proof.Machine.execTimeExchangeStart at_ p t1Frac s
  | .timeReq at_ p t2Frac t3 t3Frac => Sys2Proof.Machine.execTimeReq at_ p t2Frac t3 t3Frac s
  | .timeResp at_ p t2 t2Frac t3 t3Frac t4Frac => Sys2Proof.Machine.execTimeResp at_ p t2 t2Frac t3 t3Frac t4Frac s
  | .timeExchangeMiss at_ p => Sys2Proof.Machine.execTimeExchangeMiss at_ p s
  | .cueRecord at_ p h r => Sys2Proof.Machine.execCueRecord at_ p h r s
  | .replayReq at_ p h => Sys2Proof.Machine.execReplayReq at_ p h s
  | .isoLine at_ p h bytes lineDone => Sys2Proof.Machine.execIsoLine at_ p h bytes lineDone s
  | .isoUnit at_ p h bytes lineDone => Sys2Proof.Machine.execIsoUnit at_ p h bytes lineDone s
  | .bulkStart at_ val => Sys2Proof.Machine.execBulkStart at_ val s
  | .bulkRequest at_ p h raddr length => Sys2Proof.Machine.execBulkRequest at_ p h raddr length s
  | .bulkGrant at_ p h => Sys2Proof.Machine.execBulkGrant at_ p h s
  | .bulkConfirm at_ p h => Sys2Proof.Machine.execBulkConfirm at_ p h s
  | .bulkRelease at_ p h => Sys2Proof.Machine.execBulkRelease at_ p h s
  | .bulkData at_ p h raddr bytes => Sys2Proof.Machine.execBulkData at_ p h raddr bytes s
  | .bulkDone at_ p h refused => Sys2Proof.Machine.execBulkDone at_ p h refused s
  | .rmtAccessStart at_ val => Sys2Proof.Machine.execRmtAccessStart at_ val s
  | .mgmtRead at_ p h addr => Sys2Proof.Machine.execMgmtRead at_ p h addr s
  | .mgmtWrite at_ p h addr val => Sys2Proof.Machine.execMgmtWrite at_ p h addr val s
  | .mgmtResponse at_ p h status data => Sys2Proof.Machine.execMgmtResponse at_ p h status data s
  | .rmtTimeout at_ => Sys2Proof.Machine.execRmtTimeout at_ s
  | .mgmtLog at_ p h payload => Sys2Proof.Machine.execMgmtLog at_ p h payload s
  | .fifoPush at_ k bridge data stale => Sys2Proof.Machine.execFifoPush at_ k bridge data stale s
  | .fifoPop at_ k bridge stale => Sys2Proof.Machine.execFifoPop at_ k bridge stale s
  | .fifoFlush at_ k => Sys2Proof.Machine.execFifoFlush at_ k s
  | .fioTapIncrement at_ m => Sys2Proof.Machine.execFioTapIncrement at_ m s
  | .fioTapDecrement at_ m => Sys2Proof.Machine.execFioTapDecrement at_ m s
  | .bridgeNop at_ c => Sys2Proof.Machine.execBridgeNop at_ c s
  | .bridgeCue at_ c => Sys2Proof.Machine.execBridgeCue at_ c s
  | .bridgeBarrier at_ c => Sys2Proof.Machine.execBridgeBarrier at_ c s
  | .bridgeFmWrite at_ c => Sys2Proof.Machine.execBridgeFmWrite at_ c s
  | .bridgeFmRead at_ c => Sys2Proof.Machine.execBridgeFmRead at_ c s
  | .bridgeBulk at_ c => Sys2Proof.Machine.execBridgeBulk at_ c s
  | .bridgeCommandComplete at_ c => Sys2Proof.Machine.execBridgeCommandComplete at_ c s
  | .gpioOutWrite at_ b size byteOff val => Sys2Proof.Machine.execGpioOutWrite at_ b size byteOff val s
  | .gpioInSnapshotRead at_ pads => Sys2Proof.Machine.execGpioInSnapshotRead at_ pads s
  | .pelEvent at_ k rises cause => Sys2Proof.Machine.execPelEvent at_ k rises cause s
  | .pelGlitch at_ k => Sys2Proof.Machine.execPelGlitch at_ k s
  | .pelkCtlWrite at_ k val => Sys2Proof.Machine.execPelkCtlWrite at_ k val s
  | .eventCommit at_ => Sys2Proof.Machine.execEventCommit at_ s
  | .elTailWrite at_ val => Sys2Proof.Machine.execElTailWrite at_ val s
  | .elRecordWord0Read at_ slot => Sys2Proof.Machine.execElRecordWord0Read at_ slot s
  | .violationEpisodeStart at_ m value cause => Sys2Proof.Machine.execViolationEpisodeStart at_ m value cause s
  | .violationEpisodeEnd at_ m => Sys2Proof.Machine.execViolationEpisodeEnd at_ m s
  | .obsRead at_ op len addr full => Sys2Proof.Machine.execObsRead at_ op len addr full s
  | .obsWrite at_ op len addr data full => Sys2Proof.Machine.execObsWrite at_ op len addr data full s
  | .obsStat at_ op len addr => Sys2Proof.Machine.execObsStat at_ op len addr s
  | .obsCsAbort at_ bytes full => Sys2Proof.Machine.execObsCsAbort at_ bytes full s
  | .i2cStatusRead at_ => Sys2Proof.Machine.execI2cStatusRead at_ s
  | .tapReset at_ => Sys2Proof.Machine.execTapReset at_ s
  | .extest at_ pads shiftIn => Sys2Proof.Machine.execExtest at_ pads shiftIn s
  | .samplePreload at_ pads shiftIn => Sys2Proof.Machine.execSamplePreload at_ pads shiftIn s
  | .idcode at_ => Sys2Proof.Machine.execIdcode at_ s
  | .highz at_ => Sys2Proof.Machine.execHighz at_ s
  | .clamp at_ => Sys2Proof.Machine.execClamp at_ s
  | .obsAccess at_ dr full => Sys2Proof.Machine.execObsAccess at_ dr full s
  | .rbScan at_ => Sys2Proof.Machine.execRbScan at_ s
  | .bypass at_ code tdi => Sys2Proof.Machine.execBypass at_ code tdi s
  | .eqAcquireStep at_ p code => Sys2Proof.Machine.execEqAcquireStep at_ p code s
  | .chainOutputSample at_ c value => Sys2Proof.Machine.execChainOutputSample at_ c value s
  | .activationDeadlinePass at_ se slot => Sys2Proof.Machine.execActivationDeadlinePass at_ se slot s
  | .domainSwitchedOff at_ r => Sys2Proof.Machine.execDomainSwitchedOff at_ r s
  | .axBadFrame at_ p why => Sys2Proof.Machine.execAxBadFrame at_ p why s
  | .fclkEdge at_ fioRise fioFall gpio => Sys2Proof.Machine.execFclkEdge at_ fioRise fioFall gpio s
  | .timeOutputEdge at_ f rises => Sys2Proof.Machine.execTimeOutputEdge at_ f rises s
  | .bankSupplyLoss at_ b => Sys2Proof.Machine.execBankSupplyLoss at_ b s
  | .bankSupplyReturn at_ b => Sys2Proof.Machine.execBankSupplyReturn at_ b s
  | .aoclkSecond at_ => Sys2Proof.Machine.execAoclkSecond at_ s

end Sys2Proof.Machine
end

