-- ==== Sys2Proof/Safety.lean ====
section
/-! DEFINITION. What counts as a sound state of the device, in the terms that statements use. -/

namespace Sys2Proof.Machine

/-- In the running states the device state is the one that the timebase and the lead role give (R137). -/
def State.followsTimebase (s : State) : Prop := s.dev.running = true → s.dev = s.runState

/-- The pads that a test instruction has taken are given back outside INERT, and outside RESET with RESET_N low
(R482). -/
def State.tapInOrder (s : State) : Prop :=
  s.tap.padsTaken = true → s.dev = .inert ∨ (s.dev = .reset ∧ s.pwr.resetN = false)

/-- The stored words and the bytes of frame memory are in canonical form. -/
def State.canonical (s : State) : Prop := cellsWf s.cells ∧ Memory.wf s.fm.bytes

/-- Whether the ending that every command shares may change a register's word: the state-change record, the GPIO
conflict registers, the KEEP status and the event log (R135, R157, R425, R446–R451). -/
def endsOn (a : Nat) : Bool :=
  [SYS_STATE, SYS_STATE_TT_LO, SYS_STATE_TT_LO + 4, SYS_STATE_CHANGE_CNT, BAT_KEEP_STAT].contains a ||
  (List.range 4).any (fun b => a == GP_CONFLICT b || a == GP_CONFLICT_CNT b) ||
  decide (0xA00000 ≤ a) && decide (a < 0xC00000)

/-- Every register but those listed, and those that the shared ending may change, holds its word. -/
def keepsRegs (s t : State) (l : List Nat) : Prop := ∀ a, endsOn a = false → a ∉ l → t.rd a = s.rd a

/-- Every byte of frame memory reads as before. -/
def keepsMemory (s t : State) : Prop := ∀ a, t.fmByte a = s.fmByte a

/-- The address of a register, neither frame memory's window nor reserved, of a block that answers in the present state
(R469, R472). -/
abbrev State.reaches (s : State) (a : Nat) : Prop :=
  s.dev.powered = true ∧ a < 0x40000000 ∧ a % 4 = 0 ∧ s.addrStatus a = stOk

/-- A register that an access from a port reaches: not half of a pair that is written by halves, in a block that
answers in the present state (R469, R472, R474), while no remote access of the member's own is under way (R395). -/
abbrev State.reachable (s : State) (a : Nat) : Prop :=
  s.dev.powered = true ∧ a < 0x40000000 ∧ a % 4 = 0 ∧ s.addrStatus a = stOk ∧
    isRwLo a = false ∧ isRwLo (a - 4) = false ∧ s.ax.rmt = none

/-! ### Cues and frames -/

/-- No entry of the cue script waits for its next instance, so an event only fires the cues armed on it (R113, R126). -/
abbrev State.scriptsQuiet (s : State) : Prop := s.cue.scriptIn = [] ∧ ∀ e ∈ s.cue.entries, e.script = none

/-- A received frame of a retransmitted class is the next one in its sequence on a port that is UP (R370). -/
abbrev State.inOrder (s : State) (p cls : Nat) (h : AxHdr) : Prop :=
  s.portUp p = true ∧ h.seq.toNat = (s.port p).rxSeq.get 0 cls

/-- The frame and credit registers of the port on the route to a member (R372, R382). -/
def State.routeRegs (s : State) (m : MemberId) : List Nat :=
  (s.routeTo m).toList.flatMap (fun q => [AX_TX_FRAME_CNT q, AX_CREDIT q])

/-- A frame of a class goes on the wire of a port at once: the port is UP, no frame of the class is held, and credit and
the store allow it (R370, R372). -/
abbrev State.goesNow (s : State) (q : Nat) (f : AxFrame) : Prop :=
  s.portUp q = true ∧ (s.port q).held.get [] f.cls = [] ∧ s.mayGo q f = true

/-- The registers that an output sample of a chain may change: its counts and flags, its DC block, the codes and clamps of
its cell, and the gains of ramps under way (R221, R234, R238, R259–R265). -/
def chainRegs (c : Nat) : List Nat :=
  [FC_SAMPLE_CNT c, FC_UNDERRUN_CNT c, FC_RESP_CHG_CNT c, FC_STICKY c, FC_STAT c, FC_DCB_SET c, FC_DCB_STAT c,
    FC_DCB_BOUND_CNT c, AC_STICKY c, AC_CLAMP_CNT c, AC_DAC_CLAMP_CNT c, AC_PEAK c, AC_GAIN c]

/-! ### Adaptive loops -/

/-- The control register of a loop (loop table, R27). -/
def loopCtl : LoopId → Nat
  | .eq p => LP_EQ_CTL p
  | .servo => TB_SERVO_CTL
  | .dcr c => AC_DCR_CTL c
  | .dcb c => FC_DCB_CTL c
  | .sleep k => SYS_SLEEP_CTL k
  | .carousel => SE_CAR_CTL 0

/-- The status register of a loop, its count of pressing episodes, and the field that holds its setting (R27, R30). -/
def loopStat : LoopId → Nat
  | .eq p => LP_EQ_STAT p
  | .servo => TB_SERVO_STAT
  | .dcr c => AC_DCR_STAT c
  | .dcb c => FC_DCB_STAT c
  | .sleep k => SYS_SLEEP_STAT k
  | .carousel => SE_CAR_STAT 0
def loopCnt : LoopId → Nat
  | .eq p => LP_EQ_BOUND_CNT p
  | .servo => TB_SERVO_BOUND_CNT
  | .dcr c => AC_DCR_BOUND_CNT c
  | .dcb c => FC_DCB_BOUND_CNT c
  | .sleep k => SYS_SLEEP_BOUND_CNT k
  | .carousel => SE_CAR_BOUND_CNT 0
def loopField : LoopId → Fld
  | .eq p => LP_EQ_SET_code p
  | .servo => TB_SERVO_BW_b
  | .dcr c => AC_DCR_SET_offset c
  | .dcb c => FC_DCB_SET_e c
  | .sleep k => SYS_SLEEP_DLY_d k
  | .carousel => SE_CAR_DWELL_d 0

/-- What the last update of a loop replaced, if that update came in the present cycle (R34). -/
def State.undoNow (s : State) (l : LoopId) : Option LoopUndo :=
  (s.undo.lookup (loopStat l)).filter (fun x => x.at_ == s.elapsed)

/-- The mode of a loop (R51): 0 FREE, 1 BOUNDED, 2 FROZEN. -/
def State.loopMode (s : State) (l : LoopId) : Nat := s.g ⟨loopCtl l, 1, 0⟩

/-- The number that a word of a loop's setting register holds. -/
def loopValue (l : LoopId) (w : W32) : Int :=
  match l with
  | .eq p => (LP_EQ_SET_code p).of w
  | .servo => TB_SERVO_BW_b.of w
  | .dcr c => signed10 (AC_DCR_SET_offset c) w
  | .dcb c => signedField 18 ((FC_DCB_SET_e c).of w)
  | .sleep k => (SYS_SLEEP_DLY_d k).of w
  | .carousel => (SE_CAR_DWELL_d 0).of w

/-- The hardware range of a loop (R69, R144, R195, R232, R262, R302). -/
def State.loopHw (s : State) (l : LoopId) : Int × Int :=
  match l with
  | .eq p => (0, eqMaxCode (s.lpRate p))
  | .servo => (0, servoHw s.activeSrc)
  | .dcr _ => (-512, 511)
  | .dcb _ => (-131072, 131071)
  | .sleep _ | .carousel => (1, 1023)

/-- The written window of a loop. -/
def State.loopBounds (s : State) (l : LoopId) : Int × Int :=
  match l with
  | .eq p => ((min (s.g (LP_EQ_CTL_eq_min p)) (eqMaxCode (s.lpRate p)) : Nat),
      (min (s.g (LP_EQ_CTL_eq_max p)) (eqMaxCode (s.lpRate p)) : Nat))
  | .servo => if 1 ≤ s.activeSrc ∧ s.activeSrc ≤ 3 then
      (s.g (TB_SERVO_WIN_bw_min (s.activeSrc - 1)), s.g (TB_SERVO_WIN_bw_max (s.activeSrc - 1)))
    else (0, servoHw s.activeSrc)
  | .dcr c => (signed10 (AC_DCR_CTL_dcr_min c) (s.rd (AC_DCR_CTL c)), signed10 (AC_DCR_CTL_dcr_max c) (s.rd (AC_DCR_CTL c)))
  | .dcb c => (256 * signed10 (FC_DCB_CTL_dcb_min c) (s.rd (FC_DCB_CTL c)),
      256 * signed10 (FC_DCB_CTL_dcb_max c) (s.rd (FC_DCB_CTL c)))
  | .sleep k => (s.g (SYS_SLEEP_CTL_dly_min k), s.g (SYS_SLEEP_CTL_dly_max k))
  | .carousel => (s.g (SE_CAR_CTL_d_min 0), s.g (SE_CAR_CTL_d_max 0))

/-- The range that R33 clamps a written setting into: the written window while BOUNDED, else the hardware range. -/
def State.loopRange (s : State) (l : LoopId) : Int × Int :=
  if s.loopMode l = 1 then s.loopBounds l else s.loopHw l

end Sys2Proof.Machine
end

