-- ==== Sys2Proof/Certificates/Slice0/Obligations.lean ====
section
/-! DEFINITION. The statements about this model. In each of them `u` is the state once time has passed to the
command's instant (DESIGN CHOICE, notes/assumptions/3). -/

open Sys2Proof Sys2Proof.Machine

/-! ### The block as a whole -/

/-- A step of a state with a command at the front of its queue is that command on the state with the queue's rest; with
an empty queue the block idles (the idling is the model's choice, DESIGN CHOICE, notes/assumptions/16). -/
def Obligations.StepRunsTheFront : Prop :=
  (∀ (c : Instr) (rest : List Instr) (s : State), step { s with pending := c :: rest } = exec c { s with pending := rest }) ∧
  (∀ s : State, s.pending = [] → step s = .next s)

/-- In the running states the device state is the one that the timebase and the lead role give (R137): every step keeps
that. -/
def Obligations.FollowsTheTimebase : Prop :=
  ∀ s s' : State, s.followsTimebase → step s = .next s' → s'.followsTimebase

/-- The pads taken by a test instruction are given back outside INERT and outside RESET with RESET_N low (R482): every
step keeps that. -/
def Obligations.PadsAreGivenBack : Prop :=
  ∀ s s' : State, s.tapInOrder → step s = .next s' → s'.tapInOrder

/-- The state after reset meets both invariants, and its words and its memory are in canonical form. -/
def Obligations.ResetIsInOrder : Prop :=
  State.reset.followsTimebase ∧ State.reset.tapInOrder ∧ State.reset.canonical

/-! ### Registers -/

/-- KEEP_USERn takes a write while its bit of BAT_USER_LOCK is 0, and refuses and counts it while that bit is 1 (R153). -/
def Obligations.KeepUserWrites : Prop :=
  ∀ (at_ : TT) (n : Fin 8) (v : W32) (s : State), (s.atTime at_).reachable (KEEP_USER n) →
    (s.bitOf BAT_USER_LOCK n = false → ∃ t, exec (.registerWrite at_ (BitVec.ofNat 32 (KEEP_USER n)) v) s = .next t ∧
      t.rd (KEEP_USER n) = v ∧ t.obs.answer = [0, 0] ∧ keepsRegs s t [KEEP_USER n] ∧ keepsMemory s t) ∧
    (s.bitOf BAT_USER_LOCK n = true → ∃ t, exec (.registerWrite at_ (BitVec.ofNat 32 (KEEP_USER n)) v) s = .next t ∧
      t.g (cnt16 BAT_WR_REFUSE_CNT) = min (s.g (cnt16 BAT_WR_REFUSE_CNT) + 1) 65535 ∧ t.obs.answer = [5, 0] ∧
      keepsRegs s t [BAT_WR_REFUSE_CNT] ∧ keepsMemory s t)

/-- A write of a register whose every field is RO or RC is refused by its access code: the answer is ACCESS and no
register changes (R15, R16). -/
def Obligations.FixedRegistersRefuseWrites : Prop :=
  ∀ (at_ : TT) (a v : W32) (s : State), (s.atTime at_).reachable a.toNat →
    (regFields a.toNat).all (fun f => f.acc.fixed) = true →
    ∃ t, exec (.registerWrite at_ a v) s = .next t ∧ t.obs.answer = [5, 0] ∧ keepsRegs s t [] ∧ keepsMemory s t

/-- The bits of a register that a whole read clears. -/
def rcMask (fs : List FieldDesc) : W32 := fs.foldl (fun m f => if f.acc == .rc then m ||| f.mask else m) 0

/-- A whole read of a register returns its value and clears its RC fields (R15); CUE_PEAK, the temperature extremes,
the shed counts and the words of the ring have their own rules. A KEEP word in which an uncorrectable error stands reads
as its reset value, takes it, and sets BAT_STAT.keep_err (R152). A 32-bit read of a _LO register snapshots its _HI
partner, and the next read of _HI returns that snapshot; a read of TB_TT_NS_LO snapshots the fraction of TT too (R55,
R474). No other register changes. Readings of the model: DEDUCED, notes/assumptions/58, DEDUCED, notes/assumptions/60. -/
def Obligations.ReadsClearAndSnapshot : Prop :=
  (∀ (at_ : TT) (a : W32) (s : State), let u := s.atTime at_
    u.reachable a.toNat → isLo a.toNat = false → a.toNat ≠ CFG_RB_DATA → a.toNat ≠ CUE_PEAK → a.toNat ≠ VM_TEMP_MAX →
    a.toNat ≠ VM_TEMP_MIN → (∀ b i off, locate a.toNat = some (b, i, off) → b ≠ .ring ∧ (b = .se → off ≠ 0x38)) →
    endsOn a.toNat = false → (∀ n, keepIndex a.toNat = some n → u.pwr.softErrs.lookup n = none) →
    ∃ t, exec (.clearingRead at_ a) s = .next t ∧
      t.obs.answer = [0, 0] ++ bytesOf 4 (u.readValue a.toNat).toNat ∧
      t.rd a.toNat = s.rd a.toNat &&& ~~~rcMask (regFields a.toNat) ∧ keepsRegs s t [a.toNat] ∧ keepsMemory s t) ∧
  (∀ (at_ : TT) (a : W32) (n : Nat) (s : State), let u := s.atTime at_
    u.reachable a.toNat → isLo a.toNat = false → isLo (a.toNat - 4) = false → keepIndex a.toNat = some n →
    u.pwr.softErrs.lookup n = some true →
    ∃ t, exec (.clearingRead at_ a) s = .next t ∧ t.obs.answer = [0, 0] ++ bytesOf 4 (resetOf a.toNat).toNat ∧
      t.rd a.toNat = resetOf a.toNat ∧ t.bit BAT_STAT_keep_err = true ∧ t.pwr.softErrs.lookup n = none ∧
      keepsRegs s t [a.toNat, BAT_STAT] ∧ keepsMemory s t) ∧
  (∀ (at_ : TT) (a : W32) (s : State), let u := s.atTime at_
    u.reaches a.toNat → isLo a.toNat = true →
    ∃ t, exec (.pairLoRead at_ a false) s = .next t ∧
      t.obs.answer = [0, 0] ++ bytesOf 4 (u.valueOf a.toNat).toNat ∧
      t.obs.snapHi.lookup a.toNat = some (u.fresh (a.toNat + 4)) ∧ keepsRegs s t [] ∧ keepsMemory s t) ∧
  (∀ (at_ : TT) (s : State), let u := s.atTime at_
    u.reaches TB_TT_NS_LO →
    ∃ t, exec (.ttSnapshotRead at_ false) s = .next t ∧
      t.obs.answer = [0, 0] ++ bytesOf 4 (u.clock.ns.toNat % 2 ^ 32) ∧
      t.readValue TB_TT_NS_HI = (u.clock.ns >>> 32).truncate 32 ∧ t.readValue TB_TT_FRAC = u.clock.sub >>> 16 ∧
      keepsRegs s t [] ∧ keepsMemory s t)

/-- A write of a loop's setting: while the loop is FREE or BOUNDED the setting takes the value clamped into the window,
while it is FROZEN the value clamped into the hardware range (R33). An update of the loop in the same cycle is discarded
with what it left in the loop's status and counter (R34; the cycle is the model's whole nanosecond, DESIGN CHOICE,
notes/assumptions/65). -/
def Obligations.LoopWritesAreClamped : Prop :=
  ∀ (at_ : TT) (l : LoopId) (v : W32) (s : State), let u := s.atTime at_
    u.reachable (loopSet l) →
    ∃ t, exec (.loopSeedWrite at_ l v) s = .next t ∧
      loopValue l (t.rd (loopSet l)) = clampInt (u.loopRange l).1 (u.loopRange l).2 (loopValue l v) ∧
      t.obs.answer = [0, 0] ∧ (u.undoNow l = none → keepsRegs s t [loopSet l]) ∧
      (∀ x, u.undoNow l = some x → t.rd (loopStat l) = x.stat ∧ t.rd (loopCnt l) = x.cnt ∧
        keepsRegs s t [loopSet l, loopStat l, loopCnt l]) ∧ keepsMemory s t

/-- A resource that winds up becomes ready: an engine, an Axlink port, frame memory or a PLL at its kind's time
(R138); the wake is counted with its length (R140). Readings of the model: DESIGN CHOICE, notes/assumptions/7. -/
def Obligations.ResourcesBecomeReady : Prop :=
  ∀ (at_ : TT) (r : Fin 127) (locked : Bool) (from_ : Nat) (resumed : Bool) (s : State), let u := s.atTime at_
    80 ≤ r.val → (u.res r).power = .winding from_ resumed → u.readyNow r = true →
    ∃ t, exec (.resourceReady at_ r locked) s = .next t ∧ t.isReady r = true ∧
      t.g (cnt16 SYS_WIND_CNT) = min (s.g (cnt16 SYS_WIND_CNT) + 1) 65535 ∧
      (t.rd SYS_WIND_LAST).toNat = min (u.elapsed - from_) 16383 ∧
      keepsRegs s t [SYS_WIND_CNT, SYS_WIND_LAST] ∧ keepsMemory s t

/-! ### Troupe time -/

/-- A reference frame of the format of TB_GEN_CTL, or a PPS edge near its expected instant, gives a phase sample while
its source is qualified and active (R65, R66, R68, R71): TB_PHASE_ERR shows it, and it is the newest sample of the
servo. The step of the servo's integrating path is a free value (DESIGN CHOICE, notes/assumptions/2). Readings of the
model: DEDUCED, notes/assumptions/25. -/
def Obligations.ReferencesGivePhaseSamples : Prop :=
  (∀ (at_ : TT) (f : Format) (err : BitVec 64) (s : State), let u := s.atTime at_
    u.servoOn = true → formatOf (u.g TB_GEN_CTL_format) = some f → f.code < 64 → u.qualified 1 = true → u.activeSrc = 1 →
    u.refPresent 1 = true →
    ∃ t, exec (.genlockFrame at_ (BitVec.ofNat 6 f.code) err) s = .next t ∧
      t.rd TB_PHASE_ERR = sword (f.wrapErr err.toInt) ∧ t.tb.samples = (f.wrapErr err.toInt :: u.tb.samples).take 64 ∧
      keepsRegs s t [TB_PHASE_ERR, TB_STAT, TB_FREQ_ADJ] ∧ keepsMemory s t) ∧
  (∀ (at_ : TT) (err : BitVec 64) (last : Nat) (s : State), let u := s.atTime at_
    u.servoOn = true → u.qualified 2 = true → u.activeSrc = 2 → u.tb.tod = none →
    u.refPresent 2 = true → (u.srcSt 2).lastAt = some last → 10000 < u.elapsed - last →
    ((u.elapsed - last) % secNs ≤ 10000 ∨ secNs - 10000 ≤ (u.elapsed - last) % secNs) →
    ∃ t, exec (.ppsEdge at_ err) s = .next t ∧
      t.rd TB_PHASE_ERR = sword err.toInt ∧ t.tb.samples = (err.toInt :: u.tb.samples).take 64 ∧
      keepsRegs s t [TB_PHASE_ERR, TB_STAT, TB_FREQ_ADJ] ∧ keepsMemory s t)

/-- A source that has met its initial qualification and been present for requal_s without a loss condition qualifies (R60); a qualified source that is
lost is dequalified and counted (R61). Another source that is active, eligible and qualified stays so. A write of
TB_SRC_PRIO that lists a code twice, or uses code 5, 6 or 7, is refused whole; one that lists each code at most once
is taken, the active source being listed (R59). Readings of the model: DEDUCED, notes/assumptions/25, DEDUCED,
notes/assumptions/26. -/
def Obligations.SourcesQualifyAndAreListed : Prop :=
  (∀ (at_ : TT) (src : RefSrc) (from_ : Nat) (s : State), let u := s.atTime at_; let c := srcCode src
    src ≠ .observer → u.servoOn = true → u.qualified c = false → (u.srcSt c).requal = true → u.refPresent c = true →
    initialRun c ≤ (u.srcSt c).run →
    (u.srcSt c).since = some from_ → from_ + u.g TB_SRC_QUAL_requal_s * secNs ≤ u.elapsed →
    u.activeSrc ≠ 0 → u.activeSrc ≠ c → u.eligible.contains u.activeSrc = true → u.qualified u.activeSrc = true →
    ∃ t, exec (.sourceRequalify at_ src) s = .next t ∧ t.qualified c = true ∧ t.activeSrc = u.activeSrc ∧
      keepsRegs s t [TB_SRC_STAT] ∧ keepsMemory s t) ∧
  (∀ (at_ : TT) (src : RefSrc) (cause : TT) (s : State), let u := s.atTime at_; let c := srcCode src
    src ≠ .observer → u.servoOn = true → u.qualified c = true → u.activeSrc ≠ c →
    ∃ t, exec (.srcLoss at_ src cause) s = .next t ∧ t.qualified c = false ∧
      t.g (cnt16 TB_SRC_LOSS_CNT) = min (s.g (cnt16 TB_SRC_LOSS_CNT) + 1) 65535 ∧ t.activeSrc = u.activeSrc ∧
      keepsRegs s t [TB_SRC_STAT, TB_SRC_LOSS_CNT] ∧ keepsMemory s t) ∧
  (∀ (at_ : TT) (v : W32) (s : State), let u := s.atTime at_
    let codes := [v.toNat % 8, v.toNat / 8 % 8, v.toNat / 64 % 8, v.toNat / 512 % 8]
    u.reachable TB_SRC_PRIO →
    ((codes.any (fun c => decide (4 < c)) = true ∨ ¬ (codes.filter (· != 0)).Nodup) →
      ∃ t, exec (.tbSrcPrioWrite at_ v) s = .next t ∧ t.obs.answer = [6, 0] ∧ keepsRegs s t [] ∧ keepsMemory s t) ∧
    (codes.all (fun c => decide (c ≤ 4)) = true → (codes.filter (· != 0)).Nodup →
      (u.servoOn = true → u.activeSrc ≠ 0 ∧ u.qualified u.activeSrc = true ∧ codes.contains u.activeSrc = true ∧
        ¬ (u.activeSrc = 3 ∧ u.bit SYS_STATE_lead = true)) →
      ∃ t, exec (.tbSrcPrioWrite at_ v) s = .next t ∧ t.obs.answer = [0, 0] ∧
        t.prioList = codes.filter (· != 0) ∧ t.activeSrc = u.activeSrc ∧ keepsRegs s t [TB_SRC_PRIO] ∧ keepsMemory s t))

/-- At a whole second of TT the mean frequency of the second that ends is kept, and the next second begins; the
bandwidth code stays inside the window of an active source that uses the servo (R69, R71). A time of day armed for the
next PPS edge waits with its instant, and is discarded once it has waited 2 s (R68). Readings of the model: DEDUCED,
notes/assumptions/27, DEDUCED, notes/assumptions/28. -/
def Obligations.SecondsAndTimeOfDay : Prop :=
  (∀ (at_ : TT) (s : State), let u := s.atTime at_
    u.dev.timed = true → u.now % secNs = 0 → u.tb.secondAt < u.elapsed → u.bit TB_SRC_PRIO_revert = false →
    ∃ t, exec (.servoUpdate at_) s = .next t ∧ t.tb.secondAt = u.elapsed ∧
      t.tb.means = ((u.tb.meanAcc + u.freqSum) / ((u.elapsed - u.tb.secondAt : Nat) : Int) :: u.tb.means).take 17 ∧
      (u.servoOn = true → u.g TB_SERVO_CTL_mode ≠ 2 → u.loopBlocked TB_SERVO_STAT = false →
        1 ≤ u.activeSrc → u.activeSrc ≤ 3 → (u.servoWindow u.activeSrc).1 ≤ (u.servoWindow u.activeSrc).2 →
        (u.servoWindow u.activeSrc).1 ≤ (t.g TB_SERVO_BW_b : Int) ∧ (t.g TB_SERVO_BW_b : Int) ≤ (u.servoWindow u.activeSrc).2) ∧
      keepsRegs s t [TB_SERVO_BW, TB_SERVO_STAT, TB_SERVO_BOUND_CNT] ∧ keepsMemory s t) ∧
  (∀ (at_ : TT) (v : W32) (s : State), let u := s.atTime at_
    u.reachable TB_TOD_CTL → u.servoOn = true → v.getLsbD 0 = true → v.getLsbD 1 = true →
    ∃ t, exec (.todArm at_ v) s = .next t ∧ t.tb.tod = some (u.rd64 TB_TOD_LO, u.elapsed) ∧
      t.bit TB_TOD_CTL_armed = true ∧ t.obs.answer = [0, 0] ∧ keepsRegs s t [TB_TOD_CTL] ∧ keepsMemory s t) ∧
  (∀ (at_ : TT) (tod : BitVec 64) (from_ : Nat) (s : State), let u := s.atTime at_
    u.tb.tod = some (tod, from_) → from_ + 2 * secNs ≤ u.elapsed →
    ∃ t, exec (.todDiscard at_) s = .next t ∧ t.tb.tod = none ∧ t.bit TB_TOD_CTL_armed = false ∧
      keepsRegs s t [TB_TOD_CTL] ∧ keepsMemory s t)

/-- After 24 h of continuous lock and at every hour of it from then on, the fit of the last 24 hourly means is
averaged into KEEP_OSC_AGEING at weight 1/8 and counted (R74). Readings of the model: DEDUCED, notes/assumptions/28.
-/
def Obligations.AgeingIsLearned : Prop :=
  ∀ (at_ : TT) (from_ : Nat) (s : State), let u := s.atTime at_
    let a := (u.keepRd 1).toInt
    let b := a + (ageingSlope (hourSums u.tb.hourMeans 24) - a) / 8
    u.tb.lockSince = some from_ → u.g TB_STAT_tb_state = tbLocked → 86400 * secNs ≤ u.elapsed - from_ →
    (u.elapsed - from_) % (3600 * secNs) = 0 → 86400 ≤ u.tb.hourMeans.length → u.tb.fitAt ≠ u.elapsed →
    -2147483648 ≤ b → b ≤ 2147483647 →
    ∃ t, exec (.ageingFit at_) s = .next t ∧ (t.rd KEEP_OSC_AGEING).toInt = b ∧ t.bit TB_HO_STAT_learned = true ∧
      t.g (cnt16 KEEP_AGE_FITS) = min (s.g (cnt16 KEEP_AGE_FITS) + 1) 65535 ∧
      keepsRegs s t [KEEP_OSC_AGEING, KEEP_AGE_FITS, TB_HO_STAT] ∧ keepsMemory s t

/-- A generator that waits for its first frame, or runs, begins its next frame at its instant where no change is pending;
with a change pending a running one ends its frame there and waits, in an interval, for the first frame start of the new
settings, where that lies later; a running one begins its next line at its instant (R77, R80). A timer's window opens or closes where its raster places
it (R82). A write of RGn_CTL, RGn_OFFSET or BTn_CTL that the register rules take leaves its word; a running generator
keeps its settings in force and holds the change for its next frame start (R78, R80, R85). Readings of the model:
DEDUCED, notes/assumptions/29. -/
def Obligations.RastersAdvanceAndWait : Prop :=
  (∀ (at_ : TT) (n : Fin 16) (f : Format) (s : State), let u := s.atTime at_; let r := u.rg n
    u.dev.timed = true → u.rgOn n = true → r.change = false → r.nextAt ≤ u.now →
    formatOf (u.g (TB_RG_CTL_format n)) = some f →
    ∃ t, exec (.frameStart at_ n) s = .next t ∧ (t.rg n).running = true ∧ (t.rg n).frame = r.nextFrame ∧
      (t.rg n).frameAt = r.nextAt ∧ (t.rg n).line = 1 ∧ (t.rg n).format = f.code ∧ (t.rg n).nextFrame = r.nextFrame + 1) ∧
  (∀ (at_ : TT) (n : Fin 16) (f : Format) (s : State), let u := s.atTime at_; let r := u.rg n
    let k := f.firstFrame (u.rgOffset n) r.nextAt; let next := (f.inst (u.rgOffset n) k 1 0).toNat
    u.dev.timed = true → r.running = true → r.change = true → r.nextAt ≤ u.now → u.rgEnabled n = true →
    formatOf (u.g (TB_RG_CTL_format n)) = some f → next ≠ r.nextAt →
    ∃ t, exec (.frameStart at_ n) s = .next t ∧
      t.rg n = { r with
        waiting := true, change := false, nextFrame := k, nextAt := next,
        interval := some (r.interval.getD r.nextAt) } ∧ keepsRegs s t [] ∧ keepsMemory s t) ∧
  (∀ (at_ : TT) (n : Fin 16) (f : Format) (next : Nat) (s : State), let u := s.atTime at_; let r := u.rg n
    u.dev.timed = true → r.running = true → formatOf r.format = some f → r.nextLineAt = some next → next ≤ u.now →
    (r.line < f.lines ∨ r.held = true) → next < r.nextAt →
    ∃ t, exec (.lineStart at_ n) s = .next t ∧ (t.rg n).line = r.line + 1 ∧ (t.rg n).lineAt = next ∧
      (t.rg n).frame = r.frame ∧ (t.rg n).frameAt = r.frameAt) ∧
  (∀ (at_ : TT) (n : Fin 32) (opens : Bool) (s : State), let u := s.atTime at_
    (u.bt n).open_ = !opens → u.btCovers (u.bt n).ctl = opens →
    ∃ t, exec (.btWindowEdge at_ n opens) s = .next t ∧ (t.bt n).open_ = opens ∧
      (opens = true → (t.bt n).openAt = some u.now) ∧ keepsMemory s t) ∧
  (∀ (at_ : TT) (n : Fin 16) (offset : Bool) (v : W32) (s : State), let u := s.atTime at_
    let a := if offset then TB_RG_OFFSET n else TB_RG_CTL n
    u.reachable a → (u.writeReg .observer a v 0xFFFFFFFF).1 = .ok →
    ∃ t, exec (.rgnCtlWrite at_ n offset v) s = .next t ∧ t.obs.answer = [0, 0] ∧
      t.rd a = newWord false (regFields a) (s.rd a) v 0xFFFFFFFF ∧
      (u.dev.timed = true → u.rgOn n = true → t.rg n = { u.rg n with change := true }) ∧ keepsMemory s t) ∧
  (∀ (at_ : TT) (n : Fin 32) (v : W32) (s : State), let u := s.atTime at_; let a := TB_BT_CTL n
    u.reachable a → (u.writeReg .observer a v 0xFFFFFFFF).1 = .ok →
    ∃ t, exec (.btnCtlWrite at_ n v) s = .next t ∧ t.obs.answer = [0, 0] ∧
      t.rd a = newWord false (regFields a) (s.rd a) v 0xFFFFFFFF ∧
      (u.dev.timed = true → u.rgOn (btRg (u.bt n).ctl) = true → t.bt n = { u.bt n with change := true }) ∧ keepsMemory s t)

/-! ### Cues -/

/-- A submit of mailbox slots is taken while none of them is PENDING: each reads PENDING and waits in slot order; one that
includes a PENDING slot, or comes in DRAIN, is answered BUSY, and one in STANDBY or INSPECT ACCESS, with no effect
(R129). -/
def Obligations.MailboxSubmits : Prop :=
  ∀ (at_ : TT) (first count : Nat) (v : W32) (s : State), let u := s.atTime at_
    let slots := (List.range (count + 1)).map (fun i => first + i)
    u.reachable CUE_MBX_SUBMIT → first + count ≤ 7 → v.toNat = first + 256 * count →
    ((u.dev.active = true ∧ u.dev ≠ .drain) → (∀ k ∈ slots, u.g (mbxStat k) ≠ 1) →
      ∃ t, exec (.mailboxSubmit at_ v) s = .next t ∧ t.obs.answer = [0, 0] ∧ (∀ k ∈ slots, t.g (mbxStat k) = 1) ∧
        t.cue = { u.cue with mailbox := u.cue.mailbox ++ [slots] } ∧
        keepsRegs s t [CUE_MBX_STAT, CUE_MBX_SUBMIT] ∧ keepsMemory s t) ∧
    (u.dev ≠ .standby → u.dev ≠ .inspect → (u.dev = .drain ∨ ∃ k ∈ slots, u.g (mbxStat k) = 1) →
      ∃ t, exec (.mailboxSubmit at_ v) s = .next t ∧ t.obs.answer = [1, 0] ∧ t.cue = u.cue ∧
        keepsRegs s t [] ∧ keepsMemory s t) ∧
    ((u.dev = .standby ∨ u.dev = .inspect) →
      ∃ t, exec (.mailboxSubmit at_ v) s = .next t ∧ t.obs.answer = [5, 0] ∧ t.cue = u.cue ∧
        keepsRegs s t [] ∧ keepsMemory s t)

/-- At the mailbox's turn of the intake, a single record of it that keeps the format rules and finds room in its service's
quota takes a queue entry with the member's ID and the next sequence number, and its slot reads ACCEPTED (R88, R89, R97,
R100, R129, R352). Readings
of the model: DEDUCED, notes/assumptions/9, DEDUCED, notes/assumptions/23. -/
def Obligations.RecordsAreAccepted : Prop :=
  ∀ (at_ : TT) (k : Fin 8) (s : State), let u := s.atTime at_; let r := cueOfSlot u k
    let id : CueId := ⟨u.memberId, u.rd CUE_SEQ, 0⟩
    u.intakeOpen = true → u.cue.takenCycle ≤ u.cueCycle → u.nextSource = some 1 → u.cue.mailbox = [[k.val]] →
    u.cue.slotsTaken = [] → formatOk false r = true → recOnEvent r = false → recChain r = false →
    recBroadcast r = false → recPreroll r = false → u.occupancy (recSvc r) < u.quotaNow (recSvc r) →
    u.now + 1000 ≤ r.launch.toNat → u.entry id = none →
    ∃ t e, exec (.cueAccept at_ .observer) s = .next t ∧ t.entry id = some e ∧ e.stage = .queued ∧ e.late = false ∧
      e.src = .observer ∧ e.rec_ = { r with origin := u.memberId.zeroExtend 16, seq := u.rd CUE_SEQ } ∧
      t.rd CUE_SEQ = u.rd CUE_SEQ + 1 ∧ t.g (mbxStat k) = 2 ∧ t.rd (CUE_MBX_SEQ k) = u.rd CUE_SEQ ∧
      t.cue.mailbox = [] ∧ keepsRegs s t [CUE_SEQ, CUE_ACCEPT_CNT 1, CUE_PEAK, CUE_MBX_STAT, CUE_MBX_SEQ k] ∧ keepsMemory s t

/-- From launch time − preroll on, a queued cue with PREROLL wakes and claims its targets with their dependencies (R24,
R102, R103). WAKE winds its target up and holds it awake for its time once it is ready; a hold that has run out is
gone (R91, R143). Readings of the model: DESIGN CHOICE, notes/assumptions/64. -/
def Obligations.CuesWakeTheirTargets : Prop :=
  (∀ (at_ : TT) (id : CueId) (e : Entry) (s : State), let u := s.atTime at_
    u.entry id = some e → recPreroll e.rec_ = true → e.stage = .queued → u.dev.active = true →
    e.rec_.launch.toNat ≤ u.now + e.rec_.preroll.toNat * usNs →
    ∃ t, exec (.prerollWake at_ id) s = .next t ∧ t.entry id = some { e with claims := u.wakeList e.rec_ } ∧
      (∀ r ∈ u.wakeList e.rec_, t.isAwake r = true ∧ t.isClaimed r = true) ∧
      keepsRegs s t [SYS_NAP_CNT] ∧ keepsMemory s t) ∧
  (∀ (at_ : TT) (id : CueId) (e : Entry) (r : Nat) (s : State), let u := s.atTime at_
    u.entry id = some e → id.sub = 0 → recAct e.rec_ = 0xD → targetRes (recTarget e.rec_) = some r →
    (u.act e).1 = .ok → u.mayEffect e = true →
    ∃ t, exec (.wake at_ id) s = .next t ∧ t.entry id = none ∧ t.isAwake r = true ∧
      (u.isReady r = true → (t.res r).holdUntil = some (u.elapsed + e.rec_.a.toNat % 65536 * usNs)) ∧
      (u.isReady r = false → (t.res r).holdUs = e.rec_.a.toNat % 65536) ∧
      keepsRegs s t [SYS_NAP_CNT] ∧ keepsMemory s t) ∧
  (∀ (at_ : TT) (r : Fin 127) (until_ : Nat) (s : State), let u := s.atTime at_
    (u.res r).holdUntil = some until_ → until_ ≤ u.elapsed →
    ∃ t, exec (.wakeHoldExpire at_ r) s = .next t ∧ (t.res r).holdUntil = none ∧ (t.res r).power = (u.res r).power ∧
      keepsRegs s t [] ∧ keepsMemory s t)

/-- A due cue that is on time, whose target is ready and accepts it, and that is behind no late cue, is handed over in its
turn among those due in the same cycle: it waits for the first quantum at or after its launch time, or for the
cue-engine cycle where what gives its quantum does not run (R92, R94, R245, R348). Readings of the model: DEDUCED,
notes/assumptions/19. -/
def Obligations.DueCuesAreHandedOver : Prop :=
  ∀ (at_ : TT) (id : CueId) (e : Entry) (s : State), let u := s.atTime at_
    u.entry id = some e → recAct e.rec_ ≠ 4 → e.stage = .queued → e.late = false → u.dev.active = true →
    e.rec_.launch.toNat ≤ u.now + 1000 → (actTargets (recAct e.rec_) = true → u.targetReady (recTarget e.rec_) = true) →
    u.cue.entries.any (fun x => x.late && x.blocks e) = false → u.handoverTurn e = true → u.judge e = .ok →
    ∃ t, exec (.cueHandover at_ id) s = .next t ∧
      t.entry id = some { e with
        stage := .handed, earliest := e.rec_.launch.toNat, frameFrom := none, atCycle := u.notRunning (u.recQuantum e.rec_) } ∧
      keepsRegs s t [] ∧ keepsMemory s t

/-- Outside a drain, a parked successor that its predecessor has released enters the queue with its delay counted from
that effect (R115). -/
def Obligations.SuccessorsFollowTheirPredecessor : Prop :=
  ∀ (at_ : TT) (id : CueId) (e : Entry) (effect : Nat) (s : State), let u := s.atTime at_
    u.entry id = some e → e.stage = .released effect → recPreroll e.rec_ = false →
    u.now + 1000 ≤ effect + e.rec_.launch.toNat → effect + e.rec_.launch.toNat < 2 ^ 64 → u.pwr.drain = none →
    ∃ t e', exec (.chainSuccessorRelease at_ id) s = .next t ∧ t.entry id = some e' ∧ e'.stage = .queued ∧
      e'.rec_.launch.toNat = effect + e.rec_.launch.toNat ∧ keepsRegs s t [] ∧ keepsMemory s t

/-- The command by which a cue of an action takes effect. -/
def cueCommand (at_ : TT) (id : CueId) (act : Nat) : Option Instr :=
  match act with
  | 0x0 => some (.nop at_ id) | 0x1 => some (.writeField at_ id) | 0x2 => some (.setBits at_ id)
  | 0x3 => some (.clearBits at_ id) | 0x5 => some (.route at_ id) | 0x6 => some (.gainStep at_ id)
  | 0x7 => some (.direction at_ id) | 0x8 => some (.pin at_ id) | 0x9 => some (.streamArm at_ id)
  | 0xA => some (.barrier at_ id) | 0xB => some (.freeze at_ id) | 0xC => some (.release at_ id)
  | 0xD => some (.wake at_ id) | 0xE => some (.cancel at_ id) | 0xF => some (.notify at_ id)
  | _ => none

/-- NOP changes no register and leaves the queue; NOTIFY leaves one record with the cue's operand as its detail and the
cue's service as its source (R91). -/
def Obligations.NopAndNotify : Prop :=
  (∀ (at_ : TT) (id : CueId) (e : Entry) (s : State), let u := s.atTime at_
    u.entry id = some e → id.sub = 0 → recAct e.rec_ = 0 → u.mayEffect e = true →
    ∃ t, exec (.nop at_ id) s = .next t ∧ t.entry id = none ∧ keepsRegs s t [] ∧ keepsMemory s t) ∧
  (∀ (at_ : TT) (id : CueId) (e : Entry) (s : State), let u := s.atTime at_
    u.entry id = some e → id.sub = 0 → recAct e.rec_ = 0xF → u.mayEffect e = true → u.g EL_CTL_min_sev = 0 →
    u.log.stage.length < 1024 →
    ∃ t, exec (.notify at_ id) s = .next t ∧ t.entry id = none ∧
      (∃ r ∈ t.log.stage, r.code = 0 ∧ r.service = recSvc e.rec_ ∧ r.detail = e.rec_.a ∧ r.cause = u.now) ∧
      keepsRegs s t [] ∧ keepsMemory s t)

/-- A cue that writes bits of a register its service owns writes those bits and no others: WRITE_FIELD a field, SET_BITS
and CLEAR_BITS a mask; shown on the clamp's target of a cell. FREEZE sets a loop's mode to FROZEN and RELEASE to the
mode that its operand names, where the target's rules accept the cue (R31, R91); an update that the loop has made in
the cycle of a FREEZE is discarded, with its setting (R34). Readings of the model: DEDUCED, notes/assumptions/18,
DEDUCED, notes/assumptions/19, DESIGN CHOICE, notes/assumptions/65. -/
def Obligations.CuesWriteBitsAndHoldLoops : Prop :=
  (∀ (at_ : TT) (id : CueId) (e : Entry) (c : Fin 48) (m v : W32) (cmd : Instr) (s : State), let u := s.atTime at_
    u.entry id = some e → id.sub = 0 → recTarget e.rec_ = AC_DCR_TARGET c → [1, 2, 3].contains (recAct e.rec_) = true →
    cueCommand at_ id (recAct e.rec_) = some cmd → writeOf e.rec_ = some (v, m) → m &&& 0xFFF ≠ 0 →
    u.ownerOf kQuad (c.val / 4) = .svc (recSvc e.rec_) → u.mayEffect e = true →
    ∃ t, exec cmd s = .next t ∧ t.entry id = none ∧
      t.rd (AC_DCR_TARGET c) = (s.rd (AC_DCR_TARGET c) &&& ~~~(0xFFF &&& m)) ||| (v &&& (0xFFF &&& m)) ∧
      keepsRegs s t [AC_DCR_TARGET c] ∧ keepsMemory s t) ∧
  (∀ (at_ : TT) (id : CueId) (e : Entry) (l : LoopId) (s : State), let u := s.atTime at_
    u.entry id = some e → id.sub = 0 → recTarget e.rec_ = loopCtl l → u.mayEffect e = true → (u.act e).1 = .ok →
    (recAct e.rec_ = 0xB → ∃ t, exec (.freeze at_ id) s = .next t ∧ t.entry id = none ∧ t.loopMode l = 2 ∧
      (u.undoNow l = none → keepsRegs s t [loopCtl l]) ∧
      (∀ x, u.undoNow l = some x → t.g (loopField l) = x.setting % ((loopField l).max + 1) ∧ t.rd (loopStat l) = x.stat ∧
        t.rd (loopCnt l) = x.cnt ∧ keepsRegs s t [loopCtl l, loopSet l, loopStat l, loopCnt l]) ∧ keepsMemory s t) ∧
    (recAct e.rec_ = 0xC → ∃ t, exec (.release at_ id) s = .next t ∧ t.entry id = none ∧
      t.loopMode l = e.rec_.a.toNat ∧ keepsRegs s t [loopCtl l] ∧ keepsMemory s t))

/-- GAIN_STEP sets the named PGA's gain at once for a length of 0, and else begins a ramp to it (R91, R221); DIRECTION
of an enabled cell begins its change (R228). Readings of the model: DEDUCED, notes/assumptions/18, DEDUCED,
notes/assumptions/39. -/
def Obligations.CuesSetGainsAndDirections : Prop :=
  (∀ (at_ : TT) (id : CueId) (e : Entry) (c : Fin 48) (s : State), let u := s.atTime at_
    let f := if e.rec_.a.getLsbD 16 then AC_GAIN_gain_b c else AC_GAIN_gain_a c
    let len := e.rec_.b.toNat % 65536
    u.entry id = some e → id.sub = 0 → recAct e.rec_ = 6 → recTarget e.rec_ = AC_GAIN c → e.rec_.a.toNat % 1024 ≤ 720 →
    u.ownerOf kQuad (c.val / 4) = .svc (recSvc e.rec_) → u.mayEffect e = true →
    ∃ t, exec (.gainStep at_ id) s = .next t ∧ t.entry id = none ∧
      (len = 0 → t.g f = e.rec_.a.toNat % 1024) ∧
      (len ≠ 0 → (if e.rec_.a.getLsbD 16 then (t.cellSt c).rampB else (t.cellSt c).rampA) =
        some ⟨u.g f, e.rec_.a.toNat % 1024, len, 0⟩) ∧
      keepsRegs s t [AC_GAIN c, AC_GAIN_CUE_CNT c] ∧ keepsMemory s t) ∧
  (∀ (at_ : TT) (id : CueId) (e : Entry) (c : Fin 48) (s : State), let u := s.atTime at_
    let d := e.rec_.a.toNat % 2
    u.entry id = some e → id.sub = 0 → recAct e.rec_ = 7 → recTarget e.rec_ = AC_CONV_CTL c →
    u.ownerOf kQuad (c.val / 4) = .svc (recSvc e.rec_) → u.mayEffect e = true → u.bit (AC_CTL_enable c) = true →
    u.g (AC_CONV_CTL_dir c) ≠ d →
    ∃ t, exec (.direction at_ id) s = .next t ∧ t.entry id = none ∧ t.g (AC_CONV_CTL_dir c) = d ∧
      t.bit (AC_STAT_changing c) = true ∧ (t.cellSt c).changing = some (u.now, d) ∧
      keepsRegs s t [AC_CONV_CTL c, AC_STAT c, AC_STICKY c, AC_OVR_LEN c, AC_DIR_UNBLANKED_CNT c] ∧ keepsMemory s t)

/-- PIN sets the masked levels of function 0 of a GPIO bank and leaves the others (R91, R426); ROUTE gives a line-port
output the source that its operand names (R91, R94). Readings of the model: DEDUCED, notes/assumptions/18, DEDUCED,
notes/assumptions/55. -/
def Obligations.PinAndRouteCuesTakeEffect : Prop :=
  (∀ (at_ : TT) (id : CueId) (e : Entry) (b : Fin 4) (s : State), let u := s.atTime at_
    u.entry id = some e → id.sub = 0 → recAct e.rec_ = 8 → recTarget e.rec_ = GP_OUT b →
    (u.act e).1 = .ok → u.mayEffect e = true →
    ∃ t, exec (.pin at_ id) s = .next t ∧ t.entry id = none ∧
      (∀ i < 16, t.bitOf (GP_OUT b) i = if e.rec_.b.getLsbD i then e.rec_.a.getLsbD i else s.bitOf (GP_OUT b) i) ∧
      keepsRegs s t [GP_OUT b, GPIO_PIN_CUE_CNT, GPIO_LAST_PIN, GPIO_LAST_PIN_TT_LO, GPIO_LAST_PIN_TT_LO + 4, GPIO_STAT] ∧
      keepsMemory s t) ∧
  (∀ (at_ : TT) (id : CueId) (e : Entry) (p : Fin 32) (s : State), let u := s.atTime at_
    u.entry id = some e → id.sub = 0 → recAct e.rec_ = 5 → recTarget e.rec_ = LP_TX_SRC p → (u.act e).1 = .ok →
    u.mayEffect e = true →
    ∃ t, exec (.route at_ id) s = .next t ∧ t.entry id = none ∧
      t.g (LP_TX_SRC_kind p) = (LP_TX_SRC_kind p).of e.rec_.a ∧ t.g (LP_TX_SRC_index p) = (LP_TX_SRC_index p).of e.rec_.a ∧
      keepsRegs s t [LP_TX_SRC p] ∧ keepsMemory s t)

/-- STREAM_ARM names the base of the next unit start; BARRIER sets a barrier's count, or adds to it and holds it at 65,535
(R91, R322, R327). -/
def Obligations.CuesArmStreamsAndBarriers : Prop :=
  (∀ (at_ : TT) (id : CueId) (e : Entry) (d : Fin 1024) (s : State), let u := s.atTime at_
    u.entry id = some e → id.sub = 0 → recAct e.rec_ = 9 → recTarget e.rec_ = DS_CTL d → (u.act e).1 = .ok →
    u.mayEffect e = true →
    ∃ t, exec (.streamArm at_ id) s = .next t ∧ t.entry id = none ∧ (t.stream d).arm = some (e.rec_.a.toNat % 4) ∧
      keepsRegs s t [] ∧ keepsMemory s t) ∧
  (∀ (at_ : TT) (id : CueId) (e : Entry) (b : Fin 256) (s : State), let u := s.atTime at_
    u.entry id = some e → id.sub = 0 → recAct e.rec_ = 0xA → recTarget e.rec_ = BA_CTL b → (u.act e).1 = .ok →
    u.mayEffect e = true →
    ∃ t, exec (.barrier at_ id) s = .next t ∧ t.entry id = none ∧
      t.g (BA_COUNT_count b) = (if e.rec_.a.getLsbD 16 then min (u.g (BA_COUNT_count b) + e.rec_.a.toNat % 65536) 65535
        else e.rec_.a.toNat % 65536) ∧
      keepsRegs s t [BA_COUNT b, BA_STAT b, FM_BARRIER_SAT_CNT, FM_STICKY] ∧ keepsMemory s t)

/-- A CANCEL that finds no matching cue has no effect: it is counted in CUE_CANCEL_MISS_CNT and logged at severity INFO
(R110); one that names a cue of its own service removes it and is counted (R108, R109); one that names a cue of another
service is rejected with reason FENCE (R108). In each case it leaves the queue itself. -/
def Obligations.CancelRemovesOrMisses : Prop :=
  ∀ (at_ : TT) (id : CueId) (e : Entry) (s : State), let u := s.atTime at_
    let named : CueId := ⟨BitVec.ofNat 12 (e.rec_.b.toNat % 4096), e.rec_.a, 0⟩
    u.entry id = some e → id.sub = 0 → recAct e.rec_ = 0xE → u.mayEffect e = true →
    (u.entry named = none →
      ∃ t, exec (.cancel at_ id) s = .next t ∧ t.entry id = none ∧
        t.g (cnt16 CUE_CANCEL_MISS_CNT) = min (s.g (cnt16 CUE_CANCEL_MISS_CNT) + 1) 65535 ∧
        (u.g EL_CTL_min_sev = 0 → u.log.stage.length < 1024 →
          ∃ r ∈ t.log.stage, r.code = 0x12 ∧ r.severity = 0 ∧ r.detail = e.rec_.a) ∧
        keepsRegs s t [CUE_CANCEL_MISS_CNT] ∧ keepsMemory s t) ∧
    (∀ x, u.entry named = some x → recSvc x.rec_ = recSvc e.rec_ →
      ∃ t, exec (.cancel at_ id) s = .next t ∧ t.entry id = none ∧
        t.g (cnt16 CUE_CANCEL_CNT) = min (s.g (cnt16 CUE_CANCEL_CNT) + 1) 65535 ∧
        (u.scriptsQuiet → t.entry named = none ∧ keepsRegs s t [CUE_CANCEL_CNT, CUE_CHAIN_DROP_CNT]) ∧ keepsMemory s t) ∧
    (∀ x, u.entry named = some x → recSvc x.rec_ ≠ recSvc e.rec_ →
      ∃ t, exec (.cancel at_ id) s = .next t ∧ t.entry id = none ∧
        t.g (cnt16 CUE_REJECT_CNT) = min (s.g (cnt16 CUE_REJECT_CNT) + 1) 65535 ∧
        t.rd CUE_LAST_REJECT = e.rec_.seq ∧ t.g CUE_LAST_REJECT_WHY_reason = 3 ∧
        keepsRegs s t [CUE_REJECT_CNT, CUE_LAST_REJECT, CUE_LAST_REJECT_WHY, CUE_CHAIN_DROP_CNT] ∧ keepsMemory s t)

/-- The internal cues of a scene that may take effect do so; with the last of them the SCENE cue is done and leaves
the queue (R93). Shown for a scene of one internal cue whose effect lies outside the cue engine. Readings of the
model: DEDUCED, notes/assumptions/20. -/
def Obligations.ScenesTakeEffect : Prop :=
  ∀ (at_ : TT) (id : CueId) (x p : Entry) (s : State), let u := s.atTime at_
    u.cue.entries = [p, x] → p.id = id → id.sub = 0 → x.id = { id with sub := 1 } → u.mayEffect x = true →
    (u.act x).1 = .ok → (u.act x).2.cue = u.cue →
    ∃ t, exec (.scene at_ id) s = .next t ∧ t.cue.entries = [] ∧
      (∀ a, endsOn a = false → t.rd a = (u.act x).2.rd a) ∧ t.fm = (u.act x).2.fm

/-- A refused script instance is tried again at its time (R125, R126): where the records of the instance are accepted
the entry goes on to its next instance; after its last instance an entry disables itself. A disabled entry's pending
instance is removed; an enable bit may be written in any state, and where intake is closed it is kept for WIND alone. Readings of the model:
DEDUCED, notes/assumptions/22. -/
def Obligations.ScriptEntries : Prop :=
  (∀ (at_ : TT) (e : Fin 1024) (x : ScriptSt) (due : Nat) (s : State), let u := s.atTime at_
    u.script e = some x → x.retryAt = some due → due ≤ u.elapsed → u.intakeOpen = true → u.scriptOn e = true →
    x.count ≠ 0 → x.count ≤ x.inserted →
    ∃ t, exec (.scriptInstanceRetry at_ e) s = .next t ∧ t.scriptOn e = false ∧
      keepsRegs s t [CUE_SCRIPT_EN (e.val / 32)] ∧ keepsMemory s t) ∧
  (∀ (at_ : TT) (e : Fin 1024) (x : ScriptSt) (due : Nat) (s : State), let u := s.atTime at_
    u.script e = some x → x.retryAt = some due → due ≤ u.elapsed → u.intakeOpen = true → u.scriptOn e = true →
    x.count = 0 → recOnEvent x.template = true → recChain x.template = false →
    u.refusal .script [x.template] false = none →
    ∃ t, exec (.scriptInstanceRetry at_ e) s = .next t ∧
      t.script e = some { x with next := x.next + 1, inserted := x.inserted + 1, retryAt := none } ∧
      t.rd CUE_SEQ = u.rd CUE_SEQ + 1 ∧ keepsMemory s t) ∧
  (∀ (at_ : TT) (e : Fin 1024) (s : State), let u := s.atTime at_; let a := CUE_SCRIPT_EN (e.val / 32)
    u.reachable a → u.scriptOn e = true →
    ∃ t, exec (.scriptEntryDisable at_ e) s = .next t ∧ t.scriptOn e = false ∧
      (∀ y ∈ t.cue.entries, y.script ≠ some e.val) ∧ t.obs.answer = [0, 0] ∧ keepsRegs s t [a] ∧ keepsMemory s t) ∧
  (∀ (at_ : TT) (e : Fin 1024) (s : State), let u := s.atTime at_; let a := CUE_SCRIPT_EN (e.val / 32)
    u.reachable a → u.scriptOn e = false →
    ∃ t, exec (.scriptEntryEnable at_ e) s = .next t ∧ t.scriptOn e = true ∧ t.obs.answer = [0, 0] ∧
      (u.intakeOpen = false → t.cue = u.cue ∧ keepsRegs s t [a]) ∧ keepsMemory s t)

/-! ### Device states and the battery domain -/

/-- The command by which a device state is requested, by its code (R134). -/
def requestCommand (at_ : TT) (code : Nat) : Option Instr :=
  match code with
  | 1 => some (.reqStandby at_) | 2 => some (.reqRun at_) | 3 => some (.reqReload at_)
  | 4 => some (.reqInspect at_) | 5 => some (.reqReset at_) | _ => none

/-- The states in which a request has a transition (R132, R134). -/
def requestServed (d : DevState) (sealed : Bool) (code : Nat) : Bool :=
  match code with
  | 1 => d.running
  | 2 => d == .standby
  | 3 => d.running || d == .inert || d == .standby || d == .inspect
  | 4 => d.running && !sealed
  | _ => true

/-- A STANDBY, RELOAD or INSPECT request in a running state enters DRAIN: pending mailbox slots read DRAINED, armed
cues are removed, and SYS_REQ_STAT shows the request accepted (R134, R146). A request without a transition in the
present state is refused and counted (R134). Readings of the model: DEDUCED, notes/assumptions/31. -/
def Obligations.RequestsEnterDrainOrAreRefused : Prop :=
  ∀ (at_ : TT) (code : Nat) (cmd : Instr) (s : State), let u := s.atTime at_
    requestCommand at_ code = some cmd → u.reachable SYS_STATE_REQ →
    (requestServed u.dev u.sealed code = true → u.dev.running = true → code ≠ 5 →
      (∀ k ∈ u.cue.slotsTaken ++ u.cue.mailbox.flatten, k < 8) →
      ∃ t d, exec cmd s = .next t ∧ t.dev = .drain ∧ t.pwr.drain = some d ∧ d.req = code ∧ d.from_ = u.now ∧
        d.cut = false ∧ t.g SYS_REQ_STAT_req = code ∧ t.g SYS_REQ_STAT_outcome = 1 ∧ t.bit SYS_DRAIN_STAT_busy = true ∧
        t.g SYS_DRAIN_STAT_target = code ∧ t.cue.mailbox = [] ∧
        (∀ k ∈ u.cue.slotsTaken ++ u.cue.mailbox.flatten, t.g (mbxStat k) = 7) ∧
        (∀ e ∈ t.cue.entries, e ∈ u.cue.entries ∧ e.stage ≠ .armed) ∧ t.obs.answer = [0, 0] ∧
        keepsRegs s t ([SYS_REQ_STAT, SYS_DRAIN_STAT, SYS_DRAIN_DROP_CNT, CUE_MBX_STAT] ++ (List.range 32).map LP_KEEP_EQ ++
          (List.range 32).map CUE_SCRIPT_EN) ∧
        keepsMemory s t) ∧
    (requestServed u.dev u.sealed code = false →
      ∃ t, exec cmd s = .next t ∧ t.g SYS_REQ_STAT_req = code ∧ t.g SYS_REQ_STAT_outcome = 2 ∧
        t.g (cnt16 SYS_REQ_REFUSE_CNT) = min (s.g (cnt16 SYS_REQ_REFUSE_CNT) + 1) 65535 ∧
        t.obs.answer = [if code = 4 ∧ u.sealed = true then 7 else 5, 0] ∧ t.pwr.drain = u.pwr.drain ∧
        keepsRegs s t [SYS_REQ_STAT, SYS_REQ_REFUSE_CNT, CFG_CHAN_REFUSE_CNT] ∧ keepsMemory s t)

/-- What an entry to RESET leaves: the words of code K but the last state's, every other register at its reset value,
and the fuses (R19, R132). -/
def resetFrom (s t : State) (cause : Nat) : Prop :=
  t.dev = .reset ∧ t.g KEEP_LAST_STATE_cause = cause ∧ t.g KEEP_LAST_STATE_state = s.dev.code ∧
    (∀ a, endsOn a = false → a ≠ KEEP_LAST_STATE → t.rd a = if keepAddr a then s.rd a else resetOf a) ∧
    t.cfg.fuses = s.cfg.fuses

/-- What a wake from STANDBY leaves: frame memory winds up, KCLK locks and the pads are released within 12 µs, and until then
the latches stand (R138, R147, wake sequence). -/
def woken (u t : State) : Prop :=
  t.isAwake rFm = true ∧ t.pwr.latch = u.pwr.latch ∧ t.pwr.windAt = u.elapsed ∧ t.pwr.kclkAt = t.pwr.releaseAt ∧
    u.elapsed ≤ t.pwr.releaseAt ∧ t.pwr.releaseAt ≤ u.elapsed + 12000

/-- A RUN request or a TT alarm in STANDBY leads to WIND with its cause in SYS_WAKE_CAUSE; frame memory wakes, and the
pads stay latched until the control domain has wound up, within 12 µs (R134, R138, R147, R149); a RESET request, a
RELOAD request outside the running states, and RESET_N lead to RESET (R132, R134). Readings of the model: DEDUCED,
notes/assumptions/34, DESIGN CHOICE, notes/assumptions/68. -/
def Obligations.WakesAndResets : Prop :=
  (∀ (at_ : TT) (s : State), let u := s.atTime at_
    u.dev = .standby →
    (u.reachable SYS_STATE_REQ → ∃ t, exec (.reqRun at_) s = .next t ∧ t.dev = .wind ∧ t.rd SYS_WAKE_CAUSE = 1 ∧
      woken u t ∧ t.g SYS_REQ_STAT_outcome = 1 ∧ t.obs.answer = [0, 0] ∧ keepsMemory s t) ∧
    (u.bit SYS_WAKE_SRC_tt_alarm = true → (u.rd64 SYS_WAKE_AT_LO).toNat ≤ u.now →
      ∃ t, exec (.ttAlarm at_) s = .next t ∧ t.dev = .wind ∧ t.rd SYS_WAKE_CAUSE = 2 ∧ woken u t ∧ keepsMemory s t)) ∧
  (∀ (at_ : TT) (s : State), let u := s.atTime at_
    (u.reachable SYS_STATE_REQ → ∃ t, exec (.reqReset at_) s = .next t ∧ resetFrom u t 3 ∧
      t.pwr.causes.getLsbD 2 = true ∧ t.obs.answer = [0, 0]) ∧
    (u.reachable SYS_STATE_REQ → (u.dev = .inert ∨ u.dev = .standby ∨ u.dev = .inspect) →
      ∃ t, exec (.reqReload at_) s = .next t ∧ resetFrom u t 3 ∧ t.pwr.causes.getLsbD 3 = true ∧ t.obs.answer = [0, 0]) ∧
    (u.dev.powered = true → ∃ t, exec (.resetNAssert at_) s = .next t ∧ resetFrom u t 2 ∧
      t.pwr.causes.getLsbD 1 = true ∧ t.pwr.resetN = false))

/-- With the main supply lost the device is in KEEP with the words of the battery domain; off, it keeps its fuses
alone; with the rails up it is in RESET with its straps sampled; and from RESET it goes to LOAD (R132, R133, R460).
Readings of the model: DESIGN CHOICE, notes/assumptions/4, DEDUCED, notes/assumptions/34. -/
def Obligations.SuppliesComeAndGo : Prop :=
  (∀ (at_ : TT) (s : State), let u := s.atTime at_
    u.dev.powered = true →
    ∃ t, exec (.mainSupplyLost at_) s = .next t ∧ t.dev = .keep ∧ t.g KEEP_LAST_STATE_cause = 1 ∧
      t.g KEEP_LAST_STATE_state = u.dev.code ∧ t.g (cnt16 KEEP_ENTRY_CNT) = min (s.g (cnt16 KEEP_ENTRY_CNT) + 1) 65535 ∧
      (∀ a, endsOn a = false → a ∉ [KEEP_LAST_STATE, KEEP_ENTRY_CNT, BAT_STAT] →
        t.rd a = if keepAddr a then s.rd a else resetOf a) ∧ t.cfg.fuses = u.cfg.fuses) ∧
  (∀ (at_ : TT) (s : State), let u := s.atTime at_
    ∃ t, exec (.powerOff at_) s = .next t ∧ t.dev = .off ∧ (∀ a, t.rd a = resetOf a) ∧ t.cfg.fuses = u.cfg.fuses) ∧
  (∀ (at_ : TT) (mode a1 a0 : Bool) (s : State), let u := s.atTime at_
    u.dev.powered = false →
    ∃ t, exec (.mainRailsUp at_ mode a1 a0) s = .next t ∧ t.dev = .reset ∧ t.obs.i2c = mode ∧
      t.obs.addrLow.getLsbD 1 = a1 ∧ t.obs.addrLow.getLsbD 0 = a0 ∧
      (u.pwr.softErrs = [] → ∀ a, endsOn a = false → t.rd a = if keepAddr a then s.rd a else resetOf a) ∧
      t.cfg.fuses = u.cfg.fuses) ∧
  (∀ (at_ : TT) (s : State), let u := s.atTime at_
    u.dev = .reset →
    ∃ t, exec (.resetRelease at_) s = .next t ∧ t.dev = .load ∧ t.rd SYS_RESET_CAUSE = u.pwr.causes.zeroExtend 32 ∧
      t.bit CFG_STAT_loading = true ∧ t.g CFG_STAT_slot = 3 ∧ t.rd CFG_AO_SEC_AT_LOAD = u.keepRd 4 ∧
      t.pwr.resetN = true ∧ keepsRegs s t [SYS_RESET_CAUSE, CFG_STAT, CFG_AO_SEC_AT_LOAD] ∧ keepsMemory s t)

/-- WIND ends in a running state once KCLK has locked, frame memory is initialised or out of self-refresh, the fabric runs
where there is one, and TT is valid or SYS_WIND_CTL.free_s has run out (R136, R137); at T_end the cues with later launch
times are removed, and when every output has completed the drain ends in its target; a wake latched on the way to STANDBY
is taken at once (R146, R147, R149). Readings of the model: DEDUCED, notes/assumptions/31. -/
def Obligations.WindAndDrainEnd : Prop :=
  (∀ (at_ : TT) (s : State), let u := s.atTime at_
    u.dev = .wind → u.kclkLocked = true →
    ((u.pwr.fmReady = true ∧ u.fmWinds = false) ∨ u.pwr.windAt + 5368710 ≤ u.elapsed) →
    (u.cfg.hasFabric = true → u.fpllLocked = true) →
    (u.bit TB_STAT_tt_valid = true ∨
      (u.g SYS_WIND_CTL_free_s ≠ 0 ∧ u.pwr.windAt + u.g SYS_WIND_CTL_free_s * secNs ≤ u.elapsed)) →
    ∃ t, exec (.windExit at_) s = .next t ∧ t.dev.running = true ∧ t.dev = u.runState ∧ keepsRegs s t [] ∧
      keepsMemory s t) ∧
  (∀ (at_ : TT) (d : DrainSt) (last : Nat) (s : State), let u := s.atTime at_
    u.dev = .drain → u.pwr.drain = some d → d.cut = false → u.drainEnd = some last → last ≤ u.now →
    ∃ t, exec (.drainTEnd at_) s = .next t ∧ t.dev = .drain ∧ (∃ x, t.pwr.drain = some x ∧ x.cut = true) ∧
      (∀ e ∈ t.cue.entries, e ∈ u.cue.entries ∧
        (e.id.sub = 0 → e.stage = .queued ∨ e.stage = .handed → e.rec_.launch.toNat < last))) ∧
  (∀ (at_ : TT) (d : DrainSt) (s : State), let u := s.atTime at_
    u.dev = .drain → u.pwr.drain = some d → d.cut = true → u.drainDone = true →
    ∃ t, exec (.drainComplete at_) s = .next t ∧ t.pwr.drain = none ∧
      (d.req = 1 → u.pwr.wakeLatched = none → keepsMemory s t ∧
        t.dev = .standby ∧ t.g (cnt16 SYS_STANDBY_CNT) = min (s.g (cnt16 SYS_STANDBY_CNT) + 1) 65535) ∧
      (∀ c, d.req = 1 → u.pwr.wakeLatched = some c → t.dev = .wind ∧ t.rd SYS_WAKE_CAUSE = c ∧ keepsMemory s t) ∧
      (d.req = 4 → t.dev = .inspect ∧ keepsMemory s t) ∧
      (d.req = 3 → t.dev = .reset))

/-- The 1 ms update of the sleep-delay loops lengthens a delay by 4 ms after a short nap (R144); while the loops are
FROZEN it puts the resources to sleep that have been idle for their delays (R143); a keep-awake bit wakes its resource
(R145); and a resource that falls asleep is off within 2 µs (R156). Readings of the model: DESIGN CHOICE,
notes/assumptions/30. -/
def Obligations.ResourcesSleepAndStayAwake : Prop :=
  (∀ (at_ : TT) (s : State), let u := s.atTime at_
    u.dev.active = true → u.now / msNs ≠ u.pwr.lastUpdate / msNs →
    ∃ t, exec (.autoSleepUpdate at_) s = .next t ∧ t.pwr.lastUpdate = u.now ∧ t.pwr.updates = u.pwr.updates + 1 ∧
      (∀ k < 6, u.g (SYS_SLEEP_CTL_mode k) = 0 → u.loopBlocked (SYS_SLEEP_STAT k) = false →
        u.pwr.naps.any (fun x => x.1 == k && decide (x.2 < u.elapsed)) = true → 1 ≤ u.sleepDelay k →
        t.g (SYS_SLEEP_DLY_d k) = min (u.sleepDelay k + 4) 1023) ∧
      ((∀ k < 6, u.g (SYS_SLEEP_CTL_mode k) = 2) → ∀ r < 127, u.fallsAsleep r = true →
        (t.res r).power = .switching u.elapsed) ∧ keepsMemory s t) ∧
  (∀ (at_ : TT) (k : Fin 4) (v : W32) (s : State), let u := s.atTime at_
    u.dev.active = true → u.reachable (SYS_KA k) →
    (k.val = 3 → (v ^^^ s.rd (SYS_KA k)) &&& 0xFFFFFFE0 = 0) →
    ∃ t, exec (.keepAwakeWrite at_ k v) s = .next t ∧ t.rd (SYS_KA k) = v ∧
      (∀ i < 32, 32 * k.val + i < 127 → v.getLsbD i = true → s.bitOf (SYS_KA k) i = false →
        t.isUp (32 * k.val + i) = true) ∧
      t.obs.answer = [0, 0] ∧ keepsRegs s t [SYS_KA k, SYS_NAP_CNT] ∧ keepsMemory s t) ∧
  (∀ (at_ : TT) (r : Fin 127) (from_ : Nat) (s : State), let u := s.atTime at_
    (u.res r).power = .switching from_ → u.elapsed ≤ from_ + 2000 →
    ∃ t, exec (.domainSwitchedOff at_ r) s = .next t ∧ (t.res r).power = .asleep ∧ keepsRegs s t [] ∧ keepsMemory s t)

/-- The battery domain: a switch of its supply is counted (R150), violation counts are cleared by BAT_VIOL_CLR (R154),
lock bits are only set (R153), and with each second of AOCLK the KEEP words are scrubbed, one with an uncorrectable error
taking its reset value, and the second is counted while that is enabled (R152, R157). Readings of the model: DESIGN
CHOICE, notes/assumptions/2, DEDUCED, notes/assumptions/60. -/
def Obligations.BatteryDomainWorks : Prop :=
  (∀ (at_ : TT) (toVbat : Bool) (s : State), let u := s.atTime at_
    u.dev ≠ .off → u.pwr.onVbat = !toVbat →
    ∃ t, exec (.batterySwitch at_ toVbat) s = .next t ∧ t.pwr.onVbat = toVbat ∧
      t.g (cnt16 BAT_SWITCH_CNT) =
        (if toVbat then min (s.g (cnt16 BAT_SWITCH_CNT) + 1) 65535 else s.g (cnt16 BAT_SWITCH_CNT)) ∧
      keepsRegs s t [BAT_SWITCH_CNT] ∧ keepsMemory s t) ∧
  (∀ (at_ : TT) (v : W32) (s : State), let u := s.atTime at_
    u.reachable BAT_VIOL_CLR →
    ∃ t, exec (.batViolClrWrite at_ v) s = .next t ∧ t.obs.answer = [0, 0] ∧
      (∀ i < 16, t.rd (KEEP_VIOL i) = if v.getLsbD i then 0 else s.rd (KEEP_VIOL i)) ∧
      keepsRegs s t ((List.range 16).map KEEP_VIOL) ∧ keepsMemory s t) ∧
  (∀ (at_ : TT) (v : W32) (s : State), let u := s.atTime at_
    u.reachable BAT_USER_LOCK →
    ∃ t, exec (.batUserLockWrite at_ v) s = .next t ∧ t.obs.answer = [0, 0] ∧
      t.rd BAT_USER_LOCK = s.rd BAT_USER_LOCK ||| (v &&& 0xFF) ∧ keepsRegs s t [BAT_USER_LOCK] ∧ keepsMemory s t) ∧
  (∀ (at_ : TT) (s : State), let u := s.atTime at_
    u.dev ≠ .off →
    ∃ t, exec (.aoclkSecond at_) s = .next t ∧ t.pwr.softErrs = [] ∧
      (∀ n < 32, n ≠ 4 → n ≠ 5 → u.pwr.softErrs.lookup n = some true →
        t.rd (keepWordAt n) = resetOf (keepWordAt n) ∧ t.bit BAT_STAT_keep_err = true) ∧
      (u.pwr.softErrs = [] →
        (u.bit BAT_CTL_sec_en = true → (t.rd64 KEEP_AO_SEC_LO).toNat = ((s.rd64 KEEP_AO_SEC_LO).toNat + 1) % 2 ^ 48) ∧
        (u.bit BAT_CTL_sec_en = false → t.rd64 KEEP_AO_SEC_LO = s.rd64 KEEP_AO_SEC_LO) ∧
        keepsRegs s t [KEEP_AO_SEC_LO, KEEP_AO_SEC_HI, BAT_STAT, BAT_VBAT_MV, BAT_VDDAO_MV, VM_AOCLK_PPM, VM_REFCLK_PPM]) ∧
      keepsMemory s t)

/-! ### Configuration -/

/-- Flash that does not answer, or a directory with golden alone, is reported (R160, R164); a slot whose header cannot be
taken is refused and the next one is tried, INERT being entered after the last; one that passes every check is
accepted with what its sections bring, and CFG shows its header (R165–R167); and start-up calibration ends LOAD (R179,
R180). Readings of the model: DEDUCED, notes/assumptions/15, PRESUMED, notes/assumptions/67. -/
def Obligations.ImagesAreTried : Prop :=
  (∀ (at_ : TT) (f : FlashFound) (s : State), let u := s.atTime at_
    u.dev = .load → u.cfg.found = false → u.cfg.slots = [] →
    (f.sfdp = false ∨ (dirValid f.dir0 = false ∧ dirValid f.dir1 = false) →
      ∃ t, exec (.flashDiscovery at_ f) s = .next t ∧ t.dev = .inert ∧ t.cfg.found = true ∧
        (∀ k < 3, t.g (CFG_RESULT_cause k) = if f.sfdp then 0x03 else 0x0E) ∧ t.g KEEP_IMG_SLOT_slot = 3 ∧
        t.bit CFG_STAT_loading = false ∧ keepsMemory s t) ∧
    (f.sfdp = true → dirValid f.dir0 = true → num f.dir0 8 4 = 0 → num f.dir0 12 4 = 0 → num f.dir0 16 4 ≠ 0 →
      num f.dir0 16 4 % 65536 = 0 →
      ∃ t, exec (.flashDiscovery at_ f) s = .next t ∧ t.dev = .load ∧ t.cfg.found = true ∧ t.cfg.slots = [2] ∧
        t.cfg.slotSize = num f.dir0 20 4 ∧ t.g (CFG_RESULT_cause 0) = 0x02 ∧ t.g (CFG_RESULT_cause 1) = 0x02 ∧
        keepsMemory s t)) ∧
  (∀ (at_ : TT) (r : SlotRead) (slot : Nat) (rest : List Nat) (s : State), let u := s.atTime at_
    u.dev = .load → u.cfg.slots = slot :: rest → u.cfg.accepted = none → slot < 3 →
    headerCause r.bytes u.cfg.slotSize ≠ 1 →
    ∃ t, exec (.slotCheckComplete at_ r) s = .next t ∧ t.cfg.slots = rest ∧ t.cfg.accepted = none ∧
      t.g (CFG_RESULT_cause slot) = headerCause r.bytes u.cfg.slotSize ∧ t.g (CFG_RESULT_detail slot) = 0 ∧
      t.g (cnt16 CFG_REFUSE_CNT) = min (s.g (cnt16 CFG_REFUSE_CNT) + 1) 65535 ∧
      t.dev = (if rest = [] then .inert else .load) ∧ keepsMemory s t) ∧
  (∀ (at_ : TT) (r : SlotRead) (slot : Nat) (rest : List Nat) (w : State) (s : State), let u := s.atTime at_
    let m := readMode u.cfg.modes r.bytes; let b := r.bytes
    u.dev = .load → u.cfg.slots = slot :: rest → u.cfg.accepted = none → slot < 3 →
    u.cfg.fuses.admits u.cfg.slotSize b = 1 →
    ((u.p CFG_FLASH_STAT_mhz m.2).p CFG_FLASH_STAT_mode m.1).checkSlot r = .ok w →
    ∃ t, exec (.slotCheckComplete at_ r) s = .next t ∧ t.cfg.accepted = some slot ∧ t.cfg.slots = [] ∧
      t.cfg.startStandby = (num b 15 1 == 1) ∧ t.cfg.secVersion = num b 17 1 ∧ t.g (CFG_RESULT_cause slot) = 1 ∧
      t.g CFG_STAT_slot = slot ∧ t.g KEEP_IMG_SLOT_slot = slot ∧ t.rd CFG_BUILD = BitVec.ofNat 32 (num b 20 4) ∧
      t.g (cnt16 CFG_LOAD_CNT) = min (w.g (cnt16 CFG_LOAD_CNT) + 1) 65535 ∧ t.claims = w.claims ∧ t.se = w.se ∧ t.fab = w.fab ∧
      keepsRegs w t [CFG_STAT, KEEP_IMG_SLOT, CFG_BUILD, CFG_IMG_LEN, CFG_SECT_STAT, CFG_LOAD_CNT, CFG_GOLDEN_CNT,
        CFG_RESULT slot] ∧ keepsMemory w t) ∧
  (∀ (at_ : TT) (quads : BitVec 12) (ports : W32) (slot : Nat) (s : State), let u := s.atTime at_
    u.dev = .load → u.cfg.accepted = some slot →
    ∃ t, exec (.startCalibrationDone at_ quads ports) s = .next t ∧
      t.dev = (if u.cfg.startStandby then .standby else .wind) ∧ t.g CFG_CAL_STAT_quads = quads.toNat ∧
      t.rd CFG_LINE_TRIM_STAT = ports ∧ t.bit CFG_STAT_loading = false ∧ t.cfg.accepted = none ∧ keepsMemory s t)

/-- The command by which a fuse command is given (R176). -/
def fuseInstr (at_ : TT) (cmd : Nat) : Option Instr :=
  match cmd with
  | 1 => some (.fuseProgramKeyHash at_) | 2 => some (.fuseProgramAesKey at_) | 3 => some (.fuseRequireSeal at_)
  | 4 => some (.fuseRequireEncrypt at_) | 5 => some (.fusePrivateJtagOff at_) | 6 => some (.fuseLock at_)
  | _ => none

/-- The fuses after a fuse command has programmed its field (R176). -/
def fusesAfter (s : State) (cmd : Nat) : FuseSt :=
  let f := s.cfg.fuses
  match cmd with
  | 1 => { f with keyHash := some (s.fuseBytes 12) }
  | 2 => { f with aesKey := some (s.fuseBytes 8) }
  | 3 => { f with requireSeal := true }
  | 4 => { f with requireEncrypt := true }
  | 5 => { f with privateJtagOff := true }
  | _ => { f with fuseLock := true }

/-- In INERT, with fuse_lock at 0, a fuse command programs its field if it has not been programmed, and else is refused;
the data registers clear either way (R176). Readings of the model: PRESUMED, notes/assumptions/67. -/
def Obligations.FusesAreProgrammedOnce : Prop :=
  ∀ (at_ : TT) (cmd : Nat) (i : Instr) (s : State), let u := s.atTime at_; let f := u.cfg.fuses
    let free := match cmd with
      | 1 => f.keyHash.isNone | 2 => f.aesKey.isNone | 3 => !f.requireSeal | 4 => !f.requireEncrypt
      | 5 => !f.privateJtagOff | _ => true
    fuseInstr at_ cmd = some i → u.reachable CFG_FUSE_CMD →
    (u.dev = .inert → f.fuseLock = false → free = true →
      ∃ t, exec i s = .next t ∧ t.cfg.fuses = fusesAfter u cmd ∧ t.g CFG_FUSE_RESULT_last = 1 ∧ t.cfg.fuseData = [] ∧
        (cmd = 2 → CFG_FUSE_RESULT_kcv.of (t.valueOf CFG_FUSE_RESULT) = keyCheckValue (u.fuseBytes 8) % 65536) ∧ t.obs.answer = [0, 0] ∧
        keepsRegs s t [CFG_FUSE_RESULT] ∧ keepsMemory s t) ∧
    (u.dev ≠ .inert ∨ f.fuseLock = true ∨ free = false →
      ∃ t, exec i s = .next t ∧ t.cfg.fuses = f ∧ t.g CFG_FUSE_RESULT_last = 2 ∧ t.cfg.fuseData = [] ∧
        t.obs.answer = [5, 0] ∧ keepsRegs s t [CFG_FUSE_RESULT] ∧ keepsMemory s t)

/-- A rollback advance is accepted in a running state with an image that allows it and whose security version lies above
the count; each step counts one towards it (R178). The readback index is taken in INSPECT with the channel enabled
(R419). -/
def Obligations.RollbackAndReadback : Prop :=
  (∀ (at_ : TT) (v : W32) (s : State), let u := s.atTime at_
    u.reachable CFG_ROLLBACK_ADV →
    (v = 0xA5 → u.dev.running = true → u.cfg.allowAdvance = true → u.cfg.fuses.rollback < u.cfg.secVersion →
      ∃ t, exec (.rollbackAdvance at_ v) s = .next t ∧ t.cfg = { u.cfg with advanceTo := some u.cfg.secVersion } ∧
        t.obs.answer = [0, 0] ∧ keepsRegs s t [] ∧ keepsMemory s t) ∧
    (v ≠ 0xA5 ∨ u.dev.running = false ∨ u.cfg.allowAdvance = false ∨ u.cfg.secVersion ≤ u.cfg.fuses.rollback →
      ∃ t, exec (.rollbackAdvance at_ v) s = .next t ∧ t.cfg = u.cfg ∧ t.obs.answer = [5, 0] ∧ keepsRegs s t [] ∧
        keepsMemory s t)) ∧
  (∀ (at_ : TT) (n : Nat) (s : State), let u := s.atTime at_; let c := u.cfg.fuses.rollback + 1
    u.cfg.advanceTo = some n → c ≤ 64 →
    ∃ t, exec (.rollbackStep at_) s = .next t ∧ t.cfg.fuses = { u.cfg.fuses with rollback := c } ∧
      t.cfg.advanceTo = (if c < n then some n else none) ∧ keepsRegs s t [] ∧ keepsMemory s t) ∧
  (∀ (at_ : TT) (v : W32) (s : State), let u := s.atTime at_
    u.reachable CFG_RB_CTL →
    (u.dev = .inspect → u.bit CFG_CHAN_CTL_en = true → u.sealed = false → v.toNat % 1024 < 640 →
      ∃ t, exec (.readbackSelect at_ v) s = .next t ∧ t.g CFG_RB_CTL_index = v.toNat % 1024 ∧ t.obs.answer = [0, 0] ∧
        keepsRegs s t [CFG_RB_CTL] ∧ keepsMemory s t) ∧
    (u.sealed = true ∨ u.dev ≠ .inspect ∨ u.bit CFG_CHAN_CTL_en = false →
      ∃ t, exec (.readbackSelect at_ v) s = .next t ∧ t.obs.answer = [if u.sealed then 7 else 9, 0] ∧
        t.g (cnt16 CFG_CHAN_REFUSE_CNT) = min (s.g (cnt16 CFG_CHAN_REFUSE_CNT) + 1) 65535 ∧
        keepsRegs s t [CFG_CHAN_REFUSE_CNT] ∧ keepsMemory s t))

/-! ### Line ports -/

/-- A port's mode is written where nothing refuses it (R191–R193); its signal is lost and returns (R203); the
equalizer follows its update within the window and sweeps within it while the CDR is not locked (R196, R197); the
trials of AUTO follow each other (R201); and the warm-start word is written after 1 s of lock (R199). Readings of the
model: DEDUCED, notes/assumptions/24, DEDUCED, notes/assumptions/36. -/
def Obligations.LinePortsAcquire : Prop :=
  (∀ (at_ : TT) (p : Fin 32) (v : W32) (s : State), let u := s.atTime at_; let a := LP_MODE_CTL p
    u.reachable a → (u.writeReg .observer a v 0xFFFFFFFF).1 = .ok →
    ∃ t, exec (.lpModeWrite at_ p v) s = .next t ∧ t.obs.answer = [0, 0] ∧
      t.rd a = newWord false (regFields a) (s.rd a) v 0xFFFFFFFF ∧ keepsMemory s t) ∧
  (∀ (at_ : TT) (p : Fin 32) (s : State), let u := s.atTime at_
    u.lpDetects p = true →
    (u.bit (LP_STAT_signal p) = true → ∃ t, exec (.signalLoss at_ p) s = .next t ∧ t.bit (LP_STAT_signal p) = false ∧
      t.g (cnt16 (LP_LOS_CNT p)) = min (s.g (cnt16 (LP_LOS_CNT p)) + 1) 65535 ∧
      keepsRegs s t [LP_STAT p, LP_LOS_CNT p] ∧ keepsMemory s t) ∧
    (u.bit (LP_STAT_signal p) = false → ∃ t, exec (.signalReturn at_ p) s = .next t ∧ t.bit (LP_STAT_signal p) = true ∧
      (u.bit (LP_STAT_cdr_locked p) = false → (t.lpSt p).searchFrom = u.elapsed) ∧
      keepsRegs s t [LP_STAT p] ∧ keepsMemory s t)) ∧
  (∀ (at_ : TT) (p : Fin 32) (s : State), let u := s.atTime at_; let w := u.eqWindow p
    u.lpRunsRx p = true → u.bit (LP_STAT_signal p) = true → u.g (LP_EQ_CTL_mode p) ≠ 2 →
    (∀ computed : Int, u.bit (LP_STAT_cdr_locked p) = true → u.loopBlocked (LP_EQ_STAT p) = false →
      w.1 ≤ u.g (LP_EQ_SET_code p) → u.g (LP_EQ_SET_code p) ≤ w.2 →
      ∃ t, exec (.eqUpdate at_ p computed) s = .next t ∧
        (t.g (LP_EQ_SET_code p) : Int) = clampInt w.1 w.2 computed ∧
        keepsRegs s t [LP_EQ_SET p, LP_EQ_STAT p, LP_EQ_BOUND_CNT p] ∧ keepsMemory s t) ∧
    (∀ code : BitVec 10, u.bit (LP_STAT_cdr_locked p) = false →
      ((sweepStep w.1 w.2 (u.sweepFrom p) code.toNat).isSome = true →
        ∃ t, exec (.eqAcquireStep at_ p code) s = .next t ∧ t.g (LP_EQ_SET_code p) = code.toNat ∧
          (t.lpSt p).sweep = sweepStep w.1 w.2 (u.sweepFrom p) code.toNat ∧
          keepsRegs s t [LP_EQ_SET p] ∧ keepsMemory s t) ∧
      (sweepStep w.1 w.2 (u.sweepFrom p) code.toNat = none →
        ∃ t, exec (.eqAcquireStep at_ p code) s = .next t ∧ keepsRegs s t [] ∧ keepsMemory s t))) ∧
  (∀ (at_ : TT) (p : Fin 32) (s : State), let u := s.atTime at_; let x := u.lpSt p
    u.lpRunsRx p = true → u.bit (LP_STAT_cdr_locked p) = false → u.g (LP_RX_CTL_rate p) = 15 →
    u.bit (LP_STAT_signal p) = true → x.trialFrom + 210 * usNs ≤ u.elapsed →
    ∃ t, exec (.autoRateTrialEnd at_ p) s = .next t ∧ (t.lpSt p).trialFrom = u.elapsed ∧
      (t.lpSt p).trial = (if x.trial + 1 < (u.autoRates p).length then x.trial + 1 else 0) ∧
      (t.lpSt p).trialRate = (u.autoRates p).getD (t.lpSt p).trial 0 ∧ keepsRegs s t [LP_EQ_SET p] ∧ keepsMemory s t) ∧
  (∀ (at_ : TT) (p : Fin 32) (from_ : Nat) (s : State), let u := s.atTime at_
    u.lpRunsRx p = true → u.bit (LP_STAT_cdr_locked p) = true → (u.lpSt p).lockSince = some from_ →
    from_ + secNs ≤ u.elapsed → u.pwr.softErrs.lookup (32 + p.val) ≠ some true →
    ∃ t, exec (.lpKeepEqUpdate at_ p) s = .next t ∧ t.bit (LP_KEEP_EQ_valid p) = true ∧
      t.g (LP_KEEP_EQ_rate p) = u.g (LP_STAT_rx_rate p) ∧ t.g (LP_KEEP_EQ_eq_code p) = u.g (LP_EQ_SET_code p) ∧
      keepsRegs s t [LP_KEEP_EQ p] ∧ keepsMemory s t)

/-- The CDR of a receiving port locks at the rate it seeks, with its lock time, and loses lock with a count (R200,
R202); three EAVs at one place align the flywheel (R204); a line with a bad CRC is counted (R205); and a frame start
is counted and measured (R208, R218). Readings of the model: DEDUCED, notes/assumptions/36. -/
def Obligations.LinePortsReceive : Prop :=
  (∀ (at_ : TT) (p : Fin 32) (s : State), let u := s.atTime at_
    u.lpRunsRx p = true → u.bit (LP_STAT_signal p) = true → u.bit (LP_STAT_cdr_locked p) = false →
    0 < u.lpRate p → u.lpRate p < 16 →
    ∃ t, exec (.cdrLock at_ p) s = .next t ∧ t.bit (LP_STAT_cdr_locked p) = true ∧
      t.g (LP_STAT_rx_rate p) = u.lpRate p ∧
      (t.rd (LP_LOCK_TIME p)).toNat = min (u.elapsed - (u.lpSt p).searchFrom) 262143 ∧
      (t.lpSt p).lockSince = some u.elapsed ∧ keepsRegs s t [LP_STAT p, LP_LOCK_TIME p] ∧ keepsMemory s t) ∧
  (∀ (at_ : TT) (p : Fin 32) (cause : TT) (s : State), let u := s.atTime at_
    u.bit (LP_STAT_cdr_locked p) = true → (u.bit (LP_RX_CTL_sync p) = true ∨ (u.lpSt p).delivering = false) →
    ∃ t, exec (.cdrLockLoss at_ p cause) s = .next t ∧ t.bit (LP_STAT_cdr_locked p) = false ∧
      t.g (LP_STAT_rx_rate p) = 0 ∧ t.bit (LP_STICKY_lock_lost p) = true ∧
      t.g (cnt16 (LP_LOCK_LOSS_CNT p)) = min (s.g (cnt16 (LP_LOCK_LOSS_CNT p)) + 1) 65535 ∧
      (t.lpSt p).lockSince = none ∧ keepsMemory s t) ∧
  (∀ (at_ : TT) (p : Fin 32) (s : State), let u := s.atTime at_
    u.rxLive p = true →
    (2 ≤ (u.lpSt p).posRun → ∃ t, exec (.eavReceived at_ p .inPlace) s = .next t ∧
      t.bit (LP_STAT_trs_locked p) = true ∧ keepsRegs s t [LP_STAT p] ∧ keepsMemory s t) ∧
    (u.bit (LP_STAT_trs_locked p) = true → ∃ t, exec (.eavReceived at_ p .missing) s = .next t ∧
      t.g (cnt16 (LP_TRS_ERR_CNT p)) = min (s.g (cnt16 (LP_TRS_ERR_CNT p)) + 1) 65535 ∧
      t.bit (LP_STICKY_trs_err p) = true ∧ keepsRegs s t [LP_TRS_ERR_CNT p, LP_STICKY p] ∧ keepsMemory s t)) ∧
  (∀ (at_ : TT) (p : Fin 32) (l : LineData) (s : State), let u := s.atTime at_
    u.rxLive p = true → u.g (LP_STAT_rx_rate p) ≠ 1 → l.crcBad = true →
    u.bit (LP_RX_CTL_sync p) = true → (u.lpSt p).aligned = false →
    ∃ t, exec (.lineReceived at_ p l) s = .next t ∧
      t.g (cnt16 (LP_CRC_ERR_CNT p)) = min (s.g (cnt16 (LP_CRC_ERR_CNT p)) + 1) 65535 ∧
      t.bit (LP_STICKY_crc_err p) = true ∧ (t.rd (LP_ERR_LINE p)).toNat = l.number.toNat ∧
      keepsRegs s t [LP_CRC_ERR_CNT p, LP_LN_ERR_CNT p, LP_STICKY p, LP_ERR_LINE p, LP_ERR_SEC_CNT p] ∧
      keepsMemory s t) ∧
  (∀ (at_ : TT) (p : Fin 32) (f : RxFrame) (s : State), let u := s.atTime at_
    u.rxLive p = true →
    ∃ t, exec (.rxFrameStart at_ p f) s = .next t ∧ t.rd (LP_RX_FRAME_CNT p) = s.rd (LP_RX_FRAME_CNT p) + 1 ∧
      t.rd (LP_RX_FREQ p) = f.freq ∧ t.rd (LP_EYE p) = f.eye.zeroExtend 32 ∧
      ((formatOf f.format.toNat).isSome = true → t.g (LP_RX_FMT_format p) = f.format.toNat) ∧
      (u.bit (LP_RX_CTL_sync p) = true → t.rd (LP_RX_ALIGN p) = f.offsetNs) ∧
      keepsRegs s t [LP_RX_FRAME_CNT p, LP_RX_FREQ p, LP_EYE p, LP_RX_FMT p, LP_RX_ALIGN p, LP_STAT p, LP_STICKY p,
        LP_MISALIGN_CNT p, LP_RX_PID p, LP_PID_CHANGE_CNT p] ∧ keepsMemory s t)

/-! ### Analogue cells and window monitors -/

/-- An over-range episode of a cell is recorded and marks its neighbours in the quad; it ends with its length, and the
neighbours' interval after it (R234, R236); a cell without trims for 1 s is stale (R240). Readings of the model:
DEDUCED, notes/assumptions/40. -/
def Obligations.CellsMarkTheirSamples : Prop :=
  (∀ (at_ : TT) (c : Fin 48) (s : State), let u := s.atTime at_
    u.cellUp c = true → u.cellAdc c = true → (u.cellSt c).ovrFrom = none →
    ∃ t, exec (.overRangeBegin at_ c) s = .next t ∧ (t.cellSt c).ovrFrom = some u.now ∧
      t.bit (AC_STAT_ovr_now c) = true ∧ t.bit (AC_STICKY_ovr c) = true ∧ t.rd64 (AC_OVR_TT_LO c) = u.clock.ns ∧
      t.g (cnt16 (AC_OVR_CNT c)) = min (s.g (cnt16 (AC_OVR_CNT c)) + 1) 65535 ∧
      (∀ d < 48, d / 4 = c.val / 4 → d ≠ c.val → u.cellUp d = true → u.cellAdc d = true →
        t.bit (AC_STAT_suspect_now d) = true) ∧
      keepsRegs s t ([AC_STAT c, AC_STICKY c, AC_OVR_CNT c, AC_OVR_TT_LO c, AC_OVR_TT_LO c + 4, AC_OVR_LEN c, AC_PEAK c] ++
        (quadOthers c).flatMap (fun d => [AC_STAT d, AC_STICKY d, AC_SUSPECT_CNT d])) ∧ keepsMemory s t) ∧
  (∀ (at_ : TT) (c : Fin 48) (from_ : Nat) (s : State), let u := s.atTime at_
    (u.cellSt c).ovrFrom = some from_ →
    ∃ t, exec (.overRangeEnd at_ c) s = .next t ∧ (t.cellSt c).ovrFrom = none ∧ (t.cellSt c).ovrTo = u.now + 8 ∧
      t.bit (AC_STAT_ovr_now c) = false ∧ (t.rd (AC_OVR_LEN c)).toNat = min (u.now - from_) 0xFFFFFFFF ∧
      (∀ d < 48, d / 4 = c.val / 4 → d ≠ c.val → u.now + 24 ≤ (t.cellSt d).suspTo) ∧
      keepsRegs s t [AC_STAT c, AC_OVR_LEN c] ∧ keepsMemory s t) ∧
  (∀ (at_ : TT) (c : Fin 48) (s : State), let u := s.atTime at_
    u.bit (AC_STAT_suspect_now c) = true → (u.cellSt c).suspTo ≤ u.now →
    (∀ d < 48, d / 4 = c.val / 4 → d ≠ c.val → (u.cellSt d).ovrFrom = none) →
    ∃ t, exec (.suspectIntervalEnd at_ c) s = .next t ∧ t.bit (AC_STAT_suspect_now c) = false ∧
      keepsRegs s t [AC_STAT c] ∧ keepsMemory s t) ∧
  (∀ (at_ : TT) (c : Fin 48) (s : State), let u := s.atTime at_
    u.cellUp c = true → (u.cellSt c).trimAt + secNs ≤ u.elapsed →
    ∃ t, exec (.calStale at_ c) s = .next t ∧ t.bit (AC_STAT_cal_stale c) = true ∧
      keepsRegs s t [AC_STAT c, AC_STICKY c] ∧ keepsMemory s t)

/-- A direction change completes with its time (R228); the DC-restore clamp moves towards its target and the DC block
follows the mean of 256 samples, within their ranges, and an update that a marked sample spoils is skipped (R232,
R233, R262, R263); a missing DAC input sample is substituted and counted (R260); and an output sample of a chain falls
at its grid instant (R255, R264, R265). Readings of the model: DEDUCED, notes/assumptions/13, DEDUCED,
notes/assumptions/24, DESIGN CHOICE, notes/assumptions/2. -/
def Obligations.CellsTurnAndFollow : Prop :=
  (∀ (at_ : TT) (c : Fin 48) (from_ dir : Nat) (s : State), let u := s.atTime at_
    (u.cellSt c).changing = some (from_, dir) → dir ≤ 1 → u.now ≤ from_ + 2000 →
    ∃ t, exec (.directionChangeComplete at_ c) s = .next t ∧ (t.cellSt c).changing = none ∧ t.g (AC_STAT_dir c) = dir ∧
      t.bit (AC_STAT_changing c) = false ∧ t.g (FC_STAT_interp c) = dir ∧
      (t.rd (AC_DIR_TIME c)).toNat = u.now - from_ ∧
      (dir = 0 ∨ (u.chain c).acc = [] →
        t.g (cnt16 (AC_DIR_CNT c)) = min (s.g (cnt16 (AC_DIR_CNT c)) + 1) 65535 ∧
        t.bit (FC_STAT_settling c) = (dir == 0 && u.cellUp c) ∧
        keepsRegs s t [AC_STAT c, FC_STAT c, AC_DIR_CNT c, AC_DIR_TIME c, AC_STICKY c, AC_SUSPECT_CNT c] ∧
        keepsMemory s t)) ∧
  (∀ (at_ : TT) (c : Fin 48) (level : BitVec 12) (s : State), let u := s.atTime at_; let w := u.loopRange (.dcr c)
    let cur := signed10 (AC_DCR_SET_offset c) (u.rd (AC_DCR_SET c))
    ((u.cellSt c).lineDue = some false → u.cellUp c = true → u.cellAdc c = true → u.g (AC_DCR_CTL_mode c) ≠ 2 →
      u.loopBlocked (AC_DCR_STAT c) = false → w.1 ≤ cur → cur ≤ w.2 →
      ∃ t d, exec (.dcRestoreUpdate at_ c level) s = .next t ∧ 0 ≤ d ∧
        signed10 (AC_DCR_SET_offset c) (t.rd (AC_DCR_SET c)) = clampInt w.1 w.2
          (if level.toNat < u.g (AC_DCR_TARGET_target c) then cur + d
           else if u.g (AC_DCR_TARGET_target c) < level.toNat then cur - d else cur) ∧
        (t.cellSt c).lineDue = none ∧ keepsRegs s t [AC_DCR_SET c, AC_DCR_STAT c, AC_DCR_BOUND_CNT c] ∧
        keepsMemory s t) ∧
    ((u.cellSt c).lineDue = some true → ∃ t, exec (.dcRestoreUpdate at_ c level) s = .next t ∧
      (t.cellSt c).lineDue = none ∧ keepsRegs s t [] ∧ keepsMemory s t)) ∧
  (∀ (at_ : TT) (c : Fin 48) (up : Bool) (sum : Int) (marked : Bool) (s : State), let u := s.atTime at_
    let w := u.loopRange (.dcb c); let e := signedField 18 (u.g (FC_DCB_SET_e c))
    (u.chain c).dcbDue = some (sum, marked) → u.cellUp c = true → u.bit (FC_CTL_dcb_en c) = true →
    u.g (FC_DCB_CTL_mode c) ≠ 2 → u.loopBlocked (FC_DCB_STAT c) = false →
    ∃ t, exec (.dcBlockUpdate at_ c up) s = .next t ∧ (t.chain c).dcbDue = none ∧
      t.bit (FC_STAT_dcb_suspended c) = marked ∧
      (marked = false → w.1 ≤ e → e ≤ w.2 →
        let num := sum - 16384 * e; let q : Int := 16384 * 2 ^ u.g (FC_DCB_CTL_k c)
        signedField 18 (t.g (FC_DCB_SET_e c)) =
          clampInt w.1 w.2 (e + num / q + (if num % q ≠ 0 ∧ up = true then 1 else 0))) ∧
      keepsRegs s t (FC_STAT c :: if marked then [] else [FC_DCB_SET c, FC_DCB_STAT c, FC_DCB_BOUND_CNT c]) ∧
      keepsMemory s t) ∧
  (∀ (at_ : TT) (c : Fin 48) (s : State), let u := s.atTime at_
    u.dacMissing c = true →
    ∃ t, exec (.dacInputUnderrun at_ c) s = .next t ∧ (t.chain c).underRun = true ∧
      t.bit (FC_STICKY_underrun c) = true ∧ t.sampleAt.get 0 c = u.gridAt c ∧
      t.g (cnt16 (FC_UNDERRUN_CNT c)) = min (s.g (cnt16 (FC_UNDERRUN_CNT c)) + (if (u.chain c).underRun then 0 else 1)) 65535 ∧
      keepsRegs s t (chainRegs c) ∧ keepsMemory s t) ∧
  (∀ (at_ : TT) (c : Fin 48) (value : Int) (s : State), let u := s.atTime at_
    u.cellUp c = true → u.sampleDue c = true →
    ∃ t, exec (.chainOutputSample at_ c value) s = .next t ∧ t.sampleAt.get 0 c = u.gridAt c ∧
      (u.bit (AC_STAT_dir c) = false → (u.chain c).acc = [] →
        t.rd (FC_SAMPLE_CNT c) = s.rd (FC_SAMPLE_CNT c) + 1 ∧ (t.chain c).acc ≠ []) ∧
      (u.bit (AC_STAT_dir c) = true ∨ (u.chain c).acc = [] → keepsRegs s t (chainRegs c) ∧ keepsMemory s t))

/-- A monitor is ready 1 µs after enabling (R268); while it is ready and not blanked its live output is 1 above the
high and below the low threshold, and 0 inside both by the hysteresis, 0 V being compared at a dead tap (R269, R271,
R273); a change of the level is followed unless the output is held (R273), and a write of WMn_STAT clears the bits
written 1, but for a flag whose edge falls in the same cue-engine cycle (R276, R277). Readings of the model: DEDUCED,
notes/assumptions/42. -/
def Obligations.MonitorsCompare : Prop :=
  (∀ (at_ : TT) (m : Fin 96) (s : State), let u := s.atTime at_
    u.monRuns m = true → u.bit (WM_STAT_ready m) = false → (u.mon m).from_ + 1000 ≤ u.elapsed →
    ∃ t, exec (.monitorReady at_ m) s = .next t ∧ t.bit (WM_STAT_ready m) = true ∧ keepsMemory s t) ∧
  (∀ (at_ : TT) (m : Fin 96) (level : MicroVolt) (s : State), let u := s.atTime at_
    let hi := thrLevel (u.g (WM_THR_high m)); let lo := thrLevel (u.g (WM_THR_low m))
    let h : Int := 2000 * (u.g (WM_CTL_hyst m) : Int); let l : Int := if u.tapDead m then 0 else level
    u.monRuns m = true → u.bit (WM_STAT_ready m) = true → u.bit (WM_STAT_blanked m) = false →
    ((u.mon m).holdTo = none → ∃ t, exec (.monitorTransition at_ m level) s = .next t ∧
      (hi < l ∨ l < lo → t.bit (WM_STAT_live m) = true ∧
        (u.bit (WM_STAT_live m) = false → t.bit (WM_STAT_side m) = decide (hi < l))) ∧
      (lo + h ≤ l → l ≤ hi - h → lo ≤ l → l ≤ hi → t.bit (WM_STAT_live m) = false) ∧ keepsMemory s t) ∧
    (∀ due, (u.mon m).holdTo = some due → due ≤ u.elapsed → ∃ t, exec (.monitorHoldEnd at_ m level) s = .next t ∧
      (t.mon m).holdTo = none ∧ (hi < l ∨ l < lo → t.bit (WM_STAT_live m) = true) ∧
      (lo + h ≤ l → l ≤ hi - h → lo ≤ l → l ≤ hi → t.bit (WM_STAT_live m) = false) ∧ keepsMemory s t)) ∧
  (∀ (at_ : TT) (m : Fin 96) (v : W32) (s : State), let u := s.atTime at_
    u.reachable (WM_STAT m) →
    ∃ t, exec (.latchClearWrite at_ m v) s = .next t ∧ t.obs.answer = [0, 0] ∧
      t.bit (WM_STAT_latched m) = (u.bit (WM_STAT_latched m) &&
        !(v.getLsbD 0 && !u.bit (WM_STAT_live m) && !u.thisCycle (u.mon m).fallAt)) ∧
      t.bit (WM_STAT_rise m) = (u.bit (WM_STAT_rise m) && !(v.getLsbD 1 && !u.thisCycle (u.mon m).riseAt)) ∧
      t.bit (WM_STAT_fall m) = (u.bit (WM_STAT_fall m) && !(v.getLsbD 2 && !u.thisCycle (u.mon m).fallAt)) ∧
      keepsMemory s t)

/-! ### Stream engines -/

/-- An activation becomes ready with the bank of its line, waits at a busy engine with its deadline, and is picked by an
idle one that can meet it (R285, R286, R291); one that waits past its deadline for its part or its transfer is shed (R288,
R310); a cancel turns the ready activation of its slot into fill, and without one it misses (R307, R309); and an activation
that ends is counted, with the uncorrectable error that it met (R286, R311). Readings of the model: DEDUCED,
notes/assumptions/43, DESIGN CHOICE, notes/assumptions/69. -/
def Obligations.ActivationsRunAndAreShed : Prop :=
  (∀ (at_ : TT) (e : Fin 16) (slot : Fin 64) (d : TaskDesc) (s : State), let u := s.atTime at_
    u.task (u.slotTask e slot) = some d → u.dev.active = true → u.isReady (rSe e) = true → u.mayReady d = true →
    (56 ≤ slot.val → u.se.moving = false) →
    ((u.se.running.lookup e.val).isSome = true →
      ∃ t a, exec (.activationReady at_ e slot false) s = .next t ∧ t.se.acts = u.se.acts ++ [a] ∧ a.task = d.id ∧
        a.readyAt = u.now ∧ a.deadline = u.now + d.budget ∧ a.xfers = (d.used.filter (fun x => x.2.1 == 2)).length ∧
        a.bank = (u.settingAt d a.place.line).2 ∧
        keepsRegs s t [SE_SLICE_IN_CNT (u.engineOf d.id)] ∧ keepsMemory s t) ∧
    (u.se.running.lookup e.val = none → u.se.acts = [] → (∀ x ∈ d.used, x.2.1 ≠ 2) → 5 * d.cycles ≤ 6 * d.budget →
      ∃ t a, exec (.activationReady at_ e slot false) s = .next t ∧ t.se.acts = [] ∧
        t.se.running.lookup e.val = some (a, 6 * u.now + 20) ∧ a.task = d.id ∧ a.readyAt = u.now ∧
        a.deadline = u.now + d.budget ∧ a.bank = (u.settingAt d a.place.line).2 ∧
        keepsRegs s t [SE_SLICE_IN_CNT (u.engineOf d.id)] ∧ keepsMemory s t)) ∧
  (∀ (at_ : TT) (e : Fin 16) (slot : Fin 64) (a : Act) (s : State), let u := s.atTime at_
    u.se.acts = [a] → a.task = u.slotTask e slot → a.isReady = false → a.fill = false → a.deadline < u.now →
    ∃ t, exec (.activationDeadlinePass at_ e slot) s = .next t ∧
      t.se.acts = (if u.runsTask a.task then [{ a with fill := true }] else []) ∧
      t.g (cnt16 (SE_SHED_CNT (u.engineOf a.task))) = min (s.g (cnt16 (SE_SHED_CNT (u.engineOf a.task))) + 1) 65535 ∧
      t.bit (SE_STICKY_shed (u.engineOf a.task)) = true) ∧
  (∀ (at_ : TT) (e : Fin 16) (half : Bool) (i : Fin 32) (s : State), let u := s.atTime at_
    let slot : TaskId := (e.val, 32 * (if half then 1 else 0) + i.val); let k := u.engineOf slot
    u.reachable (SE_TASK_CANCEL e (if half then 1 else 0)) → u.picked slot = none →
    ((u.taskSt slot).on = false ∨ (∀ a ∈ u.se.acts, a.task = slot → a.isReady = false) →
      ∃ t, exec (.taskCancel at_ e half (1#32 <<< i.val)) s = .next t ∧
        t.g (cnt16 (SE_CANCEL_MISS_CNT k)) = min (s.g (cnt16 (SE_CANCEL_MISS_CNT k)) + 1) 65535 ∧ t.se = u.se ∧
        t.obs.answer = [0, 0] ∧ keepsRegs s t [SE_CANCEL_MISS_CNT k] ∧ keepsMemory s t) ∧
    (∀ a, (u.taskSt slot).on = true → u.se.acts = [a] → a.task = slot → a.isReady = true →
      ∃ t, exec (.taskCancel at_ e half (1#32 <<< i.val)) s = .next t ∧
        t.g (cnt16 (SE_CANCEL_CNT k)) = min (s.g (cnt16 (SE_CANCEL_CNT k)) + 1) 65535 ∧
        t.g (cnt16 (SE_TASK_RACE_CNT k)) =
          (if a.readyAt = u.now then min (s.g (cnt16 (SE_TASK_RACE_CNT k)) + 1) 65535 else s.g (cnt16 (SE_TASK_RACE_CNT k))) ∧
        t.obs.answer = [0, 0] ∧
        (u.runsTask slot = false → t.se.acts = []) ∧
        (u.runsTask slot = true → t.se.acts = [{ a with fill := true }] ∧
          keepsRegs s t [SE_CANCEL_CNT k, SE_TASK_RACE_CNT k, SE_LAST_RACE k, SE_STICKY k] ∧ keepsMemory s t))) ∧
  (∀ (at_ : TT) (e : Fin 16) (o : ActEnd) (a : Act) (start : Nat) (d : TaskDesc) (s : State), let u := s.atTime at_
    u.se.running = [(e.val, (a, start))] → u.se.acts = [] → u.task a.task = some d →
    start + 5 * d.cycles < 6 * u.now + 6 →
    ∃ t, exec (.activationEnd at_ e o) s = .next t ∧ t.se.running = [] ∧
      (o.uncorrectable = true →
        t.g (cnt16 (SE_LM_UNCORR_CNT e)) = min (s.g (cnt16 (SE_LM_UNCORR_CNT e)) + 1) 65535) ∧
      t.rd (SE_ACT_CNT e) = s.rd (SE_ACT_CNT e) + 1 ∧ (t.taskSt d.id).acts = (u.taskSt d.id).acts + 1)

/-- A transfer whose ports are free is granted and holds them for its time; at the end of it the transfer completes,
and the activation that waits for it with it (R288, R306); a parameter word goes to the bank addressed unless that is in force (R292); and the carousel counts its steps
and moves on when the dwell has passed (R300, R302). Readings of the model: DESIGN CHOICE, notes/assumptions/44,
DEDUCED, notes/assumptions/45. -/
def Obligations.RingAndCarouselAdvance : Prop :=
  (∀ (at_ : TT) (x : Xfer) (s : State), let u := s.atTime at_; let now := u.elapsed * 6 / 5
    u.se.xfers = [x] → x.init < 24 → x.until_ = none → x.at_ ≤ now →
    ∃ t, exec (.transferGrant at_ now) s = .next t ∧
      t.se.xfers = [{ x with until_ := some (now + (4 + 2 * ((x.bytes + 127) / 128) + x.hops)) }] ∧
      keepsRegs s t [SE_RING_WAIT_MAX x.init, SE_RING_AGE_CNT x.init] ∧ keepsMemory s t) ∧
  (∀ (at_ : TT) (i : Fin 24) (x : Xfer) (ready : Nat) (s : State), let u := s.atTime at_
    u.se.xfers = [x] → x.init = i.val → x.until_ = some ready → ready ≤ u.elapsed * 6 / 5 + 1 →
    (x.task = none ∨ u.se.acts = [] →
      ∃ t, exec (.transferComplete at_ i) s = .next t ∧ t.se.xfers = [] ∧
        (i.val < 16 → t.rd (SE_XFER_CNT i) = s.rd (SE_XFER_CNT i) + 1) ∧ keepsRegs s t [SE_XFER_CNT i] ∧
        keepsMemory s t) ∧
    (∀ k a, x.task = some k → u.se.acts = [a] → a.task = k → a.xfers ≠ 0 →
      (u.se.running.lookup (u.engineOf k)).isSome = true →
      ∃ t, exec (.transferComplete at_ i) s = .next t ∧ t.se.xfers = [] ∧
        t.se.acts = [{ a with xfers := a.xfers - 1, readyAt := u.now }] ∧
        (i.val < 16 → t.rd (SE_XFER_CNT i) = s.rd (SE_XFER_CNT i) + 1) ∧ keepsRegs s t [SE_XFER_CNT i] ∧
        keepsMemory s t)) ∧
  (∀ (at_ : TT) (e : Fin 16) (v : W32) (s : State), let u := s.atTime at_
    let slot := u.g (SE_PARAM_ADDR_slot e); let bank := u.g (SE_PARAM_ADDR_bank e); let i := u.g (SE_PARAM_ADDR_word e)
    let t0 : TaskId := (e.val, slot)
    let inForce := ((u.taskSt t0).on && (u.taskSt t0).bank == bank) || (u.enBit t0 && u.bankBit t0 == bank)
    u.reachable (SE_PARAM_DATA e) →
    (inForce = false → ∃ t, exec (.paramWrite at_ e v) s = .next t ∧ t.lmWord (bankAddr t0 bank i) = v ∧
      t.rd (SE_PARAM_STAT e) = 1 ∧ t.g (SE_PARAM_ADDR_word e) = (i + 1) % 16 ∧ t.obs.answer = [0, 0] ∧
      keepsRegs s t [SE_PARAM_ADDR e, SE_PARAM_STAT e] ∧ keepsMemory s t) ∧
    (inForce = true → ∃ t, exec (.paramWrite at_ e v) s = .next t ∧ t.rd (SE_PARAM_STAT e) = 2 ∧
      t.g (cnt16 (SE_PARAM_REFUSE_CNT e)) = min (s.g (cnt16 (SE_PARAM_REFUSE_CNT e)) + 1) 65535 ∧
      t.se = u.se ∧ t.obs.answer = [5, 0] ∧ keepsRegs s t [SE_PARAM_STAT e, SE_PARAM_REFUSE_CNT e] ∧ keepsMemory s t)) ∧
  (∀ (at_ : TT) (s : State), let u := s.atTime at_
    u.bit (SE_CAR_CTL_en 0) = true → u.dev.active = true → u.g (SE_CAR_CTL_mode 0) = 2 → u.se.acts = [] →
    ∃ t, exec (.carouselStep at_) s = .next t ∧
      (u.g (SE_CAR_DWELL_d 0) ≤ u.se.steps + 1 → t.se.steps = 0 ∧ t.se.moving = true) ∧
      (u.se.steps + 1 < u.g (SE_CAR_DWELL_d 0) → t.se.steps = u.se.steps + 1 ∧ t.se.moving = false) ∧
      t.se.moves = (if u.se.moving then u.se.moves + 1 else u.se.moves) ∧
      keepsRegs s t ((List.range 16).map SE_CAR_MOVES) ∧ keepsMemory s t)

/-! ### Frame memory and quotas -/

/-- A stream's enable bit is written; an enabled stream waits for its first unit start, and a waiting one stops at
once (R321); a unit start takes the base that a STREAM_ARM named, or stops a disabled stream (R321, R322). Readings of
the model: DEDUCED, notes/assumptions/46. -/
def Obligations.StreamsStartAndStop : Prop :=
  (∀ (at_ : TT) (d : Fin 1024) (v : W32) (s : State), let u := s.atTime at_; let a := DS_CTL d
    u.reachable a → (v ^^^ s.rd a) &&& 0x7FF8FFFF = 0 →
    ((u.bit (DS_CTL_enable d) = true ∨ u.resSum d true ≤ 400000) →
      ∃ t, exec (.streamEnable at_ d v) s = .next t ∧ t.bit (DS_CTL_enable d) = true ∧
        t.g (DS_STAT_state d) = (if u.g (DS_STAT_state d) = 0 then 1 else u.g (DS_STAT_state d)) ∧ t.obs.answer = [0, 0] ∧
        keepsRegs s t [a, DS_STAT d, SYS_NAP_CNT] ∧ keepsMemory s t) ∧
    (u.bit (DS_CTL_enable d) = false → 400000 < u.resSum d true →
      ∃ t, exec (.streamEnable at_ d v) s = .next t ∧ t.obs.answer = [6, 0] ∧ keepsRegs s t [] ∧ keepsMemory s t) ∧
    (∃ t, exec (.streamDisable at_ d v) s = .next t ∧ t.bit (DS_CTL_enable d) = false ∧
      t.g (DS_STAT_state d) = (if u.g (DS_STAT_state d) = 1 then 0 else u.g (DS_STAT_state d)) ∧ t.obs.answer = [0, 0] ∧
      keepsRegs s t [a, DS_STAT d] ∧ keepsMemory s t)) ∧
  (∀ (at_ : TT) (d : Fin 1024) (s : State), let u := s.atTime at_
    u.unitDue d = true → u.pwr.drain = none →
    (∀ k < 4, u.bit (DS_CTL_enable d) = true → (u.stream d).arm = some k →
      ∃ t, exec (.streamUnitStart at_ d) s = .next t ∧ t.g (DS_STAT_state d) = 2 ∧ t.g (DS_STAT_widx d) = k ∧
        t.g (DS_STAT_line d) = 0 ∧ (t.stream d).unitAt = some u.now ∧ (t.stream d).arm = none ∧
        keepsRegs s t [DS_STAT d, DS_RATE d] ∧ keepsMemory s t) ∧
    (u.bit (DS_CTL_enable d) = false →
      ∃ t, exec (.streamUnitStart at_ d) s = .next t ∧ t.g (DS_STAT_state d) = 0 ∧ keepsRegs s t [DS_STAT d] ∧
        keepsMemory s t))

/-- At the end of a window of 1 µs the streams that went beyond their credit are marked, held accesses and Axlink frames
are counted (R335, R337, R372); a line that is asked for is read for the stream's readers, substituted where it holds an
uncorrectable error, or held in its place (R324, R336–R339); the scrubber steps through frame memory with what the others
leave over (R336, R340); the window reads and writes its bytes where there is room, or is BUSY (R317); and a quota is
written within the sum of 4,096 (R350). Readings of the model: DESIGN CHOICE, notes/assumptions/47, DEDUCED,
notes/assumptions/48, DESIGN CHOICE, notes/assumptions/70. -/
def Obligations.FrameMemoryIsServed : Prop :=
  (∀ (at_ : TT) (above : List (Fin 1024)) (held : Bool) (ports : BitVec 4) (s : State), let u := s.atTime at_
    let w := u.rollWindow.fm
    u.dev.active = true → u.now % 1000 = 0 → w.wait = [] →
    ∃ t, exec (.bandwidthWindow at_ above held ports) s = .next t ∧
      (∀ d : Fin 1024, u.bit (DS_CTL_enable d) = true →
        (w.wentOver.contains d.val = true ∨ (d ∈ above ∧ w.flows.get [] d ≠ [])) →
        t.bitOf (FM_STREAM_OVER (d.val / 32)) (d.val % 32) = true ∧ t.bit FM_STICKY_over_res = true) ∧
      t.g (cnt16 FM_HELD_CNT) = min (s.g (cnt16 FM_HELD_CNT) +
        (if held && u.streamsOn.any (fun d => !(w.flows.get [] d).isEmpty) then 1 else 0)) 65535 ∧
      (∀ p < 4, t.g (cnt16 (AX_HOLD_CNT p)) = min (s.g (cnt16 (AX_HOLD_CNT p)) +
        (if u.portUp p && (u.holdsFrame p || ports.getLsbD p) then 1 else 0)) 65535) ∧ keepsMemory s t) ∧
  (∀ (at_ : TT) (d : Fin 1024) (line : BitVec 16) (c : LineCheck) (s : State), let u := s.atTime at_
    u.dev.active = true → u.isReady rFm = true → u.g (DS_STAT_state d) = 2 → u.yoyoOf d = none →
    line.toNat = (u.stream d).lineRead + 1 → line.toNat ≤ u.dsLines d →
    ((u.askLine d line.toNat c).1 = true →
      ∃ t, exec (.fmLineRead at_ d line c) s = .next t ∧ (t.stream d).feed.seq = (u.stream d).feed.seq + 1 ∧
        (t.stream d).lineRead = line.toNat ∧
        (c.uncorrectable ≠ 0 →
          t.g (cnt16 FM_UNCORR_CNT) = min (s.g (cnt16 FM_UNCORR_CNT) + c.uncorrectable) 65535 ∧
          t.g (cnt16 FM_SUBST_CNT) = min (s.g (cnt16 FM_SUBST_CNT) + 1) 65535 ∧
          t.rd FM_LAST_ERR_ADDR = BitVec.ofNat 32 (u.lineAddr d (u.g (DS_STAT_ridx d)) line.toNat)) ∧ keepsMemory s t) ∧
    ((u.askLine d line.toNat c).1 = false →
      ∃ t, exec (.fmLineRead at_ d line c) s = .next t ∧ (t.stream d).feed = (u.stream d).feed ∧
        (t.stream d).lineRead = line.toNat ∧
        t.fm.wait = u.fm.wait ++ [⟨some d.val, ((u.shapeOf d).map sliceLen).sum,
          .read (u.g (DS_STAT_ridx d)) line.toNat c⟩] ∧ keepsRegs s t [] ∧ keepsMemory s t)) ∧
  (∀ (at_ : TT) (corrected uncorrectable : Bool) (s : State), let u := s.atTime at_; let a := (u.rd FM_SCRUB_POS).toNat
    u.bit FM_CTL_scrub_en = true → u.isReady rFm = true → u.dev.active = true → u.rollWindow.spareRoom a = true →
    ∃ t, exec (.scrubRead at_ corrected uncorrectable) s = .next t ∧
      (t.rd FM_SCRUB_POS).toNat = (if a + 8 < 0x80000000 then a + 8 else 0) ∧
      t.g (cnt16 FM_SCRUB_UNCORR_CNT) =
        min (s.g (cnt16 FM_SCRUB_UNCORR_CNT) + (if uncorrectable then 1 else 0)) 65535 ∧
      keepsRegs s t ([FM_SCRUB_POS, FM_SCRUB_PASS_CNT, FM_SCRUB_UNCORR_CNT, FM_CORR_CNT] ++ (List.range 8).map FM_CH_STAT) ∧
      keepsMemory s t) ∧
  (∀ (at_ : TT) (size : Size) (a : W32) (v : BitVec 64) (s : State), let u := s.atTime at_; let n := sizeBytes size
    let w := u.rollWindow; let b := a.toNat - 0x40000000
    u.sealed = false → (u.dev.running = true ∨ u.dev = .inspect) → u.ax.rmt = none →
    0x40000000 ≤ a.toNat → a.toNat + n ≤ 0xC0000000 → a.toNat % min n 4 = 0 →
    (u.windowServed = true → (w.fm.wait = [] ∧ ∀ c < 8, w.fm.chan.get 0 c + 64 < 50000) ∨ w.windowWaits size a.toNat = true →
      (∃ t, exec (.fmWindowAccess at_ true size a v true) s = .next t ∧
        (∀ i < n, t.fmByte (b + i) = (v >>> (8 * i)).truncate 8) ∧
        (∀ c, c < b ∨ b + n ≤ c → t.fmByte c = s.fmByte c) ∧ t.obs.answer = [0, 0] ∧ keepsRegs s t []) ∧
      (∃ t, exec (.fmWindowAccess at_ false size a v true) s = .next t ∧
        t.obs.answer = [0, 0] ++ (List.range n).map (fun i => s.fmByte (b + i)) ∧ keepsRegs s t [] ∧ keepsMemory s t)) ∧
    (∀ write served : Bool,
      (u.windowServed = false ∨ (served = false ∧ w.fm.wait ≠ []) ∨
        (served = false ∧ ∀ c < 8, 50000 ≤ w.fm.chan.get 0 c)) →
      ∃ t, exec (.fmWindowAccess at_ write size a v served) s = .next t ∧ t.obs.answer.head? = some 1 ∧
        t.g (cnt16 FM_WIN_BUSY_CNT) = min (s.g (cnt16 FM_WIN_BUSY_CNT) + (if size = .s64 then 2 else 1)) 65535 ∧
        keepsRegs s t [FM_WIN_BUSY_CNT, SYS_NAP_CNT] ∧ keepsMemory s t)) ∧
  (∀ (at_ : TT) (n : Fin 256) (v : W32) (s : State), let u := s.atTime at_; let q := (SV_CTL_quota n).of v
    u.reachable (SV_CTL n) → (v ^^^ s.rd (SV_CTL n)) &&& 0xC0000000 = 0 →
    (u.quotaSum n q ≤ 4096 → ∃ t, exec (.quotaWrite at_ n v) s = .next t ∧ t.g (SV_CTL_quota n) = q ∧
      t.obs.answer = [0, 0] ∧ keepsRegs s t [SV_CTL n] ∧ keepsMemory s t) ∧
    (4096 < u.quotaSum n q → ∃ t, exec (.quotaWrite at_ n v) s = .next t ∧ t.obs.answer = [6, 0] ∧ keepsRegs s t [] ∧
      keepsMemory s t))

/-! ### Axlink and the troupe -/

/-- A port that acquires alignment waits for its neighbour and sends a HELLO (R362, R365); one that does not for 1 ms
shows it (R363); HELLOs go out and are answered, and two acknowledged ones each way bring the port UP with its credit
(R365, R372, R380). Readings of the model: DEDUCED, notes/assumptions/50. -/
def Obligations.LinksComeUp : Prop :=
  (∀ (at_ : TT) (p : Fin 4) (s : State), let u := s.atTime at_
    u.bit (AX_CTL_enable p) = true → u.isReady (rAx p) = true → u.g (AX_STAT_state p) < 3 → u.dev.active = true →
    ∃ t body, exec (.axAlign at_ p) s = .next t ∧ t.g (AX_STAT_state p) = 3 ∧ t.g (AX_STAT_lanes p) = 15 ∧
      t.bit (AX_STAT_fec_active p) = u.bit (AX_CTL_fec p) ∧ t.ax.wire = [(p.val, u.frame clLink 0 0 body)] ∧
      keepsRegs s t [AX_STAT p, AX_LANE_STAT p, AX_TX_FRAME_CNT p] ∧ keepsMemory s t) ∧
  (∀ (at_ : TT) (p : Fin 4) (s : State), let u := s.atTime at_
    u.dev.active = true → u.bit (AX_CTL_enable p) = true → u.isReady (rAx p) = true → u.g (AX_STAT_state p) < 3 →
    (u.port p).alignFrom + msNs ≤ u.elapsed →
    ∃ t, exec (.noAlignTimeout at_ p) s = .next t ∧ t.bit (AX_STICKY_no_align p) = true ∧
      keepsRegs s t [AX_STICKY p] ∧ keepsMemory s t) ∧
  (∀ (at_ : TT) (p : Fin 4) (s : State), let u := s.atTime at_
    3 ≤ u.g (AX_STAT_state p) →
    ∃ t, exec (.helloTimer at_ p) s = .next t ∧ t.ax.wire = [(p.val, u.frame clLink 0 0 (u.helloWords p))] ∧
      t.rd (AX_TX_FRAME_CNT p) = s.rd (AX_TX_FRAME_CNT p) + 1 ∧ keepsRegs s t [AX_TX_FRAME_CNT p] ∧ keepsMemory s t) ∧
  (∀ (at_ : TT) (p : Fin 4) (h : Hello) (s : State), let u := s.atTime at_
    u.g (AX_STAT_state p) = 3 →
    ((u.port p).helloRx = 0 → ∃ t, exec (.hello at_ p h) s = .next t ∧ t.g (AX_STAT_state p) = 3 ∧
      t.g (AX_STAT_neighbour p) = h.id.toNat ∧ t.g (AX_NEIGH_hops p) = h.hops.toNat ∧
      t.g (AX_NEIGH_priority p) = h.leadPriority.toNat ∧ t.g (AX_NEIGH_lead p) = h.leadId.toNat ∧
      t.rd (AX_RX_FRAME_CNT p) = s.rd (AX_RX_FRAME_CNT p) + 1 ∧
      keepsRegs s t [AX_STAT p, AX_NEIGH p, AX_RX_FRAME_CNT p, AX_STICKY p] ∧ keepsMemory s t) ∧
    (1 ≤ (u.port p).helloRx → 1 ≤ (u.port p).helloAck → h.acked = true → u.isMember = false →
      ∃ t, exec (.hello at_ p h) s = .next t ∧ t.g (AX_STAT_state p) = 4 ∧ t.g (AX_STAT_neighbour p) = h.id.toNat ∧
        t.ax.wire = [(p.val, u.frame clLink 3 0 [64, 256, 1024])] ∧
        keepsRegs s t ([AX_NEIGH p, AX_RX_FRAME_CNT p, AX_TX_FRAME_CNT p, AX_STICKY p, AX_TROUPE_STAT 0, AX_ROSTER 0] ++
          (List.range 4).map AX_STAT) ∧ keepsMemory s t))

/-- A port that waits for its neighbour falls back when alignment is lost (R365); a port that is UP goes down by loss
of alignment, by 40 µs of silence or by a LEAVE, and counts it (R366, R386; an isolated device without transfers); a
frame that must be discarded and a corrected codeword are counted (R368). Readings of the model: DEDUCED,
notes/assumptions/50. -/
def Obligations.LinksGoDown : Prop :=
  (∀ (at_ : TT) (p : Fin 4) (cause : TT) (s : State), let u := s.atTime at_
    u.g (AX_STAT_state p) = 3 →
    ∃ t, exec (.axLockLoss at_ p cause) s = .next t ∧
      t.g (AX_STAT_state p) = (if u.bit (AX_CTL_enable p) then 1 else 0) ∧ t.rd (AX_CREDIT p) = 0 ∧
      keepsRegs s t [AX_STAT p, AX_CREDIT p, AX_LANE_STAT p] ∧ keepsMemory s t) ∧
  (∀ (at_ : TT) (p : Fin 4) (cause : TT) (c : Instr) (s : State), let u := s.atTime at_
    u.portUp p = true → u.isMember = false → u.ax.bulk = [] → u.scriptsQuiet →
    (∀ k < 8, (u.iso (8 * p + k)).inUnit = false) →
    (c = .axLockLoss at_ p cause ∨ c = .leave at_ p ∨
      (c = .axSilenceTimeout at_ p ∧ (u.port p).lastRx + 40 * usNs ≤ u.elapsed)) →
    ∃ t, exec c s = .next t ∧ t.g (AX_STAT_state p) = (if u.bit (AX_CTL_enable p) then 1 else 0) ∧
      t.g (cnt16 (AX_DOWN_CNT p)) = min (s.g (cnt16 (AX_DOWN_CNT p)) + 1) 65535 ∧ t.bit (AX_STICKY_down p) = true ∧
      t.bit (AX_STAT_time_ok p) = false ∧ t.rd (AX_CREDIT p) = 0 ∧
      keepsRegs s t ([AX_DOWN_CNT p, AX_STICKY p, AX_CREDIT p, AX_LANE_STAT p, AX_RX_FRAME_CNT p, AX_RMT_STAT 0,
        AX_TROUPE_STAT 0, AX_ROSTER 0] ++ (List.range 4).map AX_STAT) ∧ keepsMemory s t) ∧
  (∀ (at_ : TT) (p : Fin 4) (s : State), let u := s.atTime at_
    3 ≤ u.g (AX_STAT_state p) →
    (∃ t, exec (.axBadFrame at_ p .crc) s = .next t ∧ t.bit (AX_STICKY_crc p) = true ∧
      t.g (cnt16 (AX_CRC_ERR_CNT p)) = min (s.g (cnt16 (AX_CRC_ERR_CNT p)) + 1) 65535 ∧
      keepsRegs s t [AX_CRC_ERR_CNT p, AX_STICKY p] ∧ keepsMemory s t) ∧
    (∃ t, exec (.axBadFrame at_ p .uncorrectable) s = .next t ∧
      t.g (cnt16 (AX_FEC_UNCORR_CNT p)) = min (s.g (cnt16 (AX_FEC_UNCORR_CNT p)) + 1) 65535 ∧
      keepsRegs s t [AX_FEC_UNCORR_CNT p] ∧ keepsMemory s t) ∧
    (∃ t, exec (.axBadFrame at_ p .corrected) s = .next t ∧
      t.g (cnt16 (AX_FEC_CORR_CNT p)) = min (s.g (cnt16 (AX_FEC_CORR_CNT p)) + 1) 65535 ∧
      keepsRegs s t [AX_FEC_CORR_CNT p] ∧ keepsMemory s t))

/-- The lead's epoch advances (R380); a lead whose neighbours' advertisements are all stale leads on its own (R380,
R381); a JOIN is recorded, behind another holder of its ID, and goes on to the parent, and the lead refuses a second holder
(R382, R383); a ROSTER goes on towards its member, whose entry goes, and isolates the member that it names (R383). Readings of the model: DEDUCED,
notes/assumptions/50. -/
def Obligations.TroupeKeepsItsRoster : Prop :=
  (∀ (at_ : TT) (s : State), let u := s.atTime at_
    u.dev.active = true → u.isMember = true → u.bit SYS_STATE_lead = true → u.ax.epochAt + 100 * usNs ≤ u.elapsed →
    ∃ t, exec (.leadEpochTick at_) s = .next t ∧ t.ax.epoch = (u.ax.epoch + 1) % 65536 ∧
      t.g (AX_ROSTER_epoch 0) = (u.ax.epoch + 1) % 65536 ∧ t.ax.epochAt = u.elapsed ∧ keepsRegs s t [AX_ROSTER 0] ∧ keepsMemory s t) ∧
  (∀ (at_ : TT) (p : Fin 4) (a : AdvertSt) (s : State), let u := s.atTime at_
    u.isMember = true → u.bit SYS_STATE_lead = true → u.portUp p = true → (u.port p).advert = some a →
    a.epochAt + 400 * usNs ≤ u.elapsed → (∀ q < 4, u.advertOk q = false) →
    ∃ t, exec (.advertStale at_ p) s = .next t ∧ t.ax.leadId = u.memberId ∧ t.ax.leadPrio = u.memberPrio ∧
      t.ax.parent = none ∧ t.ax.hops = 0 ∧ t.bit SYS_STATE_lead = true ∧ keepsMemory s t) ∧
  (∀ (at_ : TT) (p : Fin 4) (id : MemberId) (nonce : BitVec 64) (s : State), let u := s.atTime at_
    u.portUp p = true → u.isMember = true →
    let body : List W32 := [id.zeroExtend 32, nonce.truncate 32, (nonce >>> 32).truncate 32]
    (u.bit SYS_STATE_lead = false → ∃ t, exec (.join at_ p id nonce) s = .next t ∧
      (let kept := u.ax.routes.filter (fun r => !(r.1 == id && r.2.2 == nonce))
       t.ax.routes = if kept.any (fun r => r.1 == id) then kept ++ [(id, p.val, nonce)] else (id, p.val, nonce) :: kept) ∧
      t.ax.wire = u.ax.parent.toList.map (fun q => (q, u.frame clLink 4 0 body)) ∧
      keepsRegs s t ([AX_RX_FRAME_CNT p, AX_ROSTER 0] ++ u.ax.parent.toList.map AX_TX_FRAME_CNT) ∧ keepsMemory s t) ∧
    (u.bit SYS_STATE_lead = true → id = u.memberId → nonce ≠ u.ax.nonce →
      ∃ t, exec (.join at_ p id nonce) s = .next t ∧ t.ax.routes = u.ax.routes ∧
        t.ax.wire = [(p.val, u.frame clLink 5 0 body)] ∧ keepsRegs s t [AX_RX_FRAME_CNT p, AX_TX_FRAME_CNT p] ∧
        keepsMemory s t)) ∧
  (∀ (at_ : TT) (p : Fin 4) (id : MemberId) (nonce : BitVec 64) (s : State), let u := s.atTime at_
    u.portUp p = true →
    (∀ q : Nat, id ≠ u.memberId → u.ax.routes.find? (fun r => r.1 == id && r.2.2 == nonce) = some (id, q, nonce) → q ≠ p →
      ∃ t, exec (.roster at_ p id nonce) s = .next t ∧ t.ax.wire = [(q, u.frame clLink 5 0
          [id.zeroExtend 32, nonce.truncate 32, (nonce >>> 32).truncate 32])] ∧
        t.ax.routes = u.ax.routes.filter (fun r => !(r.1 == id && r.2.2 == nonce)) ∧
        keepsRegs s t [AX_RX_FRAME_CNT p, AX_TX_FRAME_CNT q, AX_ROSTER 0] ∧ keepsMemory s t) ∧
    (id = u.memberId → nonce = u.ax.nonce → u.isMember = true → u.qualified 3 = false →
      ∃ t, exec (.roster at_ p id nonce) s = .next t ∧ t.ax.refused = true ∧ t.isMember = false ∧ t.ax.parent = none ∧
        t.bit (AX_TROUPE_STAT_conflict 0) = true ∧
        keepsRegs s t ([AX_RX_FRAME_CNT p, AX_TROUPE_STAT 0, AX_ROSTER 0] ++ (List.range 4).map AX_STAT) ∧
        keepsMemory s t))

/-- Acknowledged frames leave their store, and a NAK or 2 µs without acknowledgement sends the unacknowledged ones
again, oldest first (R370); credit comes in up to its bounds and goes out (R372); and a time exchange runs from its
start to its offset, or goes missing (R373–R375). Readings of the model: DEDUCED, notes/assumptions/51. -/
def Obligations.FramesAreAcknowledged : Prop :=
  (∀ (at_ : TT) (p : Fin 4) (cls : AxClass) (seq : BitVec 16) (s : State), let u := s.atTime at_; let k := classCode cls
    let kept := (u.port p).unacked.get [] k
    u.portUp p = true → (u.port p).held.get [] k = [] → u.ax.bulk = [] →
    ∃ t, exec (.ack at_ p cls seq) s = .next t ∧
      (t.port p).unacked.get [] k = kept.drop (kept.takeWhile (fun f => seqLe f.seq seq.toNat)).length ∧
      keepsRegs s t [AX_RX_FRAME_CNT p] ∧ keepsMemory s t) ∧
  (∀ (at_ : TT) (p : Fin 4) (cls : AxClass) (seq : BitVec 16) (s : State), let u := s.atTime at_; let k := classCode cls
    let kept := (u.port p).unacked.get [] k
    let left := kept.drop (kept.takeWhile (fun f => seqLe f.seq ((seq.toNat + 65535) % 65536))).length
    u.portUp p = true → (u.port p).resends.get 0 k < 15 →
    (∃ t, exec (.nak at_ p cls seq) s = .next t ∧
      t.ax.wire = left.map (fun f => (p.val, { f with retx := true })) ∧
      t.g (cnt16 (AX_RETX_CNT p)) = min (s.g (cnt16 (AX_RETX_CNT p)) + left.length) 65535 ∧
      keepsRegs s t [AX_RX_FRAME_CNT p, AX_TX_FRAME_CNT p, AX_RETX_CNT p] ∧ keepsMemory s t) ∧
    (kept ≠ [] → 2 * usNs ≤ u.elapsed - (u.port p).ackAt.get 0 k →
      ∃ t, exec (.retxTimeout at_ p cls) s = .next t ∧
        t.ax.wire = kept.map (fun f => (p.val, { f with retx := true })) ∧ (t.port p).unacked.get [] k = kept ∧
        keepsRegs s t [AX_TX_FRAME_CNT p, AX_RETX_CNT p] ∧ keepsMemory s t)) ∧
  (∀ (at_ : TT) (p : Fin 4) (cue mgmt bulk : Nat) (s : State), let u := s.atTime at_
    u.portUp p = true → (∀ k ∈ [clCue, clMgmt, clBulk], (u.port p).held.get [] k = []) →
    ∃ t, exec (.credit at_ p cue mgmt bulk) s = .next t ∧
      t.g (AX_CREDIT_cue p) = min (s.g (AX_CREDIT_cue p) + cue) 64 ∧
      t.g (AX_CREDIT_mgmt p) = min (s.g (AX_CREDIT_mgmt p) + mgmt) 256 ∧
      t.g (AX_CREDIT_bulk p) = min (s.g (AX_CREDIT_bulk p) + bulk) 1024 ∧
      keepsRegs s t [AX_CREDIT p, AX_RX_FRAME_CNT p] ∧ keepsMemory s t) ∧
  (∀ (at_ : TT) (p : Fin 4) (s : State), let u := s.atTime at_; let owed (k : Nat) := (u.port p).owed.get 0 k
    u.portUp p = true → (owed clCue ≠ 0 ∨ owed clMgmt ≠ 0 ∨ owed clBulk ≠ 0) →
    ∃ t, exec (.creditTimer at_ p) s = .next t ∧ (t.port p).owed = [] ∧
      t.ax.wire = [(p.val, u.frame clLink 3 0 [BitVec.ofNat 32 (owed clCue), BitVec.ofNat 32 (owed clMgmt),
        BitVec.ofNat 32 (owed clBulk)])] ∧ keepsRegs s t [AX_TX_FRAME_CNT p] ∧ keepsMemory s t) ∧
  (∀ (at_ : TT) (p : Fin 4) (f : BitVec 16) (s : State), let u := s.atTime at_
    u.portUp p = true →
    ((u.port p).exchange = none → ∃ t, exec (.timeExchangeStart at_ p f) s = .next t ∧
      (t.port p).exchange = some (u.now * 65536 + f.toNat, u.elapsed) ∧
      t.ax.wire = [(p.val, u.frame clTime 0 0 [])] ∧ keepsRegs s t [AX_TX_FRAME_CNT p] ∧ keepsMemory s t) ∧
    (∀ (t3 : TT) (t3f : BitVec 16), ∃ t, exec (.timeReq at_ p f t3 t3f) s = .next t ∧
      t.ax.wire = [(p.val, u.frame clTime 1 0 [u.clock.ns.truncate 32, (u.clock.ns >>> 32).truncate 32,
        f.zeroExtend 32 <<< 16, t3.truncate 32, (t3 >>> 32).truncate 32, t3f.zeroExtend 32 <<< 16])] ∧
      keepsRegs s t [AX_RX_FRAME_CNT p, AX_TX_FRAME_CNT p] ∧ keepsMemory s t)) ∧
  (∀ (at_ : TT) (p : Fin 4) (t2 t3 : TT) (t2f t3f t4f : BitVec 16) (n from_ : Nat) (s : State), let u := s.atTime at_
    let i1 : Int := (n : Nat); let i2 : Int := (t2.toNat * 65536 + t2f.toNat : Nat)
    let i3 : Int := (t3.toNat * 65536 + t3f.toNat : Nat); let i4 : Int := (u.now * 65536 + t4f.toNat : Nat)
    let asym := (BitVec.ofNat 16 (u.g (AX_ASYM_asym p))).toInt
    u.portUp p = true → (u.port p).exchange = some (n, from_) → u.elapsed - from_ < 100 * usNs →
    u.ax.parent ≠ some p.val →
    ((u.port p).okRun < 3 ∨ u.bit (AX_STAT_time_ok p) = true) →
    ∃ t, exec (.timeResp at_ p t2 t2f t3 t3f t4f) s = .next t ∧
      t.rd (AX_OFFSET p) = sword ((((i2 - i1) + (i3 - i4)) * 1000 - asym * 65536) * 256 / (2000 * 65536)) ∧
      (t.port p).exchange = none ∧ (t.port p).okRun = min ((u.port p).okRun + 1) 4 ∧
      keepsRegs s t [AX_RX_FRAME_CNT p, AX_DELAY p, AX_OFFSET p] ∧ keepsMemory s t) ∧
  (∀ (at_ : TT) (p : Fin 4) (n from_ : Nat) (s : State), let u := s.atTime at_
    (u.port p).exchange = some (n, from_) → 100 * usNs ≤ u.elapsed - from_ → (u.port p).missRun < 7 →
    ∃ t, exec (.timeExchangeMiss at_ p) s = .next t ∧ (t.port p).exchange = none ∧ (t.port p).okRun = 0 ∧
      t.g (cnt16 (AX_TIME_MISS_CNT p)) = min (s.g (cnt16 (AX_TIME_MISS_CNT p)) + 1) 65535 ∧
      keepsRegs s t [AX_TIME_MISS_CNT p] ∧ keepsMemory s t)

/-- A CUE frame on the tree hands its broadcast record to the member once, a record heard before is counted, one without
BROADCAST is discarded, and a frame out of its sequence is answered by one NAK (R101, R370, R387, R389); a replay request sends the cues of the last 50 µs again
(R388); an origin that has been silent for 500 µs is forgotten, and no other (R119). Readings of the model: DEDUCED,
notes/assumptions/21, DESIGN CHOICE, notes/assumptions/52. -/
def Obligations.CuesCrossTheTroupe : Prop :=
  (∀ (at_ : TT) (p : Fin 4) (h : AxHdr) (r : CueRec) (s : State), let u := s.atTime at_
    let same (d : DedupSt) := d.origin == r.origin.truncate 12 && d.live u.elapsed
    let regs := [AX_RX_FRAME_CNT p, CUE_DUP_CNT] ++ (List.range 4).flatMap (fun q => [AX_TX_FRAME_CNT q, AX_CREDIT q])
    u.inOrder p clCue h → u.bit (AX_STAT_tree p) = true → u.isMember = true → u.bit CUE_CTL_bcast_rx = true →
    u.dev ≠ .drain → recBroadcast r = true →
    (u.cue.dedup.find? same = none → ∃ t, exec (.cueRecord at_ p h r) s = .next t ∧
      t.cue.axIn = u.cue.axIn ++ [r] ∧ t.rd CUE_DUP_CNT = s.rd CUE_DUP_CNT ∧
      (t.port p).rxSeq.get 0 clCue = (h.seq.toNat + 1) % 65536 ∧ keepsRegs s t regs ∧ keepsMemory s t) ∧
    (∀ d, u.cue.dedup.find? same = some d → r.seq = d.highest →
      ∃ t, exec (.cueRecord at_ p h r) s = .next t ∧ t.cue.axIn = u.cue.axIn ∧
        t.g (cnt16 CUE_DUP_CNT) = min (s.g (cnt16 CUE_DUP_CNT) + 1) 65535 ∧ keepsRegs s t regs ∧ keepsMemory s t)) ∧
  (∀ (at_ : TT) (p : Fin 4) (h : AxHdr) (r : CueRec) (s : State), let u := s.atTime at_
    let want := (u.port p).rxSeq.get 0 clCue
    u.portUp p = true → h.seq.toNat ≠ want → (u.port p).nakSent.get false clCue = false →
    ∃ t, exec (.cueRecord at_ p h r) s = .next t ∧ t.cue = u.cue ∧
      t.ax.wire = [(p.val, u.frame clLink 2 0 [BitVec.ofNat 32 clCue, BitVec.ofNat 32 want])] ∧
      (t.port p).nakSent.get false clCue = true ∧ keepsRegs s t [AX_TX_FRAME_CNT p] ∧ keepsMemory s t) ∧
  (∀ (at_ : TT) (p : Fin 4) (h : AxHdr) (from_ : Nat) (r : CueRec) (s : State), let u := s.atTime at_
    u.inOrder p clCue h → u.ax.replay = [(from_, r)] → u.elapsed - from_ ≤ 50 * usNs →
    u.goesNow p (u.frame clCue 0 0 (cueWords r)) →
    ∃ t f, exec (.replayReq at_ p h) s = .next t ∧ (p.val, f) ∈ t.ax.wire ∧ f.cls = clCue ∧ f.replay = true ∧
      f.bcast = true ∧ f.source = r.origin.truncate 12 ∧ f.body = cueWords r ∧
      keepsRegs s t [AX_RX_FRAME_CNT p, AX_TX_FRAME_CNT p, AX_CREDIT p] ∧ keepsMemory s t) ∧
  (∀ (at_ : TT) (p : Fin 4) (h : AxHdr) (r : CueRec) (s : State), let u := s.atTime at_
    u.inOrder p clCue h → recBroadcast r = false →
    ∃ t, exec (.cueRecord at_ p h r) s = .next t ∧ t.cue = u.cue ∧
      (t.port p).rxSeq.get 0 clCue = (h.seq.toNat + 1) % 65536 ∧
      keepsRegs s t [AX_RX_FRAME_CNT p, AX_TX_FRAME_CNT p] ∧ keepsMemory s t) ∧
  (∀ (at_ : TT) (origin : MemberId) (s : State), let u := s.atTime at_
    ∃ t, exec (.dedupEntryExpire at_ origin) s = .next t ∧
      (∀ d, d ∈ t.cue.dedup ↔ d ∈ u.cue.dedup ∧ (d.origin = origin → u.elapsed - d.heardAt < 500 * usNs)) ∧
      keepsRegs s t [] ∧ keepsMemory s t)

/-- A LINE or UNIT frame of a channel's peer stores its bytes in the unit being written, a line that it ends is zero to
its stride, and any other frame shows that it is stray (R314, R390, R391). Readings of the model: DESIGN CHOICE,
notes/assumptions/70. -/
def Obligations.IsoFramesStoreLines : Prop :=
  ∀ (at_ : TT) (p : Fin 4) (h : AxHdr) (bytes : List Byte) (s : State), let u := s.atTime at_
    let k := h.channel.toNat; let d := u.g (AX_ISO_CTL_stream p k)
    let x := u.iso (8 * p + k); let cont := x.inUnit && x.line == 1 && x.bytes != 0
    let ours := k < 8 ∧ u.bit (AX_ISO_CTL_enable p k) = true ∧ u.bit (AX_ISO_CTL_dir p k) = true ∧
      h.source = BitVec.ofNat 12 (u.g (AX_ISO_CTL_peer p k))
    u.inOrder p clIso h →
    (¬ ours → ∀ (c : Instr) (lineDone : Bool),
      (c = .isoLine at_ p h bytes lineDone ∨ c = .isoUnit at_ p h bytes lineDone) →
      ∃ t, exec c s = .next t ∧ t.bit (AX_STICKY_iso_stray p) = true ∧
        keepsRegs s t [AX_STICKY p, AX_RX_FRAME_CNT p, AX_TX_FRAME_CNT p] ∧ keepsMemory s t) ∧
    (∀ (c : Instr) (lineDone : Bool) (line from_ : Nat),
      ((c = .isoLine at_ p h bytes lineDone ∧ x.inUnit = true ∧ line = x.line ∧ from_ = x.bytes) ∨
        (c = .isoUnit at_ p h bytes lineDone ∧ cont = true ∧ line = x.line ∧ from_ = x.bytes) ∨
        (c = .isoUnit at_ p h bytes lineDone ∧ cont = false ∧ line = 1 ∧ from_ = 0)) →
      let a := u.lineAddr d (u.g (DS_STAT_widx d)) (u.linePlace d line).1; let n := u.dsStride d
      let stored := if lineDone then n else from_ + bytes.length
      ours → u.g (DS_STAT_state d) = 2 → (u.linePlace d line).1 ≤ u.dsLines d → from_ + bytes.length ≤ n →
      a + n ≤ 0x80000000 →
      ∃ t, exec c s = .next t ∧ (∀ i b, bytes[i]? = some b → t.fmByte (a + from_ + i) = b) ∧
        (∀ i, from_ + bytes.length ≤ i → i < stored → t.fmByte (a + i) = 0) ∧
        (∀ b, b < a + from_ ∨ a + stored ≤ b → t.fmByte b = s.fmByte b) ∧
        (t.iso (8 * p + k)).line = (if lineDone then line + 1 else line) ∧
        (t.iso (8 * p + k)).bytes = (if lineDone then 0 else from_ + bytes.length) ∧
        (lineDone = false → keepsRegs s t [AX_RX_FRAME_CNT p, AX_TX_FRAME_CNT p]))

/-- A BULK transfer is started, requested, granted, confirmed or released, carried and done, each with its status and its
place among the member's transfers (R392–R394), its data moving to its own addresses where frame memory has
room (R336, R337); `b` is the only transfer the member holds. Readings of the model: DESIGN CHOICE, notes/assumptions/52, DESIGN CHOICE,
notes/assumptions/70. -/
def Obligations.BulkTransfersRun : Prop :=
  (∀ (at_ : TT) (v : W32) (s : State), let u := s.atTime at_
    let target : MemberId := (v >>> 16).truncate 12
    let b : BulkSt :=
      { initiator := u.memberId, tag := u.ax.tag % 65536, target := target, laddr := (u.rd (AX_BULK_LADDR 0)).toNat,
        raddr := (u.rd (AX_BULK_RADDR 0)).toNat, length := 64 * (v.toNat % 65536 + 1), sent := 0, since := u.elapsed,
        phase := 1, channel := none }
    u.reachable (AX_BULK_CTL 0) → v.getLsbD 31 = true → u.bulkBusy = false →
    (u.isMember = false ∨ target = u.memberId ∨ u.routeTo target = none →
      ∃ t, exec (.bulkStart at_ v) s = .next t ∧ t.obs.answer = [0, 0] ∧ t.g (AX_BULK_STAT_status 0) = 5 ∧
        t.ax.bulk = u.ax.bulk ∧ keepsRegs s t [AX_BULK_CTL 0, AX_BULK_STAT 0] ∧ keepsMemory s t) ∧
    (u.isMember = true → target ≠ u.memberId → u.routeTo target ≠ none →
      ∃ t, exec (.bulkStart at_ v) s = .next t ∧ t.obs.answer = [0, 0] ∧ t.g (AX_BULK_STAT_status 0) = 1 ∧
        t.ax.bulk = u.ax.bulk ++ [b] ∧
        keepsRegs s t ([AX_BULK_CTL 0, AX_BULK_STAT 0] ++ u.routeRegs target) ∧ keepsMemory s t)) ∧
  (∀ (at_ : TT) (p : Fin 4) (h : AxHdr) (raddr length : W32) (s : State), let u := s.atTime at_
    let b : BulkSt :=
      { initiator := h.source, tag := h.channel.toNat, target := u.memberId, laddr := 0, raddr := raddr.toNat,
        length := length.toNat, sent := 0, since := u.elapsed, phase := 1, channel := none }
    let regs := [AX_RX_FRAME_CNT p, AX_TX_FRAME_CNT p] ++ u.routeRegs h.source
    u.inOrder p clBulk h → h.dest = u.memberId →
    (u.bit (AX_CTL_bulk_rx 0) = false → ∃ t, exec (.bulkRequest at_ p h raddr length) s = .next t ∧
      t.ax.bulk = u.ax.bulk ∧ keepsRegs s t regs ∧ keepsMemory s t) ∧
    (u.bit (AX_CTL_bulk_rx 0) = true → u.ax.bulk = [] → ∃ t, exec (.bulkRequest at_ p h raddr length) s = .next t ∧
      t.ax.bulk = [{ b with phase := 2 }] ∧ keepsRegs s t regs ∧ keepsMemory s t) ∧
    (u.bit (AX_CTL_bulk_rx 0) = true → u.bulkHeld = true → ∃ t, exec (.bulkRequest at_ p h raddr length) s = .next t ∧
      t.ax.bulk = u.ax.bulk ++ [b] ∧ keepsRegs s t regs ∧ keepsMemory s t)) ∧
  (∀ (at_ : TT) (p : Fin 4) (h : AxHdr) (b : BulkSt) (s : State), let u := s.atTime at_
    let regs := [AX_RX_FRAME_CNT p, AX_TX_FRAME_CNT p] ++ u.routeRegs h.source
    u.inOrder p clBulk h → h.dest = u.memberId → u.ax.bulk = [b] → b.tag = h.channel.toNat →
    (b.initiator = u.memberId → b.phase = 1 → ∃ t n, exec (.bulkGrant at_ p h) s = .next t ∧
      t.ax.bulk = [{ b with phase := 3, sent := n }] ∧ t.g (AX_BULK_STAT_status 0) = 2 ∧ b.sent ≤ n ∧
      (u.fm.wait ≠ [] → n = b.sent) ∧
      (u.fm.wait = [] → u.rollWindow.roomNow (some ((b.laddr + b.sent) / 256 % 8)) = true → b.length ≤ b.sent + 256 →
        n = max b.length b.sent) ∧
      keepsRegs s t (AX_BULK_STAT 0 :: regs ++ u.routeRegs b.target) ∧ keepsMemory s t) ∧
    (b.initiator = h.source → ∃ t, exec (.bulkConfirm at_ p h) s = .next t ∧
      t.ax.bulk = [{ b with phase := 3 }] ∧ keepsRegs s t regs ∧ keepsMemory s t) ∧
    (b.initiator = h.source → b.target = u.memberId → ∃ t, exec (.bulkRelease at_ p h) s = .next t ∧
      t.ax.bulk = [{ b with phase := 2 }] ∧ keepsRegs s t regs ∧ keepsMemory s t) ∧
    (b.initiator = h.source → ∀ (raddr : W32) (bytes : List Byte), let a := b.raddr + h.offset.toNat
      (b.raddr ≠ raddr.toNat → ∃ t, exec (.bulkData at_ p h raddr bytes) s = .next t ∧ t.ax.bulk = [b] ∧
        keepsRegs s t regs ∧ keepsMemory s t) ∧
      (b.raddr = raddr.toNat →
      (u.rollWindow.spareRoom a = true → a + bytes.length ≤ 0x80000000 →
        ∃ t, exec (.bulkData at_ p h raddr bytes) s = .next t ∧
        (∀ i x, bytes[i]? = some x → t.fmByte (a + i) = x) ∧
        (∀ i, i < a ∨ a + bytes.length ≤ i → t.fmByte i = s.fmByte i) ∧
        t.ax.bulk = [{ b with sent := b.sent + bytes.length,
                              phase := if b.length ≤ b.sent + bytes.length then 4 else b.phase }] ∧
        keepsRegs s t regs) ∧
      (u.rollWindow.spareRoom a = false → ∃ t, exec (.bulkData at_ p h raddr bytes) s = .next t ∧
        (⟨none, bytes.length, .bulkIn h.source h.channel.toNat a bytes⟩ : FmReq) ∈ t.fm.wait ∧ t.ax.bulk = [b] ∧
        keepsRegs s t regs ∧ keepsMemory s t))) ∧
    (b.initiator = u.memberId → (∀ c < 32, (u.chan c).waits = false) → ∀ refused : Bool, ∃ t, exec (.bulkDone at_ p h refused) s = .next t ∧
      t.ax.bulk = [] ∧ t.g (AX_BULK_STAT_status 0) = (if refused then 4 else 3) ∧
      keepsRegs s t (AX_BULK_STAT 0 :: regs) ∧ keepsMemory s t))

/-- A remote access goes to its target, is performed there as though at its own port or refused, and is answered or
given up after 100 µs (R395); a LOG frame goes into the collector's ring, or is dropped and counted (R454). Readings
of the model: DEDUCED, notes/assumptions/56. -/
def Obligations.MembersReachEachOther : Prop :=
  (∀ (at_ : TT) (v : W32) (s : State), let u := s.atTime at_; let target : MemberId := v.truncate 12
    u.reachable (AX_RMT_CTL 0) → v.getLsbD 31 = true →
    (target ≠ u.memberId → (u.isMember = false ∨ u.routeTo target = none) →
      ∃ t, exec (.rmtAccessStart at_ v) s = .next t ∧ t.obs.answer = [0, 0] ∧ t.rd (AX_RMT_STAT 0) = 0xF0 ∧
        t.ax.rmt = none ∧ keepsRegs s t [AX_RMT_CTL 0, AX_RMT_STAT 0] ∧ keepsMemory s t) ∧
    (target ≠ u.memberId → u.isMember = true → u.routeTo target ≠ none →
      ∃ t, exec (.rmtAccessStart at_ v) s = .next t ∧ t.obs.answer = [0, 0] ∧ t.rd (AX_RMT_STAT 0) = 0x80000000 ∧
        t.ax.rmt = some (u.ax.tag % 65536, u.elapsed) ∧
        keepsRegs s t ([AX_RMT_CTL 0, AX_RMT_STAT 0] ++ u.routeRegs target) ∧ keepsMemory s t) ∧
    (target = u.memberId → ∃ t, exec (.rmtAccessStart at_ v) s = .next t ∧ t.ax.rmt = none)) ∧
  (∀ (at_ : TT) (p : Fin 4) (h : AxHdr) (q : Nat) (s : State), let u := s.atTime at_
    let regs := [AX_RX_FRAME_CNT p, AX_TX_FRAME_CNT p] ++ u.routeRegs h.source
    let answered (t : State) (st : W32) (v : W32) : Prop := ∃ f, (q, f) ∈ t.ax.wire ∧ f.cls = clMgmt ∧ f.typ = 2 ∧
      f.dest = h.source ∧ f.channel = h.channel.toNat ∧ f.body = [st, v]
    u.inOrder p clMgmt h → h.dest = u.memberId → u.routeTo h.source = some q → u.goesNow q (u.frame clMgmt 2 0 [0, 0]) →
    (u.bit (AX_CTL_mgmt_rx 0) = false → ∀ a v : W32,
      (∃ t, exec (.mgmtRead at_ p h a) s = .next t ∧ answered t 0xF2 0 ∧ keepsRegs s t regs ∧ keepsMemory s t) ∧
      (∃ t, exec (.mgmtWrite at_ p h a v) s = .next t ∧ answered t 0xF2 0 ∧ keepsRegs s t regs ∧ keepsMemory s t)) ∧
    (u.bit (AX_CTL_mgmt_rx 0) = true → ∀ (n : Fin 8) (v : W32), u.reachable (KEEP_USER n) → u.pwr.softErrs = [] →
      (∃ t, exec (.mgmtRead at_ p h (BitVec.ofNat 32 (KEEP_USER n))) s = .next t ∧
        answered t 0 (u.rd (KEEP_USER n)) ∧ keepsRegs s t regs ∧ keepsMemory s t) ∧
      (u.bitOf BAT_USER_LOCK n = false →
        ∃ t, exec (.mgmtWrite at_ p h (BitVec.ofNat 32 (KEEP_USER n)) v) s = .next t ∧ answered t 0 0 ∧
          t.rd (KEEP_USER n) = v ∧ keepsRegs s t (KEEP_USER n :: regs) ∧ keepsMemory s t))) ∧
  (∀ (at_ : TT) (p : Fin 4) (h : AxHdr) (st : Byte) (data : W32) (tag from_ : Nat) (s : State), let u := s.atTime at_
    u.inOrder p clMgmt h → h.dest = u.memberId → u.ax.rmt = some (tag, from_) → tag = h.channel.toNat →
    ∃ t, exec (.mgmtResponse at_ p h st data) s = .next t ∧ (t.rd (AX_RMT_STAT 0)).toNat = st.toNat ∧ t.ax.rmt = none ∧
      t.rd (AX_RMT_DATA 0) = (if u.bit (AX_RMT_CTL_write 0) then s.rd (AX_RMT_DATA 0) else data) ∧
      keepsRegs s t [AX_RX_FRAME_CNT p, AX_TX_FRAME_CNT p, AX_RMT_STAT 0, AX_RMT_DATA 0] ∧ keepsMemory s t) ∧
  (∀ (at_ : TT) (tag from_ : Nat) (s : State), let u := s.atTime at_
    u.ax.rmt = some (tag, from_) → from_ + 100 * usNs ≤ u.elapsed →
    ∃ t, exec (.rmtTimeout at_) s = .next t ∧ t.rd (AX_RMT_STAT 0) = 0xF1 ∧ t.ax.rmt = none ∧
      keepsRegs s t [AX_RMT_STAT 0] ∧ keepsMemory s t) ∧
  (∀ (at_ : TT) (p : Fin 4) (h : AxHdr) (payload : List Byte) (s : State), let u := s.atTime at_
    let a := (u.rd EL_COLLECT_BASE).toNat + (u.rd EL_COLLECT_HEAD).toNat % 2 ^ u.g EL_COLLECT_CTL_size * 32
    u.inOrder p clMgmt h → h.dest = u.memberId →
    (u.bit EL_COLLECT_CTL_enable = false → ∃ t, exec (.mgmtLog at_ p h payload) s = .next t ∧
      t.g (cnt16 EL_COLLECT_DROP_CNT) = min (s.g (cnt16 EL_COLLECT_DROP_CNT) + 1) 65535 ∧
      keepsRegs s t [AX_RX_FRAME_CNT p, AX_TX_FRAME_CNT p] ∧ keepsMemory s t) ∧
    (u.bit EL_COLLECT_CTL_enable = true → u.rollWindow.spareRoom a = false →
      ∃ t, exec (.mgmtLog at_ p h payload) s = .next t ∧ t.fm.wait ≠ [] ∧
        keepsRegs s t [AX_RX_FRAME_CNT p, AX_TX_FRAME_CNT p] ∧ keepsMemory s t) ∧
    (u.bit EL_COLLECT_CTL_enable = true → u.rollWindow.spareRoom a = true → payload.length = 24 → a + 32 ≤ 0x80000000 →
      ∃ t, exec (.mgmtLog at_ p h payload) s = .next t ∧ t.rd EL_COLLECT_HEAD = s.rd EL_COLLECT_HEAD + 1 ∧
        (∀ i < 16, t.fmByte (a + i) = payload.getD i 0) ∧ (∀ i < 4, t.fmByte (a + 20 + i) = payload.getD (16 + i) 0) ∧
        t.fmByte (a + 16) = h.source.truncate 8 ∧ t.fmByte (a + 17) = (h.source >>> 8).truncate 8 ∧
        (∀ i, i < a ∨ a + 32 ≤ i → t.fmByte i = s.fmByte i) ∧
        keepsRegs s t [AX_RX_FRAME_CNT p, AX_TX_FRAME_CNT p]))

/-! ### Logic fabric -/

/-- The fabric side pushes and pops a queue, an overflow and an underflow in its view being counted (R410); the bridge
side moves the word of the copy in progress (R410, R416); a flush empties a queue (R411); a tap steps within its range
(R413); and an FCLK edge gives a registered cell the value of its table, the strobes and the windows, and shows the
outcomes of bridge commands for one cycle (R399, R401, R416). Readings of the model: DEDUCED, notes/assumptions/53. -/
def Obligations.FabricClocks : Prop :=
  (∀ (at_ : TT) (k : Fin 128) (data : W36) (stale : Bool) (s : State), let u := s.atTime at_
    u.dev.active = true → u.isFifo k = true → u.bit (QC_CTL_push_side k) = false →
    (u.seenFull k stale < u.bramDepth k →
      ∃ t, exec (.fifoPush at_ k false data stale) s = .next t ∧ t.queueOf k = u.queueOf k ++ [u.cutWord k data] ∧
        keepsRegs s t [] ∧ keepsMemory s t) ∧
    (u.bramDepth k ≤ u.seenFull k stale → ∃ t, exec (.fifoPush at_ k false data stale) s = .next t ∧
      t.queueOf k = u.queueOf k ∧ t.fab.ovf.get false k = true ∧
      t.g (QC_STAT_ovf_cnt k) = min (s.g (QC_STAT_ovf_cnt k) + 1) 255 ∧ keepsRegs s t [QC_STAT k] ∧ keepsMemory s t)) ∧
  (∀ (at_ : TT) (k : Fin 128) (stale : Bool) (s : State), let u := s.atTime at_
    u.dev.active = true → u.isFifo k = true → u.bit (QC_CTL_pop_side k) = false →
    (∀ w rest, u.queueOf k = w :: rest → 0 < u.seenEmpty k stale →
      ∃ t, exec (.fifoPop at_ k false stale) s = .next t ∧ t.queueOf k = rest ∧ t.fab.head.get 0 k = w ∧
        keepsRegs s t [] ∧ keepsMemory s t) ∧
    (u.seenEmpty k stale = 0 → ∃ t, exec (.fifoPop at_ k false stale) s = .next t ∧ t.queueOf k = u.queueOf k ∧
      t.fab.unf.get false k = true ∧ t.g (QC_STAT_unf_cnt k) = min (s.g (QC_STAT_unf_cnt k) + 1) 255 ∧
      keepsRegs s t [QC_STAT k] ∧ keepsMemory s t)) ∧
  (∀ (at_ : TT) (k : Fin 128) (c : Fin 32) (x : BridgeSt) (y : BridgeCopy) (data : W36) (stale : Bool) (s : State),
    let u := s.atTime at_
    u.dev.active = true → u.isFifo k = true → u.fab.bridge = [(c.val, x)] → x.need = 0 → x.waits = false →
    x.copy = some y → y.block = k.val → y.fifo = true → y.left = 1 → (stale = false ∨ u.bridgeLags k = false) →
    u.fm.wait = [] → u.rollWindow.roomNow (some (y.addr / 256 % 8)) = true →
    (y.toFm = false → u.queueLevel k < u.bramDepth k → ∃ t, exec (.fifoPush at_ k true data stale) s = .next t ∧
      t.queueOf k = u.queueOf k ++ [u.cutWord k ((u.fmWord y.addr).zeroExtend 36)] ∧ keepsRegs s t [] ∧
      keepsMemory s t) ∧
    (∀ w rest, y.toFm = true → y.addr + 4 ≤ 0x80000000 → u.queueOf k = w :: rest →
      ∃ t, exec (.fifoPop at_ k true stale) s = .next t ∧ t.queueOf k = rest ∧ t.fmWord y.addr = w.truncate 32 ∧
        (∀ a, a < y.addr ∨ y.addr + 4 ≤ a → t.fmByte a = s.fmByte a) ∧ keepsRegs s t [])) ∧
  (∀ (at_ : TT) (k : Fin 128) (s : State), let u := s.atTime at_
    u.dev.active = true → u.isFifo k = true →
    ∃ t, exec (.fifoFlush at_ k) s = .next t ∧ t.queueOf k = [] ∧ keepsRegs s t [] ∧ keepsMemory s t) ∧
  (∀ (at_ : TT) (m : Fin 96) (s : State), let u := s.atTime at_
    u.dev.active = true →
    (∃ t, exec (.fioTapIncrement at_ m) s = .next t ∧ t.fab.tap.get 0 m = min (u.fab.tap.get 0 m + 1) 127 ∧
      keepsRegs s t [] ∧ keepsMemory s t) ∧
    (∃ t, exec (.fioTapDecrement at_ m) s = .next t ∧ t.fab.tap.get 0 m = u.fab.tap.get 0 m - 1 ∧
      keepsRegs s t [] ∧ keepsMemory s t)) ∧
  (∀ (at_ : TT) (rise fall : BitVec 96) (pads : BitVec 64) (k : Nat) (c : CellCfg) (s : State), let u := s.atTime at_
    u.fpllLocked = true → u.fab.cells = [(k, c)] → k < 0x5000 → c.registered = true →
    c.rstEn = false → c.ceEn = false → c.nets = [k, k, k, k] →
    ∃ t, exec (.fclkEdge at_ rise fall pads) s = .next t ∧
      t.fab.ff.get false k = c.table.getLsbD (if u.fab.ff.get false k then 15 else 0) ∧
      t.fab.strobe = u.fab.strobeNext ∧ t.fab.strobeNext = [] ∧
      (∀ n < 32, t.fab.window.get false n = (u.bt n).open_) ∧ t.pin.outside = pads ∧
      (∀ c, (t.chan c).done = ((u.chan c).ended == some true) ∧ (t.chan c).error = ((u.chan c).ended == some false)) ∧
      keepsRegs s t ((List.range 128).map QC_STAT) ∧ keepsMemory s t)

/-- A bridge channel takes its command's words from its queue, and waits for those that are not there yet (R416): a NOP
has no effect and a reserved opcode is rejected; a CUE is submitted with the channel's service, or waits in its chain; a
BARRIER sets or adds to its count (R416, R417); and a command that may complete has its outcome, which the done and error
outputs show in the next FCLK cycle (R416). Readings of the model: DEDUCED, notes/assumptions/53. -/
def Obligations.BridgeTakesCommands : Prop :=
  (∀ (at_ : TT) (c : Fin 32) (w : W36) (rest : List W36) (s : State), let u := s.atTime at_; let x := u.chan c
    u.bridgeMay c 0 = true → u.queueOf x.block = w :: rest → x.batch = [] →
    ∃ t, exec (.bridgeNop at_ c) s = .next t ∧ t.queueOf x.block = rest ∧ (t.chan c).busy = true ∧
      (t.chan c).rejected = decide (w ≠ 0) ∧ t.cue = u.cue ∧ t.rd FB_CMD_CNT = s.rd FB_CMD_CNT + 1 ∧
      t.bitOf FB_BUSY c = true ∧
      (w ≠ 0 → t.g FB_LAST_REJECT_reason = 1 ∧ t.g FB_LAST_REJECT_channel = c.val ∧
        t.g (cnt16 FB_REJECT_CNT) = min (s.g (cnt16 FB_REJECT_CNT) + 1) 65535) ∧
      keepsRegs s t [] ∧ keepsMemory s t) ∧
  (∀ (at_ : TT) (c : Fin 32) (i : Instr) (op : Nat) (s : State), let u := s.atTime at_; let x := u.chan c
    ((i = .bridgeCue at_ c ∧ op = 1) ∨ (i = .bridgeFmWrite at_ c ∧ op = 3) ∨ (i = .bridgeFmRead at_ c ∧ op = 4) ∨
      (i = .bridgeBulk at_ c ∧ op = 5)) →
    u.bridgeMay c op = true → (u.queueOf x.block).length < bridgeWords op →
    ∃ t, exec i s = .next t ∧ t.queueOf x.block = [] ∧ (t.chan c).busy = true ∧
      (t.chan c).words = u.queueOf x.block ∧ (t.chan c).need = bridgeWords op - (u.queueOf x.block).length ∧
      t.rd FB_CMD_CNT = s.rd FB_CMD_CNT + 1 ∧ keepsRegs s t [] ∧ keepsMemory s t) ∧
  (∀ (at_ : TT) (c : Fin 32) (s : State), let u := s.atTime at_; let x := u.chan c
    let l := (u.queueOf x.block).take 9
    let r : CueRec := { cueOfWords ((List.range 8).map (fun i => cmdWord l (i + 1))) with
      service := BitVec.ofNat 8 (u.chanSvc c) }
    u.bridgeMay c 1 = true → 9 ≤ (u.queueOf x.block).length → cmdWord l 0 = 0 → cmdPlain l = true →
    (recChain r = false → u.dev ≠ .drain → ∃ t, exec (.bridgeCue at_ c) s = .next t ∧
      t.cue.engIn = u.cue.engIn ++ [(u.chanSvc c, x.batch ++ [r])] ∧ (t.chan c).batch = [] ∧ (t.chan c).busy = true ∧
      t.queueOf x.block = (u.queueOf x.block).drop 9 ∧ keepsRegs s t [] ∧ keepsMemory s t) ∧
    (recChain r = true → ∃ t, exec (.bridgeCue at_ c) s = .next t ∧ t.cue = u.cue ∧ (t.chan c).batch = x.batch ++ [r] ∧
      (t.chan c).busy = true ∧ keepsRegs s t [] ∧ keepsMemory s t)) ∧
  (∀ (at_ : TT) (c : Fin 32) (w : W36) (rest : List W36) (s : State), let u := s.atTime at_; let x := u.chan c
    let v : W32 := w.truncate 32; let b := bitsOf v 23 16
    u.bridgeMay c 2 = true → u.queueOf x.block = w :: rest → x.batch = [] → bitsOf v 31 25 = 0 →
    u.g (BA_CTL_service b) = u.chanSvc c → u.bit (BA_CTL_src b) = true →
    ∃ t, exec (.bridgeBarrier at_ c) s = .next t ∧
      t.g (BA_COUNT_count b) = (if v.getLsbD 24 then min (s.g (BA_COUNT_count b) + bitsOf v 15 0) 65535
        else bitsOf v 15 0) ∧
      keepsRegs s t [BA_COUNT b, BA_STAT b, FM_BARRIER_SAT_CNT, FM_STICKY_barrier_sat.addr] ∧ keepsMemory s t) ∧
  (∀ (at_ : TT) (c : Fin 32) (s : State), let u := s.atTime at_; let x := u.chan c
    let ok := !x.rejected && (!x.bulk || x.outcome == some true)
    x.busy = true → x.need = 0 → x.waits = false → (∀ y, x.copy = some y → y.left = 0) →
    (x.bulk = true → x.rejected = false → x.outcome ≠ none) → (∀ b ∈ u.cue.engIn, b.1 ≠ u.chanSvc c) →
    ∃ t, exec (.bridgeCommandComplete at_ c) s = .next t ∧ (t.chan c).busy = false ∧ (t.chan c).ended = some ok ∧
      t.bitOf FB_BUSY c = false ∧ keepsRegs s t [] ∧ keepsMemory s t)

/-- FM_WRITE copies words of a RAM of the channel's service into frame memory and FM_READ copies frame memory into it,
as far as frame memory has room at once (R336, R416, R417), and BULK starts a transfer of the channel, is unreachable, or
waits for the one under way (R394, R418). Readings of the model: DEDUCED, notes/assumptions/53, DESIGN CHOICE,
notes/assumptions/70. -/
def Obligations.BridgeMovesData : Prop :=
  (∀ (at_ : TT) (c : Fin 32) (s : State), let u := s.atTime at_; let x := u.chan c
    let l := (u.queueOf x.block).take 3; let w0 := cmdWord l 0; let a := (cmdWord l 1).toNat
    let k := bitsOf w0 31 25; let start := bitsOf w0 11 0; let n := 16 * (bitsOf (cmdWord l 2) 15 0 + 1)
    let how (m : Nat) : Prop := m ≤ n ∧ (u.fm.wait ≠ [] → m = 0) ∧
      (u.fm.wait = [] → (∀ j < 8, u.rollWindow.fm.chan.get 0 j + 4 * n ≤ 50000) → m = n)
    3 ≤ (u.queueOf x.block).length → bitsOf w0 24 12 = 0 → cmdPlain l = true → bitsOf (cmdWord l 2) 31 16 = 0 →
    a % 64 = 0 → a + 4 * n ≤ 0x80000000 →
    u.ownerOf kBr k = .svc (u.chanSvc c) → u.rangeFenced (u.chanSvc c) a (4 * n) = false → u.isFifo k = false →
    u.g (QC_CTL_width k) = 2 → u.bit (QC_CTL_pop_side k) = true → x.batch = [] →
    (u.bridgeMay c 3 = true → ∃ t m, exec (.bridgeFmWrite at_ c) s = .next t ∧ how m ∧
      (∀ i < m, t.fmWord (a + 4 * i) = (u.ramWord k (start + i)).truncate 32) ∧
      (∀ b, b < a ∨ a + 4 * m ≤ b → t.fmByte b = s.fmByte b) ∧
      (t.chan c).copy = some ⟨true, k, false, start + m, a + 4 * m, n - m⟩ ∧ keepsRegs s t []) ∧
    (u.bridgeMay c 4 = true → n ≤ 1024 → ∃ t m, exec (.bridgeFmRead at_ c) s = .next t ∧ how m ∧
      (∀ i < m, t.ramWord k (start + i) = (u.fmWord (a + 4 * i)).zeroExtend 36) ∧
      (t.chan c).copy = some ⟨false, k, false, start + m, a + 4 * m, n - m⟩ ∧ keepsRegs s t [] ∧
      keepsMemory s t)) ∧
  (∀ (at_ : TT) (c : Fin 32) (s : State), let u := s.atTime at_; let x := u.chan c
    let l := (u.queueOf x.block).take 4; let la := (cmdWord l 1).toNat; let ra := (cmdWord l 2).toNat
    let n := 64 * (bitsOf (cmdWord l 3) 15 0 + 1); let target : MemberId := BitVec.ofNat 12 (bitsOf (cmdWord l 3) 27 16)
    let b : BulkSt :=
      { initiator := u.memberId, tag := u.ax.tag % 65536, target := target, laddr := la, raddr := ra, length := n,
        sent := 0, since := u.elapsed, phase := 1, channel := some c.val }
    u.bridgeMay c 5 = true → 4 ≤ (u.queueOf x.block).length →
    (u.bulkBusy = true → ∃ t, exec (.bridgeBulk at_ c) s = .next t ∧ (t.chan c).busy = true ∧ (t.chan c).waits = true ∧
      (t.chan c).words = l ∧ t.ax.bulk = u.ax.bulk ∧ keepsRegs s t [] ∧ keepsMemory s t) ∧
    (u.bulkBusy = false → cmdWord l 0 = 0 → cmdPlain l = true →
      bitsOf (cmdWord l 3) 31 28 = 0 → la % 64 = 0 → ra % 64 = 0 → la + n ≤ 0x80000000 → ra + n ≤ 0x80000000 →
      u.rangeFenced (u.chanSvc c) la n = false → x.batch = [] →
      (u.isMember = false ∨ target = u.memberId ∨ u.routeTo target = none →
        ∃ t, exec (.bridgeBulk at_ c) s = .next t ∧ t.g (AX_BULK_STAT_status 0) = 5 ∧ (t.chan c).bulk = true ∧
          (t.chan c).outcome = some false ∧ keepsRegs s t [AX_BULK_STAT 0] ∧ keepsMemory s t) ∧
      (u.isMember = true → target ≠ u.memberId → u.routeTo target ≠ none →
        ∃ t, exec (.bridgeBulk at_ c) s = .next t ∧ t.g (AX_BULK_STAT_status 0) = 1 ∧ (t.chan c).bulk = true ∧
          t.ax.bulk = u.ax.bulk ++ [b] ∧
          keepsRegs s t (AX_BULK_STAT 0 :: u.routeRegs target) ∧ keepsMemory s t)))

/-! ### Pins, event log and violations -/

/-- An observer write of GPb_OUT changes the bytes that it writes, and a misaligned one is refused (R427, R471); a
read of GPIO_IN_LO returns the levels and snapshots the upper half (R431, R474); a change of a pin event line that has
stood for its debounce time (R433) is shown, counted in a selected direction, and fires the cues armed on it (R113, R434); a glitch is counted while
enabled (R433, R434); a line's control is written (R436); a TIME output changes at its edge (R422); and a bank without
its supply drives nothing (R415, R441). Readings of the model: DEDUCED, notes/assumptions/55. -/
def Obligations.PinsFollow : Prop :=
  (∀ (at_ : TT) (b : Fin 4) (size : Size) (off : Fin 4) (v : W32) (s : State), let u := s.atTime at_
    let n := sizeBytes size; let a := GP_OUT b
    u.reachable a →
    (size ≠ .s64 → off.val % n = 0 → ∃ t, exec (.gpioOutWrite at_ b size off v) s = .next t ∧ t.obs.answer = [0, 0] ∧
      t.rd a = newWord false (regFields a) (s.rd a) (BitVec.ofNat 32 (v.toNat % 256 ^ n * 256 ^ off.val))
        (BitVec.ofNat 32 ((256 ^ n - 1) * 256 ^ off.val)) ∧
      t.rd GPIO_WRITE_CNT = s.rd GPIO_WRITE_CNT + 1 ∧ keepsRegs s t [a, GPIO_WRITE_CNT] ∧ keepsMemory s t) ∧
    (off.val % n ≠ 0 → ∃ t, exec (.gpioOutWrite at_ b size off v) s = .next t ∧ t.obs.answer = [3, 0] ∧
      keepsRegs s t [] ∧ keepsMemory s t)) ∧
  (∀ (at_ : TT) (pads : BitVec 64) (s : State), let u := (s.atTime at_).seePads pads
    u.reaches GPIO_IN_LO →
    ∃ t, exec (.gpioInSnapshotRead at_ pads) s = .next t ∧ t.pin.outside = pads ∧
      t.obs.answer = [0, 0] ++ bytesOf 4 (u.bankLevels 0 + 65536 * u.bankLevels 1) ∧
      t.obs.snapHi.lookup GPIO_IN_LO = some (BitVec.ofNat 32 (u.bankLevels 2 + 65536 * u.bankLevels 3)) ∧
      keepsRegs s t [] ∧ keepsMemory s t) ∧
  (∀ (at_ : TT) (k : Fin 16) (rises : Bool) (cause : TT) (s : State), let u := s.atTime at_
    let selected := u.bit (PEL_CTL_enable k) && (u.g (PEL_CTL_edge k)).testBit (if rises then 0 else 1)
    u.pelRuns = true → u.pelLevel k = !rises → u.padMay k rises = true → u.pelDue k cause.toNat = true →
    (selected = false → ∃ t, exec (.pelEvent at_ k rises cause) s = .next t ∧ t.pelLevel k = rises ∧
      keepsRegs s t [PEL_STAT] ∧ keepsMemory s t) ∧
    (selected = true → u.scriptsQuiet → u.bitOf SYS_WAKE_SRC k = false →
      ∃ t, exec (.pelEvent at_ k rises cause) s = .next t ∧ t.pelLevel k = rises ∧
        t.g (PEL_CNT_events k) = min (s.g (PEL_CNT_events k) + 1) 65535 ∧
        t.bitOf (if rises then PEL_RISE else PEL_FALL) k = true ∧
        (t.rd PEL_LAST).toNat = (if rises then 0 else 16) + k ∧ t.rd64 PEL_LAST_TT_LO = cause ∧
        (∀ e ∈ u.cue.entries, e.stage = .armed → e.rec_.eventSrc.toNat = 0xC0 + k → e.acceptedAt < u.now →
          { e with stage := .fired cause.toNat } ∈ t.cue.entries) ∧
        keepsRegs s t [PEL_STAT, PEL_CNT k, PEL_RISE, PEL_FALL, PEL_LAST, PEL_LAST_TT_LO, PEL_LAST_TT_HI] ∧
        keepsMemory s t)) ∧
  (∀ (at_ : TT) (k : Fin 16) (s : State), let u := s.atTime at_
    u.pelRuns = true → u.g (PEL_CTL_deb k) ≠ 0 → u.padMay k (u.pelLevel k) = true →
    ∃ t, exec (.pelGlitch at_ k) s = .next t ∧ t.pelLevel k = u.pelLevel k ∧
      t.g (PEL_CNT_glitch k) = min (s.g (PEL_CNT_glitch k) + (if u.bit (PEL_CTL_enable k) then 1 else 0)) 65535 ∧
      keepsRegs s t [PEL_STAT, PEL_CNT k] ∧ keepsMemory s t) ∧
  (∀ (at_ : TT) (k : Fin 16) (v : W32) (s : State), let u := s.atTime at_; let a := PEL_CTL k
    u.reachable a → (u.writeReg .observer a v 0xFFFFFFFF).1 = .ok →
    ∃ t, exec (.pelkCtlWrite at_ k v) s = .next t ∧ t.obs.answer = [0, 0] ∧
      t.rd a = newWord false (regFields a) (s.rd a) v 0xFFFFFFFF ∧ keepsRegs s t [a, PEL_STAT] ∧ keepsMemory s t) ∧
  (∀ (at_ : TT) (f : TimeFn) (rises : Bool) (s : State), let u := s.atTime at_
    u.dev.active = true → timeEdgeAt f rises u.now = true →
    ∃ t, exec (.timeOutputEdge at_ f rises) s = .next t ∧ t.pin.time.getLsbD (timeIx f) = rises ∧
      (∀ i, i ≠ timeIx f → t.pin.time.getLsbD i = u.pin.time.getLsbD i) ∧ keepsRegs s t [] ∧ keepsMemory s t) ∧
  (∀ (at_ : TT) (b : Bank) (s : State), let u := s.atTime at_
    (∃ t, exec (.bankSupplyLoss at_ b) s = .next t ∧ t.supplied (bankIx b) = false ∧
      (∀ i, i ≠ bankIx b → t.supplied i = u.supplied i) ∧ (∀ p, p / 16 = bankIx b → t.padOut p = none) ∧
      keepsRegs s t [] ∧ keepsMemory s t) ∧
    (∃ t, exec (.bankSupplyReturn at_ b) s = .next t ∧ t.supplied (bankIx b) = true ∧
      (∀ i, i ≠ bankIx b → t.supplied i = u.supplied i) ∧ keepsRegs s t [] ∧ keepsMemory s t))

/-- A record whose horizon is reached goes into the ring (R446, R451, R516); EL_TAIL is written within the ring (R451); a
read of word 0 holds the other words of its slot (R452); and an episode of a violation monitor is counted at its
start, when its condition has stood for its time, shows what was measured, and is measured at its end (R61, R154,
R247, R457, R458, R459). Readings of the model: DEDUCED, notes/assumptions/56, DEDUCED, notes/assumptions/57, DESIGN
CHOICE, notes/assumptions/2. -/
def Obligations.EventsAreRecorded : Prop :=
  (∀ (at_ : TT) (r : LogRec) (s : State), let u := s.atTime at_; let slot := (u.rd EL_HEAD).toNat % 4096
    u.dev.timed = true → u.log.stage = [r] → u.horizon r ≤ u.now → r.severity < 4 → u.bit EL_CTL_stream_en = false →
    ∃ t, exec (.eventCommit at_) s = .next t ∧ t.rd EL_HEAD = s.rd EL_HEAD + 1 ∧ t.rd EL_STREAM_POS = t.rd EL_HEAD ∧
      t.rd (RING_W slot 0) = r.words.1 ∧ t.rd (RING_W slot 1) = r.words.2.1 ∧ t.rd (RING_W slot 2) = r.words.2.2.1 ∧
      t.rd (RING_W slot 3) = r.words.2.2.2 ∧
      t.rd EL_TAIL = (if 4096 ≤ (u.rd EL_HEAD - u.rd EL_TAIL).toNat then s.rd EL_TAIL + 1 else s.rd EL_TAIL) ∧
      keepsRegs s t [] ∧ keepsMemory s t) ∧
  (∀ (at_ : TT) (v : W32) (s : State), let u := s.atTime at_
    u.reachable EL_TAIL →
    ((u.rd EL_HEAD - v).toNat ≤ 4096 → ∃ t, exec (.elTailWrite at_ v) s = .next t ∧ t.obs.answer = [0, 0] ∧
      t.rd EL_TAIL = v ∧ keepsRegs s t [] ∧ keepsMemory s t) ∧
    (4096 < (u.rd EL_HEAD - v).toNat → ∃ t, exec (.elTailWrite at_ v) s = .next t ∧ t.obs.answer = [6, 0] ∧
      t.rd EL_TAIL = s.rd EL_TAIL ∧ keepsRegs s t [] ∧ keepsMemory s t)) ∧
  (∀ (at_ : TT) (slot : Fin 4096) (s : State), let u := s.atTime at_
    u.reaches (RING_W slot 0) →
    ∃ t, exec (.elRecordWord0Read at_ slot) s = .next t ∧
      t.obs.answer = [0, 0] ++ bytesOf 4 (u.readValue (RING_W slot 0)).toNat ∧
      t.log.snap = some (slot.val, u.rd (RING_W slot 1), u.rd (RING_W slot 2), u.rd (RING_W slot 3)) ∧
      keepsRegs s t [] ∧ keepsMemory s t) ∧
  (∀ (at_ : TT) (m : MonitorIx) (value : BitVec 16) (cause : TT) (s : State), let u := s.atTime at_
    u.violRuns m = true → u.log.episodes.lookup m.val = none →
    (u.dev.timed = true → violMet m value.toNat (u.now - cause.toNat) = true) →
    (m.val = 12 → u.qualified 2 = true → u.activeSrc ≠ 2) →
    ∃ t, exec (.violationEpisodeStart at_ m value cause) s = .next t ∧
      t.log.episodes.lookup m.val = some (u.elapsed - (u.now - cause.toNat)) ∧
      t.g (cnt16 (KEEP_VIOL m)) = min (s.g (cnt16 (KEEP_VIOL m)) + 1) 65535 ∧ t.g BAT_VIOL_LAST_index = m.val ∧
      t.g BAT_VIOL_LAST_state = u.dev.code ∧ t.rd64 BAT_VIOL_TT_LO = (if u.dev.timed then cause else 0) ∧
      (m.val < 10 → (t.rd (VM_RAIL_MV m)).toNat = value.toNat) ∧
      (m.val = 10 ∨ m.val = 11 → signedField 16 (t.g (cnt16 SYS_TEMP)) = signedField 16 value.toNat) ∧
      (m.val = 12 → u.servoOn = true → t.qualified 2 = false) ∧
      (m.val = 13 → t.bit BAT_STAT_aoclk_ok = false) ∧
      (m.val = 14 → (t.rd BAT_VBAT_MV).toNat = value.toNat ∧ t.bit BAT_STAT_vbat_low = true) ∧
      (m.val = 15 → value.toNat < 96 → t.bit (AMX_AP_CTL_ov value.toNat) = true) ∧
      keepsRegs s t ([KEEP_VIOL m, BAT_VIOL_LAST, BAT_VIOL_TT_LO, BAT_VIOL_TT_HI] ++
        (if m.val < 10 then [VM_RAIL_MV m] else []) ++
        (if m.val = 10 ∨ m.val = 11 then [SYS_TEMP, VM_TEMP_MAX, VM_TEMP_MIN] else []) ++
        (if m.val = 12 then [TB_SRC_STAT, TB_SRC_LOSS_CNT] else []) ++ (if m.val = 13 then [BAT_STAT] else []) ++
        (if m.val = 14 then [BAT_VBAT_MV, BAT_STAT] else []) ++
        (if m.val = 15 then [(AMX_AP_CTL_ov value.toNat).addr] else [])) ∧
      keepsMemory s t) ∧
  (∀ (at_ : TT) (m : MonitorIx) (from_ : Nat) (s : State), let u := s.atTime at_
    u.log.episodes.lookup m.val = some from_ → (u.dev.timed = true → violOver m (u.elapsed - from_) = true) →
    ∃ t, exec (.violationEpisodeEnd at_ m) s = .next t ∧ t.log.episodes.lookup m.val = none ∧
      t.g VM_LAST_LEN_monitor = m.val ∧ t.g VM_LAST_LEN_us = min ((u.elapsed - from_) / usNs) 268435455 ∧
      (m.val < 10 → railOk m (t.rd (VM_RAIL_MV m)).toNat = true) ∧
      (m.val = 13 → t.bit BAT_STAT_aoclk_ok = true) ∧ (m.val = 14 → t.bit BAT_STAT_vbat_low = false) ∧
      keepsRegs s t ([VM_LAST_LEN_monitor.addr] ++ (if m.val < 10 then [VM_RAIL_MV m] else []) ++
        (if m.val = 10 ∨ m.val = 11 then [SYS_TEMP, VM_TEMP_MAX, VM_TEMP_MIN] else []) ++
        (if m.val = 13 then [BAT_STAT] else []) ++ (if m.val = 14 then [BAT_VBAT_MV, BAT_STAT] else [])) ∧
      keepsMemory s t)

/-! ### Observer port and test access port -/

/-- A READ frame returns its registers with its status, a WRITE frame writes them, and a unit that meets a full queue
is BUSY (R462, R463, R467); a header that R462 does not have is refused and counted (R468); a STAT frame returns the
counters; a frame cut off applies its whole units and counts the part of one (R464); and a bare I²C read returns the
status of the latest write (R466). Readings of the model: DEDUCED, notes/assumptions/58. -/
def Obligations.ObserverFrames : Prop :=
  (∀ (at_ : TT) (n len : Nat) (s : State), let u := s.atTime at_
    n + len ≤ 7 → (∀ i ≤ len, u.reaches (KEEP_USER (n + i))) → u.pwr.softErrs = [] →
    (∃ t, exec (.obsRead at_ 0x20 (BitVec.ofNat 8 len) (BitVec.ofNat 32 (KEEP_USER n)) []) s = .next t ∧
      t.obs.answer = [0, 0] ++ (List.range (len + 1)).flatMap (fun i => bytesOf 4 (u.rd (KEEP_USER (n + i))).toNat) ∧
      keepsRegs s t [] ∧ keepsMemory s t) ∧
    (∃ t, exec (.obsRead at_ 0x20 (BitVec.ofNat 8 len) (BitVec.ofNat 32 (KEEP_USER n)) [0]) s = .next t ∧
      t.obs.answer.take 2 = [1, 0] ∧ t.obs.counts.get 0 1 = min (u.obs.counts.get 0 1 + 1) 65535 ∧
      keepsRegs s t [] ∧ keepsMemory s t)) ∧
  (∀ (at_ : TT) (n : Fin 7) (v w : W32) (s : State), let u := s.atTime at_; let a := BitVec.ofNat 32 (KEEP_USER n)
    u.reachable (KEEP_USER n) → u.reachable (KEEP_USER (n + 1)) → u.bitOf BAT_USER_LOCK n = false →
    u.bitOf BAT_USER_LOCK (n + 1) = false →
    (∃ t, exec (.obsWrite at_ 0x60 1 a (bytesOf 4 v.toNat ++ bytesOf 4 w.toNat) []) s = .next t ∧
      t.rd (KEEP_USER n) = v ∧ t.rd (KEEP_USER (n + 1)) = w ∧ t.obs.answer = [0, 0] ∧ t.obs.wrStatus = 0 ∧
      keepsRegs s t [KEEP_USER n, KEEP_USER (n + 1)] ∧ keepsMemory s t) ∧
    (∃ t, exec (.obsWrite at_ 0x60 1 a (bytesOf 4 v.toNat ++ bytesOf 4 w.toNat) [0]) s = .next t ∧
      t.rd (KEEP_USER (n + 1)) = w ∧ t.obs.answer = [1, 0] ∧ t.obs.wrStatus = 1 ∧
      keepsRegs s t [KEEP_USER (n + 1)] ∧ keepsMemory s t) ∧
    (∀ x : Byte, ∃ t, exec (.obsCsAbort at_ ([0x60, 1] ++ (bytesOf 4 (KEEP_USER n)).reverse ++ bytesOf 4 v.toNat ++ [x]) [])
        s = .next t ∧
      t.rd (KEEP_USER n) = v ∧ t.obs.answer = [] ∧ t.obs.counts.get 0 8 = min (u.obs.counts.get 0 8 + 1) 65535 ∧
      keepsRegs s t [KEEP_USER n] ∧ keepsMemory s t)) ∧
  (∀ (at_ : TT) (op len : Byte) (addr : W32) (data : List Byte) (full : List Nat) (c : Instr) (s : State),
    let u := s.atTime at_
    u.dev.powered = true → (192 ≤ op.toNat ∨ op.toNat % 8 ≠ 0) →
    (c = .obsRead at_ op len addr full ∨ c = .obsWrite at_ op len addr data full ∨ c = .obsStat at_ op len addr) →
    ∃ t, exec c s = .next t ∧ t.obs.answer = [8, 0] ∧ t.obs.lastAddr = addr ∧
      t.obs.counts.get 0 8 = min (u.obs.counts.get 0 8 + 1) 65535 ∧ keepsRegs s t [] ∧ keepsMemory s t) ∧
  (∀ (at_ : TT) (clear : Bool) (s : State), let u := s.atTime at_
    u.dev.powered = true →
    ∃ t, exec (.obsStat at_ (if clear then 0x88 else 0x80) 0 0) s = .next t ∧
      t.obs.answer = [0, 0] ++ (List.range 8).flatMap (fun i => bytesOf 2 (u.obs.counts.get 0 (i + 1))) ++
        bytesOf 4 u.obs.lastAddr.toNat ∧
      t.obs.counts = (if clear then [] else u.obs.counts) ∧ keepsRegs s t [] ∧ keepsMemory s t) ∧
  (∀ (at_ : TT) (s : State), let u := s.atTime at_
    u.dev.powered = true → u.obs.i2c = true →
    ∃ t, exec (.i2cStatusRead at_) s = .next t ∧ t.obs.answer = [u.obs.wrStatus, u.obs.wrIndex] ∧ keepsRegs s t [] ∧
      keepsMemory s t)

/-- The test access port: a reset loads IDCODE, the boundary instructions capture the pads and take them only in INERT or
in RESET with RESET_N low (R481, R482); IDCODE, BYPASS; and the private instructions, one observer unit and the
readback, which a fuse or a seal refuses and counts (R483). Readings of the model: DEDUCED, notes/assumptions/59,
DESIGN CHOICE, notes/assumptions/2. -/
def Obligations.TestPortInstructions : Prop :=
  (∀ (at_ : TT) (pads cells : BitVec 546) (s : State), let u := s.atTime at_
    let may := u.dev == .inert || (u.dev == .reset && !u.pwr.resetN)
    u.dev.powered = true →
    (∃ t, exec (.tapReset at_) s = .next t ∧ t.tap.ir = 0x02 ∧ t.tap.padsTaken = false ∧ keepsRegs s t [] ∧
      keepsMemory s t) ∧
    (∃ t, exec (.extest at_ pads cells) s = .next t ∧ t.tap.scan = (List.range 546).map pads.getLsbD ∧
      t.tap.boundary = cells ∧ t.tap.padsTaken = may ∧ keepsRegs s t [] ∧ keepsMemory s t) ∧
    (∃ t, exec (.samplePreload at_ pads cells) s = .next t ∧ t.tap.scan = (List.range 546).map pads.getLsbD ∧
      t.tap.boundary = cells ∧ t.tap.padsTaken = false ∧ keepsRegs s t [] ∧ keepsMemory s t) ∧
    (∃ t, exec (.idcode at_) s = .next t ∧ t.tap.dr = 0x12080C6B ∧ t.tap.padsTaken = false ∧ keepsRegs s t [] ∧
      keepsMemory s t) ∧
    (∃ t, exec (.highz at_) s = .next t ∧ t.tap.padsTaken = may ∧ t.tap.highz = may ∧ keepsRegs s t [] ∧
      keepsMemory s t) ∧
    (∃ t, exec (.clamp at_) s = .next t ∧ t.tap.padsTaken = may ∧ t.tap.highz = false ∧ keepsRegs s t [] ∧
      keepsMemory s t) ∧
    (∀ (code : Byte) (tdi : Bool), ∃ t, exec (.bypass at_ code tdi) s = .next t ∧ t.tap.bypassBit = tdi ∧
      t.tap.padsTaken = false ∧ keepsRegs s t [] ∧ keepsMemory s t)) ∧
  (∀ (at_ : TT) (n : Fin 8) (v : W32) (s : State), let u := s.atTime at_
    let dr (op : Nat) : BitVec 72 := BitVec.ofNat 72 (op * 2 ^ 70 + 2 * 2 ^ 68 + KEEP_USER n * 2 ^ 32 + v.toNat)
    u.reachable (KEEP_USER n) →
    (u.privateOff = false → u.pwr.softErrs = [] → ∃ t, exec (.obsAccess at_ (dr 0) false) s = .next t ∧
      t.tap.dr = BitVec.ofNat 72 (KEEP_USER n * 2 ^ 32 + (u.rd (KEEP_USER n)).toNat) ∧ keepsRegs s t [] ∧
      keepsMemory s t) ∧
    (u.privateOff = false → u.bitOf BAT_USER_LOCK n = false → ∃ t, exec (.obsAccess at_ (dr 1) false) s = .next t ∧
      t.rd (KEEP_USER n) = v ∧ keepsRegs s t [KEEP_USER n] ∧ keepsMemory s t) ∧
    (u.privateOff = true → ∀ c : Instr, (c = .obsAccess at_ (dr 1) false ∨ c = .rbScan at_) →
      ∃ t, exec c s = .next t ∧
        t.g (cnt16 CFG_CHAN_REFUSE_CNT) = min (s.g (cnt16 CFG_CHAN_REFUSE_CNT) + 1) 65535 ∧
        keepsRegs s t [CFG_CHAN_REFUSE_CNT] ∧ keepsMemory s t)) ∧
  (∀ (at_ : TT) (s : State), let u := s.atTime at_
    u.privateOff = false → u.dev = .inspect → u.bit CFG_CHAN_CTL_en = true →
    ∃ t, exec (.rbScan at_) s = .next t ∧ t.tap.scan = (List.range 20480).map (fun i => u.fab.ff.get false i) ∧
      keepsRegs s t [] ∧ keepsMemory s t)
end

