-- ==== Sys2Proof/Laws/Cells.lean ====
section
/-! SUPPORT. Laws of the stored register words: a read after a write, the canonical form, and fields. -/

namespace Sys2Proof.Machine

/-- Leaving out one address leaves the words of the others. -/
theorem cellGet_filter_ne (a b : Nat) (h : a ≠ b) (c : List (Nat × W32)) :
    cellGet (c.filter (fun x => x.1 != a)) b = cellGet c b := by
  induction c with
  | nil => rfl
  | cons x t ih =>
    obtain ⟨k, w⟩ := x
    by_cases hk : k = a
    · subst hk
      simp [cellGet, h, ih]
    · simp [hk, cellGet, ih]

/-- Leaving out an address leaves its reset value. -/
theorem cellGet_filter_same (a : Nat) (c : List (Nat × W32)) :
    cellGet (c.filter (fun x => x.1 != a)) a = resetOf a := by
  induction c with
  | nil => rfl
  | cons x t ih =>
    obtain ⟨k, w⟩ := x
    by_cases hk : k = a
    · simp [hk, ih]
    · simp [hk, cellGet, ih]

/-- A word reads back as it was written. -/
theorem cellGet_cellPut_same (a : Nat) (v : W32) (c : List (Nat × W32)) : cellGet (cellPut a v c) a = v := by
  induction c with
  | nil => by_cases h : v = resetOf a <;> simp [cellPut, cellGet, h]
  | cons x t ih =>
    obtain ⟨k, w⟩ := x
    unfold cellPut
    split
    · have : k ≠ a := by omega
      simp [cellGet, this, ih]
    · by_cases h : v = resetOf a
      · simp only [h, if_true]; exact cellGet_filter_same a _
      · simp [h, cellGet]

/-- A write leaves every other word. -/
theorem cellGet_cellPut_ne (a b : Nat) (h : a ≠ b) (v : W32) (c : List (Nat × W32)) :
    cellGet (cellPut a v c) b = cellGet c b := by
  induction c with
  | nil => by_cases hv : v = resetOf a <;> simp [cellPut, cellGet, h, hv]
  | cons x t ih =>
    obtain ⟨k, w⟩ := x
    unfold cellPut
    split
    · simp [cellGet, ih]
    · by_cases hv : v = resetOf a
      · simp only [hv, if_true]; exact cellGet_filter_ne a b h _
      · simp only [hv, if_false, cellGet, h]; exact cellGet_filter_ne a b h _

/-- A lower bound may be lowered. -/
theorem cellsFrom_mono {m n : Nat} (h : m ≤ n) (c : List (Nat × W32)) (hc : cellsFrom n c = true) :
    cellsFrom m c = true := by
  cases c with
  | nil => rfl
  | cons x t =>
    obtain ⟨k, w⟩ := x
    simp only [cellsFrom, Bool.and_eq_true, decide_eq_true_eq] at hc ⊢
    exact ⟨⟨by omega, hc.1.2⟩, hc.2⟩

/-- Leaving out words keeps the canonical form. -/
theorem cellsFrom_filter (p : Nat × W32 → Bool) (n : Nat) (c : List (Nat × W32)) (hc : cellsFrom n c = true) :
    cellsFrom n (c.filter p) = true := by
  induction c generalizing n with
  | nil => rfl
  | cons x t ih =>
    obtain ⟨k, w⟩ := x
    simp only [cellsFrom, Bool.and_eq_true, decide_eq_true_eq] at hc
    by_cases hp : p (k, w) = true
    · simp [hp, cellsFrom, hc.1.1, hc.1.2, ih _ hc.2]
    · simp only [List.filter_cons, hp]
      exact cellsFrom_mono (by omega) _ (ih _ hc.2)

/-- From a bound on, no word lies below it. -/
theorem cellsFrom_filter_above (a n : Nat) (h : a < n) (c : List (Nat × W32)) (hc : cellsFrom n c = true) :
    c.filter (fun x => x.1 != a) = c := by
  induction c generalizing n with
  | nil => rfl
  | cons x t ih =>
    obtain ⟨k, w⟩ := x
    simp only [cellsFrom, Bool.and_eq_true, decide_eq_true_eq] at hc
    have : k ≠ a := by omega
    simp [this, ih _ (by omega) hc.2]

/-- A write keeps the canonical form. -/
theorem cellsFrom_cellPut (a : Nat) (v : W32) (n : Nat) (h : n ≤ a) (c : List (Nat × W32))
    (hc : cellsFrom n c = true) : cellsFrom n (cellPut a v c) = true := by
  induction c generalizing n with
  | nil => by_cases hv : v = resetOf a <;> simp [cellPut, cellsFrom, hv, h]
  | cons x t ih =>
    obtain ⟨k, w⟩ := x
    have hc' := hc
    simp only [cellsFrom, Bool.and_eq_true, decide_eq_true_eq] at hc
    unfold cellPut
    split
    · simp [cellsFrom, hc.1.1, hc.1.2, ih _ (by omega) hc.2]
    · by_cases hv : v = resetOf a
      · simp only [hv, if_true]; exact cellsFrom_filter _ _ _ hc'
      · simp only [hv, if_false, cellsFrom, Bool.and_eq_true, decide_eq_true_eq]
        refine ⟨⟨h, hv⟩, ?_⟩
        by_cases hk : k = a
        · subst hk
          simp only [bne_self_eq_false, List.filter_cons]
          exact cellsFrom_filter _ _ _ hc.2
        · have hka : (k != a) = true := by simp [hk]
          simp only [List.filter_cons, hka, if_true, cellsFrom, Bool.and_eq_true, decide_eq_true_eq]
          exact ⟨⟨by omega, hc.1.2⟩, cellsFrom_filter _ _ _ hc.2⟩

@[simp] theorem State.rd_wr_same (s : State) (a : Nat) (v : W32) : (s.wr a v).rd a = v :=
  cellGet_cellPut_same a v s.cells

theorem State.rd_wr_ne (s : State) {a b : Nat} (h : a ≠ b) (v : W32) : (s.wr a v).rd b = s.rd b :=
  cellGet_cellPut_ne a b h v s.cells

theorem State.wr_cellsWf (s : State) (a : Nat) (v : W32) (h : cellsWf s.cells) : cellsWf (s.wr a v).cells :=
  cellsFrom_cellPut a v 0 (Nat.zero_le a) s.cells h

/-! ### Fields -/

/-- The bits of a field as a number, bit by bit. -/
theorem Fld.of_put (f : Fld) (w : W32) (v : Nat) (h1 : f.lo ≤ f.hi) (h2 : f.hi < 32) :
    f.of (f.put w v) = v % 2 ^ (f.hi + 1 - f.lo) := by
  apply Nat.eq_of_testBit_eq
  intro i
  simp only [Fld.of, Fld.put, BitVec.toNat_or, BitVec.toNat_and, BitVec.toNat_not, BitVec.toNat_ofNat,
    Nat.testBit_mod_two_pow, Nat.testBit_div_two_pow, Nat.testBit_or, Nat.testBit_and]
  by_cases hi : i < f.hi + 1 - f.lo
  · have hx : i + f.lo < 32 := by omega
    have e1 : (2 ^ 32 - 1 - ((2 ^ (f.hi + 1 - f.lo) - 1) * 2 ^ f.lo) % 2 ^ 32).testBit (i + f.lo) = false := by
      rw [show 2 ^ 32 - 1 - ((2 ^ (f.hi + 1 - f.lo) - 1) * 2 ^ f.lo) % 2 ^ 32 =
        2 ^ 32 - (((2 ^ (f.hi + 1 - f.lo) - 1) * 2 ^ f.lo) % 2 ^ 32 + 1) by omega]
      rw [Nat.testBit_two_pow_sub_succ (Nat.mod_lt _ (by decide))]
      simp only [Nat.testBit_mod_two_pow, Nat.testBit_mul_two_pow, Nat.testBit_two_pow_sub_one, hx, hi, decide_true,
        Bool.true_and, Bool.not_true, Nat.le_add_left, Nat.add_sub_cancel]
    have e2 : (v % 2 ^ (f.hi + 1 - f.lo) * 2 ^ f.lo).testBit (i + f.lo) = v.testBit i := by
      simp only [Nat.testBit_mul_two_pow, Nat.testBit_mod_two_pow, Nat.le_add_left, decide_true, Bool.true_and,
        Nat.add_sub_cancel, hi]
    simp only [e1, e2, hx, hi, decide_true, Bool.true_and, Bool.and_false, Bool.false_or]
  · simp [hi]

/-- The bits outside a field keep their values when it is set. -/
theorem Fld.of_put_ne (f g : Fld) (w : W32) (v : Nat) (h1 : f.lo ≤ f.hi) (hg : g.hi < 32)
    (h : g.hi < f.lo ∨ f.hi < g.lo) : g.of (f.put w v) = g.of w := by
  apply Nat.eq_of_testBit_eq
  intro i
  simp only [Fld.of, Fld.put, BitVec.toNat_or, BitVec.toNat_and, BitVec.toNat_not, BitVec.toNat_ofNat,
    Nat.testBit_mod_two_pow, Nat.testBit_div_two_pow, Nat.testBit_or, Nat.testBit_and]
  by_cases hi : i < g.hi + 1 - g.lo
  · have hx : i + g.lo < 32 := by omega
    have e1 : (2 ^ 32 - 1 - ((2 ^ (f.hi + 1 - f.lo) - 1) * 2 ^ f.lo) % 2 ^ 32).testBit (i + g.lo) = true := by
      rw [show 2 ^ 32 - 1 - ((2 ^ (f.hi + 1 - f.lo) - 1) * 2 ^ f.lo) % 2 ^ 32 =
        2 ^ 32 - (((2 ^ (f.hi + 1 - f.lo) - 1) * 2 ^ f.lo) % 2 ^ 32 + 1) by omega]
      rw [Nat.testBit_two_pow_sub_succ (Nat.mod_lt _ (by decide))]
      simp only [Nat.testBit_mod_two_pow, Nat.testBit_mul_two_pow, Nat.testBit_two_pow_sub_one, hx, decide_true,
        Bool.true_and, Bool.not_eq_true', Bool.and_eq_false_iff, decide_eq_false_iff_not]
      omega
    have e2 : (v % 2 ^ (f.hi + 1 - f.lo) * 2 ^ f.lo).testBit (i + g.lo) = false := by
      simp only [Nat.testBit_mul_two_pow, Nat.testBit_mod_two_pow, Bool.and_eq_false_iff, decide_eq_false_iff_not]
      omega
    simp only [e1, e2, hi, decide_true, Bool.true_and, Bool.and_true, Bool.and_false, Bool.or_false]
  · simp [hi]

theorem State.g_p_same (s : State) (f : Fld) (v : Nat) (h1 : f.lo ≤ f.hi) (h2 : f.hi < 32) :
    (s.p f v).g f = v % 2 ^ (f.hi + 1 - f.lo) := by
  simp [State.g, State.p, Fld.of_put f _ v h1 h2]

/-- A field of another register, or of other bits of the same, keeps its value. -/
theorem State.g_p_ne (s : State) (f g : Fld) (v : Nat) (h1 : f.lo ≤ f.hi) (hg : g.hi < 32)
    (h : f.addr ≠ g.addr ∨ g.hi < f.lo ∨ f.hi < g.lo) : (s.p f v).g g = s.g g := by
  by_cases ha : f.addr = g.addr
  · have h' : g.hi < f.lo ∨ f.hi < g.lo := h.resolve_left (fun n => n ha)
    simp only [State.g, State.p, ha, State.rd_wr_same]
    exact Fld.of_put_ne f g _ v h1 hg h'
  · simp [State.g, State.p, State.rd_wr_ne s ha]

theorem State.rd_p_ne (s : State) {f : Fld} {a : Nat} (h : f.addr ≠ a) (v : Nat) : (s.p f v).rd a = s.rd a :=
  State.rd_wr_ne s h _

end Sys2Proof.Machine
end

