-- ==== Sys2Proof/Laws/Memory.lean ====
section
/-! SUPPORT. Laws of frame memory: a read after a write, and the canonical form that every memory operation keeps. -/

namespace Sys2Proof.Machine

/-- Leaving out one address leaves the bytes of the others. -/
theorem fmGet_filter_ne (a b : Nat) (h : a ≠ b) (c : List Host.Cell) :
    fmGet (c.filter (fun x => x.1 != a)) b = fmGet c b := by
  induction c with
  | nil => rfl
  | cons x t ih =>
    obtain ⟨k, w⟩ := x
    by_cases hk : k = a
    · subst hk
      simp [fmGet, h, ih]
    · simp [hk, fmGet, ih]

/-- Leaving out an address leaves 0. -/
theorem fmGet_filter_same (a : Nat) (c : List Host.Cell) :
    fmGet (c.filter (fun x => x.1 != a)) a = 0 := by
  induction c with
  | nil => rfl
  | cons x t ih =>
    obtain ⟨k, w⟩ := x
    by_cases hk : k = a
    · simp [hk, ih]
    · simp [hk, fmGet, ih]

/-- A byte reads back as it was written. -/
theorem fmGet_fmPut_same (a : Nat) (v : Byte) (c : List Host.Cell) : fmGet (fmPut a v c) a = v := by
  induction c with
  | nil => by_cases h : v = 0 <;> simp only [fmPut, fmGet, h, if_true, if_false]
  | cons x t ih =>
    obtain ⟨k, w⟩ := x
    unfold fmPut
    split
    · have : k ≠ a := by omega
      simp [fmGet, this, ih]
    · by_cases h : v = 0
      · simp only [h, if_true]; exact fmGet_filter_same a _
      · simp only [h, fmGet, if_true, if_false]

/-- A write leaves every other byte. -/
theorem fmGet_fmPut_ne (a b : Nat) (h : a ≠ b) (v : Byte) (c : List Host.Cell) :
    fmGet (fmPut a v c) b = fmGet c b := by
  induction c with
  | nil => by_cases hv : v = 0 <;> simp only [fmPut, fmGet, h, hv, if_true, if_false]
  | cons x t ih =>
    obtain ⟨k, w⟩ := x
    unfold fmPut
    split
    · simp [fmGet, ih]
    · by_cases hv : v = 0
      · simp only [hv, if_true]; exact fmGet_filter_ne a b h _
      · simp only [hv, if_false, fmGet, h]; exact fmGet_filter_ne a b h _

/-- A lower bound may be lowered. -/
theorem fmFrom_mono {m n : Nat} (h : m ≤ n) (c : List Host.Cell) (hc : fmFrom n c = true) :
    fmFrom m c = true := by
  cases c with
  | nil => rfl
  | cons x t =>
    obtain ⟨k, w⟩ := x
    simp only [fmFrom, Bool.and_eq_true, decide_eq_true_eq] at hc ⊢
    exact ⟨⟨by omega, hc.1.2⟩, hc.2⟩

/-- Leaving out bytes keeps the canonical form. -/
theorem fmFrom_filter (p : Host.Cell → Bool) (n : Nat) (c : List Host.Cell) (hc : fmFrom n c = true) :
    fmFrom n (c.filter p) = true := by
  induction c generalizing n with
  | nil => rfl
  | cons x t ih =>
    obtain ⟨k, w⟩ := x
    simp only [fmFrom, Bool.and_eq_true, decide_eq_true_eq] at hc
    by_cases hp : p (k, w) = true
    · simp only [List.filter_cons, hp, if_true, fmFrom, Bool.and_eq_true, decide_eq_true_eq]
      exact ⟨hc.1, ih _ hc.2⟩
    · simp only [List.filter_cons, hp]
      exact fmFrom_mono (by omega) _ (ih _ hc.2)

/-- From a bound on, no byte lies below it. -/
theorem fmFrom_filter_above (a n : Nat) (h : a < n) (c : List Host.Cell) (hc : fmFrom n c = true) :
    c.filter (fun x => x.1 != a) = c := by
  induction c generalizing n with
  | nil => rfl
  | cons x t ih =>
    obtain ⟨k, w⟩ := x
    simp only [fmFrom, Bool.and_eq_true, decide_eq_true_eq] at hc
    have : k ≠ a := by omega
    simp [this, ih _ (by omega) hc.2]

/-- A write keeps the canonical form. -/
theorem fmFrom_fmPut (a : Nat) (v : Byte) (n : Nat) (h : n ≤ a) (c : List Host.Cell)
    (hc : fmFrom n c = true) : fmFrom n (fmPut a v c) = true := by
  induction c generalizing n with
  | nil =>
    by_cases hv : v = 0
    · simp only [fmPut, hv, if_true, fmFrom]
    · simp only [fmPut, hv, if_false, fmFrom, Bool.and_eq_true, decide_eq_true_eq]
      exact ⟨⟨h, hv⟩, trivial⟩
  | cons x t ih =>
    obtain ⟨k, w⟩ := x
    have hc' := hc
    simp only [fmFrom, Bool.and_eq_true, decide_eq_true_eq] at hc
    unfold fmPut
    split
    · simp only [fmFrom, Bool.and_eq_true, decide_eq_true_eq]
      exact ⟨hc.1, ih _ (by omega) hc.2⟩
    · by_cases hv : v = 0
      · simp only [hv, if_true]; exact fmFrom_filter _ _ _ hc'
      · simp only [hv, if_false, fmFrom, Bool.and_eq_true, decide_eq_true_eq]
        refine ⟨⟨h, hv⟩, ?_⟩
        by_cases hk : k = a
        · subst hk
          simp only [bne_self_eq_false, List.filter_cons]
          exact fmFrom_filter _ _ _ hc.2
        · have hka : (k != a) = true := by simp [hk]
          simp only [List.filter_cons, hka, if_true, fmFrom, Bool.and_eq_true, decide_eq_true_eq]
          exact ⟨⟨by omega, hc.1.2⟩, fmFrom_filter _ _ _ hc.2⟩

@[simp] theorem State.fmByte_set_same (s : State) {a : Nat} (h : a < fmSize) (v : Byte) :
    (s.setFmByte a v).fmByte a = v := by
  simp [State.setFmByte, State.fmByte, h, fmGet_fmPut_same]

theorem State.fmByte_set_ne (s : State) {a b : Nat} (h : a ≠ b) (v : Byte) :
    (s.setFmByte a v).fmByte b = s.fmByte b := by
  unfold State.setFmByte
  split
  · exact fmGet_fmPut_ne a b h v _
  · rfl

/-- Setting a byte keeps the canonical form. -/
theorem State.setFmByte_wf (s : State) (a : Nat) (v : Byte) (h : Memory.wf s.fm.bytes) :
    Memory.wf (s.setFmByte a v).fm.bytes := by
  unfold State.setFmByte
  split
  · exact fmFrom_fmPut a v 0 (Nat.zero_le a) _ h
  · exact h

/-- Writing bytes keeps the canonical form. -/
theorem State.writeFm_wf (l : List Byte) (s : State) (a : Nat) (h : Memory.wf s.fm.bytes) :
    Memory.wf (s.writeFm a l).fm.bytes := by
  induction l generalizing s a with
  | nil => exact h
  | cons b t ih => exact ih _ _ (State.setFmByte_wf s a b h)

/-- Bytes outside those written read as before. -/
theorem State.fmByte_writeFm_ne (l : List Byte) (s : State) (a : Nat) {b : Nat} (h : b < a ∨ a + l.length ≤ b) :
    (s.writeFm a l).fmByte b = s.fmByte b := by
  induction l generalizing s a with
  | nil => rfl
  | cons x t ih =>
    simp only [List.length_cons] at h
    rw [State.writeFm, ih _ _ (by omega), State.fmByte_set_ne s (by omega)]

/-- Bytes written read back. -/
theorem State.fmByte_writeFm_same (l : List Byte) (s : State) (a i : Nat) (hi : i < l.length)
    (h : a + l.length ≤ fmSize) : (s.writeFm a l).fmByte (a + i) = l[i] := by
  induction l generalizing s a i with
  | nil => simp at hi
  | cons x t ih =>
    simp only [List.length_cons] at h hi
    rw [State.writeFm]
    cases i with
    | zero =>
      rw [State.fmByte_writeFm_ne _ _ _ (by omega)]
      exact State.fmByte_set_same s (by omega) x
    | succ j =>
      have := ih (s.setFmByte a x) (a + 1) j (by omega) (by omega)
      simpa [Nat.add_assoc, Nat.add_comm 1] using this

/-- Writing frame memory changes nothing else. -/
theorem State.writeFm_eq (l : List Byte) (s : State) (a : Nat) :
    ∃ m, s.writeFm a l = { s with fm := m } := by
  induction l generalizing s a with
  | nil => exact ⟨s.fm, rfl⟩
  | cons b t ih =>
    obtain ⟨m, hm⟩ := ih (s.setFmByte a b) (a + 1)
    refine ⟨m, ?_⟩
    rw [State.writeFm, hm]
    unfold State.setFmByte
    split <;> rfl

/-- Frame memory at reset is in canonical form. -/
theorem State.reset_wf : Memory.wf State.reset.fm.bytes := rfl

end Sys2Proof.Machine
end

