-- ==== Sys2Proof/Laws/State.lean ====
section
/-! SUPPORT. One lemma per field of `State` and per named update of it: what the update leaves alone. -/

namespace Sys2Proof.Machine

/-! ### `wr` -/

@[simp] theorem State.wr_pending (s : State) (a : Nat) (v : W32) : (s.wr a v).pending = s.pending := rfl
@[simp] theorem State.wr_free (s : State) (a : Nat) (v : W32) : (s.wr a v).free = s.free := rfl
@[simp] theorem State.wr_clock (s : State) (a : Nat) (v : W32) : (s.wr a v).clock = s.clock := rfl
@[simp] theorem State.wr_tb (s : State) (a : Nat) (v : W32) : (s.wr a v).tb = s.tb := rfl
@[simp] theorem State.wr_cue (s : State) (a : Nat) (v : W32) : (s.wr a v).cue = s.cue := rfl
@[simp] theorem State.wr_pwr (s : State) (a : Nat) (v : W32) : (s.wr a v).pwr = s.pwr := rfl
@[simp] theorem State.wr_log (s : State) (a : Nat) (v : W32) : (s.wr a v).log = s.log := rfl
@[simp] theorem State.wr_obs (s : State) (a : Nat) (v : W32) : (s.wr a v).obs = s.obs := rfl
@[simp] theorem State.wr_tap (s : State) (a : Nat) (v : W32) : (s.wr a v).tap = s.tap := rfl
@[simp] theorem State.wr_ax (s : State) (a : Nat) (v : W32) : (s.wr a v).ax = s.ax := rfl
@[simp] theorem State.wr_cfg (s : State) (a : Nat) (v : W32) : (s.wr a v).cfg = s.cfg := rfl
@[simp] theorem State.wr_lp (s : State) (a : Nat) (v : W32) : (s.wr a v).lp = s.lp := rfl
@[simp] theorem State.wr_cell (s : State) (a : Nat) (v : W32) : (s.wr a v).cell = s.cell := rfl
@[simp] theorem State.wr_bus (s : State) (a : Nat) (v : W32) : (s.wr a v).bus = s.bus := rfl
@[simp] theorem State.wr_apAt (s : State) (a : Nat) (v : W32) : (s.wr a v).apAt = s.apAt := rfl
@[simp] theorem State.wr_fc (s : State) (a : Nat) (v : W32) : (s.wr a v).fc = s.fc := rfl
@[simp] theorem State.wr_wm (s : State) (a : Nat) (v : W32) : (s.wr a v).wm = s.wm := rfl
@[simp] theorem State.wr_se (s : State) (a : Nat) (v : W32) : (s.wr a v).se = s.se := rfl
@[simp] theorem State.wr_ds (s : State) (a : Nat) (v : W32) : (s.wr a v).ds = s.ds := rfl
@[simp] theorem State.wr_fm (s : State) (a : Nat) (v : W32) : (s.wr a v).fm = s.fm := rfl
@[simp] theorem State.wr_fab (s : State) (a : Nat) (v : W32) : (s.wr a v).fab = s.fab := rfl
@[simp] theorem State.wr_pin (s : State) (a : Nat) (v : W32) : (s.wr a v).pin = s.pin := rfl
@[simp] theorem State.wr_ring (s : State) (a : Nat) (v : W32) : (s.wr a v).ring = s.ring := rfl
@[simp] theorem State.wr_sampleAt (s : State) (a : Nat) (v : W32) : (s.wr a v).sampleAt = s.sampleAt := rfl
@[simp] theorem State.wr_claims (s : State) (a : Nat) (v : W32) : (s.wr a v).claims = s.claims := rfl
@[simp] theorem State.wr_press (s : State) (a : Nat) (v : W32) : (s.wr a v).press = s.press := rfl
@[simp] theorem State.wr_seeded (s : State) (a : Nat) (v : W32) : (s.wr a v).seeded = s.seeded := rfl
@[simp] theorem State.wr_undo (s : State) (a : Nat) (v : W32) : (s.wr a v).undo = s.undo := rfl

/-! ### `p` -/

@[simp] theorem State.p_pending (s : State) (f : Fld) (v : Nat) : (s.p f v).pending = s.pending := rfl
@[simp] theorem State.p_free (s : State) (f : Fld) (v : Nat) : (s.p f v).free = s.free := rfl
@[simp] theorem State.p_clock (s : State) (f : Fld) (v : Nat) : (s.p f v).clock = s.clock := rfl
@[simp] theorem State.p_tb (s : State) (f : Fld) (v : Nat) : (s.p f v).tb = s.tb := rfl
@[simp] theorem State.p_cue (s : State) (f : Fld) (v : Nat) : (s.p f v).cue = s.cue := rfl
@[simp] theorem State.p_pwr (s : State) (f : Fld) (v : Nat) : (s.p f v).pwr = s.pwr := rfl
@[simp] theorem State.p_log (s : State) (f : Fld) (v : Nat) : (s.p f v).log = s.log := rfl
@[simp] theorem State.p_obs (s : State) (f : Fld) (v : Nat) : (s.p f v).obs = s.obs := rfl
@[simp] theorem State.p_tap (s : State) (f : Fld) (v : Nat) : (s.p f v).tap = s.tap := rfl
@[simp] theorem State.p_ax (s : State) (f : Fld) (v : Nat) : (s.p f v).ax = s.ax := rfl
@[simp] theorem State.p_cfg (s : State) (f : Fld) (v : Nat) : (s.p f v).cfg = s.cfg := rfl
@[simp] theorem State.p_lp (s : State) (f : Fld) (v : Nat) : (s.p f v).lp = s.lp := rfl
@[simp] theorem State.p_cell (s : State) (f : Fld) (v : Nat) : (s.p f v).cell = s.cell := rfl
@[simp] theorem State.p_bus (s : State) (f : Fld) (v : Nat) : (s.p f v).bus = s.bus := rfl
@[simp] theorem State.p_apAt (s : State) (f : Fld) (v : Nat) : (s.p f v).apAt = s.apAt := rfl
@[simp] theorem State.p_fc (s : State) (f : Fld) (v : Nat) : (s.p f v).fc = s.fc := rfl
@[simp] theorem State.p_wm (s : State) (f : Fld) (v : Nat) : (s.p f v).wm = s.wm := rfl
@[simp] theorem State.p_se (s : State) (f : Fld) (v : Nat) : (s.p f v).se = s.se := rfl
@[simp] theorem State.p_ds (s : State) (f : Fld) (v : Nat) : (s.p f v).ds = s.ds := rfl
@[simp] theorem State.p_fm (s : State) (f : Fld) (v : Nat) : (s.p f v).fm = s.fm := rfl
@[simp] theorem State.p_fab (s : State) (f : Fld) (v : Nat) : (s.p f v).fab = s.fab := rfl
@[simp] theorem State.p_pin (s : State) (f : Fld) (v : Nat) : (s.p f v).pin = s.pin := rfl
@[simp] theorem State.p_ring (s : State) (f : Fld) (v : Nat) : (s.p f v).ring = s.ring := rfl
@[simp] theorem State.p_sampleAt (s : State) (f : Fld) (v : Nat) : (s.p f v).sampleAt = s.sampleAt := rfl
@[simp] theorem State.p_claims (s : State) (f : Fld) (v : Nat) : (s.p f v).claims = s.claims := rfl
@[simp] theorem State.p_press (s : State) (f : Fld) (v : Nat) : (s.p f v).press = s.press := rfl
@[simp] theorem State.p_seeded (s : State) (f : Fld) (v : Nat) : (s.p f v).seeded = s.seeded := rfl
@[simp] theorem State.p_undo (s : State) (f : Fld) (v : Nat) : (s.p f v).undo = s.undo := rfl

/-! ### `setRes` -/

@[simp] theorem State.setRes_pending (s : State) (r : Nat) (x : ResSt) : (s.setRes r x).pending = s.pending := rfl
@[simp] theorem State.setRes_cells (s : State) (r : Nat) (x : ResSt) : (s.setRes r x).cells = s.cells := rfl
@[simp] theorem State.setRes_free (s : State) (r : Nat) (x : ResSt) : (s.setRes r x).free = s.free := rfl
@[simp] theorem State.setRes_clock (s : State) (r : Nat) (x : ResSt) : (s.setRes r x).clock = s.clock := rfl
@[simp] theorem State.setRes_tb (s : State) (r : Nat) (x : ResSt) : (s.setRes r x).tb = s.tb := rfl
@[simp] theorem State.setRes_cue (s : State) (r : Nat) (x : ResSt) : (s.setRes r x).cue = s.cue := rfl
@[simp] theorem State.setRes_log (s : State) (r : Nat) (x : ResSt) : (s.setRes r x).log = s.log := rfl
@[simp] theorem State.setRes_obs (s : State) (r : Nat) (x : ResSt) : (s.setRes r x).obs = s.obs := rfl
@[simp] theorem State.setRes_tap (s : State) (r : Nat) (x : ResSt) : (s.setRes r x).tap = s.tap := rfl
@[simp] theorem State.setRes_ax (s : State) (r : Nat) (x : ResSt) : (s.setRes r x).ax = s.ax := rfl
@[simp] theorem State.setRes_cfg (s : State) (r : Nat) (x : ResSt) : (s.setRes r x).cfg = s.cfg := rfl
@[simp] theorem State.setRes_lp (s : State) (r : Nat) (x : ResSt) : (s.setRes r x).lp = s.lp := rfl
@[simp] theorem State.setRes_cell (s : State) (r : Nat) (x : ResSt) : (s.setRes r x).cell = s.cell := rfl
@[simp] theorem State.setRes_bus (s : State) (r : Nat) (x : ResSt) : (s.setRes r x).bus = s.bus := rfl
@[simp] theorem State.setRes_apAt (s : State) (r : Nat) (x : ResSt) : (s.setRes r x).apAt = s.apAt := rfl
@[simp] theorem State.setRes_fc (s : State) (r : Nat) (x : ResSt) : (s.setRes r x).fc = s.fc := rfl
@[simp] theorem State.setRes_wm (s : State) (r : Nat) (x : ResSt) : (s.setRes r x).wm = s.wm := rfl
@[simp] theorem State.setRes_se (s : State) (r : Nat) (x : ResSt) : (s.setRes r x).se = s.se := rfl
@[simp] theorem State.setRes_ds (s : State) (r : Nat) (x : ResSt) : (s.setRes r x).ds = s.ds := rfl
@[simp] theorem State.setRes_fm (s : State) (r : Nat) (x : ResSt) : (s.setRes r x).fm = s.fm := rfl
@[simp] theorem State.setRes_fab (s : State) (r : Nat) (x : ResSt) : (s.setRes r x).fab = s.fab := rfl
@[simp] theorem State.setRes_pin (s : State) (r : Nat) (x : ResSt) : (s.setRes r x).pin = s.pin := rfl
@[simp] theorem State.setRes_ring (s : State) (r : Nat) (x : ResSt) : (s.setRes r x).ring = s.ring := rfl
@[simp] theorem State.setRes_sampleAt (s : State) (r : Nat) (x : ResSt) : (s.setRes r x).sampleAt = s.sampleAt := rfl
@[simp] theorem State.setRes_claims (s : State) (r : Nat) (x : ResSt) : (s.setRes r x).claims = s.claims := rfl
@[simp] theorem State.setRes_press (s : State) (r : Nat) (x : ResSt) : (s.setRes r x).press = s.press := rfl
@[simp] theorem State.setRes_seeded (s : State) (r : Nat) (x : ResSt) : (s.setRes r x).seeded = s.seeded := rfl
@[simp] theorem State.setRes_undo (s : State) (r : Nat) (x : ResSt) : (s.setRes r x).undo = s.undo := rfl
@[simp] theorem State.setRes_rd (s : State) (r : Nat) (x : ResSt) (i : Nat) : (s.setRes r x).rd i = s.rd i := rfl

/-! ### `setPort` -/

@[simp] theorem State.setPort_pending (s : State) (p : Nat) (x : PortSt) : (s.setPort p x).pending = s.pending := rfl
@[simp] theorem State.setPort_cells (s : State) (p : Nat) (x : PortSt) : (s.setPort p x).cells = s.cells := rfl
@[simp] theorem State.setPort_free (s : State) (p : Nat) (x : PortSt) : (s.setPort p x).free = s.free := rfl
@[simp] theorem State.setPort_clock (s : State) (p : Nat) (x : PortSt) : (s.setPort p x).clock = s.clock := rfl
@[simp] theorem State.setPort_tb (s : State) (p : Nat) (x : PortSt) : (s.setPort p x).tb = s.tb := rfl
@[simp] theorem State.setPort_cue (s : State) (p : Nat) (x : PortSt) : (s.setPort p x).cue = s.cue := rfl
@[simp] theorem State.setPort_pwr (s : State) (p : Nat) (x : PortSt) : (s.setPort p x).pwr = s.pwr := rfl
@[simp] theorem State.setPort_log (s : State) (p : Nat) (x : PortSt) : (s.setPort p x).log = s.log := rfl
@[simp] theorem State.setPort_obs (s : State) (p : Nat) (x : PortSt) : (s.setPort p x).obs = s.obs := rfl
@[simp] theorem State.setPort_tap (s : State) (p : Nat) (x : PortSt) : (s.setPort p x).tap = s.tap := rfl
@[simp] theorem State.setPort_cfg (s : State) (p : Nat) (x : PortSt) : (s.setPort p x).cfg = s.cfg := rfl
@[simp] theorem State.setPort_lp (s : State) (p : Nat) (x : PortSt) : (s.setPort p x).lp = s.lp := rfl
@[simp] theorem State.setPort_cell (s : State) (p : Nat) (x : PortSt) : (s.setPort p x).cell = s.cell := rfl
@[simp] theorem State.setPort_bus (s : State) (p : Nat) (x : PortSt) : (s.setPort p x).bus = s.bus := rfl
@[simp] theorem State.setPort_apAt (s : State) (p : Nat) (x : PortSt) : (s.setPort p x).apAt = s.apAt := rfl
@[simp] theorem State.setPort_fc (s : State) (p : Nat) (x : PortSt) : (s.setPort p x).fc = s.fc := rfl
@[simp] theorem State.setPort_wm (s : State) (p : Nat) (x : PortSt) : (s.setPort p x).wm = s.wm := rfl
@[simp] theorem State.setPort_se (s : State) (p : Nat) (x : PortSt) : (s.setPort p x).se = s.se := rfl
@[simp] theorem State.setPort_ds (s : State) (p : Nat) (x : PortSt) : (s.setPort p x).ds = s.ds := rfl
@[simp] theorem State.setPort_fm (s : State) (p : Nat) (x : PortSt) : (s.setPort p x).fm = s.fm := rfl
@[simp] theorem State.setPort_fab (s : State) (p : Nat) (x : PortSt) : (s.setPort p x).fab = s.fab := rfl
@[simp] theorem State.setPort_pin (s : State) (p : Nat) (x : PortSt) : (s.setPort p x).pin = s.pin := rfl
@[simp] theorem State.setPort_ring (s : State) (p : Nat) (x : PortSt) : (s.setPort p x).ring = s.ring := rfl
@[simp] theorem State.setPort_sampleAt (s : State) (p : Nat) (x : PortSt) : (s.setPort p x).sampleAt = s.sampleAt := rfl
@[simp] theorem State.setPort_claims (s : State) (p : Nat) (x : PortSt) : (s.setPort p x).claims = s.claims := rfl
@[simp] theorem State.setPort_press (s : State) (p : Nat) (x : PortSt) : (s.setPort p x).press = s.press := rfl
@[simp] theorem State.setPort_seeded (s : State) (p : Nat) (x : PortSt) : (s.setPort p x).seeded = s.seeded := rfl
@[simp] theorem State.setPort_undo (s : State) (p : Nat) (x : PortSt) : (s.setPort p x).undo = s.undo := rfl
@[simp] theorem State.setPort_rd (s : State) (p : Nat) (x : PortSt) (i : Nat) : (s.setPort p x).rd i = s.rd i := rfl

/-! ### `setCell` -/

@[simp] theorem State.setCell_pending (s : State) (c : Nat) (x : CellSt) : (s.setCell c x).pending = s.pending := rfl
@[simp] theorem State.setCell_cells (s : State) (c : Nat) (x : CellSt) : (s.setCell c x).cells = s.cells := rfl
@[simp] theorem State.setCell_free (s : State) (c : Nat) (x : CellSt) : (s.setCell c x).free = s.free := rfl
@[simp] theorem State.setCell_clock (s : State) (c : Nat) (x : CellSt) : (s.setCell c x).clock = s.clock := rfl
@[simp] theorem State.setCell_tb (s : State) (c : Nat) (x : CellSt) : (s.setCell c x).tb = s.tb := rfl
@[simp] theorem State.setCell_cue (s : State) (c : Nat) (x : CellSt) : (s.setCell c x).cue = s.cue := rfl
@[simp] theorem State.setCell_pwr (s : State) (c : Nat) (x : CellSt) : (s.setCell c x).pwr = s.pwr := rfl
@[simp] theorem State.setCell_log (s : State) (c : Nat) (x : CellSt) : (s.setCell c x).log = s.log := rfl
@[simp] theorem State.setCell_obs (s : State) (c : Nat) (x : CellSt) : (s.setCell c x).obs = s.obs := rfl
@[simp] theorem State.setCell_tap (s : State) (c : Nat) (x : CellSt) : (s.setCell c x).tap = s.tap := rfl
@[simp] theorem State.setCell_ax (s : State) (c : Nat) (x : CellSt) : (s.setCell c x).ax = s.ax := rfl
@[simp] theorem State.setCell_cfg (s : State) (c : Nat) (x : CellSt) : (s.setCell c x).cfg = s.cfg := rfl
@[simp] theorem State.setCell_lp (s : State) (c : Nat) (x : CellSt) : (s.setCell c x).lp = s.lp := rfl
@[simp] theorem State.setCell_bus (s : State) (c : Nat) (x : CellSt) : (s.setCell c x).bus = s.bus := rfl
@[simp] theorem State.setCell_apAt (s : State) (c : Nat) (x : CellSt) : (s.setCell c x).apAt = s.apAt := rfl
@[simp] theorem State.setCell_fc (s : State) (c : Nat) (x : CellSt) : (s.setCell c x).fc = s.fc := rfl
@[simp] theorem State.setCell_wm (s : State) (c : Nat) (x : CellSt) : (s.setCell c x).wm = s.wm := rfl
@[simp] theorem State.setCell_se (s : State) (c : Nat) (x : CellSt) : (s.setCell c x).se = s.se := rfl
@[simp] theorem State.setCell_ds (s : State) (c : Nat) (x : CellSt) : (s.setCell c x).ds = s.ds := rfl
@[simp] theorem State.setCell_fm (s : State) (c : Nat) (x : CellSt) : (s.setCell c x).fm = s.fm := rfl
@[simp] theorem State.setCell_fab (s : State) (c : Nat) (x : CellSt) : (s.setCell c x).fab = s.fab := rfl
@[simp] theorem State.setCell_pin (s : State) (c : Nat) (x : CellSt) : (s.setCell c x).pin = s.pin := rfl
@[simp] theorem State.setCell_ring (s : State) (c : Nat) (x : CellSt) : (s.setCell c x).ring = s.ring := rfl
@[simp] theorem State.setCell_sampleAt (s : State) (c : Nat) (x : CellSt) : (s.setCell c x).sampleAt = s.sampleAt := rfl
@[simp] theorem State.setCell_claims (s : State) (c : Nat) (x : CellSt) : (s.setCell c x).claims = s.claims := rfl
@[simp] theorem State.setCell_press (s : State) (c : Nat) (x : CellSt) : (s.setCell c x).press = s.press := rfl
@[simp] theorem State.setCell_seeded (s : State) (c : Nat) (x : CellSt) : (s.setCell c x).seeded = s.seeded := rfl
@[simp] theorem State.setCell_undo (s : State) (c : Nat) (x : CellSt) : (s.setCell c x).undo = s.undo := rfl
@[simp] theorem State.setCell_rd (s : State) (c : Nat) (x : CellSt) (i : Nat) : (s.setCell c x).rd i = s.rd i := rfl

/-! ### `setChain` -/

@[simp] theorem State.setChain_pending (s : State) (c : Nat) (x : ChainSt) : (s.setChain c x).pending = s.pending := rfl
@[simp] theorem State.setChain_cells (s : State) (c : Nat) (x : ChainSt) : (s.setChain c x).cells = s.cells := rfl
@[simp] theorem State.setChain_free (s : State) (c : Nat) (x : ChainSt) : (s.setChain c x).free = s.free := rfl
@[simp] theorem State.setChain_clock (s : State) (c : Nat) (x : ChainSt) : (s.setChain c x).clock = s.clock := rfl
@[simp] theorem State.setChain_tb (s : State) (c : Nat) (x : ChainSt) : (s.setChain c x).tb = s.tb := rfl
@[simp] theorem State.setChain_cue (s : State) (c : Nat) (x : ChainSt) : (s.setChain c x).cue = s.cue := rfl
@[simp] theorem State.setChain_pwr (s : State) (c : Nat) (x : ChainSt) : (s.setChain c x).pwr = s.pwr := rfl
@[simp] theorem State.setChain_log (s : State) (c : Nat) (x : ChainSt) : (s.setChain c x).log = s.log := rfl
@[simp] theorem State.setChain_obs (s : State) (c : Nat) (x : ChainSt) : (s.setChain c x).obs = s.obs := rfl
@[simp] theorem State.setChain_tap (s : State) (c : Nat) (x : ChainSt) : (s.setChain c x).tap = s.tap := rfl
@[simp] theorem State.setChain_ax (s : State) (c : Nat) (x : ChainSt) : (s.setChain c x).ax = s.ax := rfl
@[simp] theorem State.setChain_cfg (s : State) (c : Nat) (x : ChainSt) : (s.setChain c x).cfg = s.cfg := rfl
@[simp] theorem State.setChain_lp (s : State) (c : Nat) (x : ChainSt) : (s.setChain c x).lp = s.lp := rfl
@[simp] theorem State.setChain_cell (s : State) (c : Nat) (x : ChainSt) : (s.setChain c x).cell = s.cell := rfl
@[simp] theorem State.setChain_bus (s : State) (c : Nat) (x : ChainSt) : (s.setChain c x).bus = s.bus := rfl
@[simp] theorem State.setChain_apAt (s : State) (c : Nat) (x : ChainSt) : (s.setChain c x).apAt = s.apAt := rfl
@[simp] theorem State.setChain_wm (s : State) (c : Nat) (x : ChainSt) : (s.setChain c x).wm = s.wm := rfl
@[simp] theorem State.setChain_se (s : State) (c : Nat) (x : ChainSt) : (s.setChain c x).se = s.se := rfl
@[simp] theorem State.setChain_ds (s : State) (c : Nat) (x : ChainSt) : (s.setChain c x).ds = s.ds := rfl
@[simp] theorem State.setChain_fm (s : State) (c : Nat) (x : ChainSt) : (s.setChain c x).fm = s.fm := rfl
@[simp] theorem State.setChain_fab (s : State) (c : Nat) (x : ChainSt) : (s.setChain c x).fab = s.fab := rfl
@[simp] theorem State.setChain_pin (s : State) (c : Nat) (x : ChainSt) : (s.setChain c x).pin = s.pin := rfl
@[simp] theorem State.setChain_ring (s : State) (c : Nat) (x : ChainSt) : (s.setChain c x).ring = s.ring := rfl
@[simp] theorem State.setChain_sampleAt (s : State) (c : Nat) (x : ChainSt) : (s.setChain c x).sampleAt = s.sampleAt := rfl
@[simp] theorem State.setChain_claims (s : State) (c : Nat) (x : ChainSt) : (s.setChain c x).claims = s.claims := rfl
@[simp] theorem State.setChain_press (s : State) (c : Nat) (x : ChainSt) : (s.setChain c x).press = s.press := rfl
@[simp] theorem State.setChain_seeded (s : State) (c : Nat) (x : ChainSt) : (s.setChain c x).seeded = s.seeded := rfl
@[simp] theorem State.setChain_undo (s : State) (c : Nat) (x : ChainSt) : (s.setChain c x).undo = s.undo := rfl
@[simp] theorem State.setChain_rd (s : State) (c : Nat) (x : ChainSt) (i : Nat) : (s.setChain c x).rd i = s.rd i := rfl

/-! ### `setLp` -/

@[simp] theorem State.setLp_pending (s : State) (p : Nat) (x : LpSt) : (s.setLp p x).pending = s.pending := rfl
@[simp] theorem State.setLp_cells (s : State) (p : Nat) (x : LpSt) : (s.setLp p x).cells = s.cells := rfl
@[simp] theorem State.setLp_free (s : State) (p : Nat) (x : LpSt) : (s.setLp p x).free = s.free := rfl
@[simp] theorem State.setLp_clock (s : State) (p : Nat) (x : LpSt) : (s.setLp p x).clock = s.clock := rfl
@[simp] theorem State.setLp_tb (s : State) (p : Nat) (x : LpSt) : (s.setLp p x).tb = s.tb := rfl
@[simp] theorem State.setLp_cue (s : State) (p : Nat) (x : LpSt) : (s.setLp p x).cue = s.cue := rfl
@[simp] theorem State.setLp_pwr (s : State) (p : Nat) (x : LpSt) : (s.setLp p x).pwr = s.pwr := rfl
@[simp] theorem State.setLp_log (s : State) (p : Nat) (x : LpSt) : (s.setLp p x).log = s.log := rfl
@[simp] theorem State.setLp_obs (s : State) (p : Nat) (x : LpSt) : (s.setLp p x).obs = s.obs := rfl
@[simp] theorem State.setLp_tap (s : State) (p : Nat) (x : LpSt) : (s.setLp p x).tap = s.tap := rfl
@[simp] theorem State.setLp_ax (s : State) (p : Nat) (x : LpSt) : (s.setLp p x).ax = s.ax := rfl
@[simp] theorem State.setLp_cfg (s : State) (p : Nat) (x : LpSt) : (s.setLp p x).cfg = s.cfg := rfl
@[simp] theorem State.setLp_cell (s : State) (p : Nat) (x : LpSt) : (s.setLp p x).cell = s.cell := rfl
@[simp] theorem State.setLp_bus (s : State) (p : Nat) (x : LpSt) : (s.setLp p x).bus = s.bus := rfl
@[simp] theorem State.setLp_apAt (s : State) (p : Nat) (x : LpSt) : (s.setLp p x).apAt = s.apAt := rfl
@[simp] theorem State.setLp_fc (s : State) (p : Nat) (x : LpSt) : (s.setLp p x).fc = s.fc := rfl
@[simp] theorem State.setLp_wm (s : State) (p : Nat) (x : LpSt) : (s.setLp p x).wm = s.wm := rfl
@[simp] theorem State.setLp_se (s : State) (p : Nat) (x : LpSt) : (s.setLp p x).se = s.se := rfl
@[simp] theorem State.setLp_ds (s : State) (p : Nat) (x : LpSt) : (s.setLp p x).ds = s.ds := rfl
@[simp] theorem State.setLp_fm (s : State) (p : Nat) (x : LpSt) : (s.setLp p x).fm = s.fm := rfl
@[simp] theorem State.setLp_fab (s : State) (p : Nat) (x : LpSt) : (s.setLp p x).fab = s.fab := rfl
@[simp] theorem State.setLp_pin (s : State) (p : Nat) (x : LpSt) : (s.setLp p x).pin = s.pin := rfl
@[simp] theorem State.setLp_ring (s : State) (p : Nat) (x : LpSt) : (s.setLp p x).ring = s.ring := rfl
@[simp] theorem State.setLp_sampleAt (s : State) (p : Nat) (x : LpSt) : (s.setLp p x).sampleAt = s.sampleAt := rfl
@[simp] theorem State.setLp_claims (s : State) (p : Nat) (x : LpSt) : (s.setLp p x).claims = s.claims := rfl
@[simp] theorem State.setLp_press (s : State) (p : Nat) (x : LpSt) : (s.setLp p x).press = s.press := rfl
@[simp] theorem State.setLp_seeded (s : State) (p : Nat) (x : LpSt) : (s.setLp p x).seeded = s.seeded := rfl
@[simp] theorem State.setLp_undo (s : State) (p : Nat) (x : LpSt) : (s.setLp p x).undo = s.undo := rfl
@[simp] theorem State.setLp_rd (s : State) (p : Nat) (x : LpSt) (i : Nat) : (s.setLp p x).rd i = s.rd i := rfl

/-! ### `setMon` -/

@[simp] theorem State.setMon_pending (s : State) (m : Nat) (x : MonSt) : (s.setMon m x).pending = s.pending := rfl
@[simp] theorem State.setMon_cells (s : State) (m : Nat) (x : MonSt) : (s.setMon m x).cells = s.cells := rfl
@[simp] theorem State.setMon_free (s : State) (m : Nat) (x : MonSt) : (s.setMon m x).free = s.free := rfl
@[simp] theorem State.setMon_clock (s : State) (m : Nat) (x : MonSt) : (s.setMon m x).clock = s.clock := rfl
@[simp] theorem State.setMon_tb (s : State) (m : Nat) (x : MonSt) : (s.setMon m x).tb = s.tb := rfl
@[simp] theorem State.setMon_cue (s : State) (m : Nat) (x : MonSt) : (s.setMon m x).cue = s.cue := rfl
@[simp] theorem State.setMon_pwr (s : State) (m : Nat) (x : MonSt) : (s.setMon m x).pwr = s.pwr := rfl
@[simp] theorem State.setMon_log (s : State) (m : Nat) (x : MonSt) : (s.setMon m x).log = s.log := rfl
@[simp] theorem State.setMon_obs (s : State) (m : Nat) (x : MonSt) : (s.setMon m x).obs = s.obs := rfl
@[simp] theorem State.setMon_tap (s : State) (m : Nat) (x : MonSt) : (s.setMon m x).tap = s.tap := rfl
@[simp] theorem State.setMon_ax (s : State) (m : Nat) (x : MonSt) : (s.setMon m x).ax = s.ax := rfl
@[simp] theorem State.setMon_cfg (s : State) (m : Nat) (x : MonSt) : (s.setMon m x).cfg = s.cfg := rfl
@[simp] theorem State.setMon_lp (s : State) (m : Nat) (x : MonSt) : (s.setMon m x).lp = s.lp := rfl
@[simp] theorem State.setMon_cell (s : State) (m : Nat) (x : MonSt) : (s.setMon m x).cell = s.cell := rfl
@[simp] theorem State.setMon_bus (s : State) (m : Nat) (x : MonSt) : (s.setMon m x).bus = s.bus := rfl
@[simp] theorem State.setMon_apAt (s : State) (m : Nat) (x : MonSt) : (s.setMon m x).apAt = s.apAt := rfl
@[simp] theorem State.setMon_fc (s : State) (m : Nat) (x : MonSt) : (s.setMon m x).fc = s.fc := rfl
@[simp] theorem State.setMon_se (s : State) (m : Nat) (x : MonSt) : (s.setMon m x).se = s.se := rfl
@[simp] theorem State.setMon_ds (s : State) (m : Nat) (x : MonSt) : (s.setMon m x).ds = s.ds := rfl
@[simp] theorem State.setMon_fm (s : State) (m : Nat) (x : MonSt) : (s.setMon m x).fm = s.fm := rfl
@[simp] theorem State.setMon_fab (s : State) (m : Nat) (x : MonSt) : (s.setMon m x).fab = s.fab := rfl
@[simp] theorem State.setMon_pin (s : State) (m : Nat) (x : MonSt) : (s.setMon m x).pin = s.pin := rfl
@[simp] theorem State.setMon_ring (s : State) (m : Nat) (x : MonSt) : (s.setMon m x).ring = s.ring := rfl
@[simp] theorem State.setMon_sampleAt (s : State) (m : Nat) (x : MonSt) : (s.setMon m x).sampleAt = s.sampleAt := rfl
@[simp] theorem State.setMon_claims (s : State) (m : Nat) (x : MonSt) : (s.setMon m x).claims = s.claims := rfl
@[simp] theorem State.setMon_press (s : State) (m : Nat) (x : MonSt) : (s.setMon m x).press = s.press := rfl
@[simp] theorem State.setMon_seeded (s : State) (m : Nat) (x : MonSt) : (s.setMon m x).seeded = s.seeded := rfl
@[simp] theorem State.setMon_undo (s : State) (m : Nat) (x : MonSt) : (s.setMon m x).undo = s.undo := rfl
@[simp] theorem State.setMon_rd (s : State) (m : Nat) (x : MonSt) (i : Nat) : (s.setMon m x).rd i = s.rd i := rfl

/-! ### `setRg` -/

@[simp] theorem State.setRg_pending (s : State) (n : Nat) (r : RasterSt) : (s.setRg n r).pending = s.pending := rfl
@[simp] theorem State.setRg_cells (s : State) (n : Nat) (r : RasterSt) : (s.setRg n r).cells = s.cells := rfl
@[simp] theorem State.setRg_free (s : State) (n : Nat) (r : RasterSt) : (s.setRg n r).free = s.free := rfl
@[simp] theorem State.setRg_clock (s : State) (n : Nat) (r : RasterSt) : (s.setRg n r).clock = s.clock := rfl
@[simp] theorem State.setRg_cue (s : State) (n : Nat) (r : RasterSt) : (s.setRg n r).cue = s.cue := rfl
@[simp] theorem State.setRg_pwr (s : State) (n : Nat) (r : RasterSt) : (s.setRg n r).pwr = s.pwr := rfl
@[simp] theorem State.setRg_log (s : State) (n : Nat) (r : RasterSt) : (s.setRg n r).log = s.log := rfl
@[simp] theorem State.setRg_obs (s : State) (n : Nat) (r : RasterSt) : (s.setRg n r).obs = s.obs := rfl
@[simp] theorem State.setRg_tap (s : State) (n : Nat) (r : RasterSt) : (s.setRg n r).tap = s.tap := rfl
@[simp] theorem State.setRg_ax (s : State) (n : Nat) (r : RasterSt) : (s.setRg n r).ax = s.ax := rfl
@[simp] theorem State.setRg_cfg (s : State) (n : Nat) (r : RasterSt) : (s.setRg n r).cfg = s.cfg := rfl
@[simp] theorem State.setRg_lp (s : State) (n : Nat) (r : RasterSt) : (s.setRg n r).lp = s.lp := rfl
@[simp] theorem State.setRg_cell (s : State) (n : Nat) (r : RasterSt) : (s.setRg n r).cell = s.cell := rfl
@[simp] theorem State.setRg_bus (s : State) (n : Nat) (r : RasterSt) : (s.setRg n r).bus = s.bus := rfl
@[simp] theorem State.setRg_apAt (s : State) (n : Nat) (r : RasterSt) : (s.setRg n r).apAt = s.apAt := rfl
@[simp] theorem State.setRg_fc (s : State) (n : Nat) (r : RasterSt) : (s.setRg n r).fc = s.fc := rfl
@[simp] theorem State.setRg_wm (s : State) (n : Nat) (r : RasterSt) : (s.setRg n r).wm = s.wm := rfl
@[simp] theorem State.setRg_se (s : State) (n : Nat) (r : RasterSt) : (s.setRg n r).se = s.se := rfl
@[simp] theorem State.setRg_ds (s : State) (n : Nat) (r : RasterSt) : (s.setRg n r).ds = s.ds := rfl
@[simp] theorem State.setRg_fm (s : State) (n : Nat) (r : RasterSt) : (s.setRg n r).fm = s.fm := rfl
@[simp] theorem State.setRg_fab (s : State) (n : Nat) (r : RasterSt) : (s.setRg n r).fab = s.fab := rfl
@[simp] theorem State.setRg_pin (s : State) (n : Nat) (r : RasterSt) : (s.setRg n r).pin = s.pin := rfl
@[simp] theorem State.setRg_ring (s : State) (n : Nat) (r : RasterSt) : (s.setRg n r).ring = s.ring := rfl
@[simp] theorem State.setRg_sampleAt (s : State) (n : Nat) (r : RasterSt) : (s.setRg n r).sampleAt = s.sampleAt := rfl
@[simp] theorem State.setRg_claims (s : State) (n : Nat) (r : RasterSt) : (s.setRg n r).claims = s.claims := rfl
@[simp] theorem State.setRg_press (s : State) (n : Nat) (r : RasterSt) : (s.setRg n r).press = s.press := rfl
@[simp] theorem State.setRg_seeded (s : State) (n : Nat) (r : RasterSt) : (s.setRg n r).seeded = s.seeded := rfl
@[simp] theorem State.setRg_undo (s : State) (n : Nat) (r : RasterSt) : (s.setRg n r).undo = s.undo := rfl
@[simp] theorem State.setRg_rd (s : State) (n : Nat) (r : RasterSt) (i : Nat) : (s.setRg n r).rd i = s.rd i := rfl

/-! ### `setBt` -/

@[simp] theorem State.setBt_pending (s : State) (n : Nat) (b : TimerSt) : (s.setBt n b).pending = s.pending := rfl
@[simp] theorem State.setBt_cells (s : State) (n : Nat) (b : TimerSt) : (s.setBt n b).cells = s.cells := rfl
@[simp] theorem State.setBt_free (s : State) (n : Nat) (b : TimerSt) : (s.setBt n b).free = s.free := rfl
@[simp] theorem State.setBt_clock (s : State) (n : Nat) (b : TimerSt) : (s.setBt n b).clock = s.clock := rfl
@[simp] theorem State.setBt_cue (s : State) (n : Nat) (b : TimerSt) : (s.setBt n b).cue = s.cue := rfl
@[simp] theorem State.setBt_pwr (s : State) (n : Nat) (b : TimerSt) : (s.setBt n b).pwr = s.pwr := rfl
@[simp] theorem State.setBt_log (s : State) (n : Nat) (b : TimerSt) : (s.setBt n b).log = s.log := rfl
@[simp] theorem State.setBt_obs (s : State) (n : Nat) (b : TimerSt) : (s.setBt n b).obs = s.obs := rfl
@[simp] theorem State.setBt_tap (s : State) (n : Nat) (b : TimerSt) : (s.setBt n b).tap = s.tap := rfl
@[simp] theorem State.setBt_ax (s : State) (n : Nat) (b : TimerSt) : (s.setBt n b).ax = s.ax := rfl
@[simp] theorem State.setBt_cfg (s : State) (n : Nat) (b : TimerSt) : (s.setBt n b).cfg = s.cfg := rfl
@[simp] theorem State.setBt_lp (s : State) (n : Nat) (b : TimerSt) : (s.setBt n b).lp = s.lp := rfl
@[simp] theorem State.setBt_cell (s : State) (n : Nat) (b : TimerSt) : (s.setBt n b).cell = s.cell := rfl
@[simp] theorem State.setBt_bus (s : State) (n : Nat) (b : TimerSt) : (s.setBt n b).bus = s.bus := rfl
@[simp] theorem State.setBt_apAt (s : State) (n : Nat) (b : TimerSt) : (s.setBt n b).apAt = s.apAt := rfl
@[simp] theorem State.setBt_fc (s : State) (n : Nat) (b : TimerSt) : (s.setBt n b).fc = s.fc := rfl
@[simp] theorem State.setBt_wm (s : State) (n : Nat) (b : TimerSt) : (s.setBt n b).wm = s.wm := rfl
@[simp] theorem State.setBt_se (s : State) (n : Nat) (b : TimerSt) : (s.setBt n b).se = s.se := rfl
@[simp] theorem State.setBt_ds (s : State) (n : Nat) (b : TimerSt) : (s.setBt n b).ds = s.ds := rfl
@[simp] theorem State.setBt_fm (s : State) (n : Nat) (b : TimerSt) : (s.setBt n b).fm = s.fm := rfl
@[simp] theorem State.setBt_fab (s : State) (n : Nat) (b : TimerSt) : (s.setBt n b).fab = s.fab := rfl
@[simp] theorem State.setBt_pin (s : State) (n : Nat) (b : TimerSt) : (s.setBt n b).pin = s.pin := rfl
@[simp] theorem State.setBt_ring (s : State) (n : Nat) (b : TimerSt) : (s.setBt n b).ring = s.ring := rfl
@[simp] theorem State.setBt_sampleAt (s : State) (n : Nat) (b : TimerSt) : (s.setBt n b).sampleAt = s.sampleAt := rfl
@[simp] theorem State.setBt_claims (s : State) (n : Nat) (b : TimerSt) : (s.setBt n b).claims = s.claims := rfl
@[simp] theorem State.setBt_press (s : State) (n : Nat) (b : TimerSt) : (s.setBt n b).press = s.press := rfl
@[simp] theorem State.setBt_seeded (s : State) (n : Nat) (b : TimerSt) : (s.setBt n b).seeded = s.seeded := rfl
@[simp] theorem State.setBt_undo (s : State) (n : Nat) (b : TimerSt) : (s.setBt n b).undo = s.undo := rfl
@[simp] theorem State.setBt_rd (s : State) (n : Nat) (b : TimerSt) (i : Nat) : (s.setBt n b).rd i = s.rd i := rfl

/-! ### `setSrc` -/

@[simp] theorem State.setSrc_pending (s : State) (c : Nat) (x : SourceSt) : (s.setSrc c x).pending = s.pending := rfl
@[simp] theorem State.setSrc_cells (s : State) (c : Nat) (x : SourceSt) : (s.setSrc c x).cells = s.cells := rfl
@[simp] theorem State.setSrc_free (s : State) (c : Nat) (x : SourceSt) : (s.setSrc c x).free = s.free := rfl
@[simp] theorem State.setSrc_clock (s : State) (c : Nat) (x : SourceSt) : (s.setSrc c x).clock = s.clock := rfl
@[simp] theorem State.setSrc_cue (s : State) (c : Nat) (x : SourceSt) : (s.setSrc c x).cue = s.cue := rfl
@[simp] theorem State.setSrc_pwr (s : State) (c : Nat) (x : SourceSt) : (s.setSrc c x).pwr = s.pwr := rfl
@[simp] theorem State.setSrc_log (s : State) (c : Nat) (x : SourceSt) : (s.setSrc c x).log = s.log := rfl
@[simp] theorem State.setSrc_obs (s : State) (c : Nat) (x : SourceSt) : (s.setSrc c x).obs = s.obs := rfl
@[simp] theorem State.setSrc_tap (s : State) (c : Nat) (x : SourceSt) : (s.setSrc c x).tap = s.tap := rfl
@[simp] theorem State.setSrc_ax (s : State) (c : Nat) (x : SourceSt) : (s.setSrc c x).ax = s.ax := rfl
@[simp] theorem State.setSrc_cfg (s : State) (c : Nat) (x : SourceSt) : (s.setSrc c x).cfg = s.cfg := rfl
@[simp] theorem State.setSrc_lp (s : State) (c : Nat) (x : SourceSt) : (s.setSrc c x).lp = s.lp := rfl
@[simp] theorem State.setSrc_cell (s : State) (c : Nat) (x : SourceSt) : (s.setSrc c x).cell = s.cell := rfl
@[simp] theorem State.setSrc_bus (s : State) (c : Nat) (x : SourceSt) : (s.setSrc c x).bus = s.bus := rfl
@[simp] theorem State.setSrc_apAt (s : State) (c : Nat) (x : SourceSt) : (s.setSrc c x).apAt = s.apAt := rfl
@[simp] theorem State.setSrc_fc (s : State) (c : Nat) (x : SourceSt) : (s.setSrc c x).fc = s.fc := rfl
@[simp] theorem State.setSrc_wm (s : State) (c : Nat) (x : SourceSt) : (s.setSrc c x).wm = s.wm := rfl
@[simp] theorem State.setSrc_se (s : State) (c : Nat) (x : SourceSt) : (s.setSrc c x).se = s.se := rfl
@[simp] theorem State.setSrc_ds (s : State) (c : Nat) (x : SourceSt) : (s.setSrc c x).ds = s.ds := rfl
@[simp] theorem State.setSrc_fm (s : State) (c : Nat) (x : SourceSt) : (s.setSrc c x).fm = s.fm := rfl
@[simp] theorem State.setSrc_fab (s : State) (c : Nat) (x : SourceSt) : (s.setSrc c x).fab = s.fab := rfl
@[simp] theorem State.setSrc_pin (s : State) (c : Nat) (x : SourceSt) : (s.setSrc c x).pin = s.pin := rfl
@[simp] theorem State.setSrc_ring (s : State) (c : Nat) (x : SourceSt) : (s.setSrc c x).ring = s.ring := rfl
@[simp] theorem State.setSrc_sampleAt (s : State) (c : Nat) (x : SourceSt) : (s.setSrc c x).sampleAt = s.sampleAt := rfl
@[simp] theorem State.setSrc_claims (s : State) (c : Nat) (x : SourceSt) : (s.setSrc c x).claims = s.claims := rfl
@[simp] theorem State.setSrc_press (s : State) (c : Nat) (x : SourceSt) : (s.setSrc c x).press = s.press := rfl
@[simp] theorem State.setSrc_seeded (s : State) (c : Nat) (x : SourceSt) : (s.setSrc c x).seeded = s.seeded := rfl
@[simp] theorem State.setSrc_undo (s : State) (c : Nat) (x : SourceSt) : (s.setSrc c x).undo = s.undo := rfl
@[simp] theorem State.setSrc_rd (s : State) (c : Nat) (x : SourceSt) (i : Nat) : (s.setSrc c x).rd i = s.rd i := rfl

/-! ### `setEntries` -/

@[simp] theorem State.setEntries_pending (s : State) (l : List Entry) : (s.setEntries l).pending = s.pending := rfl
@[simp] theorem State.setEntries_cells (s : State) (l : List Entry) : (s.setEntries l).cells = s.cells := rfl
@[simp] theorem State.setEntries_free (s : State) (l : List Entry) : (s.setEntries l).free = s.free := rfl
@[simp] theorem State.setEntries_clock (s : State) (l : List Entry) : (s.setEntries l).clock = s.clock := rfl
@[simp] theorem State.setEntries_tb (s : State) (l : List Entry) : (s.setEntries l).tb = s.tb := rfl
@[simp] theorem State.setEntries_pwr (s : State) (l : List Entry) : (s.setEntries l).pwr = s.pwr := rfl
@[simp] theorem State.setEntries_log (s : State) (l : List Entry) : (s.setEntries l).log = s.log := rfl
@[simp] theorem State.setEntries_obs (s : State) (l : List Entry) : (s.setEntries l).obs = s.obs := rfl
@[simp] theorem State.setEntries_tap (s : State) (l : List Entry) : (s.setEntries l).tap = s.tap := rfl
@[simp] theorem State.setEntries_ax (s : State) (l : List Entry) : (s.setEntries l).ax = s.ax := rfl
@[simp] theorem State.setEntries_cfg (s : State) (l : List Entry) : (s.setEntries l).cfg = s.cfg := rfl
@[simp] theorem State.setEntries_lp (s : State) (l : List Entry) : (s.setEntries l).lp = s.lp := rfl
@[simp] theorem State.setEntries_cell (s : State) (l : List Entry) : (s.setEntries l).cell = s.cell := rfl
@[simp] theorem State.setEntries_bus (s : State) (l : List Entry) : (s.setEntries l).bus = s.bus := rfl
@[simp] theorem State.setEntries_apAt (s : State) (l : List Entry) : (s.setEntries l).apAt = s.apAt := rfl
@[simp] theorem State.setEntries_fc (s : State) (l : List Entry) : (s.setEntries l).fc = s.fc := rfl
@[simp] theorem State.setEntries_wm (s : State) (l : List Entry) : (s.setEntries l).wm = s.wm := rfl
@[simp] theorem State.setEntries_se (s : State) (l : List Entry) : (s.setEntries l).se = s.se := rfl
@[simp] theorem State.setEntries_ds (s : State) (l : List Entry) : (s.setEntries l).ds = s.ds := rfl
@[simp] theorem State.setEntries_fm (s : State) (l : List Entry) : (s.setEntries l).fm = s.fm := rfl
@[simp] theorem State.setEntries_fab (s : State) (l : List Entry) : (s.setEntries l).fab = s.fab := rfl
@[simp] theorem State.setEntries_pin (s : State) (l : List Entry) : (s.setEntries l).pin = s.pin := rfl
@[simp] theorem State.setEntries_ring (s : State) (l : List Entry) : (s.setEntries l).ring = s.ring := rfl
@[simp] theorem State.setEntries_sampleAt (s : State) (l : List Entry) : (s.setEntries l).sampleAt = s.sampleAt := rfl
@[simp] theorem State.setEntries_claims (s : State) (l : List Entry) : (s.setEntries l).claims = s.claims := rfl
@[simp] theorem State.setEntries_press (s : State) (l : List Entry) : (s.setEntries l).press = s.press := rfl
@[simp] theorem State.setEntries_seeded (s : State) (l : List Entry) : (s.setEntries l).seeded = s.seeded := rfl
@[simp] theorem State.setEntries_undo (s : State) (l : List Entry) : (s.setEntries l).undo = s.undo := rfl
@[simp] theorem State.setEntries_rd (s : State) (l : List Entry) (i : Nat) : (s.setEntries l).rd i = s.rd i := rfl

/-! ### `setScript` -/

@[simp] theorem State.setScript_pending (s : State) (e : Nat) (x : ScriptSt) : (s.setScript e x).pending = s.pending := rfl
@[simp] theorem State.setScript_cells (s : State) (e : Nat) (x : ScriptSt) : (s.setScript e x).cells = s.cells := rfl
@[simp] theorem State.setScript_free (s : State) (e : Nat) (x : ScriptSt) : (s.setScript e x).free = s.free := rfl
@[simp] theorem State.setScript_clock (s : State) (e : Nat) (x : ScriptSt) : (s.setScript e x).clock = s.clock := rfl
@[simp] theorem State.setScript_tb (s : State) (e : Nat) (x : ScriptSt) : (s.setScript e x).tb = s.tb := rfl
@[simp] theorem State.setScript_pwr (s : State) (e : Nat) (x : ScriptSt) : (s.setScript e x).pwr = s.pwr := rfl
@[simp] theorem State.setScript_log (s : State) (e : Nat) (x : ScriptSt) : (s.setScript e x).log = s.log := rfl
@[simp] theorem State.setScript_obs (s : State) (e : Nat) (x : ScriptSt) : (s.setScript e x).obs = s.obs := rfl
@[simp] theorem State.setScript_tap (s : State) (e : Nat) (x : ScriptSt) : (s.setScript e x).tap = s.tap := rfl
@[simp] theorem State.setScript_ax (s : State) (e : Nat) (x : ScriptSt) : (s.setScript e x).ax = s.ax := rfl
@[simp] theorem State.setScript_cfg (s : State) (e : Nat) (x : ScriptSt) : (s.setScript e x).cfg = s.cfg := rfl
@[simp] theorem State.setScript_lp (s : State) (e : Nat) (x : ScriptSt) : (s.setScript e x).lp = s.lp := rfl
@[simp] theorem State.setScript_cell (s : State) (e : Nat) (x : ScriptSt) : (s.setScript e x).cell = s.cell := rfl
@[simp] theorem State.setScript_bus (s : State) (e : Nat) (x : ScriptSt) : (s.setScript e x).bus = s.bus := rfl
@[simp] theorem State.setScript_apAt (s : State) (e : Nat) (x : ScriptSt) : (s.setScript e x).apAt = s.apAt := rfl
@[simp] theorem State.setScript_fc (s : State) (e : Nat) (x : ScriptSt) : (s.setScript e x).fc = s.fc := rfl
@[simp] theorem State.setScript_wm (s : State) (e : Nat) (x : ScriptSt) : (s.setScript e x).wm = s.wm := rfl
@[simp] theorem State.setScript_se (s : State) (e : Nat) (x : ScriptSt) : (s.setScript e x).se = s.se := rfl
@[simp] theorem State.setScript_ds (s : State) (e : Nat) (x : ScriptSt) : (s.setScript e x).ds = s.ds := rfl
@[simp] theorem State.setScript_fm (s : State) (e : Nat) (x : ScriptSt) : (s.setScript e x).fm = s.fm := rfl
@[simp] theorem State.setScript_fab (s : State) (e : Nat) (x : ScriptSt) : (s.setScript e x).fab = s.fab := rfl
@[simp] theorem State.setScript_pin (s : State) (e : Nat) (x : ScriptSt) : (s.setScript e x).pin = s.pin := rfl
@[simp] theorem State.setScript_ring (s : State) (e : Nat) (x : ScriptSt) : (s.setScript e x).ring = s.ring := rfl
@[simp] theorem State.setScript_sampleAt (s : State) (e : Nat) (x : ScriptSt) : (s.setScript e x).sampleAt = s.sampleAt := rfl
@[simp] theorem State.setScript_claims (s : State) (e : Nat) (x : ScriptSt) : (s.setScript e x).claims = s.claims := rfl
@[simp] theorem State.setScript_press (s : State) (e : Nat) (x : ScriptSt) : (s.setScript e x).press = s.press := rfl
@[simp] theorem State.setScript_seeded (s : State) (e : Nat) (x : ScriptSt) : (s.setScript e x).seeded = s.seeded := rfl
@[simp] theorem State.setScript_undo (s : State) (e : Nat) (x : ScriptSt) : (s.setScript e x).undo = s.undo := rfl
@[simp] theorem State.setScript_rd (s : State) (e : Nat) (x : ScriptSt) (i : Nat) : (s.setScript e x).rd i = s.rd i := rfl

/-! ### `setTask` -/

@[simp] theorem State.setTask_pending (s : State) (t : TaskId) (x : TaskSt) : (s.setTask t x).pending = s.pending := rfl
@[simp] theorem State.setTask_cells (s : State) (t : TaskId) (x : TaskSt) : (s.setTask t x).cells = s.cells := rfl
@[simp] theorem State.setTask_free (s : State) (t : TaskId) (x : TaskSt) : (s.setTask t x).free = s.free := rfl
@[simp] theorem State.setTask_clock (s : State) (t : TaskId) (x : TaskSt) : (s.setTask t x).clock = s.clock := rfl
@[simp] theorem State.setTask_tb (s : State) (t : TaskId) (x : TaskSt) : (s.setTask t x).tb = s.tb := rfl
@[simp] theorem State.setTask_cue (s : State) (t : TaskId) (x : TaskSt) : (s.setTask t x).cue = s.cue := rfl
@[simp] theorem State.setTask_pwr (s : State) (t : TaskId) (x : TaskSt) : (s.setTask t x).pwr = s.pwr := rfl
@[simp] theorem State.setTask_log (s : State) (t : TaskId) (x : TaskSt) : (s.setTask t x).log = s.log := rfl
@[simp] theorem State.setTask_obs (s : State) (t : TaskId) (x : TaskSt) : (s.setTask t x).obs = s.obs := rfl
@[simp] theorem State.setTask_tap (s : State) (t : TaskId) (x : TaskSt) : (s.setTask t x).tap = s.tap := rfl
@[simp] theorem State.setTask_ax (s : State) (t : TaskId) (x : TaskSt) : (s.setTask t x).ax = s.ax := rfl
@[simp] theorem State.setTask_cfg (s : State) (t : TaskId) (x : TaskSt) : (s.setTask t x).cfg = s.cfg := rfl
@[simp] theorem State.setTask_lp (s : State) (t : TaskId) (x : TaskSt) : (s.setTask t x).lp = s.lp := rfl
@[simp] theorem State.setTask_cell (s : State) (t : TaskId) (x : TaskSt) : (s.setTask t x).cell = s.cell := rfl
@[simp] theorem State.setTask_bus (s : State) (t : TaskId) (x : TaskSt) : (s.setTask t x).bus = s.bus := rfl
@[simp] theorem State.setTask_apAt (s : State) (t : TaskId) (x : TaskSt) : (s.setTask t x).apAt = s.apAt := rfl
@[simp] theorem State.setTask_fc (s : State) (t : TaskId) (x : TaskSt) : (s.setTask t x).fc = s.fc := rfl
@[simp] theorem State.setTask_wm (s : State) (t : TaskId) (x : TaskSt) : (s.setTask t x).wm = s.wm := rfl
@[simp] theorem State.setTask_ds (s : State) (t : TaskId) (x : TaskSt) : (s.setTask t x).ds = s.ds := rfl
@[simp] theorem State.setTask_fm (s : State) (t : TaskId) (x : TaskSt) : (s.setTask t x).fm = s.fm := rfl
@[simp] theorem State.setTask_fab (s : State) (t : TaskId) (x : TaskSt) : (s.setTask t x).fab = s.fab := rfl
@[simp] theorem State.setTask_pin (s : State) (t : TaskId) (x : TaskSt) : (s.setTask t x).pin = s.pin := rfl
@[simp] theorem State.setTask_ring (s : State) (t : TaskId) (x : TaskSt) : (s.setTask t x).ring = s.ring := rfl
@[simp] theorem State.setTask_sampleAt (s : State) (t : TaskId) (x : TaskSt) : (s.setTask t x).sampleAt = s.sampleAt := rfl
@[simp] theorem State.setTask_claims (s : State) (t : TaskId) (x : TaskSt) : (s.setTask t x).claims = s.claims := rfl
@[simp] theorem State.setTask_press (s : State) (t : TaskId) (x : TaskSt) : (s.setTask t x).press = s.press := rfl
@[simp] theorem State.setTask_seeded (s : State) (t : TaskId) (x : TaskSt) : (s.setTask t x).seeded = s.seeded := rfl
@[simp] theorem State.setTask_undo (s : State) (t : TaskId) (x : TaskSt) : (s.setTask t x).undo = s.undo := rfl
@[simp] theorem State.setTask_rd (s : State) (t : TaskId) (x : TaskSt) (i : Nat) : (s.setTask t x).rd i = s.rd i := rfl

/-! ### `setQueue` -/

@[simp] theorem State.setQueue_pending (s : State) (k : Nat) (l : List QSlice) : (s.setQueue k l).pending = s.pending := rfl
@[simp] theorem State.setQueue_cells (s : State) (k : Nat) (l : List QSlice) : (s.setQueue k l).cells = s.cells := rfl
@[simp] theorem State.setQueue_free (s : State) (k : Nat) (l : List QSlice) : (s.setQueue k l).free = s.free := rfl
@[simp] theorem State.setQueue_clock (s : State) (k : Nat) (l : List QSlice) : (s.setQueue k l).clock = s.clock := rfl
@[simp] theorem State.setQueue_tb (s : State) (k : Nat) (l : List QSlice) : (s.setQueue k l).tb = s.tb := rfl
@[simp] theorem State.setQueue_cue (s : State) (k : Nat) (l : List QSlice) : (s.setQueue k l).cue = s.cue := rfl
@[simp] theorem State.setQueue_pwr (s : State) (k : Nat) (l : List QSlice) : (s.setQueue k l).pwr = s.pwr := rfl
@[simp] theorem State.setQueue_log (s : State) (k : Nat) (l : List QSlice) : (s.setQueue k l).log = s.log := rfl
@[simp] theorem State.setQueue_obs (s : State) (k : Nat) (l : List QSlice) : (s.setQueue k l).obs = s.obs := rfl
@[simp] theorem State.setQueue_tap (s : State) (k : Nat) (l : List QSlice) : (s.setQueue k l).tap = s.tap := rfl
@[simp] theorem State.setQueue_ax (s : State) (k : Nat) (l : List QSlice) : (s.setQueue k l).ax = s.ax := rfl
@[simp] theorem State.setQueue_cfg (s : State) (k : Nat) (l : List QSlice) : (s.setQueue k l).cfg = s.cfg := rfl
@[simp] theorem State.setQueue_lp (s : State) (k : Nat) (l : List QSlice) : (s.setQueue k l).lp = s.lp := rfl
@[simp] theorem State.setQueue_cell (s : State) (k : Nat) (l : List QSlice) : (s.setQueue k l).cell = s.cell := rfl
@[simp] theorem State.setQueue_bus (s : State) (k : Nat) (l : List QSlice) : (s.setQueue k l).bus = s.bus := rfl
@[simp] theorem State.setQueue_apAt (s : State) (k : Nat) (l : List QSlice) : (s.setQueue k l).apAt = s.apAt := rfl
@[simp] theorem State.setQueue_fc (s : State) (k : Nat) (l : List QSlice) : (s.setQueue k l).fc = s.fc := rfl
@[simp] theorem State.setQueue_wm (s : State) (k : Nat) (l : List QSlice) : (s.setQueue k l).wm = s.wm := rfl
@[simp] theorem State.setQueue_ds (s : State) (k : Nat) (l : List QSlice) : (s.setQueue k l).ds = s.ds := rfl
@[simp] theorem State.setQueue_fm (s : State) (k : Nat) (l : List QSlice) : (s.setQueue k l).fm = s.fm := rfl
@[simp] theorem State.setQueue_fab (s : State) (k : Nat) (l : List QSlice) : (s.setQueue k l).fab = s.fab := rfl
@[simp] theorem State.setQueue_pin (s : State) (k : Nat) (l : List QSlice) : (s.setQueue k l).pin = s.pin := rfl
@[simp] theorem State.setQueue_ring (s : State) (k : Nat) (l : List QSlice) : (s.setQueue k l).ring = s.ring := rfl
@[simp] theorem State.setQueue_sampleAt (s : State) (k : Nat) (l : List QSlice) : (s.setQueue k l).sampleAt = s.sampleAt := rfl
@[simp] theorem State.setQueue_claims (s : State) (k : Nat) (l : List QSlice) : (s.setQueue k l).claims = s.claims := rfl
@[simp] theorem State.setQueue_press (s : State) (k : Nat) (l : List QSlice) : (s.setQueue k l).press = s.press := rfl
@[simp] theorem State.setQueue_seeded (s : State) (k : Nat) (l : List QSlice) : (s.setQueue k l).seeded = s.seeded := rfl
@[simp] theorem State.setQueue_undo (s : State) (k : Nat) (l : List QSlice) : (s.setQueue k l).undo = s.undo := rfl
@[simp] theorem State.setQueue_rd (s : State) (k : Nat) (l : List QSlice) (i : Nat) : (s.setQueue k l).rd i = s.rd i := rfl

/-! ### `setLm` -/

@[simp] theorem State.setLm_pending (s : State) (k : Nat) (v : W32) : (s.setLm k v).pending = s.pending := rfl
@[simp] theorem State.setLm_cells (s : State) (k : Nat) (v : W32) : (s.setLm k v).cells = s.cells := rfl
@[simp] theorem State.setLm_free (s : State) (k : Nat) (v : W32) : (s.setLm k v).free = s.free := rfl
@[simp] theorem State.setLm_clock (s : State) (k : Nat) (v : W32) : (s.setLm k v).clock = s.clock := rfl
@[simp] theorem State.setLm_tb (s : State) (k : Nat) (v : W32) : (s.setLm k v).tb = s.tb := rfl
@[simp] theorem State.setLm_cue (s : State) (k : Nat) (v : W32) : (s.setLm k v).cue = s.cue := rfl
@[simp] theorem State.setLm_pwr (s : State) (k : Nat) (v : W32) : (s.setLm k v).pwr = s.pwr := rfl
@[simp] theorem State.setLm_log (s : State) (k : Nat) (v : W32) : (s.setLm k v).log = s.log := rfl
@[simp] theorem State.setLm_obs (s : State) (k : Nat) (v : W32) : (s.setLm k v).obs = s.obs := rfl
@[simp] theorem State.setLm_tap (s : State) (k : Nat) (v : W32) : (s.setLm k v).tap = s.tap := rfl
@[simp] theorem State.setLm_ax (s : State) (k : Nat) (v : W32) : (s.setLm k v).ax = s.ax := rfl
@[simp] theorem State.setLm_cfg (s : State) (k : Nat) (v : W32) : (s.setLm k v).cfg = s.cfg := rfl
@[simp] theorem State.setLm_lp (s : State) (k : Nat) (v : W32) : (s.setLm k v).lp = s.lp := rfl
@[simp] theorem State.setLm_cell (s : State) (k : Nat) (v : W32) : (s.setLm k v).cell = s.cell := rfl
@[simp] theorem State.setLm_bus (s : State) (k : Nat) (v : W32) : (s.setLm k v).bus = s.bus := rfl
@[simp] theorem State.setLm_apAt (s : State) (k : Nat) (v : W32) : (s.setLm k v).apAt = s.apAt := rfl
@[simp] theorem State.setLm_fc (s : State) (k : Nat) (v : W32) : (s.setLm k v).fc = s.fc := rfl
@[simp] theorem State.setLm_wm (s : State) (k : Nat) (v : W32) : (s.setLm k v).wm = s.wm := rfl
@[simp] theorem State.setLm_ds (s : State) (k : Nat) (v : W32) : (s.setLm k v).ds = s.ds := rfl
@[simp] theorem State.setLm_fm (s : State) (k : Nat) (v : W32) : (s.setLm k v).fm = s.fm := rfl
@[simp] theorem State.setLm_fab (s : State) (k : Nat) (v : W32) : (s.setLm k v).fab = s.fab := rfl
@[simp] theorem State.setLm_pin (s : State) (k : Nat) (v : W32) : (s.setLm k v).pin = s.pin := rfl
@[simp] theorem State.setLm_ring (s : State) (k : Nat) (v : W32) : (s.setLm k v).ring = s.ring := rfl
@[simp] theorem State.setLm_sampleAt (s : State) (k : Nat) (v : W32) : (s.setLm k v).sampleAt = s.sampleAt := rfl
@[simp] theorem State.setLm_claims (s : State) (k : Nat) (v : W32) : (s.setLm k v).claims = s.claims := rfl
@[simp] theorem State.setLm_press (s : State) (k : Nat) (v : W32) : (s.setLm k v).press = s.press := rfl
@[simp] theorem State.setLm_seeded (s : State) (k : Nat) (v : W32) : (s.setLm k v).seeded = s.seeded := rfl
@[simp] theorem State.setLm_undo (s : State) (k : Nat) (v : W32) : (s.setLm k v).undo = s.undo := rfl
@[simp] theorem State.setLm_rd (s : State) (k : Nat) (v : W32) (i : Nat) : (s.setLm k v).rd i = s.rd i := rfl

/-! ### `setStream` -/

@[simp] theorem State.setStream_pending (s : State) (d : Nat) (x : StreamSt) : (s.setStream d x).pending = s.pending := rfl
@[simp] theorem State.setStream_cells (s : State) (d : Nat) (x : StreamSt) : (s.setStream d x).cells = s.cells := rfl
@[simp] theorem State.setStream_free (s : State) (d : Nat) (x : StreamSt) : (s.setStream d x).free = s.free := rfl
@[simp] theorem State.setStream_clock (s : State) (d : Nat) (x : StreamSt) : (s.setStream d x).clock = s.clock := rfl
@[simp] theorem State.setStream_tb (s : State) (d : Nat) (x : StreamSt) : (s.setStream d x).tb = s.tb := rfl
@[simp] theorem State.setStream_cue (s : State) (d : Nat) (x : StreamSt) : (s.setStream d x).cue = s.cue := rfl
@[simp] theorem State.setStream_pwr (s : State) (d : Nat) (x : StreamSt) : (s.setStream d x).pwr = s.pwr := rfl
@[simp] theorem State.setStream_log (s : State) (d : Nat) (x : StreamSt) : (s.setStream d x).log = s.log := rfl
@[simp] theorem State.setStream_obs (s : State) (d : Nat) (x : StreamSt) : (s.setStream d x).obs = s.obs := rfl
@[simp] theorem State.setStream_tap (s : State) (d : Nat) (x : StreamSt) : (s.setStream d x).tap = s.tap := rfl
@[simp] theorem State.setStream_ax (s : State) (d : Nat) (x : StreamSt) : (s.setStream d x).ax = s.ax := rfl
@[simp] theorem State.setStream_cfg (s : State) (d : Nat) (x : StreamSt) : (s.setStream d x).cfg = s.cfg := rfl
@[simp] theorem State.setStream_lp (s : State) (d : Nat) (x : StreamSt) : (s.setStream d x).lp = s.lp := rfl
@[simp] theorem State.setStream_cell (s : State) (d : Nat) (x : StreamSt) : (s.setStream d x).cell = s.cell := rfl
@[simp] theorem State.setStream_bus (s : State) (d : Nat) (x : StreamSt) : (s.setStream d x).bus = s.bus := rfl
@[simp] theorem State.setStream_apAt (s : State) (d : Nat) (x : StreamSt) : (s.setStream d x).apAt = s.apAt := rfl
@[simp] theorem State.setStream_fc (s : State) (d : Nat) (x : StreamSt) : (s.setStream d x).fc = s.fc := rfl
@[simp] theorem State.setStream_wm (s : State) (d : Nat) (x : StreamSt) : (s.setStream d x).wm = s.wm := rfl
@[simp] theorem State.setStream_se (s : State) (d : Nat) (x : StreamSt) : (s.setStream d x).se = s.se := rfl
@[simp] theorem State.setStream_fm (s : State) (d : Nat) (x : StreamSt) : (s.setStream d x).fm = s.fm := rfl
@[simp] theorem State.setStream_fab (s : State) (d : Nat) (x : StreamSt) : (s.setStream d x).fab = s.fab := rfl
@[simp] theorem State.setStream_pin (s : State) (d : Nat) (x : StreamSt) : (s.setStream d x).pin = s.pin := rfl
@[simp] theorem State.setStream_ring (s : State) (d : Nat) (x : StreamSt) : (s.setStream d x).ring = s.ring := rfl
@[simp] theorem State.setStream_sampleAt (s : State) (d : Nat) (x : StreamSt) : (s.setStream d x).sampleAt = s.sampleAt := rfl
@[simp] theorem State.setStream_claims (s : State) (d : Nat) (x : StreamSt) : (s.setStream d x).claims = s.claims := rfl
@[simp] theorem State.setStream_press (s : State) (d : Nat) (x : StreamSt) : (s.setStream d x).press = s.press := rfl
@[simp] theorem State.setStream_seeded (s : State) (d : Nat) (x : StreamSt) : (s.setStream d x).seeded = s.seeded := rfl
@[simp] theorem State.setStream_undo (s : State) (d : Nat) (x : StreamSt) : (s.setStream d x).undo = s.undo := rfl
@[simp] theorem State.setStream_rd (s : State) (d : Nat) (x : StreamSt) (i : Nat) : (s.setStream d x).rd i = s.rd i := rfl

/-! ### `setRam` -/

@[simp] theorem State.setRam_pending (s : State) (k a : Nat) (w : W36) : (s.setRam k a w).pending = s.pending := rfl
@[simp] theorem State.setRam_cells (s : State) (k a : Nat) (w : W36) : (s.setRam k a w).cells = s.cells := rfl
@[simp] theorem State.setRam_free (s : State) (k a : Nat) (w : W36) : (s.setRam k a w).free = s.free := rfl
@[simp] theorem State.setRam_clock (s : State) (k a : Nat) (w : W36) : (s.setRam k a w).clock = s.clock := rfl
@[simp] theorem State.setRam_tb (s : State) (k a : Nat) (w : W36) : (s.setRam k a w).tb = s.tb := rfl
@[simp] theorem State.setRam_cue (s : State) (k a : Nat) (w : W36) : (s.setRam k a w).cue = s.cue := rfl
@[simp] theorem State.setRam_pwr (s : State) (k a : Nat) (w : W36) : (s.setRam k a w).pwr = s.pwr := rfl
@[simp] theorem State.setRam_log (s : State) (k a : Nat) (w : W36) : (s.setRam k a w).log = s.log := rfl
@[simp] theorem State.setRam_obs (s : State) (k a : Nat) (w : W36) : (s.setRam k a w).obs = s.obs := rfl
@[simp] theorem State.setRam_tap (s : State) (k a : Nat) (w : W36) : (s.setRam k a w).tap = s.tap := rfl
@[simp] theorem State.setRam_ax (s : State) (k a : Nat) (w : W36) : (s.setRam k a w).ax = s.ax := rfl
@[simp] theorem State.setRam_cfg (s : State) (k a : Nat) (w : W36) : (s.setRam k a w).cfg = s.cfg := rfl
@[simp] theorem State.setRam_lp (s : State) (k a : Nat) (w : W36) : (s.setRam k a w).lp = s.lp := rfl
@[simp] theorem State.setRam_cell (s : State) (k a : Nat) (w : W36) : (s.setRam k a w).cell = s.cell := rfl
@[simp] theorem State.setRam_bus (s : State) (k a : Nat) (w : W36) : (s.setRam k a w).bus = s.bus := rfl
@[simp] theorem State.setRam_apAt (s : State) (k a : Nat) (w : W36) : (s.setRam k a w).apAt = s.apAt := rfl
@[simp] theorem State.setRam_fc (s : State) (k a : Nat) (w : W36) : (s.setRam k a w).fc = s.fc := rfl
@[simp] theorem State.setRam_wm (s : State) (k a : Nat) (w : W36) : (s.setRam k a w).wm = s.wm := rfl
@[simp] theorem State.setRam_se (s : State) (k a : Nat) (w : W36) : (s.setRam k a w).se = s.se := rfl
@[simp] theorem State.setRam_ds (s : State) (k a : Nat) (w : W36) : (s.setRam k a w).ds = s.ds := rfl
@[simp] theorem State.setRam_fm (s : State) (k a : Nat) (w : W36) : (s.setRam k a w).fm = s.fm := rfl
@[simp] theorem State.setRam_pin (s : State) (k a : Nat) (w : W36) : (s.setRam k a w).pin = s.pin := rfl
@[simp] theorem State.setRam_ring (s : State) (k a : Nat) (w : W36) : (s.setRam k a w).ring = s.ring := rfl
@[simp] theorem State.setRam_sampleAt (s : State) (k a : Nat) (w : W36) : (s.setRam k a w).sampleAt = s.sampleAt := rfl
@[simp] theorem State.setRam_claims (s : State) (k a : Nat) (w : W36) : (s.setRam k a w).claims = s.claims := rfl
@[simp] theorem State.setRam_press (s : State) (k a : Nat) (w : W36) : (s.setRam k a w).press = s.press := rfl
@[simp] theorem State.setRam_seeded (s : State) (k a : Nat) (w : W36) : (s.setRam k a w).seeded = s.seeded := rfl
@[simp] theorem State.setRam_undo (s : State) (k a : Nat) (w : W36) : (s.setRam k a w).undo = s.undo := rfl
@[simp] theorem State.setRam_rd (s : State) (k a : Nat) (w : W36) (i : Nat) : (s.setRam k a w).rd i = s.rd i := rfl

/-! ### `setFifo` -/

@[simp] theorem State.setFifo_pending (s : State) (k : Nat) (l : List W36) : (s.setFifo k l).pending = s.pending := rfl
@[simp] theorem State.setFifo_cells (s : State) (k : Nat) (l : List W36) : (s.setFifo k l).cells = s.cells := rfl
@[simp] theorem State.setFifo_free (s : State) (k : Nat) (l : List W36) : (s.setFifo k l).free = s.free := rfl
@[simp] theorem State.setFifo_clock (s : State) (k : Nat) (l : List W36) : (s.setFifo k l).clock = s.clock := rfl
@[simp] theorem State.setFifo_tb (s : State) (k : Nat) (l : List W36) : (s.setFifo k l).tb = s.tb := rfl
@[simp] theorem State.setFifo_cue (s : State) (k : Nat) (l : List W36) : (s.setFifo k l).cue = s.cue := rfl
@[simp] theorem State.setFifo_pwr (s : State) (k : Nat) (l : List W36) : (s.setFifo k l).pwr = s.pwr := rfl
@[simp] theorem State.setFifo_log (s : State) (k : Nat) (l : List W36) : (s.setFifo k l).log = s.log := rfl
@[simp] theorem State.setFifo_obs (s : State) (k : Nat) (l : List W36) : (s.setFifo k l).obs = s.obs := rfl
@[simp] theorem State.setFifo_tap (s : State) (k : Nat) (l : List W36) : (s.setFifo k l).tap = s.tap := rfl
@[simp] theorem State.setFifo_ax (s : State) (k : Nat) (l : List W36) : (s.setFifo k l).ax = s.ax := rfl
@[simp] theorem State.setFifo_cfg (s : State) (k : Nat) (l : List W36) : (s.setFifo k l).cfg = s.cfg := rfl
@[simp] theorem State.setFifo_lp (s : State) (k : Nat) (l : List W36) : (s.setFifo k l).lp = s.lp := rfl
@[simp] theorem State.setFifo_cell (s : State) (k : Nat) (l : List W36) : (s.setFifo k l).cell = s.cell := rfl
@[simp] theorem State.setFifo_bus (s : State) (k : Nat) (l : List W36) : (s.setFifo k l).bus = s.bus := rfl
@[simp] theorem State.setFifo_apAt (s : State) (k : Nat) (l : List W36) : (s.setFifo k l).apAt = s.apAt := rfl
@[simp] theorem State.setFifo_fc (s : State) (k : Nat) (l : List W36) : (s.setFifo k l).fc = s.fc := rfl
@[simp] theorem State.setFifo_wm (s : State) (k : Nat) (l : List W36) : (s.setFifo k l).wm = s.wm := rfl
@[simp] theorem State.setFifo_se (s : State) (k : Nat) (l : List W36) : (s.setFifo k l).se = s.se := rfl
@[simp] theorem State.setFifo_ds (s : State) (k : Nat) (l : List W36) : (s.setFifo k l).ds = s.ds := rfl
@[simp] theorem State.setFifo_fm (s : State) (k : Nat) (l : List W36) : (s.setFifo k l).fm = s.fm := rfl
@[simp] theorem State.setFifo_pin (s : State) (k : Nat) (l : List W36) : (s.setFifo k l).pin = s.pin := rfl
@[simp] theorem State.setFifo_ring (s : State) (k : Nat) (l : List W36) : (s.setFifo k l).ring = s.ring := rfl
@[simp] theorem State.setFifo_sampleAt (s : State) (k : Nat) (l : List W36) : (s.setFifo k l).sampleAt = s.sampleAt := rfl
@[simp] theorem State.setFifo_claims (s : State) (k : Nat) (l : List W36) : (s.setFifo k l).claims = s.claims := rfl
@[simp] theorem State.setFifo_press (s : State) (k : Nat) (l : List W36) : (s.setFifo k l).press = s.press := rfl
@[simp] theorem State.setFifo_seeded (s : State) (k : Nat) (l : List W36) : (s.setFifo k l).seeded = s.seeded := rfl
@[simp] theorem State.setFifo_undo (s : State) (k : Nat) (l : List W36) : (s.setFifo k l).undo = s.undo := rfl
@[simp] theorem State.setFifo_rd (s : State) (k : Nat) (l : List W36) (i : Nat) : (s.setFifo k l).rd i = s.rd i := rfl

/-! ### `setChan` -/

@[simp] theorem State.setChan_pending (s : State) (c : Nat) (x : BridgeSt) : (s.setChan c x).pending = s.pending := rfl
@[simp] theorem State.setChan_cells (s : State) (c : Nat) (x : BridgeSt) : (s.setChan c x).cells = s.cells := rfl
@[simp] theorem State.setChan_free (s : State) (c : Nat) (x : BridgeSt) : (s.setChan c x).free = s.free := rfl
@[simp] theorem State.setChan_clock (s : State) (c : Nat) (x : BridgeSt) : (s.setChan c x).clock = s.clock := rfl
@[simp] theorem State.setChan_tb (s : State) (c : Nat) (x : BridgeSt) : (s.setChan c x).tb = s.tb := rfl
@[simp] theorem State.setChan_cue (s : State) (c : Nat) (x : BridgeSt) : (s.setChan c x).cue = s.cue := rfl
@[simp] theorem State.setChan_pwr (s : State) (c : Nat) (x : BridgeSt) : (s.setChan c x).pwr = s.pwr := rfl
@[simp] theorem State.setChan_log (s : State) (c : Nat) (x : BridgeSt) : (s.setChan c x).log = s.log := rfl
@[simp] theorem State.setChan_obs (s : State) (c : Nat) (x : BridgeSt) : (s.setChan c x).obs = s.obs := rfl
@[simp] theorem State.setChan_tap (s : State) (c : Nat) (x : BridgeSt) : (s.setChan c x).tap = s.tap := rfl
@[simp] theorem State.setChan_ax (s : State) (c : Nat) (x : BridgeSt) : (s.setChan c x).ax = s.ax := rfl
@[simp] theorem State.setChan_cfg (s : State) (c : Nat) (x : BridgeSt) : (s.setChan c x).cfg = s.cfg := rfl
@[simp] theorem State.setChan_lp (s : State) (c : Nat) (x : BridgeSt) : (s.setChan c x).lp = s.lp := rfl
@[simp] theorem State.setChan_cell (s : State) (c : Nat) (x : BridgeSt) : (s.setChan c x).cell = s.cell := rfl
@[simp] theorem State.setChan_bus (s : State) (c : Nat) (x : BridgeSt) : (s.setChan c x).bus = s.bus := rfl
@[simp] theorem State.setChan_apAt (s : State) (c : Nat) (x : BridgeSt) : (s.setChan c x).apAt = s.apAt := rfl
@[simp] theorem State.setChan_fc (s : State) (c : Nat) (x : BridgeSt) : (s.setChan c x).fc = s.fc := rfl
@[simp] theorem State.setChan_wm (s : State) (c : Nat) (x : BridgeSt) : (s.setChan c x).wm = s.wm := rfl
@[simp] theorem State.setChan_se (s : State) (c : Nat) (x : BridgeSt) : (s.setChan c x).se = s.se := rfl
@[simp] theorem State.setChan_ds (s : State) (c : Nat) (x : BridgeSt) : (s.setChan c x).ds = s.ds := rfl
@[simp] theorem State.setChan_fm (s : State) (c : Nat) (x : BridgeSt) : (s.setChan c x).fm = s.fm := rfl
@[simp] theorem State.setChan_pin (s : State) (c : Nat) (x : BridgeSt) : (s.setChan c x).pin = s.pin := rfl
@[simp] theorem State.setChan_ring (s : State) (c : Nat) (x : BridgeSt) : (s.setChan c x).ring = s.ring := rfl
@[simp] theorem State.setChan_sampleAt (s : State) (c : Nat) (x : BridgeSt) : (s.setChan c x).sampleAt = s.sampleAt := rfl
@[simp] theorem State.setChan_claims (s : State) (c : Nat) (x : BridgeSt) : (s.setChan c x).claims = s.claims := rfl
@[simp] theorem State.setChan_press (s : State) (c : Nat) (x : BridgeSt) : (s.setChan c x).press = s.press := rfl
@[simp] theorem State.setChan_seeded (s : State) (c : Nat) (x : BridgeSt) : (s.setChan c x).seeded = s.seeded := rfl
@[simp] theorem State.setChan_undo (s : State) (c : Nat) (x : BridgeSt) : (s.setChan c x).undo = s.undo := rfl
@[simp] theorem State.setChan_rd (s : State) (c : Nat) (x : BridgeSt) (i : Nat) : (s.setChan c x).rd i = s.rd i := rfl

/-! ### `seed` -/

@[simp] theorem State.seed_pending (s : State) (r : Nat) : (s.seed r).pending = s.pending := rfl
@[simp] theorem State.seed_cells (s : State) (r : Nat) : (s.seed r).cells = s.cells := rfl
@[simp] theorem State.seed_free (s : State) (r : Nat) : (s.seed r).free = s.free := rfl
@[simp] theorem State.seed_clock (s : State) (r : Nat) : (s.seed r).clock = s.clock := rfl
@[simp] theorem State.seed_tb (s : State) (r : Nat) : (s.seed r).tb = s.tb := rfl
@[simp] theorem State.seed_cue (s : State) (r : Nat) : (s.seed r).cue = s.cue := rfl
@[simp] theorem State.seed_pwr (s : State) (r : Nat) : (s.seed r).pwr = s.pwr := rfl
@[simp] theorem State.seed_log (s : State) (r : Nat) : (s.seed r).log = s.log := rfl
@[simp] theorem State.seed_obs (s : State) (r : Nat) : (s.seed r).obs = s.obs := rfl
@[simp] theorem State.seed_tap (s : State) (r : Nat) : (s.seed r).tap = s.tap := rfl
@[simp] theorem State.seed_ax (s : State) (r : Nat) : (s.seed r).ax = s.ax := rfl
@[simp] theorem State.seed_cfg (s : State) (r : Nat) : (s.seed r).cfg = s.cfg := rfl
@[simp] theorem State.seed_lp (s : State) (r : Nat) : (s.seed r).lp = s.lp := rfl
@[simp] theorem State.seed_cell (s : State) (r : Nat) : (s.seed r).cell = s.cell := rfl
@[simp] theorem State.seed_bus (s : State) (r : Nat) : (s.seed r).bus = s.bus := rfl
@[simp] theorem State.seed_apAt (s : State) (r : Nat) : (s.seed r).apAt = s.apAt := rfl
@[simp] theorem State.seed_fc (s : State) (r : Nat) : (s.seed r).fc = s.fc := rfl
@[simp] theorem State.seed_wm (s : State) (r : Nat) : (s.seed r).wm = s.wm := rfl
@[simp] theorem State.seed_se (s : State) (r : Nat) : (s.seed r).se = s.se := rfl
@[simp] theorem State.seed_ds (s : State) (r : Nat) : (s.seed r).ds = s.ds := rfl
@[simp] theorem State.seed_fm (s : State) (r : Nat) : (s.seed r).fm = s.fm := rfl
@[simp] theorem State.seed_fab (s : State) (r : Nat) : (s.seed r).fab = s.fab := rfl
@[simp] theorem State.seed_pin (s : State) (r : Nat) : (s.seed r).pin = s.pin := rfl
@[simp] theorem State.seed_ring (s : State) (r : Nat) : (s.seed r).ring = s.ring := rfl
@[simp] theorem State.seed_sampleAt (s : State) (r : Nat) : (s.seed r).sampleAt = s.sampleAt := rfl
@[simp] theorem State.seed_claims (s : State) (r : Nat) : (s.seed r).claims = s.claims := rfl
@[simp] theorem State.seed_press (s : State) (r : Nat) : (s.seed r).press = s.press := rfl
@[simp] theorem State.seed_rd (s : State) (r : Nat) (i : Nat) : (s.seed r).rd i = s.rd i := rfl

/-! ### `seePads` -/

@[simp] theorem State.seePads_pending (s : State) (b : BitVec 64) : (s.seePads b).pending = s.pending := rfl
@[simp] theorem State.seePads_cells (s : State) (b : BitVec 64) : (s.seePads b).cells = s.cells := rfl
@[simp] theorem State.seePads_free (s : State) (b : BitVec 64) : (s.seePads b).free = s.free := rfl
@[simp] theorem State.seePads_clock (s : State) (b : BitVec 64) : (s.seePads b).clock = s.clock := rfl
@[simp] theorem State.seePads_tb (s : State) (b : BitVec 64) : (s.seePads b).tb = s.tb := rfl
@[simp] theorem State.seePads_cue (s : State) (b : BitVec 64) : (s.seePads b).cue = s.cue := rfl
@[simp] theorem State.seePads_pwr (s : State) (b : BitVec 64) : (s.seePads b).pwr = s.pwr := rfl
@[simp] theorem State.seePads_log (s : State) (b : BitVec 64) : (s.seePads b).log = s.log := rfl
@[simp] theorem State.seePads_obs (s : State) (b : BitVec 64) : (s.seePads b).obs = s.obs := rfl
@[simp] theorem State.seePads_tap (s : State) (b : BitVec 64) : (s.seePads b).tap = s.tap := rfl
@[simp] theorem State.seePads_ax (s : State) (b : BitVec 64) : (s.seePads b).ax = s.ax := rfl
@[simp] theorem State.seePads_cfg (s : State) (b : BitVec 64) : (s.seePads b).cfg = s.cfg := rfl
@[simp] theorem State.seePads_lp (s : State) (b : BitVec 64) : (s.seePads b).lp = s.lp := rfl
@[simp] theorem State.seePads_cell (s : State) (b : BitVec 64) : (s.seePads b).cell = s.cell := rfl
@[simp] theorem State.seePads_bus (s : State) (b : BitVec 64) : (s.seePads b).bus = s.bus := rfl
@[simp] theorem State.seePads_apAt (s : State) (b : BitVec 64) : (s.seePads b).apAt = s.apAt := rfl
@[simp] theorem State.seePads_fc (s : State) (b : BitVec 64) : (s.seePads b).fc = s.fc := rfl
@[simp] theorem State.seePads_wm (s : State) (b : BitVec 64) : (s.seePads b).wm = s.wm := rfl
@[simp] theorem State.seePads_se (s : State) (b : BitVec 64) : (s.seePads b).se = s.se := rfl
@[simp] theorem State.seePads_ds (s : State) (b : BitVec 64) : (s.seePads b).ds = s.ds := rfl
@[simp] theorem State.seePads_fm (s : State) (b : BitVec 64) : (s.seePads b).fm = s.fm := rfl
@[simp] theorem State.seePads_fab (s : State) (b : BitVec 64) : (s.seePads b).fab = s.fab := rfl
@[simp] theorem State.seePads_ring (s : State) (b : BitVec 64) : (s.seePads b).ring = s.ring := rfl
@[simp] theorem State.seePads_sampleAt (s : State) (b : BitVec 64) : (s.seePads b).sampleAt = s.sampleAt := rfl
@[simp] theorem State.seePads_claims (s : State) (b : BitVec 64) : (s.seePads b).claims = s.claims := rfl
@[simp] theorem State.seePads_press (s : State) (b : BitVec 64) : (s.seePads b).press = s.press := rfl
@[simp] theorem State.seePads_seeded (s : State) (b : BitVec 64) : (s.seePads b).seeded = s.seeded := rfl
@[simp] theorem State.seePads_undo (s : State) (b : BitVec 64) : (s.seePads b).undo = s.undo := rfl
@[simp] theorem State.seePads_rd (s : State) (b : BitVec 64) (i : Nat) : (s.seePads b).rd i = s.rd i := rfl

/-! ### `answerWith` -/

@[simp] theorem State.answerWith_pending (s : State) (o : FrameOut) : (s.answerWith o).pending = s.pending := rfl
@[simp] theorem State.answerWith_cells (s : State) (o : FrameOut) : (s.answerWith o).cells = s.cells := rfl
@[simp] theorem State.answerWith_free (s : State) (o : FrameOut) : (s.answerWith o).free = s.free := rfl
@[simp] theorem State.answerWith_clock (s : State) (o : FrameOut) : (s.answerWith o).clock = s.clock := rfl
@[simp] theorem State.answerWith_tb (s : State) (o : FrameOut) : (s.answerWith o).tb = s.tb := rfl
@[simp] theorem State.answerWith_cue (s : State) (o : FrameOut) : (s.answerWith o).cue = s.cue := rfl
@[simp] theorem State.answerWith_pwr (s : State) (o : FrameOut) : (s.answerWith o).pwr = s.pwr := rfl
@[simp] theorem State.answerWith_log (s : State) (o : FrameOut) : (s.answerWith o).log = s.log := rfl
@[simp] theorem State.answerWith_tap (s : State) (o : FrameOut) : (s.answerWith o).tap = s.tap := rfl
@[simp] theorem State.answerWith_ax (s : State) (o : FrameOut) : (s.answerWith o).ax = s.ax := rfl
@[simp] theorem State.answerWith_cfg (s : State) (o : FrameOut) : (s.answerWith o).cfg = s.cfg := rfl
@[simp] theorem State.answerWith_lp (s : State) (o : FrameOut) : (s.answerWith o).lp = s.lp := rfl
@[simp] theorem State.answerWith_cell (s : State) (o : FrameOut) : (s.answerWith o).cell = s.cell := rfl
@[simp] theorem State.answerWith_bus (s : State) (o : FrameOut) : (s.answerWith o).bus = s.bus := rfl
@[simp] theorem State.answerWith_apAt (s : State) (o : FrameOut) : (s.answerWith o).apAt = s.apAt := rfl
@[simp] theorem State.answerWith_fc (s : State) (o : FrameOut) : (s.answerWith o).fc = s.fc := rfl
@[simp] theorem State.answerWith_wm (s : State) (o : FrameOut) : (s.answerWith o).wm = s.wm := rfl
@[simp] theorem State.answerWith_se (s : State) (o : FrameOut) : (s.answerWith o).se = s.se := rfl
@[simp] theorem State.answerWith_ds (s : State) (o : FrameOut) : (s.answerWith o).ds = s.ds := rfl
@[simp] theorem State.answerWith_fm (s : State) (o : FrameOut) : (s.answerWith o).fm = s.fm := rfl
@[simp] theorem State.answerWith_fab (s : State) (o : FrameOut) : (s.answerWith o).fab = s.fab := rfl
@[simp] theorem State.answerWith_pin (s : State) (o : FrameOut) : (s.answerWith o).pin = s.pin := rfl
@[simp] theorem State.answerWith_ring (s : State) (o : FrameOut) : (s.answerWith o).ring = s.ring := rfl
@[simp] theorem State.answerWith_sampleAt (s : State) (o : FrameOut) : (s.answerWith o).sampleAt = s.sampleAt := rfl
@[simp] theorem State.answerWith_claims (s : State) (o : FrameOut) : (s.answerWith o).claims = s.claims := rfl
@[simp] theorem State.answerWith_press (s : State) (o : FrameOut) : (s.answerWith o).press = s.press := rfl
@[simp] theorem State.answerWith_seeded (s : State) (o : FrameOut) : (s.answerWith o).seeded = s.seeded := rfl
@[simp] theorem State.answerWith_undo (s : State) (o : FrameOut) : (s.answerWith o).undo = s.undo := rfl
@[simp] theorem State.answerWith_rd (s : State) (o : FrameOut) (i : Nat) : (s.answerWith o).rd i = s.rd i := rfl

/-! ### `dropAct` -/

@[simp] theorem State.dropAct_pending (s : State) (a : Act) : (s.dropAct a).pending = s.pending := rfl
@[simp] theorem State.dropAct_cells (s : State) (a : Act) : (s.dropAct a).cells = s.cells := rfl
@[simp] theorem State.dropAct_free (s : State) (a : Act) : (s.dropAct a).free = s.free := rfl
@[simp] theorem State.dropAct_clock (s : State) (a : Act) : (s.dropAct a).clock = s.clock := rfl
@[simp] theorem State.dropAct_tb (s : State) (a : Act) : (s.dropAct a).tb = s.tb := rfl
@[simp] theorem State.dropAct_cue (s : State) (a : Act) : (s.dropAct a).cue = s.cue := rfl
@[simp] theorem State.dropAct_pwr (s : State) (a : Act) : (s.dropAct a).pwr = s.pwr := rfl
@[simp] theorem State.dropAct_log (s : State) (a : Act) : (s.dropAct a).log = s.log := rfl
@[simp] theorem State.dropAct_obs (s : State) (a : Act) : (s.dropAct a).obs = s.obs := rfl
@[simp] theorem State.dropAct_tap (s : State) (a : Act) : (s.dropAct a).tap = s.tap := rfl
@[simp] theorem State.dropAct_ax (s : State) (a : Act) : (s.dropAct a).ax = s.ax := rfl
@[simp] theorem State.dropAct_cfg (s : State) (a : Act) : (s.dropAct a).cfg = s.cfg := rfl
@[simp] theorem State.dropAct_lp (s : State) (a : Act) : (s.dropAct a).lp = s.lp := rfl
@[simp] theorem State.dropAct_cell (s : State) (a : Act) : (s.dropAct a).cell = s.cell := rfl
@[simp] theorem State.dropAct_bus (s : State) (a : Act) : (s.dropAct a).bus = s.bus := rfl
@[simp] theorem State.dropAct_apAt (s : State) (a : Act) : (s.dropAct a).apAt = s.apAt := rfl
@[simp] theorem State.dropAct_fc (s : State) (a : Act) : (s.dropAct a).fc = s.fc := rfl
@[simp] theorem State.dropAct_wm (s : State) (a : Act) : (s.dropAct a).wm = s.wm := rfl
@[simp] theorem State.dropAct_ds (s : State) (a : Act) : (s.dropAct a).ds = s.ds := rfl
@[simp] theorem State.dropAct_fm (s : State) (a : Act) : (s.dropAct a).fm = s.fm := rfl
@[simp] theorem State.dropAct_fab (s : State) (a : Act) : (s.dropAct a).fab = s.fab := rfl
@[simp] theorem State.dropAct_pin (s : State) (a : Act) : (s.dropAct a).pin = s.pin := rfl
@[simp] theorem State.dropAct_ring (s : State) (a : Act) : (s.dropAct a).ring = s.ring := rfl
@[simp] theorem State.dropAct_sampleAt (s : State) (a : Act) : (s.dropAct a).sampleAt = s.sampleAt := rfl
@[simp] theorem State.dropAct_claims (s : State) (a : Act) : (s.dropAct a).claims = s.claims := rfl
@[simp] theorem State.dropAct_press (s : State) (a : Act) : (s.dropAct a).press = s.press := rfl
@[simp] theorem State.dropAct_seeded (s : State) (a : Act) : (s.dropAct a).seeded = s.seeded := rfl
@[simp] theorem State.dropAct_undo (s : State) (a : Act) : (s.dropAct a).undo = s.undo := rfl
@[simp] theorem State.dropAct_rd (s : State) (a : Act) (i : Nat) : (s.dropAct a).rd i = s.rd i := rfl

/-! ### `strobe` -/

@[simp] theorem State.strobe_pending (s : State) (n : Nat) : (s.strobe n).pending = s.pending := rfl
@[simp] theorem State.strobe_cells (s : State) (n : Nat) : (s.strobe n).cells = s.cells := rfl
@[simp] theorem State.strobe_free (s : State) (n : Nat) : (s.strobe n).free = s.free := rfl
@[simp] theorem State.strobe_clock (s : State) (n : Nat) : (s.strobe n).clock = s.clock := rfl
@[simp] theorem State.strobe_tb (s : State) (n : Nat) : (s.strobe n).tb = s.tb := rfl
@[simp] theorem State.strobe_cue (s : State) (n : Nat) : (s.strobe n).cue = s.cue := rfl
@[simp] theorem State.strobe_pwr (s : State) (n : Nat) : (s.strobe n).pwr = s.pwr := rfl
@[simp] theorem State.strobe_log (s : State) (n : Nat) : (s.strobe n).log = s.log := rfl
@[simp] theorem State.strobe_obs (s : State) (n : Nat) : (s.strobe n).obs = s.obs := rfl
@[simp] theorem State.strobe_tap (s : State) (n : Nat) : (s.strobe n).tap = s.tap := rfl
@[simp] theorem State.strobe_ax (s : State) (n : Nat) : (s.strobe n).ax = s.ax := rfl
@[simp] theorem State.strobe_cfg (s : State) (n : Nat) : (s.strobe n).cfg = s.cfg := rfl
@[simp] theorem State.strobe_lp (s : State) (n : Nat) : (s.strobe n).lp = s.lp := rfl
@[simp] theorem State.strobe_cell (s : State) (n : Nat) : (s.strobe n).cell = s.cell := rfl
@[simp] theorem State.strobe_bus (s : State) (n : Nat) : (s.strobe n).bus = s.bus := rfl
@[simp] theorem State.strobe_apAt (s : State) (n : Nat) : (s.strobe n).apAt = s.apAt := rfl
@[simp] theorem State.strobe_fc (s : State) (n : Nat) : (s.strobe n).fc = s.fc := rfl
@[simp] theorem State.strobe_wm (s : State) (n : Nat) : (s.strobe n).wm = s.wm := rfl
@[simp] theorem State.strobe_se (s : State) (n : Nat) : (s.strobe n).se = s.se := rfl
@[simp] theorem State.strobe_ds (s : State) (n : Nat) : (s.strobe n).ds = s.ds := rfl
@[simp] theorem State.strobe_fm (s : State) (n : Nat) : (s.strobe n).fm = s.fm := rfl
@[simp] theorem State.strobe_pin (s : State) (n : Nat) : (s.strobe n).pin = s.pin := rfl
@[simp] theorem State.strobe_ring (s : State) (n : Nat) : (s.strobe n).ring = s.ring := rfl
@[simp] theorem State.strobe_sampleAt (s : State) (n : Nat) : (s.strobe n).sampleAt = s.sampleAt := rfl
@[simp] theorem State.strobe_claims (s : State) (n : Nat) : (s.strobe n).claims = s.claims := rfl
@[simp] theorem State.strobe_press (s : State) (n : Nat) : (s.strobe n).press = s.press := rfl
@[simp] theorem State.strobe_seeded (s : State) (n : Nat) : (s.strobe n).seeded = s.seeded := rfl
@[simp] theorem State.strobe_undo (s : State) (n : Nat) : (s.strobe n).undo = s.undo := rfl
@[simp] theorem State.strobe_rd (s : State) (n : Nat) (i : Nat) : (s.strobe n).rd i = s.rd i := rfl

/-! ### `snapSlot` -/

@[simp] theorem State.snapSlot_pending (s : State) (n : Nat) : (s.snapSlot n).pending = s.pending := rfl
@[simp] theorem State.snapSlot_cells (s : State) (n : Nat) : (s.snapSlot n).cells = s.cells := rfl
@[simp] theorem State.snapSlot_free (s : State) (n : Nat) : (s.snapSlot n).free = s.free := rfl
@[simp] theorem State.snapSlot_clock (s : State) (n : Nat) : (s.snapSlot n).clock = s.clock := rfl
@[simp] theorem State.snapSlot_tb (s : State) (n : Nat) : (s.snapSlot n).tb = s.tb := rfl
@[simp] theorem State.snapSlot_cue (s : State) (n : Nat) : (s.snapSlot n).cue = s.cue := rfl
@[simp] theorem State.snapSlot_pwr (s : State) (n : Nat) : (s.snapSlot n).pwr = s.pwr := rfl
@[simp] theorem State.snapSlot_obs (s : State) (n : Nat) : (s.snapSlot n).obs = s.obs := rfl
@[simp] theorem State.snapSlot_tap (s : State) (n : Nat) : (s.snapSlot n).tap = s.tap := rfl
@[simp] theorem State.snapSlot_ax (s : State) (n : Nat) : (s.snapSlot n).ax = s.ax := rfl
@[simp] theorem State.snapSlot_cfg (s : State) (n : Nat) : (s.snapSlot n).cfg = s.cfg := rfl
@[simp] theorem State.snapSlot_lp (s : State) (n : Nat) : (s.snapSlot n).lp = s.lp := rfl
@[simp] theorem State.snapSlot_cell (s : State) (n : Nat) : (s.snapSlot n).cell = s.cell := rfl
@[simp] theorem State.snapSlot_bus (s : State) (n : Nat) : (s.snapSlot n).bus = s.bus := rfl
@[simp] theorem State.snapSlot_apAt (s : State) (n : Nat) : (s.snapSlot n).apAt = s.apAt := rfl
@[simp] theorem State.snapSlot_fc (s : State) (n : Nat) : (s.snapSlot n).fc = s.fc := rfl
@[simp] theorem State.snapSlot_wm (s : State) (n : Nat) : (s.snapSlot n).wm = s.wm := rfl
@[simp] theorem State.snapSlot_se (s : State) (n : Nat) : (s.snapSlot n).se = s.se := rfl
@[simp] theorem State.snapSlot_ds (s : State) (n : Nat) : (s.snapSlot n).ds = s.ds := rfl
@[simp] theorem State.snapSlot_fm (s : State) (n : Nat) : (s.snapSlot n).fm = s.fm := rfl
@[simp] theorem State.snapSlot_fab (s : State) (n : Nat) : (s.snapSlot n).fab = s.fab := rfl
@[simp] theorem State.snapSlot_pin (s : State) (n : Nat) : (s.snapSlot n).pin = s.pin := rfl
@[simp] theorem State.snapSlot_ring (s : State) (n : Nat) : (s.snapSlot n).ring = s.ring := rfl
@[simp] theorem State.snapSlot_sampleAt (s : State) (n : Nat) : (s.snapSlot n).sampleAt = s.sampleAt := rfl
@[simp] theorem State.snapSlot_claims (s : State) (n : Nat) : (s.snapSlot n).claims = s.claims := rfl
@[simp] theorem State.snapSlot_press (s : State) (n : Nat) : (s.snapSlot n).press = s.press := rfl
@[simp] theorem State.snapSlot_seeded (s : State) (n : Nat) : (s.snapSlot n).seeded = s.seeded := rfl
@[simp] theorem State.snapSlot_undo (s : State) (n : Nat) : (s.snapSlot n).undo = s.undo := rfl
@[simp] theorem State.snapSlot_rd (s : State) (n : Nat) (i : Nat) : (s.snapSlot n).rd i = s.rd i := rfl

/-! ### What is set is what stands there -/

theorem Tab.get_set_same {α : Type} (t : Tab α) (d v : α) (k : Nat) : (t.set k v).get d k = v := by
  simp [Tab.get, Tab.set]

theorem Tab.lookup_filter_ne {α : Type} (t : Tab α) {j k : Nat} (h : j ≠ k) :
    (t.filter (fun e => e.1 != k)).lookup j = t.lookup j := by
  induction t with
  | nil => rfl
  | cons x t ih =>
    obtain ⟨i, w⟩ := x
    by_cases hi : i = k
    · subst hi
      have : (j == i) = false := by simp [h]
      simp [ih, List.lookup_cons, this]
    · have : (i != k) = true := by simp [hi]
      simp only [List.filter_cons, this, if_true, List.lookup_cons, ih]

theorem Tab.get_set_ne {α : Type} (t : Tab α) (d v : α) {j k : Nat} (h : j ≠ k) :
    (t.set k v).get d j = t.get d j := by
  have hb : (j == k) = false := by simp [h]
  simp only [Tab.get, Tab.set, List.lookup_cons, hb, Tab.lookup_filter_ne t h]

@[simp] theorem State.setRes_res (s : State) (r : Nat) (x : ResSt) : (s.setRes r x).res r = x :=
  Tab.get_set_same _ _ _ _

theorem State.setRes_res_ne (s : State) {i r : Nat} (h : i ≠ r) (x : ResSt) :
    (s.setRes r x).res i = s.res i := Tab.get_set_ne _ _ _ h

@[simp] theorem State.setPort_port (s : State) (p : Nat) (x : PortSt) : (s.setPort p x).port p = x :=
  Tab.get_set_same _ _ _ _

theorem State.setPort_port_ne (s : State) {i p : Nat} (h : i ≠ p) (x : PortSt) :
    (s.setPort p x).port i = s.port i := Tab.get_set_ne _ _ _ h

@[simp] theorem State.setCell_cellSt (s : State) (c : Nat) (x : CellSt) : (s.setCell c x).cellSt c = x :=
  Tab.get_set_same _ _ _ _

theorem State.setCell_cellSt_ne (s : State) {i c : Nat} (h : i ≠ c) (x : CellSt) :
    (s.setCell c x).cellSt i = s.cellSt i := Tab.get_set_ne _ _ _ h

@[simp] theorem State.setChain_chain (s : State) (c : Nat) (x : ChainSt) : (s.setChain c x).chain c = x :=
  Tab.get_set_same _ _ _ _

theorem State.setChain_chain_ne (s : State) {i c : Nat} (h : i ≠ c) (x : ChainSt) :
    (s.setChain c x).chain i = s.chain i := Tab.get_set_ne _ _ _ h

@[simp] theorem State.setLp_lpSt (s : State) (p : Nat) (x : LpSt) : (s.setLp p x).lpSt p = x :=
  Tab.get_set_same _ _ _ _

theorem State.setLp_lpSt_ne (s : State) {i p : Nat} (h : i ≠ p) (x : LpSt) :
    (s.setLp p x).lpSt i = s.lpSt i := Tab.get_set_ne _ _ _ h

@[simp] theorem State.setMon_mon (s : State) (m : Nat) (x : MonSt) : (s.setMon m x).mon m = x :=
  Tab.get_set_same _ _ _ _

theorem State.setMon_mon_ne (s : State) {i m : Nat} (h : i ≠ m) (x : MonSt) :
    (s.setMon m x).mon i = s.mon i := Tab.get_set_ne _ _ _ h

@[simp] theorem State.setRg_rg (s : State) (n : Nat) (r : RasterSt) : (s.setRg n r).rg n = r :=
  Tab.get_set_same _ _ _ _

theorem State.setRg_rg_ne (s : State) {i n : Nat} (h : i ≠ n) (r : RasterSt) :
    (s.setRg n r).rg i = s.rg i := Tab.get_set_ne _ _ _ h

@[simp] theorem State.setBt_bt (s : State) (n : Nat) (b : TimerSt) : (s.setBt n b).bt n = b :=
  Tab.get_set_same _ _ _ _

theorem State.setBt_bt_ne (s : State) {i n : Nat} (h : i ≠ n) (b : TimerSt) :
    (s.setBt n b).bt i = s.bt i := Tab.get_set_ne _ _ _ h

@[simp] theorem State.setSrc_srcSt (s : State) (c : Nat) (x : SourceSt) : (s.setSrc c x).srcSt c = x :=
  Tab.get_set_same _ _ _ _

theorem State.setSrc_srcSt_ne (s : State) {i c : Nat} (h : i ≠ c) (x : SourceSt) :
    (s.setSrc c x).srcSt i = s.srcSt i := Tab.get_set_ne _ _ _ h

@[simp] theorem State.setStream_stream (s : State) (d : Nat) (x : StreamSt) : (s.setStream d x).stream d = x :=
  Tab.get_set_same _ _ _ _

theorem State.setStream_stream_ne (s : State) {i d : Nat} (h : i ≠ d) (x : StreamSt) :
    (s.setStream d x).stream i = s.stream i := Tab.get_set_ne _ _ _ h

@[simp] theorem State.setChan_chan (s : State) (c : Nat) (x : BridgeSt) : (s.setChan c x).chan c = x :=
  Tab.get_set_same _ _ _ _

theorem State.setChan_chan_ne (s : State) {i c : Nat} (h : i ≠ c) (x : BridgeSt) :
    (s.setChan c x).chan i = s.chan i := Tab.get_set_ne _ _ _ h

end Sys2Proof.Machine
end

