-- ==== Sys2Proof/Laws/Ending.lean ====
section
/-! SUPPORT. What every command does around its own effect: time passes to its instant before it, and the ending that
all commands share after it. A statement about a command's effect needs only these lemmas of the two. -/

namespace Sys2Proof.Machine

/-! ### Repetition -/

/-- What each application keeps, the repetition keeps. -/
theorem State.each_keeps {α β : Type} (F : State → β) (f : State → α → State) (l : List α)
    (h : ∀ s, ∀ x ∈ l, F (f s x) = F s) (s : State) : F (s.each l f) = F s := by
  induction l generalizing s with
  | nil => rfl
  | cons x t ih =>
    rw [State.each, List.foldl_cons]
    exact (ih (fun s y hy => h s y (List.mem_cons_of_mem _ hy)) (f s x)).trans (h s x List.mem_cons_self)

/-- What relates each application's result to its start, and composes, relates the repetition's. -/
theorem State.each_rel {α : Type} (R : State → State → Prop) (f : State → α → State) (l : List α)
    (h0 : ∀ s, R s s) (h2 : ∀ s t u, R s t → R t u → R s u) (h : ∀ s x, R s (f s x)) (s : State) :
    R s (s.each l f) := by
  induction l generalizing s with
  | nil => exact h0 s
  | cons x t ih => exact h2 _ _ _ (h s x) (ih (f s x))

theorem State.when_keeps {β : Type} (F : State → β) (f : State → State) (b : Bool) (s : State)
    (h : F (f s) = F s) : F (s.when b f) = F s := by
  cases b <;> simp [State.when, h]

/-! ### Time -/

/-- Before its effect a command changes only the clock, the phase still to slew, and the record of the wire. -/
theorem State.atTime_eq (s : State) (t : TT) : ∃ c x,
    s.atTime t = { s with ax := { s.ax with wire := [] }, clock := c, tb := { s.tb with phaseTarget := x } } := by
  unfold State.atTime State.passTo
  split
  · exact ⟨_, _, rfl⟩
  · exact ⟨_, _, rfl⟩

@[simp] theorem State.atTime_cells (s : State) (t : TT) : (s.atTime t).cells = s.cells := by
  obtain ⟨c, x, h⟩ := s.atTime_eq t; rw [h]

@[simp] theorem State.atTime_rd (s : State) (t : TT) (a : Nat) : (s.atTime t).rd a = s.rd a := by
  simp [State.rd]

@[simp] theorem State.atTime_dev (s : State) (t : TT) : (s.atTime t).pwr = s.pwr := by
  obtain ⟨c, x, h⟩ := s.atTime_eq t; rw [h]

/-! ### Event records -/

/-- Every register of the event log lies between these addresses, the ring included. -/
def inLog (a : Nat) : Prop := 0xA00000 ≤ a ∧ a < 0xC00000

theorem State.rd_inc_ne (s : State) {f : Fld} {a : Nat} (h : f.addr ≠ a) : (s.inc f).rd a = s.rd a :=
  State.rd_p_ne s h _

theorem State.rd_raise_ne (s : State) {f : Fld} {a : Nat} (h : f.addr ≠ a) (v : Nat) : (s.raise f v).rd a = s.rd a :=
  State.rd_p_ne s h _

/-- A record that goes into the ring changes no register outside the event log. -/
theorem State.commitRec_rd (s : State) (r : LogRec) {a : Nat} (h : ¬ inLog a) (hr : r.severity < 4) :
    (s.commitRec r).rd a = s.rd a := by
  have hs : (s.rd EL_HEAD).toNat % 4096 < 4096 := Nat.mod_lt _ (by decide)
  simp only [inLog] at h
  simp only [State.commitRec, State.incWrap]
  rw [State.rd_p_ne _ (by simp only [word, EL_SEV_CNT]; omega), State.rd_wr_ne _ (by simp only [EL_HEAD]; omega),
    State.rd_wr_ne _ (by simp only [RING_W]; omega), State.rd_wr_ne _ (by simp only [RING_W]; omega),
    State.rd_wr_ne _ (by simp only [RING_W]; omega), State.rd_wr_ne _ (by simp only [RING_W]; omega)]
  split
  · rw [State.rd_wr_ne _ (by simp only [EL_TAIL]; omega), State.rd_inc_ne _ (by simp only [cnt16, EL_LOST_CNT]; omega)]
  · rfl

/-- An event record changes no register outside the event log. -/
theorem State.event_rd (s : State) (code service : Nat) (d : W32) (cause : Nat) {a : Nat} (h : ¬ inLog a)
    (hc : code < 64) : (s.event code service d cause).rd a = s.rd a := by
  have h' := h
  simp only [inLog] at h
  have h1 : (cnt16 (EL_CODE_CNT code)).addr ≠ a := by simp only [cnt16, EL_CODE_CNT]; omega
  have hsev : severityOf code < 4 := by unfold severityOf; split <;> (try split) <;> (try split) <;> decide
  simp only [State.event]
  split
  · rfl
  · split
    · rw [State.rd_inc_ne _ (by simp only [cnt16, EL_FILTER_CNT]; omega), State.rd_inc_ne _ h1]
    · split
      · rw [State.rd_inc_ne _ (by simp only [cnt16, EL_FULL_CNT]; omega), State.rd_inc_ne _ h1]
      · split
        · rw [State.commitRec_rd _ _ h' hsev, State.rd_inc_ne _ h1]
        · rw [State.rd_raise_ne _ (by simp only [cnt16, EL_LAG_MAX]; omega),
            State.rd_raise_ne _ (by simp only [EL_PEND_MAX]; omega)]
          exact State.rd_inc_ne _ h1

/-- An event record changes only register words and the commit stage. -/
theorem State.event_eq (s : State) (code service : Nat) (d : W32) (cause : Nat) :
    ∃ c l, s.event code service d cause = { s with cells := c, log := { s.log with stage := l } } := by
  simp only [State.event]
  split
  · exact ⟨s.cells, s.log.stage, rfl⟩
  · split
    · exact ⟨_, s.log.stage, rfl⟩
    · split
      · exact ⟨_, s.log.stage, rfl⟩
      · split
        · simp only [State.commitRec]
          split <;> exact ⟨_, s.log.stage, rfl⟩
        · exact ⟨_, _, rfl⟩

/-! ### The device state -/

/-- A state change records itself, and changes nothing else. -/
theorem State.changeState_eq (s : State) (d : DevState) :
    ∃ c l, s.changeState d = { s with
      cells := c, log := { s.log with stage := l },
      pwr := { s.pwr with state := d, enteredAt := s.elapsed } } := by
  simp only [State.changeState, State.eventNow]
  obtain ⟨c, l, h⟩ := State.event_eq (((State.p { s with pwr := { s.pwr with state := d, enteredAt := s.elapsed } }
    SYS_STATE_prev s.dev.code).wr64 SYS_STATE_TT_LO s.clock.ns).inc (cnt16 SYS_STATE_CHANGE_CNT)) 0x01 0
    (BitVec.ofNat 32 (s.dev.code * 16 + d.code)) s.now
  exact ⟨c, l, h⟩

/-- The registers that the ending of a command leaves. -/
theorem endsOn_out {a : Nat} (h : endsOn a = false) :
    a ≠ SYS_STATE ∧ a ≠ SYS_STATE_TT_LO ∧ a ≠ SYS_STATE_TT_LO + 4 ∧ a ≠ SYS_STATE_CHANGE_CNT ∧ a ≠ BAT_KEEP_STAT ∧
    (∀ b, b < 4 → a ≠ GP_CONFLICT b ∧ a ≠ GP_CONFLICT_CNT b) ∧ ¬ inLog a := by
  simp only [endsOn, Bool.or_eq_false_iff, List.contains_cons, List.contains_nil, beq_eq_false_iff_ne,
    List.any_eq_false, List.mem_range, Bool.or_eq_true, beq_iff_eq, not_or, Bool.and_eq_false_iff,
    decide_eq_false_iff_not, ne_eq] at h
  obtain ⟨⟨⟨h1, h2, h3, h4, h5, -⟩, h6⟩, h7⟩ := h
  refine ⟨h1, h2, h3, h4, h5, fun b hb => h6 b hb, ?_⟩
  simp only [inLog]
  omega

theorem State.changeState_rd (s : State) (d : DevState) {a : Nat} (h : endsOn a = false) :
    (s.changeState d).rd a = s.rd a := by
  obtain ⟨h1, h2, h3, h4, -, -, h7⟩ := endsOn_out h
  simp only [State.changeState, State.eventNow, State.wr64]
  rw [State.event_rd _ _ _ _ _ h7 (by decide), State.rd_inc_ne _ (Ne.symm h4), State.rd_wr_ne _ (Ne.symm h3),
    State.rd_wr_ne _ (Ne.symm h2), State.rd_p_ne _ (Ne.symm h1)]
  rfl

theorem State.follow_rd (s : State) {a : Nat} (h : endsOn a = false) : s.follow.rd a = s.rd a := by
  unfold State.follow
  split
  · exact State.changeState_rd s _ h
  · rfl

/-! ### Idle times -/

theorem State.trackIdle_eq (s : State) : ∃ r, s.trackIdle = { s with pwr := { s.pwr with res := r } } := by
  unfold State.trackIdle
  split
  · refine State.each_rel (fun s t => ∃ r, t = { s with pwr := { s.pwr with res := r } }) _ _ (fun s => ⟨_, rfl⟩) ?_ ?_ s
    · rintro s t u ⟨r, rfl⟩ ⟨r', rfl⟩
      exact ⟨r', rfl⟩
    · intro s x
      simp only [State.trackOne]
      split
      · split
        · exact ⟨_, rfl⟩
        · exact ⟨_, rfl⟩
      · split
        · exact ⟨_, rfl⟩
        · exact ⟨_, rfl⟩
  · exact ⟨_, rfl⟩

@[simp] theorem State.trackIdle_rd (s : State) (a : Nat) : s.trackIdle.rd a = s.rd a := by
  obtain ⟨r, h⟩ := s.trackIdle_eq; rw [h]; rfl

/-! ### Pins -/

/-- Words, the commit stage and the pins in conflict are all that a scan of the pins may change. -/
def State.scans (s t : State) : Prop :=
  ∃ c l k, t = { s with cells := c, log := { s.log with stage := l }, pin := { s.pin with conflict := k } }

theorem State.scans_refl (s : State) : s.scans s := ⟨_, _, _, rfl⟩

theorem State.scans_trans (s t u : State) (h : s.scans t) (h' : t.scans u) : s.scans u := by
  obtain ⟨c, l, k, rfl⟩ := h
  obtain ⟨c', l', k', rfl⟩ := h'
  exact ⟨c', l', k', rfl⟩

theorem State.pinScan_eq (s : State) : ∃ c l k, s.pinScan =
    { s with cells := c, log := { s.log with stage := l }, pin := { s.pin with conflict := k } } := by
  simp only [State.pinScan]
  refine State.scans_trans s _ _ (State.scans_trans s _ _ ⟨s.cells, s.log.stage, _, rfl⟩
    (State.each_rel State.scans _ _ State.scans_refl State.scans_trans (fun s x => ⟨_, _, _, rfl⟩) _))
    (State.each_rel State.scans _ _ State.scans_refl State.scans_trans (fun s x => ?_) _)
  simp only [State.eventNow]
  obtain ⟨c, l, h⟩ := State.event_eq (s.inc (cnt16 (GP_CONFLICT_CNT (x / 16)))) 0x38 _ (BitVec.ofNat 32 x) _
  exact ⟨c, l, _, h⟩

theorem State.pinScan_rd (s : State) {a : Nat} (h : endsOn a = false) : s.pinScan.rd a = s.rd a := by
  obtain ⟨-, -, -, -, -, h6, h7⟩ := endsOn_out h
  simp only [State.pinScan]
  refine (State.each_keeps (fun s => s.rd a) _ _ ?_ _).trans ((State.each_keeps (fun s => s.rd a) _ _ ?_ _).trans rfl)
  · intro s x hx
    have hx' : x / 16 < 4 := by
      simp only [List.mem_filter, List.mem_range] at hx
      omega
    simp only [State.eventNow]
    rw [State.event_rd _ _ _ _ _ h7 (by decide)]
    exact State.rd_inc_ne _ (Ne.symm (h6 _ hx').2)
  · intro s x hx
    have hx' : x / 16 < 4 := by
      simp only [List.mem_filter, List.mem_range] at hx
      omega
    exact State.rd_p_ne _ (Ne.symm (h6 _ hx').1) _

/-! ### The test access port and the KEEP words -/

theorem State.tapReturn_eq (s : State) : ∃ x, s.tapReturn = { s with tap := x } := by
  unfold State.tapReturn
  split <;> exact ⟨_, rfl⟩

theorem State.markKeep_eq (s old : State) : ∃ c, s.markKeep old = { s with cells := c } := by
  unfold State.markKeep
  split
  · exact ⟨_, rfl⟩
  · refine State.each_rel (fun s t => ∃ c, t = { s with cells := c }) _ _ (fun s => ⟨_, rfl⟩) ?_ ?_ s
    · rintro s t u ⟨c, rfl⟩ ⟨c', rfl⟩
      exact ⟨c', rfl⟩
    · intro s x
      exact ⟨_, rfl⟩

theorem State.markKeep_rd (s old : State) {a : Nat} (h : a ≠ BAT_KEEP_STAT) : (s.markKeep old).rd a = s.rd a := by
  unfold State.markKeep
  split
  · rfl
  · exact State.each_keeps (fun s => s.rd a) _ _ (fun s x _ => State.rd_p_ne _ (Ne.symm h) _) s

/-! ### The ending -/

/-- The ending changes only register words, the commit stage, the pins in conflict, the test access port, and of the
device its state, its entry and its resources. -/
theorem State.ended_eq (s old : State) : ∃ c l r d e k x, s.ended old = { s with
    cells := c, log := { s.log with stage := l }, pwr := { s.pwr with state := d, enteredAt := e, res := r },
    pin := { s.pin with conflict := k }, tap := x } := by
  obtain ⟨c1, h1⟩ := s.markKeep_eq old
  obtain ⟨c2, l2, d2, e2, h2⟩ : ∃ c l d e, (s.markKeep old).follow = { (s.markKeep old) with
      cells := c, log := { (s.markKeep old).log with stage := l },
      pwr := { (s.markKeep old).pwr with state := d, enteredAt := e } } := by
    unfold State.follow
    split
    · obtain ⟨c, l, h⟩ := State.changeState_eq (s.markKeep old) (s.markKeep old).runState
      exact ⟨c, l, _, _, h⟩
    · exact ⟨_, _, _, _, rfl⟩
  obtain ⟨r3, h3⟩ := State.trackIdle_eq (s.markKeep old).follow
  obtain ⟨c4, l4, k4, h4⟩ := State.pinScan_eq (s.markKeep old).follow.trackIdle
  obtain ⟨x5, h5⟩ := State.tapReturn_eq (s.markKeep old).follow.trackIdle.pinScan
  refine ⟨c4, l4, r3, d2, e2, k4, x5, ?_⟩
  unfold State.ended State.settle
  rw [h5, h4, h3, h2, h1]

/-- The ending leaves every register but the few that `endsOn` names. -/
theorem State.ended_rd (s old : State) {a : Nat} (h : endsOn a = false) : (s.ended old).rd a = s.rd a := by
  obtain ⟨x, hx⟩ := State.tapReturn_eq (s.markKeep old).follow.trackIdle.pinScan
  have : (s.ended old).rd a = (s.markKeep old).follow.trackIdle.pinScan.rd a := by
    unfold State.ended State.settle
    rw [hx]; rfl
  rw [this, State.pinScan_rd _ h, State.trackIdle_rd, State.follow_rd _ h,
    State.markKeep_rd _ _ (endsOn_out h).2.2.2.2.1]

/-- A field of a register that the ending leaves. -/
theorem State.ended_g (s old : State) {f : Fld} (h : endsOn f.addr = false) : (s.ended old).g f = s.g f := by
  simp [State.g, State.ended_rd s old h]

@[simp] theorem State.ended_pending (s old : State) : (s.ended old).pending = s.pending := by
  obtain ⟨_, _, _, _, _, _, _, h⟩ := s.ended_eq old; rw [h]

@[simp] theorem State.ended_free (s old : State) : (s.ended old).free = s.free := by
  obtain ⟨_, _, _, _, _, _, _, h⟩ := s.ended_eq old; rw [h]

@[simp] theorem State.ended_clock (s old : State) : (s.ended old).clock = s.clock := by
  obtain ⟨_, _, _, _, _, _, _, h⟩ := s.ended_eq old; rw [h]

@[simp] theorem State.ended_tb (s old : State) : (s.ended old).tb = s.tb := by
  obtain ⟨_, _, _, _, _, _, _, h⟩ := s.ended_eq old; rw [h]

@[simp] theorem State.ended_cue (s old : State) : (s.ended old).cue = s.cue := by
  obtain ⟨_, _, _, _, _, _, _, h⟩ := s.ended_eq old; rw [h]

@[simp] theorem State.ended_obs (s old : State) : (s.ended old).obs = s.obs := by
  obtain ⟨_, _, _, _, _, _, _, h⟩ := s.ended_eq old; rw [h]

@[simp] theorem State.ended_ax (s old : State) : (s.ended old).ax = s.ax := by
  obtain ⟨_, _, _, _, _, _, _, h⟩ := s.ended_eq old; rw [h]

@[simp] theorem State.ended_cfg (s old : State) : (s.ended old).cfg = s.cfg := by
  obtain ⟨_, _, _, _, _, _, _, h⟩ := s.ended_eq old; rw [h]

@[simp] theorem State.ended_lp (s old : State) : (s.ended old).lp = s.lp := by
  obtain ⟨_, _, _, _, _, _, _, h⟩ := s.ended_eq old; rw [h]

@[simp] theorem State.ended_cell (s old : State) : (s.ended old).cell = s.cell := by
  obtain ⟨_, _, _, _, _, _, _, h⟩ := s.ended_eq old; rw [h]

@[simp] theorem State.ended_bus (s old : State) : (s.ended old).bus = s.bus := by
  obtain ⟨_, _, _, _, _, _, _, h⟩ := s.ended_eq old; rw [h]

@[simp] theorem State.ended_fc (s old : State) : (s.ended old).fc = s.fc := by
  obtain ⟨_, _, _, _, _, _, _, h⟩ := s.ended_eq old; rw [h]

@[simp] theorem State.ended_wm (s old : State) : (s.ended old).wm = s.wm := by
  obtain ⟨_, _, _, _, _, _, _, h⟩ := s.ended_eq old; rw [h]

@[simp] theorem State.ended_se (s old : State) : (s.ended old).se = s.se := by
  obtain ⟨_, _, _, _, _, _, _, h⟩ := s.ended_eq old; rw [h]

@[simp] theorem State.ended_ds (s old : State) : (s.ended old).ds = s.ds := by
  obtain ⟨_, _, _, _, _, _, _, h⟩ := s.ended_eq old; rw [h]

@[simp] theorem State.ended_fm (s old : State) : (s.ended old).fm = s.fm := by
  obtain ⟨_, _, _, _, _, _, _, h⟩ := s.ended_eq old; rw [h]

@[simp] theorem State.ended_fab (s old : State) : (s.ended old).fab = s.fab := by
  obtain ⟨_, _, _, _, _, _, _, h⟩ := s.ended_eq old; rw [h]

@[simp] theorem State.ended_ring (s old : State) : (s.ended old).ring = s.ring := by
  obtain ⟨_, _, _, _, _, _, _, h⟩ := s.ended_eq old; rw [h]

@[simp] theorem State.ended_apAt (s old : State) : (s.ended old).apAt = s.apAt := by
  obtain ⟨_, _, _, _, _, _, _, h⟩ := s.ended_eq old; rw [h]

@[simp] theorem State.ended_undo (s old : State) : (s.ended old).undo = s.undo := by
  obtain ⟨_, _, _, _, _, _, _, h⟩ := s.ended_eq old; rw [h]

@[simp] theorem State.ended_sampleAt (s old : State) : (s.ended old).sampleAt = s.sampleAt := by
  obtain ⟨_, _, _, _, _, _, _, h⟩ := s.ended_eq old; rw [h]

@[simp] theorem State.ended_claims (s old : State) : (s.ended old).claims = s.claims := by
  obtain ⟨_, _, _, _, _, _, _, h⟩ := s.ended_eq old; rw [h]

@[simp] theorem State.ended_press (s old : State) : (s.ended old).press = s.press := by
  obtain ⟨_, _, _, _, _, _, _, h⟩ := s.ended_eq old; rw [h]

@[simp] theorem State.ended_seeded (s old : State) : (s.ended old).seeded = s.seeded := by
  obtain ⟨_, _, _, _, _, _, _, h⟩ := s.ended_eq old; rw [h]

/-! ### Every command -/

/-- Every command lets time pass, has its effect, and ends as all commands do. -/
theorem exec_ended (i : Instr) (s : State) : ∃ u : State, exec i s = .next (u.ended s) := by
  cases i <;> exact ⟨_, rfl⟩

end Sys2Proof.Machine
end

