-- ==== Sys2Proof/Laws/Port.lean ====
section
/-! SUPPORT. What a frame of one unit does: the port's own bookkeeping around one access of one register. -/

namespace Sys2Proof.Machine

/-- The bytes of a word spell it. -/
theorem ofBytes_bytesOf4 (v : Nat) (h : v < 2 ^ 32) : ofBytes (bytesOf 4 v) = v := by
  simp only [bytesOf, ofBytes, List.range, List.range.loop, List.map]
  simp only [BitVec.toNat_ofNat]
  omega

/-- The one whole unit of a word's bytes. -/
theorem unitValues_word (v : W32) : unitValues 4 (bytesOf 4 v.toNat) 1 = [v.toNat] := by
  have h : (bytesOf 4 v.toNat).length = 4 := rfl
  rw [unitValues, h, if_neg (by decide), List.take_of_length_le (Nat.le_of_eq h), ofBytes_bytesOf4 _ v.isLt]
  rfl

/-- A frame of one 32-bit unit makes one access. -/
theorem State.units_one (s : State) (wr : Bool) (a x st v : Nat) (u : State)
    (h : s.access wr 4 a x = (st, v, u)) :
    s.units wr .s32 a [x] [] = (⟨st, 0, bytesOf 4 v⟩, u) := by
  have e : sizeBytes .s32 = 4 := rfl
  simp only [State.units, List.zipIdx_cons, List.zipIdx_nil, List.foldl_cons, List.foldl_nil, State.unitOf, e, h,
    Nat.zero_mul, Nat.add_zero, List.contains_nil, Bool.false_eq_true, if_false]
  by_cases h0 : st = stOk
  · subst h0; simp [FrameOut.add, stOk]
  · have : ¬ st = 0 := h0
    simp [FrameOut.add, stOk, this]

/-- A frame that writes one register is one write access, with the port's status. -/
theorem State.portWrite_eq (s : State) (a : Nat) (v : W32) (hp : s.dev.powered = true) (ha : a < 2 ^ 32)
    (h4 : a % 4 = 0) (st : Nat) (u : State) (hw : s.writeAccess 4 a v.toNat = (st, u)) :
    s.portWrite a v =
      (let x := (u.countUnit st a).ownRemote
       { x with obs := { x.obs with
          wrStatus := BitVec.ofNat 8 st, wrIndex := 0, answer := [BitVec.ofNat 8 st, 0] } }) := by
  have h1 : headerOk opWrite32 0 (BitVec.ofNat 32 a) = true := rfl
  have h2 : (BitVec.ofNat 32 a).toNat = a := by simp only [BitVec.toNat_ofNat]; omega
  have h5 : opSize opWrite32 = .s32 := rfl
  have h6 : opWrite32.toNat / 64 = 1 := rfl
  have e : sizeBytes .s32 = 4 := rfl
  have h7 : (0 : Byte).toNat + 1 = 1 := rfl
  have hu := State.units_one s true a v.toNat st 0 ((u.countUnit st a).ownRemote) (by simp only [State.access, hw, if_true])
  unfold State.portWrite State.frameIn
  simp only [hp, h1, h2, h5, h6, h7, e, h4, unitValues_word, beq_self_eq_true]
  simp [hu, State.when, State.answerWith]

/-- A frame that reads one register is one read access, with the port's status and the value. -/
theorem State.portRead_eq (s : State) (a : Nat) (hp : s.dev.powered = true) (ha : a < 2 ^ 32)
    (h4 : a % 4 = 0) (st v : Nat) (u : State) (hr : s.readAccess 4 a = (st, v, u)) :
    s.portRead a false = (u.countUnit st a).answerWith ⟨st, 0, bytesOf 4 v⟩ := by
  have h1 : headerOk opRead32 0 (BitVec.ofNat 32 a) = true := rfl
  have h2 : (BitVec.ofNat 32 a).toNat = a := by simp only [BitVec.toNat_ofNat]; omega
  have h5 : opSize opRead32 = .s32 := rfl
  have h6 : opRead32.toNat / 64 = 0 := rfl
  have h7 : (0 : Byte).toNat + 1 = 1 := rfl
  have hu := State.units_one s false a 0 st v (u.countUnit st a) (by simp [State.access, hr])
  unfold State.portRead State.frameIn
  simp only [Bool.false_eq_true, if_false, hp, h1, h2, h5, h6, h7, h4, List.replicate, Nat.reduceBEq]
  simp [hu, State.when]

/-- A write of a register that is not half of a pair is judged as the register rules say, and answered. -/
theorem State.portWrite_reg (s : State) (a : Nat) (v : W32) (h : s.reaches a) (hlo : isRwLo a = false)
    (hhi : isRwLo (a - 4) = false) (w : Why) (u : State) (hw : s.writeReg .observer a v 0xFFFFFFFF = (w, u)) :
    s.portWrite a v =
      (let x := (u.countUnit w.status a).ownRemote
       { x with obs := { x.obs with
          wrStatus := BitVec.ofNat 8 w.status, wrIndex := 0, answer := [BitVec.ofNat 8 w.status, 0] } }) := by
  obtain ⟨hp, ha, h4, hs⟩ := h
  apply State.portWrite_eq s a v hp (by omega) h4
  have hb : windowByte a = none := by unfold windowByte; rw [if_neg]; omega
  have h5 : a / 4 * 4 = a := by omega
  have h8 : BitVec.ofNat 32 v.toNat = v := by simp
  simp only [State.writeAccess, hb, h4, h5, hs, State.writePair, hlo, hhi, h8, hw, ne_eq, not_true_eq_false,
    if_false, Nat.le_refl, if_true, Bool.false_eq_true, and_false]

/-- A whole read of a register returns its value and has its effect. -/
theorem State.portRead_reg (s : State) (a : Nat) (h : s.reaches a) (hrb : a ≠ CFG_RB_DATA) :
    s.portRead a false = (s.readEffect a).answerWith ⟨stOk, 0, bytesOf 4 (s.readValue a).toNat⟩ := by
  obtain ⟨hp, ha, h4, hs⟩ := h
  have hb : windowByte a = none := by unfold windowByte; rw [if_neg]; omega
  have h5 : a / 4 * 4 = a := by omega
  rw [State.portRead_eq s a hp (by omega) h4 stOk (s.readValue a).toNat (s.readEffect a)]
  · rfl
  · simp [State.readAccess, hb, h4, h5, hs, hrb]

/-- Where no remote access of its own is outstanding, an access ends with itself. -/
theorem State.ownRemote_none (s : State) (h : s.ax.rmt = none) : s.ownRemote = s := by
  simp [State.ownRemote, h]

theorem State.countUnit_eq (s : State) (st a : Nat) : ∃ o, s.countUnit st a = { s with obs := o } := by
  unfold State.countUnit
  split <;> exact ⟨_, rfl⟩

/-- A write that the register rules answer without starting a remote access leaves what they leave, but for the port's
own record. -/
theorem State.portWrite_keeps (s : State) (a : Nat) (v : W32) (h : s.reaches a) (hlo : isRwLo a = false)
    (hhi : isRwLo (a - 4) = false) (w : Why) (u : State) (hw : s.writeReg .observer a v 0xFFFFFFFF = (w, u))
    (hr : u.ax.rmt = none) :
    ∃ o, s.portWrite a v = { u with obs := o } ∧ o.answer = [BitVec.ofNat 8 w.status, 0] := by
  obtain ⟨o, ho⟩ := u.countUnit_eq w.status a
  rw [State.portWrite_reg s a v h hlo hhi w u hw, ho]
  have : ({ u with obs := o } : State).ownRemote = { u with obs := o } := State.ownRemote_none _ hr
  rw [this]
  exact ⟨_, rfl, rfl⟩

/-- A write from the port that nothing refuses and that is no action of its own leaves the new word, with what its block
makes of it. -/
theorem State.writeReg_plain (s : State) (a : Nat) (v : W32) (fs : List FieldDesc) (new act : W32)
    (hf : regFields a = fs) (hn : newWord false fs (s.rd a) v 0xFFFFFFFF = new)
    (ha : actWord fs v 0xFFFFFFFF = act)
    (hg : (s.gate .observer a (s.rd a) new v 0xFFFFFFFF act).1 = .ok)
    (hr : accessRefuses .observer fs (s.rd a) v 0xFFFFFFFF = false)
    (hx : s.actionWrite a v act = none) (hs : s.special .observer a act = none)
    (he : encodingRefuses .observer fs (s.rd a) v 0xFFFFFFFF = false)
    (hu : s.ruleRefuses .observer a (s.rd a) new act 0xFFFFFFFF = false)
    (hm : s.namesRefuse a (s.rd a) new = false)
    (hw : (locate a).any (fun x => x.1 == .wm && x.2.2 == 0x8) = false) :
    s.writeReg .observer a v 0xFFFFFFFF = (.ok, (s.wr a new).written .observer a (s.rd a) v act 0xFFFFFFFF) := by
  have hv : v &&& 0xFFFFFFFF = v := BitVec.and_allOnes
  have h1 : (Writer.observer == Writer.image) = false := rfl
  simp only [State.writeReg, State.ownWhy, hf, h1, hn, ha, hr, hv, hx, hs, he, hu, hm, hw, Writer.isCue]
  generalize hgg : s.gate .observer a (s.rd a) new v 0xFFFFFFFF act = g at hg
  obtain ⟨g1, g2⟩ := g
  simp only at hg
  subst hg
  simp

/-- A write from the port that the access codes refuse changes nothing. -/
theorem State.writeReg_access (s : State) (a : Nat) (v : W32) (fs : List FieldDesc) (hf : regFields a = fs)
    (hg : (s.gate .observer a (s.rd a) (newWord false fs (s.rd a) v 0xFFFFFFFF) v 0xFFFFFFFF
      (actWord fs v 0xFFFFFFFF)).1 = .ok)
    (hr : accessRefuses .observer fs (s.rd a) v 0xFFFFFFFF = true) :
    s.writeReg .observer a v 0xFFFFFFFF = (.access, s) := by
  have h1 : (Writer.observer == Writer.image) = false := rfl
  simp only [State.writeReg, State.ownWhy, hf, h1]
  generalize s.gate .observer a (s.rd a) _ v 0xFFFFFFFF _ = g at hg
  obtain ⟨g1, g2⟩ := g
  simp only at hg
  subst hg
  rw [hr]
  rfl

/-- A command that writes one register from the port: what the register rules leave, the port's answer, and the ending. -/
theorem State.timedWrite (at_ : TT) (s : State) (a : Nat) (v : W32) (h : (s.atTime at_).reachable a) (w : Why) (u : State)
    (hw : (s.atTime at_).writeReg .observer a v 0xFFFFFFFF = (w, u)) (hr : u.ax.rmt = none) :
    ∃ o, timed at_ (fun s => s.portWrite a v) s = .next (State.ended { u with obs := o } s) ∧
      o.answer = [BitVec.ofNat 8 w.status, 0] := by
  obtain ⟨h1, h2, h3, h4, h5, h6, -⟩ := h
  obtain ⟨o, ho, hoa⟩ := State.portWrite_keeps (s.atTime at_) a v ⟨h1, h2, h3, h4⟩ h5 h6 w u hw hr
  exact ⟨o, by simp only [timed, ho], hoa⟩

/-- A command that reads one register from the port. -/
theorem State.timedRead (at_ : TT) (s : State) (a : Nat) (h : (s.atTime at_).reaches a) (hrb : a ≠ CFG_RB_DATA) :
    timed at_ (fun s => s.portRead a false) s = .next ((((s.atTime at_).readEffect a).answerWith
      ⟨stOk, 0, bytesOf 4 ((s.atTime at_).readValue a).toNat⟩).ended s) := by
  simp only [timed, State.portRead_reg _ a h hrb]

end Sys2Proof.Machine
end

