-- ==== Sys2Proof/WellFormed.lean ====
section
/-! DEFINITION. Well-formed commands: the bounds of operands that their types do not give. A command out of these bounds
spells nothing that the device can meet. -/

namespace Sys2Proof

/-- A payload of an Axlink frame behind its header: at most 256 bytes (R368). -/
def payloadOk (b : List Byte) : Bool := decide (b.length ≤ 256)

/-- The bounds of one command's operands. -/
def Instr.wf (i : Instr) : Bool :=
  match i with
  | .flashDiscovery _ f =>
    decide (f.dir0.length ≤ 64) && decide (f.dir1.length ≤ 64) && decide (f.hdrA.length ≤ 512) &&
      decide (f.hdrB.length ≤ 512) && decide (f.hdrG.length ≤ 512) && decide (f.sizeLog2 < 64)
  | .slotCheckComplete _ r => decide (r.bytes.length ≤ 31457280)
  | .lineReceived _ _ l => l.slices.all (fun x => decide (x.length ≤ 2048))
  | .fmLineRead _ _ line _ => line != 0
  | .credit _ _ a b c => decide (a < 65536) && decide (b < 65536) && decide (c < 65536)
  | .isoLine _ _ _ b _ => payloadOk b
  | .isoUnit _ _ _ b _ => payloadOk b
  | .bulkData _ _ _ _ b => payloadOk b
  | .mgmtLog _ _ _ b => payloadOk b
  | .obsWrite _ _ _ _ d _ => decide (d.length ≤ 1024)
  | .obsCsAbort _ b _ => !b.isEmpty
  | _ => true

end Sys2Proof
end

