-- ==== Sys2Proof/Tests/Slice0.lean ====
section
/-! SUPPORT. Tests of the model: ill-formed commands that the check refuses, worked examples of the spec, and for every
statement with hypotheses a state and operands, for each of its clauses, that meet them. -/

open Sys2Proof Sys2Proof.Machine

set_option maxRecDepth 20000

/-! ### Small states -/

/-- A state whose device is in a given device state, everything else as after reset. -/
def wSt (d : DevState) : State := { State.reset with pwr := { State.reset.pwr with state := d } }

/-- That state with some register words. -/
def wSet (d : DevState) (l : List (Nat × W32)) : State := l.foldl (fun s c => s.wr c.1 c.2) (wSt d)

/-- A state at an instant of TT. -/
def wAt (ns : Nat) (s : State) : State := { s with clock := ⟨BitVec.ofNat 64 ns, 0, ns, none⟩ }

/-- A state with some resources ready. -/
def wUp (l : List Nat) (s : State) : State :=
  { s with pwr := { s.pwr with res := l.map (fun r => (r, { ResSt.initial with power := .ready })) } }

/-- A state in which a service owns one resource of a claim kind. -/
def wOwn (kind i svc : Nat) (s : State) : State := { s with claims := (kind, i, i, svc) :: s.claims }

/-- A raster of 1280 × 720 that runs, a raster on its line 7, and generator 0 running so. -/
def wRaster : RasterSt :=
  { RasterSt.initial with running := true, format := 5, line := 1, nextFrame := 1, nextAt := 16666666 }
def wLine (s : State) : State := s.setRg 0 wRaster
def wSwitch (s : State) : State := s.setRg 0 { wRaster with line := 7 }

/-- A record, a cue with its name, and a queue. -/
def wRec (act svc target a b : Nat) : CueRec :=
  { launch := 5000, target := BitVec.ofNat 32 target, action := BitVec.ofNat 8 act, service := BitVec.ofNat 8 svc,
    flags := 0, eventSrc := 0, a := BitVec.ofNat 32 a, b := BitVec.ofNat 32 b, preroll := 0, origin := 0, seq := 0 }
def wId : CueId := ⟨1, 7, 0⟩
def wCue (st : Stage) (r : CueRec) : Entry :=
  { id := wId, src := .observer, rec_ := r, stage := st, late := false, earliest := 0, frameFrom := none,
    claims := [], script := none, order := 0, acceptedAt := 0, lateAt := 0, atCycle := false }
def wHas (l : List Entry) (s : State) : State :=
  { s with cue := { s.cue with entries := l }, clock := { s.clock with elapsed := s.clock.elapsed + 18 } }

/-- A record in mailbox slot 7, submitted. -/
def wMail (r : CueRec) : State :=
  let s := (cueWords r).zipIdx.foldl (fun s x => s.wr (CUE_MBX (56 + x.2)) x.1) (wSt .follow)
  { s.p (SV_CTL_quota (recSvc r)) 1 with cue := { s.cue with mailbox := [[7]] } }

/-- A script entry armed on line 0 that waits for its retry, and a script. -/
def wScript : ScriptSt :=
  { template := { wRec 0 5 0 0 0 with flags := 2, launch := 2000 }, period := 1000, unit := 0, rg := 0, count := 0, base := 0,
    next := 1, inserted := 1, retryAt := some 0 }
def wScripts (l : List ScriptSt) (s : State) : State := { s with cue := { s.cue with scripts := l } }

/-- A state in DRAIN. -/
def wDrain (d : DrainSt) : State := { wSt .drain with pwr := { (wSt .drain).pwr with drain := some d } }

/-- A directory that lists golden alone, and a flash with it. -/
def wDir : List Byte :=
  let b : List Byte := bytesOf 4 0x52444258 ++ [1, 0, 0, 0] ++ bytesOf 4 0 ++ bytesOf 4 0 ++ bytesOf 4 0x10000 ++
    bytesOf 4 0x100000 ++ List.replicate 36 0
  b ++ bytesOf 4 (crc32 b).toNat
def wFlash : FlashFound :=
  { sfdp := true, sizeLog2 := 24, fourByte := false, modes := [], dir0 := wDir, dir1 := [], hdrA := [], hdrB := [], hdrG := [] }

/-- The bytes of a big-endian number. -/
def wBig (n v : Nat) : List Byte := (bytesOf n v).reverse

/-- An unsigned image of 1,024 bytes with one section, REGISTERS, with one record: SYS_WIND_CTL takes 60. Its two digests are
SHA-384 of the record and of the section table. -/
def wImage : List Byte :=
  let rec_ : List Byte := bytesOf 4 SYS_WIND_CTL ++ bytesOf 4 60
  let entry : List Byte := [1, 0, 0, 0] ++ bytesOf 4 640 ++ bytesOf 4 8 ++ List.replicate 20 0 ++
    wBig 48
      0x16ef5b4df6e253c9bf5e3599dbcfa58076bd65454100c0cc00c39b4b76a0978f51770cc9689d40903b85d8964b9cd96a ++ List.replicate 48 0
  bytesOf 4 0x4D494258 ++ [1, 0, 1, 0] ++ bytesOf 4 1024 ++ [0x80, 0x20, 0xB0, 0, 0, 0, 0, 50] ++ bytesOf 4 0 ++
    wBig 48
      0xfc79890697a40da2e80a05d1739687526c3f558a4a64e8e0b980019869e4f1fdecbc2623aa74486b596f65874558bbc2 ++ List.replicate 440 0 ++
    entry ++ rec_ ++ List.replicate 376 0
/-- Line port 31 receives a signal. -/
def wRx (l : List Nat) : State :=
  (((wUp ([31, 108] ++ l) (wSt .follow)).p (LP_MODE_CTL_mode 31) 1).pb (LP_STAT_signal 31) true).setLp 31
    { LpSt.initial with mode := 1 }

/-- An enabled cell that is ready, and cell 47 with its keying window open. -/
def wCell (c : Nat) : State := (wUp [32 + c] (wSt .follow)).pb (AC_CTL_enable c) true
def wKeyed : State := (wLine (wCell 47)).setBt 0 { TimerSt.initial with open_ := true, openAt := some 0 }

/-- Monitor 95, enabled and ready. -/
def wMon : State := ((wSt .follow).pb (WM_CTL_enable 95) true).pb (WM_STAT_ready 95) true

/-- A task without inputs at slot 55 of engine 15, an activation of it, and a state with such tasks. -/
def wTask : TaskDesc :=
  { id := (15, 55), kernel := 1, service := 5, repeatLine := false, half := false, rg := 0, ins := [], outs := [],
    budget := 1000, width := 1280, table := 0, tableLen := 0, black := [] }
def wAct : Act :=
  { task := (15, 55), ins := [], place := ⟨[], 0, false⟩, bank := 0, readyAt := 0, deadline := 1000, xfers := 0,
    passed := false, partWait := false, fill := false }
def wTasks (running : Tab (Act × Nat)) (acts : List Act) : State :=
  let s := (wUp [95] (wSt .follow)).setTask (15, 55) { TaskSt.initial with on := true }
  { s with se := { s.se with tasks := [wTask], running := running, acts := acts } }

/-- A transfer, and a ring with it. -/
def wXfer : Xfer := { init := 15, ports := (15, 16), hops := 1, at_ := 0, bytes := 128, task := none, until_ := none }
def wRing (x : Xfer) : State := { wSt .follow with se := { (wSt .follow).se with xfers := [x] } }

/-- Stream 1023 at a unit start, its base 3 named. -/
def wStream : State :=
  (((wLine (wSt .follow)).p (DS_STAT_state 1023) 1).p (DS_CTL_nb 1023) 3).setStream 1023
    { StreamSt.initial with arm := some 3 }

/-- A state whose frame-memory channels have no room left in the present window. -/
def wFull (s : State) : State := { s with fm := { s.fm with chan := (List.range 8).map (fun j => (j, 50000)) } }

/-- Quotas whose sum, with 4,095 for service 255, lies at the limit and `n` above it. -/
def wQuotas (n : Nat) : State := (wSt .follow).p (SV_CTL_quota 0) (1 + n)

/-- Axlink port 3, enabled and ready, in a link state. -/
def wAx (st : Nat) : State := ((wUp [99, 126] (wSt .follow)).pb (AX_CTL_enable 3) true).p (AX_STAT_state 3) st
def wMember (s : State) : State := (s.p KEEP_MEMBER_id 5).pb KEEP_MEMBER_valid true
def wRoute (m : MemberId) (p : Nat) (nonce : BitVec 64) (s : State) : State :=
  { s with ax := { s.ax with routes := [(m, p, nonce)] } }
def wCredit (s : State) : State := s.wr (AX_CREDIT 3) 0xFFFFFFFF
def wHdr (source dest : MemberId) (channel : BitVec 16) : AxHdr :=
  { retx := false, replay := false, source := source, dest := dest, bcast := false, seq := 0, channel := channel, offset := 0 }
def wHello : Hello :=
  { id := 9, priority := 1, nonce := 77, leadPriority := 1, leadId := 9, hops := 0, epoch := 1, parent := none, asym := 0,
    acked := false }
def wAdvert : AdvertSt :=
  { id := 9, nonce := 77, leadPrio := 1, leadId := 9, hops := 0, epoch := 1, parent := none, epochAt := 0 }
def wFrame : AxFrame :=
  { cls := clCue, typ := 0, replay := false, retx := false, source := 5, dest := 0, bcast := true, seq := 0, channel := 0,
    offset := 0, body := [] }
def wBulk : BulkSt :=
  { initiator := 9, tag := 1, target := 5, laddr := 0, raddr := 0, length := 64, sent := 0, since := 0, phase := 1,
    channel := none }
def wBulks (l : List BulkSt) (s : State) : State := { s with ax := { s.ax with bulk := l } }
def wRmt (s : State) : State := { s with ax := { s.ax with rmt := some (1, 0) } }

/-- ISO channel 7 of port 3 brings lines of member 9 to stream 1023. -/
def wIso : State :=
  ((((((((wAx 4).pb (AX_ISO_CTL_enable 3 7) true).pb (AX_ISO_CTL_dir 3 7) true).p (AX_ISO_CTL_peer 3 7) 9).p
    (AX_ISO_CTL_stream 3 7) 1023).p (DS_STAT_state 1023) 2).p (DS_GEOM_lines 1023) 1).p (DS_GEOM_stride 1023) 1).wr
    (DS_BASE 1023 0) 0x7FFFFFC0

/-- A block RAM as a queue of 1,024 words, a bridge channel, and a copy with one word to go. -/
def wQueue (k : Nat) (l : List W36) : State :=
  let s := ((wSt .follow).pb (QC_CTL_use k) true).p (QC_CTL_width k) 2
  { s with fab := { s.fab with queue := [(k, l)] } }
def wChan (k : Nat) (c : Option BridgeCopy) : BridgeSt :=
  { BridgeSt.initial with enabled := true, block := k, busy := c.isSome, copy := c }
def wCopy (toFm : Bool) : BridgeCopy :=
  { toFm := toFm, block := 127, fifo := true, ramWord := 0, addr := 0x7FFFFFFC, left := 1 }
def wBridge (c : Nat) (x : BridgeSt) (s : State) : State := { s with fab := { s.fab with bridge := [(c, x)] } }

/-! ### Ill-formed commands -/

theorem test_wf_refuses_discovery :
    (Instr.flashDiscovery 0 { wFlash with dir0 := List.replicate 65 0 }).wf = false ∧
    (Instr.flashDiscovery 0 { wFlash with dir1 := List.replicate 65 0 }).wf = false ∧
    (Instr.flashDiscovery 0 { wFlash with sizeLog2 := 64 }).wf = false ∧
    (Instr.flashDiscovery 0 wFlash).wf = true := by decide

theorem test_wf_refuses_long_headers :
    (Instr.flashDiscovery 0 { wFlash with hdrA := List.replicate 513 0 }).wf = false ∧
    (Instr.flashDiscovery 0 { wFlash with hdrB := List.replicate 513 0 }).wf = false ∧
    (Instr.flashDiscovery 0 { wFlash with hdrG := List.replicate 513 0 }).wf = false := by decide

theorem test_wf_refuses_slot (n : Nat) (h : 31457280 < n) :
    (Instr.slotCheckComplete 0 { bytes := List.replicate n 0, failed := false }).wf = false := by
  simp [Instr.wf, h]

theorem test_wf_refuses_line (w : Sample) :
    (Instr.lineReceived 0 0 { number := 1, crcBad := false, lnBad := false, slices := [List.replicate 2049 w] }).wf = false := by
  simp [Instr.wf]

theorem test_wf_refuses_line_zero :
    (Instr.fmLineRead 0 0 0 { corrected := 0, uncorrectable := 0, crcBad := false }).wf = false := by decide

theorem test_wf_refuses_credit :
    (Instr.credit 0 0 65536 0 0).wf = false ∧ (Instr.credit 0 0 0 65536 0).wf = false ∧
    (Instr.credit 0 0 0 0 65536).wf = false ∧ (Instr.credit 0 0 65535 65535 65535).wf = true := by decide

theorem test_wf_refuses_payload :
    (Instr.isoLine 0 0 (wHdr 0 0 0) (List.replicate 257 0) false).wf = false ∧
    (Instr.isoUnit 0 0 (wHdr 0 0 0) (List.replicate 257 0) false).wf = false ∧
    (Instr.bulkData 0 0 (wHdr 0 0 0) 0 (List.replicate 257 0)).wf = false ∧
    (Instr.mgmtLog 0 0 (wHdr 0 0 0) (List.replicate 257 0)).wf = false := by decide

theorem test_wf_refuses_long_frame (n : Nat) (h : 1024 < n) :
    (Instr.obsWrite 0 0 0 0 (List.replicate n 0) []).wf = false := by simp [Instr.wf, h]

theorem test_wf_refuses_empty_abort : (Instr.obsCsAbort 0 [] []).wf = false := by decide

/-! ### Worked examples of the spec -/

/-- The example of the frame arithmetic: 1080p59.94 with an offset of −2,000 ns (chapter 02, R77). -/
theorem test_frame_of_rg1 :
    (formatOf 0x0F).map (fun f => (f.inst (-2000) 59941 1 0, f.frac 59941, f.inst (-2000) 59941 7 0)) =
      some (1000015681333, 0x5555, 1000015770311) := by decide

/-- The example of a script entry: the first frame of 1080p50 after its enabling (chapter 03, R124). -/
theorem test_script_base :
    (formatOf 0x0E).map (fun f => f.inst 0 (f.firstFrame 0 7000000000000000010) 1 0) = some 7000000000020000000 := by decide

/-- The example of BT4: field 2 of 1080i25 begins at line 564 (chapter 02, R82). -/
theorem test_field_of_bt4 : (formatOf 0x06).map Format.field2 = some 564 := by decide

/-- The example of a gain ramp from 240 to 360 over 48 samples (chapter 07, R221). -/
theorem test_gain_ramp :
    ({ g0 := 240, g1 := 360, len := 48, done := 0 } : Ramp).code 24 = 300 ∧
    ({ g0 := 240, g1 := 360, len := 48, done := 0 } : Ramp).code 48 = 360 := by decide

/-- The example of three ROUTE cues of one launch time: C, then B, then A (chapter 03, R90). -/
theorem test_cue_order :
    let c (seq : W32) (origin : BitVec 16) : Entry :=
      wCue .queued { wRec 5 0 (LP_TX_SRC 12) 0 0 with seq := seq, origin := origin }
    (c 0xFF 9).before (c 0x102 3) = true ∧ (c 0x102 3).before (c 0x102 7) = true ∧
    (c 0x102 7).before (c 0xFF 9) = false := by decide

/-- The example of the mailbox: the record of slot 2 and its seq (chapter 17). -/
theorem test_mailbox_addresses : CUE_MBX (8 * 2) = 0x00020140 ∧ CUE_MBX_SEQ 2 = 0x00020020 := by decide

/-- The example of a yo-yo line: 83 slices of 64 pixels in 4:2:2 are 26,560 bytes (chapter 11). -/
theorem test_yoyo_line : sliceLen 128 = 320 ∧ 83 * sliceLen 128 = 26560 := by decide

/-- The next state of a command, the present one where it stops. -/
def wNext (c : Instr) (s : State) : State := match exec c s with | .next t => t | _ => s

/-- The example of TT_NS read as one 64-bit unit (chapter 17). -/
theorem test_read_of_tt :
    (wNext (.obsRead 1000015770311 0x30 0 0x00010008 []) (wAt 1000015770311 (wSt .follow))).obs.answer =
      [0, 0, 0xC7, 0xB2, 0x95, 0xD5, 0xE8, 0, 0, 0] := by decide

/-- The example of a PIN cue on PC4 and PC5: bit 4 becomes 1 and bit 5 becomes 0 (chapter 15, R426). -/
theorem test_pin_cue :
    let s := wHas [wCue .handed (wRec 8 0 (GP_OUT 2) 0x10 0x30)]
      (wOwn 9 36 0 (wOwn 9 37 0 (wSet .follow [(GP_OUT 2, 0x20)])))
    let t := wNext (.pin 0 wId) s
    t.rd (GP_OUT 2) = 0x10 ∧ t.rd GPIO_PIN_CUE_CNT = 1 := by decide

/-- The example of a time exchange: d = 34.5 ns and θ = 0.75 ns with an asymmetry of 1,000 ps (chapter 13, R373, R374). -/
theorem test_time_exchange :
    let s := ((wAx 4).wr (AX_ASYM 3) 1000).setPort 3
      { PortSt.initial with exchange := some (5000000500 * 65536, 5000000500) }
    let t := wNext (.timeResp 5000000733 3 5000000535 0xC000 5000000700 0 0x4000) (wAt 5000000733 s)
    t.rd (AX_DELAY 3) = 34500 ∧ t.rd (AX_OFFSET 3) = 192 := by decide

/-- No word spells a command of this block. -/
theorem test_no_word_spells : decodeTableWord 32 0 = none := by decide

/-! ### States and operands that meet the hypotheses of the statements -/

theorem witness_StepRunsTheFront : State.reset.pending = [] := by decide

theorem witness_FollowsTheTimebase :
    let s : State := { wSt .follow with pending := [.ttAlarm 0] }
    s.dev.running = true ∧ s.dev = s.runState ∧ ∃ s', step s = .next s' := ⟨by decide, by decide, _, rfl⟩

theorem witness_PadsAreGivenBack :
    let s : State := { wSt .inert with pending := [.clamp 0], tap := { State.reset.tap with padsTaken := true } }
    s.tap.padsTaken = true ∧ s.dev = .inert ∧ ∃ s', step s = .next s' := ⟨by decide, by decide, _, rfl⟩

/-- The sums of hours whose means are all 0. -/
theorem hourSums_zeros (n : Nat) : hourSums (List.replicate (3600 * n) 0) n = List.replicate n 0 := by
  have zero : ∀ k : Nat, (List.replicate k (0 : Int)).foldl (· + ·) 0 = 0 := by
    intro k; induction k with
    | zero => rfl
    | succ k ih => simpa [List.replicate_succ] using ih
  induction n with
  | zero => rfl
  | succ n ih =>
    simp only [hourSums, List.take_replicate, List.drop_replicate, zero, List.replicate_succ]
    rw [show 3600 * (n + 1) - 3600 = 3600 * n by omega, ih]

/-- A device that has been LOCKED for 24 h at a mean frequency of 0. -/
def wLocked : State :=
  let s := wAt 86400000000000 ((wSt .follow).p TB_STAT_tb_state tbLocked)
  { s with tb := { s.tb with lockSince := some 0, hourMeans := List.replicate (3600 * 24) 0 } }

theorem witness_AgeingIsLearned :
    let at_ : TT := 86400000000000; let u := wLocked.atTime at_
    let a := (u.keepRd 1).toInt
    let b := a + (ageingSlope (hourSums u.tb.hourMeans 24) - a) / 8
    u.tb.lockSince = some 0 ∧ u.g TB_STAT_tb_state = tbLocked ∧ 86400 * secNs ≤ u.elapsed - 0 ∧
      (u.elapsed - 0) % (3600 * secNs) = 0 ∧ 86400 ≤ u.tb.hourMeans.length ∧ u.tb.fitAt ≠ u.elapsed ∧
      -2147483648 ≤ b ∧ b ≤ 2147483647 := by
  have hm : (wLocked.atTime 86400000000000).tb.hourMeans = List.replicate (3600 * 24) 0 := rfl
  have ha : ((wLocked.atTime 86400000000000).keepRd 1).toInt = 0 := by decide
  simp only [hm, ha, hourSums_zeros, List.length_replicate]
  refine ⟨by decide, by decide, by decide, by decide, by decide, by decide, by decide, by decide⟩

theorem witness_ReadsClearAndSnapshot_whole :
    let at_ : TT := 0; let a : W32 := BitVec.ofNat 32 (CUE_ACCEPT_CNT 1)
    let s := wSet .follow [(CUE_ACCEPT_CNT 1, 9)]; let u := s.atTime at_
    u.reachable a.toNat ∧ isLo a.toNat = false ∧ a.toNat ≠ CFG_RB_DATA ∧ a.toNat ≠ CUE_PEAK ∧ a.toNat ≠ VM_TEMP_MAX ∧
      a.toNat ≠ VM_TEMP_MIN ∧ (∀ b i off, locate a.toNat = some (b, i, off) → b ≠ .ring ∧ (b = .se → off ≠ 0x38)) ∧
      endsOn a.toNat = false ∧ (∀ n, keepIndex a.toNat = some n → u.pwr.softErrs.lookup n = none) := by
  refine ⟨by decide, by decide, by decide, by decide, by decide, by decide, ?_, by decide, fun _ _ => rfl⟩
  intro b i off h
  have e : locate (BitVec.ofNat 32 (CUE_ACCEPT_CNT 1)).toNat = some (.cue, 0, CUE_ACCEPT_CNT 1 - 0x20000) := by decide
  rw [e] at h
  cases h
  decide

theorem ok_of_toBool {x : Except (Nat × Nat) State} (h : x.toBool = true) : ∃ w, x = .ok w := by
  cases x with
  | ok w => exact ⟨w, rfl⟩
  | error _ => cases h

theorem witness_ImagesAreTried_accepted :
    let at_ : TT := 0; let r : SlotRead := { bytes := wImage, failed := false }; let slot : Nat := 2; let rest : List Nat := []
    let s : State := { wSt .load with cfg := { (wSt .load).cfg with found := true, slots := [2], slotSize := 0x100000 } }
    let u := s.atTime at_; let m := readMode u.cfg.modes r.bytes; let b := r.bytes
    u.dev = .load ∧ u.cfg.slots = slot :: rest ∧ u.cfg.accepted = none ∧ slot < 3 ∧
      u.cfg.fuses.admits u.cfg.slotSize b = 1 ∧
      ∃ w, ((u.p CFG_FLASH_STAT_mhz m.2).p CFG_FLASH_STAT_mode m.1).checkSlot r = .ok w := by
  refine ⟨by decide, by decide, by decide, by decide, by decide +kernel, ok_of_toBool (by decide +kernel)⟩

theorem witness_KeepUserWrites :
    (let at_ : TT := 0; let n : Fin 8 := 7; let s : State := wSt .follow;
      (s.atTime at_).reachable (KEEP_USER n) ∧ s.bitOf BAT_USER_LOCK n = false) ∧
    (let at_ : TT := 0; let n : Fin 8 := 7; let s : State := wSet .follow [(BAT_USER_LOCK, 0x80)];
      (s.atTime at_).reachable (KEEP_USER n) ∧ s.bitOf BAT_USER_LOCK n = true) := by
  refine ⟨?_, ?_⟩ <;> decide

theorem witness_FixedRegistersRefuseWrites :
    (let at_ : TT := 0; let a : W32 := BitVec.ofNat 32 CUE_SEQ; let s : State := wSt .follow;
      (s.atTime at_).reachable a.toNat ∧ (regFields a.toNat).all (fun f => f.acc.fixed) = true) := by
  decide

theorem witness_ReadsClearAndSnapshot :
    (let at_ : TT := 0; let a : W32 := BitVec.ofNat 32 (KEEP_USER 7); let n : Nat := 31;
      let s : State := { wSt .follow with pwr := { (wSt .follow).pwr with softErrs := [(31, true)] } };
      let u := s.atTime at_; u.reachable a.toNat ∧ isLo a.toNat = false ∧ isLo (a.toNat - 4) = false ∧
      keepIndex a.toNat = some n ∧ u.pwr.softErrs.lookup n = some true) ∧
    (let at_ : TT := 0; let a : W32 := BitVec.ofNat 32 KEEP_AO_SEC_LO;
      let s : State := wSet .follow [(KEEP_AO_SEC_LO, 9)]; let u := s.atTime at_; u.reaches a.toNat ∧
      isLo a.toNat = true) ∧
    (let at_ : TT := 0; let s : State := wSt .follow; let u := s.atTime at_; u.reaches TB_TT_NS_LO) := by
  refine ⟨?_, ?_, ?_⟩ <;> decide

theorem witness_LoopWritesAreClamped :
    (let at_ : TT := 0; let l : LoopId := .dcr 47; let s : State := (wSt .follow).p (AC_DCR_CTL_mode 47) 1;
      let u := s.atTime at_; u.reachable (loopSet l)) := by
  decide

theorem witness_ResourcesBecomeReady :
    (let at_ : TT := 12000; let r : Fin 127 := 99; let from_ : Nat := 0; let resumed : Bool := false;
      let s : State := wAt 12000 { wSt .follow with pwr := { (wSt .follow).pwr with res := [(99, { ResSt.initial with power := .winding 0 false })] } };
      let u := s.atTime at_; 80 ≤ r.val ∧ (u.res r).power = .winding from_ resumed ∧ u.readyNow r = true) := by
  decide

theorem witness_ReferencesGivePhaseSamples :
    (let at_ : TT := 0; let f : Format := (formatOf 0x1B).get (by decide);
      let s : State := (((wSet .follow [(TB_SRC_STAT, 1)]).p TB_GEN_CTL_format 0x1B).p TB_STAT_src 1).setSrc 1 { SourceSt.initial with lastAt := some 0 };
      let u := s.atTime at_; u.servoOn = true ∧ formatOf (u.g TB_GEN_CTL_format) = some f ∧ f.code < 64 ∧
      u.qualified 1 = true ∧ u.activeSrc = 1 ∧ u.refPresent 1 = true) ∧
    (let at_ : TT := 1000010000; let last : Nat := 0;
      let s : State := wAt 1000010000 (((wSet .follow [(TB_SRC_STAT, 2)]).p TB_STAT_src 2).setSrc 2 { SourceSt.initial with lastAt := some 0 });
      let u := s.atTime at_; u.servoOn = true ∧ u.qualified 2 = true ∧ u.activeSrc = 2 ∧ u.tb.tod = none ∧
      u.refPresent 2 = true ∧ (u.srcSt 2).lastAt = some last ∧ 10000 < u.elapsed - last ∧
      ((u.elapsed - last) % secNs ≤ 10000 ∨ secNs - 10000 ≤ (u.elapsed - last) % secNs)) := by
  refine ⟨?_, ?_⟩ <;> decide

theorem witness_SourcesQualifyAndAreListed :
    (let at_ : TT := 10000000000; let src : RefSrc := .pps; let from_ : Nat := 0;
      let s : State := wAt 10000000000 (((wSet .follow [(TB_SRC_STAT, 1), (TB_SRC_PRIO, 1)]).p TB_STAT_src 1).p TB_SRC_QUAL_requal_s 10 |>.setSrc 2 { SourceSt.initial with requal := true, run := 2, since := some 0, lastAt := some 10000000000 });
      let u := s.atTime at_; let c := srcCode src; src ≠ .observer ∧ u.servoOn = true ∧ u.qualified c = false ∧
      (u.srcSt c).requal = true ∧ u.refPresent c = true ∧ initialRun c ≤ (u.srcSt c).run ∧
      (u.srcSt c).since = some from_ ∧ from_ + u.g TB_SRC_QUAL_requal_s * secNs ≤ u.elapsed ∧ u.activeSrc ≠ 0 ∧
      u.activeSrc ≠ c ∧ u.eligible.contains u.activeSrc = true ∧ u.qualified u.activeSrc = true) ∧
    (let at_ : TT := 0; let src : RefSrc := .axlink;
      let s : State := (wSet .follow [(TB_SRC_STAT, 4)]).p TB_STAT_src 1; let u := s.atTime at_;
      let c := srcCode src; src ≠ .observer ∧ u.servoOn = true ∧ u.qualified c = true ∧ u.activeSrc ≠ c) ∧
    (let at_ : TT := 0; let v : W32 := 5; let s : State := wSt .follow; let u := s.atTime at_;
      let codes := [v.toNat % 8, v.toNat / 8 % 8, v.toNat / 64 % 8, v.toNat / 512 % 8];
      u.reachable TB_SRC_PRIO ∧ (codes.any (fun c => decide (4 < c)) = true ∨ ¬ (codes.filter (· != 0)).Nodup)) ∧
    (let at_ : TT := 0; let v : W32 := 0x8D1;
      let s : State := (wSet .follow [(TB_SRC_STAT, 2)]).p TB_STAT_src 2; let u := s.atTime at_;
      let codes := [v.toNat % 8, v.toNat / 8 % 8, v.toNat / 64 % 8, v.toNat / 512 % 8];
      u.reachable TB_SRC_PRIO ∧ codes.all (fun c => decide (c ≤ 4)) = true ∧ (codes.filter (· != 0)).Nodup ∧
      (u.servoOn = true → u.activeSrc ≠ 0 ∧ u.qualified u.activeSrc = true ∧ codes.contains u.activeSrc = true ∧ ¬ (u.activeSrc = 3 ∧ u.bit SYS_STATE_lead = true))) := by
  refine ⟨?_, ?_, ?_, ?_⟩ <;> decide

theorem witness_SecondsAndTimeOfDay :
    (let at_ : TT := 1000000000; let s : State := wAt 1000000000 (wSt .follow); let u := s.atTime at_;
      u.dev.timed = true ∧ u.now % secNs = 0 ∧ u.tb.secondAt < u.elapsed ∧ u.bit TB_SRC_PRIO_revert = false) ∧
    (let at_ : TT := 0; let v : W32 := 3; let s : State := wSt .follow; let u := s.atTime at_;
      u.reachable TB_TOD_CTL ∧ u.servoOn = true ∧ v.getLsbD 0 = true ∧ v.getLsbD 1 = true) ∧
    (let at_ : TT := 2000000000; let tod : BitVec 64 := 9; let from_ : Nat := 0;
      let s : State := wAt 2000000000 { wSt .follow with tb := { (wSt .follow).tb with tod := some (9, 0) } };
      let u := s.atTime at_; u.tb.tod = some (tod, from_) ∧ from_ + 2 * secNs ≤ u.elapsed) := by
  refine ⟨?_, ?_, ?_⟩ <;> decide

theorem witness_RastersAdvanceAndWait :
    (let at_ : TT := 0; let n : Fin 16 := 15; let f : Format := (formatOf 5).get (by decide);
      let s : State := (((wSt .follow).pb (TB_RG_CTL_enable 15) true).p (TB_RG_CTL_format 15) 5).setRg 15 { RasterSt.initial with waiting := true };
      let u := s.atTime at_; let r := u.rg n; u.dev.timed = true ∧ u.rgOn n = true ∧ r.change = false ∧
      r.nextAt ≤ u.now ∧ formatOf (u.g (TB_RG_CTL_format n)) = some f) ∧
    (let at_ : TT := 16666666; let n : Fin 16 := 15; let f : Format := (formatOf 0x0E).get (by decide);
      let s : State := wAt 16666666 ((((wSt .follow).pb (TB_RG_CTL_enable 15) true).p (TB_RG_CTL_format 15) 0x0E).setRg 15 { wRaster with change := true });
      let u := s.atTime at_; let r := u.rg n; let k := f.firstFrame (u.rgOffset n) r.nextAt;
      let next := (f.inst (u.rgOffset n) k 1 0).toNat; u.dev.timed = true ∧ r.running = true ∧
      r.change = true ∧ r.nextAt ≤ u.now ∧ u.rgEnabled n = true ∧
      formatOf (u.g (TB_RG_CTL_format n)) = some f ∧ next ≠ r.nextAt) ∧
    (let at_ : TT := 22222; let n : Fin 16 := 15; let f : Format := (formatOf 5).get (by decide);
      let next : Nat := 22222; let s : State := wAt 22222 ((wSt .follow).setRg 15 wRaster);
      let u := s.atTime at_; let r := u.rg n; u.dev.timed = true ∧ r.running = true ∧
      formatOf r.format = some f ∧ r.nextLineAt = some next ∧ next ≤ u.now ∧
      (r.line < f.lines ∨ r.held = true) ∧ next < r.nextAt) ∧
    (let at_ : TT := 0; let n : Fin 32 := 31; let opens : Bool := false;
      let s : State := (wSt .follow).setBt 31 { TimerSt.initial with open_ := true, openAt := some 0 };
      let u := s.atTime at_; (u.bt n).open_ = !opens ∧ u.btCovers (u.bt n).ctl = opens) ∧
    (let at_ : TT := 0; let n : Fin 16 := 15; let offset : Bool := false; let v : W32 := 5;
      let s : State := (wSt .follow).setRg 15 wRaster; let u := s.atTime at_;
      let a := if offset then TB_RG_OFFSET n else TB_RG_CTL n; u.reachable a ∧
      (u.writeReg .observer a v 0xFFFFFFFF).1 = .ok) ∧
    (let at_ : TT := 0; let n : Fin 32 := 15; let v : W32 := 5;
      let s : State := (wSt .follow).setRg 15 wRaster; let u := s.atTime at_; let a := TB_BT_CTL n;
      u.reachable a ∧ (u.writeReg .observer a v 0xFFFFFFFF).1 = .ok) := by
  refine ⟨?_, ?_, ?_, ?_, ?_, ?_⟩ <;> decide

theorem witness_MailboxSubmits :
    (let at_ : TT := 0; let first : Nat := 6; let count : Nat := 1; let v : W32 := 0x106;
      let s : State := wSt .follow; let u := s.atTime at_;
      let slots := (List.range (count + 1)).map (fun i => first + i); u.reachable CUE_MBX_SUBMIT ∧
      first + count ≤ 7 ∧ v.toNat = first + 256 * count ∧ (u.dev.active = true ∧ u.dev ≠ .drain) ∧
      (∀ k ∈ slots, u.g (mbxStat k) ≠ 1)) ∧
    (let at_ : TT := 0; let first : Nat := 6; let count : Nat := 1; let v : W32 := 0x106;
      let s : State := (wSt .follow).p (mbxStat 7) 1; let u := s.atTime at_;
      let slots := (List.range (count + 1)).map (fun i => first + i); u.reachable CUE_MBX_SUBMIT ∧
      first + count ≤ 7 ∧ v.toNat = first + 256 * count ∧ u.dev ≠ .standby ∧ u.dev ≠ .inspect ∧
      (u.dev = .drain ∨ ∃ k ∈ slots, u.g (mbxStat k) = 1)) ∧
    (let at_ : TT := 0; let first : Nat := 6; let count : Nat := 1; let v : W32 := 0x106;
      let s : State := wSt .inspect; let u := s.atTime at_; u.reachable CUE_MBX_SUBMIT ∧ first + count ≤ 7 ∧
      v.toNat = first + 256 * count ∧ (u.dev = .standby ∨ u.dev = .inspect)) := by
  refine ⟨?_, ?_, ?_⟩ <;> decide

theorem witness_RecordsAreAccepted :
    (let at_ : TT := 0; let k : Fin 8 := 7; let s : State := wMail (wRec 0 1 0 0 0); let u := s.atTime at_;
      let r := cueOfSlot u k; let id : CueId := ⟨u.memberId, u.rd CUE_SEQ, 0⟩; u.intakeOpen = true ∧
      u.cue.takenCycle ≤ u.cueCycle ∧ u.nextSource = some 1 ∧ u.cue.mailbox = [[k.val]] ∧
      u.cue.slotsTaken = [] ∧ formatOk false r = true ∧ recOnEvent r = false ∧ recChain r = false ∧
      recBroadcast r = false ∧ recPreroll r = false ∧ u.occupancy (recSvc r) < u.quotaNow (recSvc r) ∧
      u.now + 1000 ≤ r.launch.toNat ∧ u.entry id = none) := by
  decide

theorem witness_CuesWakeTheirTargets :
    (let at_ : TT := 0; let id : CueId := wId;
      let e : Entry := wCue .queued { wRec 1 0 (LP_TX_CTL 3) 0 0 with flags := 1, launch := 5000, preroll := 5 };
      let s : State := wHas [wCue .queued { wRec 1 0 (LP_TX_CTL 3) 0 0 with flags := 1, launch := 5000, preroll := 5 }] (wSt .follow);
      let u := s.atTime at_; u.entry id = some e ∧ recPreroll e.rec_ = true ∧ e.stage = .queued ∧
      u.dev.active = true ∧ e.rec_.launch.toNat ≤ u.now + e.rec_.preroll.toNat * usNs) ∧
    (let at_ : TT := 0; let id : CueId := wId; let e : Entry := wCue .handed (wRec 0xD 5 (BA_CTL 255) 9 0);
      let r : Nat := 100;
      let s : State := wHas [wCue .handed (wRec 0xD 5 (BA_CTL 255) 9 0)] (wUp [100] ((wSt .follow).p (BA_CTL_service 255) 5));
      let u := s.atTime at_; u.entry id = some e ∧ id.sub = 0 ∧ recAct e.rec_ = 0xD ∧
      targetRes (recTarget e.rec_) = some r ∧ (u.act e).1 = .ok ∧ u.mayEffect e = true) ∧
    (let at_ : TT := 0; let r : Fin 127 := 126; let until_ : Nat := 0;
      let s : State := (wSt .follow).setRes 126 { ResSt.initial with power := .ready, holdUntil := some 0 };
      let u := s.atTime at_; (u.res r).holdUntil = some until_ ∧ until_ ≤ u.elapsed) := by
  refine ⟨?_, ?_, ?_⟩ <;> decide

theorem witness_DueCuesAreHandedOver :
    (let at_ : TT := 0; let id : CueId := wId;
      let e : Entry := wCue .queued { wRec 0xF 5 0 7 0 with launch := 1000 };
      let s : State := wHas [wCue .queued { wRec 0xF 5 0 7 0 with launch := 1000 }] (wSt .follow);
      let u := s.atTime at_; u.entry id = some e ∧ recAct e.rec_ ≠ 4 ∧ e.stage = .queued ∧ e.late = false ∧
      u.dev.active = true ∧ e.rec_.launch.toNat ≤ u.now + 1000 ∧
      (actTargets (recAct e.rec_) = true → u.targetReady (recTarget e.rec_) = true) ∧
      u.cue.entries.any (fun x => x.late && x.blocks e) = false ∧ u.handoverTurn e = true ∧ u.judge e = .ok) := by
  decide

theorem witness_SuccessorsFollowTheirPredecessor :
    (let at_ : TT := 0; let id : CueId := wId;
      let e : Entry := wCue (.released 500) { wRec 0xF 5 0 7 0 with launch := 500 }; let effect : Nat := 500;
      let s : State := wHas [wCue (.released 500) { wRec 0xF 5 0 7 0 with launch := 500 }] (wSt .follow);
      let u := s.atTime at_; u.entry id = some e ∧ e.stage = .released effect ∧ recPreroll e.rec_ = false ∧
      u.now + 1000 ≤ effect + e.rec_.launch.toNat ∧ effect + e.rec_.launch.toNat < 2 ^ 64 ∧ u.pwr.drain = none) := by
  decide

theorem witness_NopAndNotify :
    (let at_ : TT := 0; let id : CueId := wId; let e : Entry := wCue .handed (wRec 0 5 0 0 0);
      let s : State := wHas [wCue .handed (wRec 0 5 0 0 0)] (wSt .follow); let u := s.atTime at_;
      u.entry id = some e ∧ id.sub = 0 ∧ recAct e.rec_ = 0 ∧ u.mayEffect e = true) ∧
    (let at_ : TT := 0; let id : CueId := wId; let e : Entry := wCue .handed (wRec 0xF 5 0 77 0);
      let s : State := wHas [wCue .handed (wRec 0xF 5 0 77 0)] (wSt .follow); let u := s.atTime at_;
      u.entry id = some e ∧ id.sub = 0 ∧ recAct e.rec_ = 0xF ∧ u.mayEffect e = true ∧ u.g EL_CTL_min_sev = 0 ∧
      u.log.stage.length < 1024) := by
  refine ⟨?_, ?_⟩ <;> decide

theorem witness_CuesWriteBitsAndHoldLoops :
    (let at_ : TT := 0; let id : CueId := wId;
      let e : Entry := wCue .handed (wRec 1 5 (AC_DCR_TARGET 47) 0x15 (4 + 5 * 32)); let c : Fin 48 := 47;
      let m : W32 := 0x3F0; let v : W32 := 0x150; let cmd : Instr := .writeField 0 wId;
      let s : State := wHas [wCue .handed (wRec 1 5 (AC_DCR_TARGET 47) 0x15 (4 + 5 * 32))] (wLine (wOwn 3 11 5 (wSt .follow)));
      let u := s.atTime at_; u.entry id = some e ∧ id.sub = 0 ∧ recTarget e.rec_ = AC_DCR_TARGET c ∧
      [1, 2, 3].contains (recAct e.rec_) = true ∧ cueCommand at_ id (recAct e.rec_) = some cmd ∧
      writeOf e.rec_ = some (v, m) ∧ m &&& 0xFFF ≠ 0 ∧ u.ownerOf kQuad (c.val / 4) = .svc (recSvc e.rec_) ∧
      u.mayEffect e = true) ∧
    (let at_ : TT := 0; let id : CueId := wId; let e : Entry := wCue .handed (wRec 0xB 5 (AC_DCR_CTL 0) 0 0);
      let l : LoopId := .dcr 0;
      let s : State := wHas [wCue .handed (wRec 0xB 5 (AC_DCR_CTL 0) 0 0)] (wLine (wOwn 3 0 5 (wSt .follow)));
      let u := s.atTime at_; u.entry id = some e ∧ id.sub = 0 ∧ recTarget e.rec_ = loopCtl l ∧
      u.mayEffect e = true ∧ (u.act e).1 = .ok ∧ recAct e.rec_ = 0xB) ∧
    (let at_ : TT := 0; let id : CueId := wId; let e : Entry := wCue .handed (wRec 0xC 5 (AC_DCR_CTL 0) 1 0);
      let l : LoopId := .dcr 0;
      let s : State := wHas [wCue .handed (wRec 0xC 5 (AC_DCR_CTL 0) 1 0)] (wLine (wOwn 3 0 5 (wSt .follow)));
      let u := s.atTime at_; u.entry id = some e ∧ id.sub = 0 ∧ recTarget e.rec_ = loopCtl l ∧
      u.mayEffect e = true ∧ (u.act e).1 = .ok ∧ recAct e.rec_ = 0xC) := by
  refine ⟨?_, ?_, ?_⟩ <;> decide

theorem witness_CuesSetGainsAndDirections :
    (let at_ : TT := 0; let id : CueId := wId;
      let e : Entry := wCue .handed (wRec 6 5 (AC_GAIN 47) (720 + 65536) 0); let c : Fin 48 := 47;
      let s : State := wHas [wCue .handed (wRec 6 5 (AC_GAIN 47) (720 + 65536) 0)] ({ wOwn 3 11 5 (wSt .follow) with sampleAt := [(47, 0)] });
      let u := s.atTime at_; u.entry id = some e ∧ id.sub = 0 ∧ recAct e.rec_ = 6 ∧
      recTarget e.rec_ = AC_GAIN c ∧ e.rec_.a.toNat % 1024 ≤ 720 ∧
      u.ownerOf kQuad (c.val / 4) = .svc (recSvc e.rec_) ∧ u.mayEffect e = true) ∧
    (let at_ : TT := 0; let id : CueId := wId; let e : Entry := wCue .handed (wRec 7 5 (AC_CONV_CTL 47) 1 0);
      let c : Fin 48 := 47;
      let s : State := wHas [wCue .handed (wRec 7 5 (AC_CONV_CTL 47) 1 0)] (((wOwn 3 11 5 (wSt .follow)).pb (AC_CTL_enable 47) true).setBt 0 { TimerSt.initial with open_ := true, openAt := some 0 });
      let u := s.atTime at_; let d := e.rec_.a.toNat % 2; u.entry id = some e ∧ id.sub = 0 ∧
      recAct e.rec_ = 7 ∧ recTarget e.rec_ = AC_CONV_CTL c ∧
      u.ownerOf kQuad (c.val / 4) = .svc (recSvc e.rec_) ∧ u.mayEffect e = true ∧
      u.bit (AC_CTL_enable c) = true ∧ u.g (AC_CONV_CTL_dir c) ≠ d) := by
  refine ⟨?_, ?_⟩ <;> decide

theorem witness_PinAndRouteCuesTakeEffect :
    (let at_ : TT := 0; let id : CueId := wId;
      let e : Entry := wCue .handed (wRec 8 5 (GP_OUT 3) 0x8000 0x8000); let b : Fin 4 := 3;
      let s : State := wHas [wCue .handed (wRec 8 5 (GP_OUT 3) 0x8000 0x8000)] (wOwn 9 63 5 (wSt .follow));
      let u := s.atTime at_; u.entry id = some e ∧ id.sub = 0 ∧ recAct e.rec_ = 8 ∧
      recTarget e.rec_ = GP_OUT b ∧ (u.act e).1 = .ok ∧ u.mayEffect e = true) ∧
    (let at_ : TT := 0; let id : CueId := wId; let e : Entry := wCue .handed (wRec 5 5 (LP_TX_SRC 31) 0 0);
      let p : Fin 32 := 31;
      let s : State := wHas [wCue .handed (wRec 5 5 (LP_TX_SRC 31) 0 0)] (wSwitch (wOwn 2 31 5 (wSt .follow)));
      let u := s.atTime at_; u.entry id = some e ∧ id.sub = 0 ∧ recAct e.rec_ = 5 ∧
      recTarget e.rec_ = LP_TX_SRC p ∧ (u.act e).1 = .ok ∧ u.mayEffect e = true) := by
  refine ⟨?_, ?_⟩ <;> decide

theorem witness_CuesArmStreamsAndBarriers :
    (let at_ : TT := 0; let id : CueId := wId; let e : Entry := wCue .handed (wRec 9 5 (DS_CTL 1023) 0 0);
      let d : Fin 1024 := 1023;
      let s : State := wHas [wCue .handed (wRec 9 5 (DS_CTL 1023) 0 0)] (wLine ((wSt .follow).p (DS_CTL_service 1023) 5));
      let u := s.atTime at_; u.entry id = some e ∧ id.sub = 0 ∧ recAct e.rec_ = 9 ∧
      recTarget e.rec_ = DS_CTL d ∧ (u.act e).1 = .ok ∧ u.mayEffect e = true) ∧
    (let at_ : TT := 0; let id : CueId := wId;
      let e : Entry := wCue .handed (wRec 0xA 5 (BA_CTL 255) (65536 + 65535) 0); let b : Fin 256 := 255;
      let s : State := wHas [wCue .handed (wRec 0xA 5 (BA_CTL 255) (65536 + 65535) 0)] (((wSt .follow).p (BA_CTL_service 255) 5).p (BA_COUNT_count 255) 1);
      let u := s.atTime at_; u.entry id = some e ∧ id.sub = 0 ∧ recAct e.rec_ = 0xA ∧
      recTarget e.rec_ = BA_CTL b ∧ (u.act e).1 = .ok ∧ u.mayEffect e = true) := by
  refine ⟨?_, ?_⟩ <;> decide

theorem witness_CancelRemovesOrMisses :
    (let at_ : TT := 0; let id : CueId := wId; let e : Entry := wCue .handed (wRec 0xE 5 0 9 1);
      let s : State := wHas [wCue .handed (wRec 0xE 5 0 9 1)] (wSt .follow); let u := s.atTime at_;
      let named : CueId := ⟨BitVec.ofNat 12 (e.rec_.b.toNat % 4096), e.rec_.a, 0⟩; u.entry id = some e ∧
      id.sub = 0 ∧ recAct e.rec_ = 0xE ∧ u.mayEffect e = true ∧ u.entry named = none) ∧
    (let at_ : TT := 0; let id : CueId := wId; let e : Entry := wCue .handed (wRec 0xE 5 0 9 1);
      let s : State := wHas [wCue .handed (wRec 0xE 5 0 9 1), { wCue .queued (wRec 0 5 0 0 0) with id := ⟨1, 9, 0⟩ }] (wSt .follow);
      let u := s.atTime at_; let named : CueId := ⟨BitVec.ofNat 12 (e.rec_.b.toNat % 4096), e.rec_.a, 0⟩;
      let x : _ := { wCue .queued (wRec 0 5 0 0 0) with id := ⟨1, 9, 0⟩ }; u.entry id = some e ∧ id.sub = 0 ∧
      recAct e.rec_ = 0xE ∧ u.mayEffect e = true ∧ u.entry named = some x ∧ recSvc x.rec_ = recSvc e.rec_) ∧
    (let at_ : TT := 0; let id : CueId := wId; let e : Entry := wCue .handed (wRec 0xE 5 0 9 1);
      let s : State := wHas [wCue .handed (wRec 0xE 5 0 9 1), { wCue .queued (wRec 0 6 0 0 0) with id := ⟨1, 9, 0⟩ }] (wSt .follow);
      let u := s.atTime at_; let named : CueId := ⟨BitVec.ofNat 12 (e.rec_.b.toNat % 4096), e.rec_.a, 0⟩;
      let x : _ := { wCue .queued (wRec 0 6 0 0 0) with id := ⟨1, 9, 0⟩ }; u.entry id = some e ∧ id.sub = 0 ∧
      recAct e.rec_ = 0xE ∧ u.mayEffect e = true ∧ u.entry named = some x ∧ recSvc x.rec_ ≠ recSvc e.rec_) := by
  refine ⟨?_, ?_, ?_⟩ <;> decide

theorem witness_ScenesTakeEffect :
    (let at_ : TT := 0; let id : CueId := wId;
      let x : Entry := { wCue .handed (wRec 0xA 5 (BA_CTL 255) 9 0) with id := ⟨1, 7, 1⟩ };
      let p : Entry := wCue .handed (wRec 4 5 0 0 0);
      let s : State := wHas [wCue .handed (wRec 4 5 0 0 0), { wCue .handed (wRec 0xA 5 (BA_CTL 255) 9 0) with id := ⟨1, 7, 1⟩ }] ((wSt .follow).p (BA_CTL_service 255) 5);
      let u := s.atTime at_; u.cue.entries = [p, x] ∧ p.id = id ∧ id.sub = 0 ∧ x.id = { id with sub := 1 } ∧
      u.mayEffect x = true ∧ (u.act x).1 = .ok ∧ (u.act x).2.cue = u.cue) := by
  decide

theorem witness_ScriptEntries :
    (let at_ : TT := 0; let e : Fin 1024 := 0; let x : ScriptSt := { wScript with count := 1, inserted := 1 };
      let due : Nat := 0;
      let s : State := wScripts [{ wScript with count := 1, inserted := 1 }] (wSet .follow [(CUE_SCRIPT_EN 0, 1)]);
      let u := s.atTime at_; u.script e = some x ∧ x.retryAt = some due ∧ due ≤ u.elapsed ∧
      u.intakeOpen = true ∧ u.scriptOn e = true ∧ x.count ≠ 0 ∧ x.count ≤ x.inserted) ∧
    (let at_ : TT := 0; let e : Fin 1024 := 0; let x : ScriptSt := wScript; let due : Nat := 0;
      let s : State := wScripts [wScript] ((wSet .follow [(CUE_SCRIPT_EN 0, 1)]).p (SV_CTL_quota 5) 4);
      let u := s.atTime at_; u.script e = some x ∧ x.retryAt = some due ∧ due ≤ u.elapsed ∧
      u.intakeOpen = true ∧ u.scriptOn e = true ∧ x.count = 0 ∧ recOnEvent x.template = true ∧
      recChain x.template = false ∧ u.refusal .script [x.template] false = none) ∧
    (let at_ : TT := 0; let e : Fin 1024 := 1023;
      let s : State := wSet .follow [(CUE_SCRIPT_EN 31, 0x80000000)]; let u := s.atTime at_;
      let a := CUE_SCRIPT_EN (e.val / 32); u.reachable a ∧ u.scriptOn e = true) ∧
    (let at_ : TT := 0; let e : Fin 1024 := 1023; let s : State := wSt .standby; let u := s.atTime at_;
      let a := CUE_SCRIPT_EN (e.val / 32); u.reachable a ∧ u.scriptOn e = false) := by
  refine ⟨?_, ?_, ?_, ?_⟩ <;> decide

theorem witness_RequestsEnterDrainOrAreRefused :
    (let at_ : TT := 0; let code : Nat := 1; let cmd : Instr := .reqStandby 0;
      let s : State := { wSt .follow with cue := { (wSt .follow).cue with mailbox := [[7]] } };
      let u := s.atTime at_; requestCommand at_ code = some cmd ∧ u.reachable SYS_STATE_REQ ∧
      requestServed u.dev u.sealed code = true ∧ u.dev.running = true ∧ code ≠ 5 ∧
      (∀ k ∈ u.cue.slotsTaken ++ u.cue.mailbox.flatten, k < 8)) ∧
    (let at_ : TT := 0; let code : Nat := 4; let cmd : Instr := .reqInspect 0;
      let s : State := (wSt .follow).pb CFG_STAT_sealed true; let u := s.atTime at_;
      requestCommand at_ code = some cmd ∧ u.reachable SYS_STATE_REQ ∧
      requestServed u.dev u.sealed code = false) := by
  refine ⟨?_, ?_⟩ <;> decide

theorem witness_WakesAndResets :
    (let at_ : TT := 0; let s : State := wSt .standby; let u := s.atTime at_; u.dev = .standby ∧
      u.reachable SYS_STATE_REQ) ∧
    (let at_ : TT := 0; let s : State := (wSt .standby).pb SYS_WAKE_SRC_tt_alarm true; let u := s.atTime at_;
      u.dev = .standby ∧ u.bit SYS_WAKE_SRC_tt_alarm = true ∧ (u.rd64 SYS_WAKE_AT_LO).toNat ≤ u.now) ∧
    (let at_ : TT := 0; let s : State := wSt .follow; let u := s.atTime at_; u.reachable SYS_STATE_REQ) ∧
    (let at_ : TT := 0; let s : State := wSt .inert; let u := s.atTime at_; u.reachable SYS_STATE_REQ ∧
      (u.dev = .inert ∨ u.dev = .standby ∨ u.dev = .inspect)) ∧
    (let at_ : TT := 0; let s : State := wSt .lead; let u := s.atTime at_; u.dev.powered = true) := by
  refine ⟨?_, ?_, ?_, ?_, ?_⟩ <;> decide

theorem witness_SuppliesComeAndGo :
    (let at_ : TT := 0; let s : State := wSt .lead; let u := s.atTime at_; u.dev.powered = true) ∧
    (let at_ : TT := 0; let s : State := wSt .keep; let u := s.atTime at_; u.dev.powered = false) ∧
    (let at_ : TT := 0; let s : State := wSt .reset; let u := s.atTime at_; u.dev = .reset) := by
  refine ⟨?_, ?_, ?_⟩ <;> decide

theorem witness_WindAndDrainEnd :
    (let at_ : TT := 12000;
      let s : State := wAt 12000 { ((wSt .wind).pb TB_STAT_tt_valid true) with pwr := { (wSt .wind).pwr with fmReady := true } };
      let u := s.atTime at_; u.dev = .wind ∧ u.kclkLocked = true ∧
      ((u.pwr.fmReady = true ∧ u.fmWinds = false) ∨ u.pwr.windAt + 5368710 ≤ u.elapsed) ∧
      (u.cfg.hasFabric = true → u.fpllLocked = true) ∧
      (u.bit TB_STAT_tt_valid = true ∨ (u.g SYS_WIND_CTL_free_s ≠ 0 ∧ u.pwr.windAt + u.g SYS_WIND_CTL_free_s * secNs ≤ u.elapsed))) ∧
    (let at_ : TT := 1000000; let d : DrainSt := ⟨1, 0, 0, none, 0, false⟩; let last : Nat := 1000000;
      let s : State := wAt 1000000 (wDrain ⟨1, 0, 0, none, 0, false⟩); let u := s.atTime at_; u.dev = .drain ∧
      u.pwr.drain = some d ∧ d.cut = false ∧ u.drainEnd = some last ∧ last ≤ u.now) ∧
    (let at_ : TT := 0; let d : DrainSt := ⟨4, 0, 0, some 0, 0, true⟩;
      let s : State := wDrain ⟨4, 0, 0, some 0, 0, true⟩; let u := s.atTime at_; u.dev = .drain ∧
      u.pwr.drain = some d ∧ d.cut = true ∧ u.drainDone = true) := by
  refine ⟨?_, ?_, ?_⟩ <;> decide

theorem witness_ResourcesSleepAndStayAwake :
    (let at_ : TT := 1000000; let s : State := wAt 1000000 (wSt .follow); let u := s.atTime at_;
      u.dev.active = true ∧ u.now / msNs ≠ u.pwr.lastUpdate / msNs) ∧
    (let at_ : TT := 0; let k : Fin 4 := 3; let v : W32 := 0x1F; let s : State := wSt .follow;
      let u := s.atTime at_; u.dev.active = true ∧ u.reachable (SYS_KA k) ∧
      (k.val = 3 → (v ^^^ s.rd (SYS_KA k)) &&& 0xFFFFFFE0 = 0)) ∧
    (let at_ : TT := 2000; let r : Fin 127 := 126; let from_ : Nat := 0;
      let s : State := wAt 2000 ((wSt .follow).setRes 126 { ResSt.initial with power := .switching 0 });
      let u := s.atTime at_; (u.res r).power = .switching from_ ∧ u.elapsed ≤ from_ + 2000) := by
  refine ⟨?_, ?_, ?_⟩ <;> decide

theorem witness_BatteryDomainWorks :
    (let at_ : TT := 0; let toVbat : Bool := true; let s : State := wSt .keep; let u := s.atTime at_;
      u.dev ≠ .off ∧ u.pwr.onVbat = !toVbat) ∧
    (let at_ : TT := 0; let s : State := wSt .follow; let u := s.atTime at_; u.reachable BAT_VIOL_CLR) ∧
    (let at_ : TT := 0; let s : State := wSt .follow; let u := s.atTime at_; u.reachable BAT_USER_LOCK) ∧
    (let at_ : TT := 0; let s : State := wSt .keep; let u := s.atTime at_; u.dev ≠ .off) := by
  refine ⟨?_, ?_, ?_, ?_⟩ <;> decide

theorem witness_ImagesAreTried :
    (let at_ : TT := 0; let f : FlashFound := { wFlash with sfdp := false }; let s : State := wSt .load;
      let u := s.atTime at_; u.dev = .load ∧ u.cfg.found = false ∧ u.cfg.slots = [] ∧
      (f.sfdp = false ∨ (dirValid f.dir0 = false ∧ dirValid f.dir1 = false))) ∧
    (let at_ : TT := 0; let f : FlashFound := wFlash; let s : State := wSt .load; let u := s.atTime at_;
      u.dev = .load ∧ u.cfg.found = false ∧ u.cfg.slots = [] ∧ f.sfdp = true ∧ dirValid f.dir0 = true ∧
      num f.dir0 8 4 = 0 ∧ num f.dir0 12 4 = 0 ∧ num f.dir0 16 4 ≠ 0 ∧ num f.dir0 16 4 % 65536 = 0) ∧
    (let at_ : TT := 0; let r : SlotRead := { bytes := [], failed := false }; let slot : Nat := 2;
      let rest : List Nat := [];
      let s : State := { wSt .load with cfg := { (wSt .load).cfg with found := true, slots := [2] } };
      let u := s.atTime at_; u.dev = .load ∧ u.cfg.slots = slot :: rest ∧ u.cfg.accepted = none ∧ slot < 3 ∧
      headerCause r.bytes u.cfg.slotSize ≠ 1) ∧
    (let at_ : TT := 0; let slot : Nat := 2;
      let s : State := { wSt .load with cfg := { (wSt .load).cfg with accepted := some 2 } };
      let u := s.atTime at_; u.dev = .load ∧ u.cfg.accepted = some slot) := by
  refine ⟨?_, ?_, ?_, ?_⟩ <;> decide

theorem witness_FusesAreProgrammedOnce :
    (let at_ : TT := 0; let cmd : Nat := 6; let i : Instr := .fuseLock 0; let s : State := wSt .inert;
      let u := s.atTime at_; let f := u.cfg.fuses;
      let free := match cmd with | 1 => f.keyHash.isNone | 2 => f.aesKey.isNone | 3 => !f.requireSeal | 4 => !f.requireEncrypt | 5 => !f.privateJtagOff | _ => true;
      fuseInstr at_ cmd = some i ∧ u.reachable CFG_FUSE_CMD ∧ u.dev = .inert ∧ f.fuseLock = false ∧
      free = true) ∧
    (let at_ : TT := 0; let cmd : Nat := 1; let i : Instr := .fuseProgramKeyHash 0;
      let s : State := { wSt .inert with cfg := { (wSt .inert).cfg with fuses := { (wSt .inert).cfg.fuses with keyHash := some [] } } };
      let u := s.atTime at_; let f := u.cfg.fuses;
      let free := match cmd with | 1 => f.keyHash.isNone | 2 => f.aesKey.isNone | 3 => !f.requireSeal | 4 => !f.requireEncrypt | 5 => !f.privateJtagOff | _ => true;
      fuseInstr at_ cmd = some i ∧ u.reachable CFG_FUSE_CMD ∧
      (u.dev ≠ .inert ∨ f.fuseLock = true ∨ free = false)) := by
  refine ⟨?_, ?_⟩ <;> decide

theorem witness_RollbackAndReadback :
    (let at_ : TT := 0; let v : W32 := 0xA5;
      let s : State := { wSt .follow with cfg := { (wSt .follow).cfg with allowAdvance := true, secVersion := 1 } };
      let u := s.atTime at_; u.reachable CFG_ROLLBACK_ADV ∧ v = 0xA5 ∧ u.dev.running = true ∧
      u.cfg.allowAdvance = true ∧ u.cfg.fuses.rollback < u.cfg.secVersion) ∧
    (let at_ : TT := 0; let v : W32 := 0xA4; let s : State := wSt .follow; let u := s.atTime at_;
      u.reachable CFG_ROLLBACK_ADV ∧
      (v ≠ 0xA5 ∨ u.dev.running = false ∨ u.cfg.allowAdvance = false ∨ u.cfg.secVersion ≤ u.cfg.fuses.rollback)) ∧
    (let at_ : TT := 0; let n : Nat := 64;
      let s : State := { wSt .follow with cfg := { (wSt .follow).cfg with advanceTo := some 64, fuses := { (wSt .follow).cfg.fuses with rollback := 63 } } };
      let u := s.atTime at_; let c := u.cfg.fuses.rollback + 1; u.cfg.advanceTo = some n ∧ c ≤ 64) ∧
    (let at_ : TT := 0; let v : W32 := 639; let s : State := (wSt .inspect).pb CFG_CHAN_CTL_en true;
      let u := s.atTime at_; u.reachable CFG_RB_CTL ∧ u.dev = .inspect ∧ u.bit CFG_CHAN_CTL_en = true ∧
      u.sealed = false ∧ v.toNat % 1024 < 640) ∧
    (let at_ : TT := 0; let s : State := (wSt .inspect).pb CFG_STAT_sealed true; let u := s.atTime at_;
      u.reachable CFG_RB_CTL ∧ (u.sealed = true ∨ u.dev ≠ .inspect ∨ u.bit CFG_CHAN_CTL_en = false)) := by
  refine ⟨?_, ?_, ?_, ?_, ?_⟩ <;> decide

theorem witness_LinePortsAcquire :
    (let at_ : TT := 0; let p : Fin 32 := 31; let v : W32 := 1; let s : State := wSt .follow;
      let u := s.atTime at_; let a := LP_MODE_CTL p; u.reachable a ∧
      (u.writeReg .observer a v 0xFFFFFFFF).1 = .ok) ∧
    (let at_ : TT := 0; let p : Fin 32 := 31; let s : State := wRx []; let u := s.atTime at_;
      u.lpDetects p = true ∧ u.bit (LP_STAT_signal p) = true) ∧
    (let at_ : TT := 0; let p : Fin 32 := 31; let s : State := (wRx []).pb (LP_STAT_signal 31) false;
      let u := s.atTime at_; u.lpDetects p = true ∧ u.bit (LP_STAT_signal p) = false) ∧
    (let at_ : TT := 0; let p : Fin 32 := 31; let s : State := (wRx []).pb (LP_STAT_cdr_locked 31) true;
      let u := s.atTime at_; let w := u.eqWindow p; u.lpRunsRx p = true ∧ u.bit (LP_STAT_signal p) = true ∧
      u.g (LP_EQ_CTL_mode p) ≠ 2 ∧ u.bit (LP_STAT_cdr_locked p) = true ∧ u.loopBlocked (LP_EQ_STAT p) = false ∧
      w.1 ≤ u.g (LP_EQ_SET_code p) ∧ u.g (LP_EQ_SET_code p) ≤ w.2) ∧
    (let at_ : TT := 0; let p : Fin 32 := 31; let s : State := wRx []; let u := s.atTime at_;
      let w := u.eqWindow p; let code : BitVec 10 := 513; u.lpRunsRx p = true ∧
      u.bit (LP_STAT_signal p) = true ∧ u.g (LP_EQ_CTL_mode p) ≠ 2 ∧ u.bit (LP_STAT_cdr_locked p) = false ∧
      (sweepStep w.1 w.2 (u.sweepFrom p) code.toNat).isSome = true) ∧
    (let at_ : TT := 0; let p : Fin 32 := 31; let s : State := wRx []; let u := s.atTime at_;
      let w := u.eqWindow p; let code : BitVec 10 := 0; u.lpRunsRx p = true ∧ u.bit (LP_STAT_signal p) = true ∧
      u.g (LP_EQ_CTL_mode p) ≠ 2 ∧ u.bit (LP_STAT_cdr_locked p) = false ∧
      sweepStep w.1 w.2 (u.sweepFrom p) code.toNat = none) ∧
    (let at_ : TT := 210000; let p : Fin 32 := 31;
      let s : State := wAt 210000 ((wRx []).p (LP_RX_CTL_rate 31) 15); let u := s.atTime at_;
      let x := u.lpSt p; u.lpRunsRx p = true ∧ u.bit (LP_STAT_cdr_locked p) = false ∧
      u.g (LP_RX_CTL_rate p) = 15 ∧ u.bit (LP_STAT_signal p) = true ∧ x.trialFrom + 210 * usNs ≤ u.elapsed) ∧
    (let at_ : TT := 1000000000; let p : Fin 32 := 31; let from_ : Nat := 0;
      let s : State := wAt 1000000000 (((wRx []).pb (LP_STAT_cdr_locked 31) true).setLp 31 { LpSt.initial with mode := 1, lockSince := some 0 });
      let u := s.atTime at_; u.lpRunsRx p = true ∧ u.bit (LP_STAT_cdr_locked p) = true ∧
      (u.lpSt p).lockSince = some from_ ∧ from_ + secNs ≤ u.elapsed ∧
      u.pwr.softErrs.lookup (32 + p.val) ≠ some true) := by
  refine ⟨?_, ?_, ?_, ?_, ?_, ?_, ?_, ?_⟩ <;> decide

theorem witness_LinePortsReceive :
    (let at_ : TT := 0; let p : Fin 32 := 31; let s : State := (wRx []).p (LP_RX_CTL_rate 31) 2;
      let u := s.atTime at_; u.lpRunsRx p = true ∧ u.bit (LP_STAT_signal p) = true ∧
      u.bit (LP_STAT_cdr_locked p) = false ∧ 0 < u.lpRate p ∧ u.lpRate p < 16) ∧
    (let at_ : TT := 0; let p : Fin 32 := 31; let s : State := (wRx []).pb (LP_STAT_cdr_locked 31) true;
      let u := s.atTime at_; u.bit (LP_STAT_cdr_locked p) = true ∧
      (u.bit (LP_RX_CTL_sync p) = true ∨ (u.lpSt p).delivering = false)) ∧
    (let at_ : TT := 0; let p : Fin 32 := 31;
      let s : State := ((wRx []).pb (LP_STAT_cdr_locked 31) true).setLp 31 { LpSt.initial with mode := 1, posRun := 2 };
      let u := s.atTime at_; u.rxLive p = true ∧ 2 ≤ (u.lpSt p).posRun) ∧
    (let at_ : TT := 0; let p : Fin 32 := 31;
      let s : State := ((wRx []).pb (LP_STAT_cdr_locked 31) true).pb (LP_STAT_trs_locked 31) true;
      let u := s.atTime at_; u.rxLive p = true ∧ u.bit (LP_STAT_trs_locked p) = true) ∧
    (let at_ : TT := 0; let p : Fin 32 := 31;
      let l : LineData := { number := 9, crcBad := true, lnBad := false, slices := [] };
      let s : State := (((wRx []).pb (LP_STAT_cdr_locked 31) true).p (LP_STAT_rx_rate 31) 2).pb (LP_RX_CTL_sync 31) true;
      let u := s.atTime at_; u.rxLive p = true ∧ u.g (LP_STAT_rx_rate p) ≠ 1 ∧ l.crcBad = true ∧
      u.bit (LP_RX_CTL_sync p) = true ∧ (u.lpSt p).aligned = false) ∧
    (let at_ : TT := 0; let p : Fin 32 := 31; let s : State := (wRx []).pb (LP_STAT_cdr_locked 31) true;
      let u := s.atTime at_; u.rxLive p = true) := by
  refine ⟨?_, ?_, ?_, ?_, ?_, ?_⟩ <;> decide

theorem witness_CellsMarkTheirSamples :
    (let at_ : TT := 0; let c : Fin 48 := 47; let s : State := wCell 47; let u := s.atTime at_;
      u.cellUp c = true ∧ u.cellAdc c = true ∧ (u.cellSt c).ovrFrom = none) ∧
    (let at_ : TT := 0; let c : Fin 48 := 47; let from_ : Nat := 0;
      let s : State := (wCell 47).setCell 47 { CellSt.initial with ovrFrom := some 0 }; let u := s.atTime at_;
      (u.cellSt c).ovrFrom = some from_) ∧
    (let at_ : TT := 0; let c : Fin 48 := 47; let s : State := (wCell 47).pb (AC_STAT_suspect_now 47) true;
      let u := s.atTime at_; u.bit (AC_STAT_suspect_now c) = true ∧ (u.cellSt c).suspTo ≤ u.now ∧
      (∀ d < 48, d / 4 = c.val / 4 → d ≠ c.val → (u.cellSt d).ovrFrom = none)) ∧
    (let at_ : TT := 1000000000; let c : Fin 48 := 47; let s : State := wAt 1000000000 (wCell 47);
      let u := s.atTime at_; u.cellUp c = true ∧ (u.cellSt c).trimAt + secNs ≤ u.elapsed) := by
  refine ⟨?_, ?_, ?_, ?_⟩ <;> decide

theorem witness_CellsTurnAndFollow :
    (let at_ : TT := 2000; let c : Fin 48 := 47; let from_ : Nat := 0; let dir : Nat := 1;
      let s : State := wAt 2000 ((wCell 47).setCell 47 { CellSt.initial with changing := some (0, 1) });
      let u := s.atTime at_; (u.cellSt c).changing = some (from_, dir) ∧ dir ≤ 1 ∧ u.now ≤ from_ + 2000) ∧
    (let at_ : TT := 0; let c : Fin 48 := 47;
      let s : State := (wCell 47).setCell 47 { CellSt.initial with lineDue := some false };
      let u := s.atTime at_; let w := u.loopRange (.dcr c);
      let cur := signed10 (AC_DCR_SET_offset c) (u.rd (AC_DCR_SET c)); (u.cellSt c).lineDue = some false ∧
      u.cellUp c = true ∧ u.cellAdc c = true ∧ u.g (AC_DCR_CTL_mode c) ≠ 2 ∧
      u.loopBlocked (AC_DCR_STAT c) = false ∧ w.1 ≤ cur ∧ cur ≤ w.2) ∧
    (let at_ : TT := 0; let c : Fin 48 := 47;
      let s : State := (wCell 47).setCell 47 { CellSt.initial with lineDue := some true };
      let u := s.atTime at_; (u.cellSt c).lineDue = some true) ∧
    (let at_ : TT := 0; let c : Fin 48 := 47; let sum : Int := 256; let marked : Bool := false;
      let s : State := ((wCell 47).pb (FC_CTL_dcb_en 47) true).setChain 47 { ChainSt.initial with dcbDue := some (256, false) };
      let u := s.atTime at_; (u.chain c).dcbDue = some (sum, marked) ∧ u.cellUp c = true ∧
      u.bit (FC_CTL_dcb_en c) = true ∧ u.g (FC_DCB_CTL_mode c) ≠ 2 ∧ u.loopBlocked (FC_DCB_STAT c) = false) ∧
    (let at_ : TT := 0; let c : Fin 48 := 47; let s : State := (wCell 47).pb (AC_STAT_dir 47) true;
      let u := s.atTime at_; u.dacMissing c = true) ∧
    (let at_ : TT := 0; let c : Fin 48 := 47; let s : State := wCell 47; let u := s.atTime at_;
      u.cellUp c = true ∧ u.sampleDue c = true) := by
  refine ⟨?_, ?_, ?_, ?_, ?_, ?_⟩ <;> decide

theorem witness_MonitorsCompare :
    (let at_ : TT := 1000; let m : Fin 96 := 95;
      let s : State := wAt 1000 ((wSt .follow).pb (WM_CTL_enable 95) true); let u := s.atTime at_;
      u.monRuns m = true ∧ u.bit (WM_STAT_ready m) = false ∧ (u.mon m).from_ + 1000 ≤ u.elapsed) ∧
    (let at_ : TT := 0; let m : Fin 96 := 95; let s : State := wMon; let u := s.atTime at_;
      u.monRuns m = true ∧ u.bit (WM_STAT_ready m) = true ∧ u.bit (WM_STAT_blanked m) = false ∧
      (u.mon m).holdTo = none) ∧
    (let at_ : TT := 0; let m : Fin 96 := 95;
      let s : State := wMon.setMon 95 { MonSt.initial with holdTo := some 0 }; let u := s.atTime at_;
      let due : _ := 0; u.monRuns m = true ∧ u.bit (WM_STAT_ready m) = true ∧
      u.bit (WM_STAT_blanked m) = false ∧ (u.mon m).holdTo = some due ∧ due ≤ u.elapsed) ∧
    (let at_ : TT := 0; let m : Fin 96 := 95; let s : State := wSt .follow; let u := s.atTime at_;
      u.reachable (WM_STAT m)) := by
  refine ⟨?_, ?_, ?_, ?_⟩ <;> decide

theorem witness_ActivationsRunAndAreShed :
    (let at_ : TT := 0; let e : Fin 16 := 15; let slot : Fin 64 := 55; let d : TaskDesc := wTask;
      let s : State := wLine (wTasks [(15, (wAct, 0))] []); let u := s.atTime at_;
      u.task (u.slotTask e slot) = some d ∧ u.dev.active = true ∧ u.isReady (rSe e) = true ∧
      u.mayReady d = true ∧ (56 ≤ slot.val → u.se.moving = false) ∧ (u.se.running.lookup e.val).isSome = true) ∧
    (let at_ : TT := 0; let e : Fin 16 := 15; let slot : Fin 64 := 55; let d : TaskDesc := wTask;
      let s : State := wLine (wTasks [] []); let u := s.atTime at_; u.task (u.slotTask e slot) = some d ∧
      u.dev.active = true ∧ u.isReady (rSe e) = true ∧ u.mayReady d = true ∧
      (56 ≤ slot.val → u.se.moving = false) ∧ u.se.running.lookup e.val = none ∧ u.se.acts = [] ∧
      (∀ x ∈ d.used, x.2.1 ≠ 2) ∧ 5 * d.cycles ≤ 6 * d.budget) ∧
    (let at_ : TT := 1001; let e : Fin 16 := 15; let slot : Fin 64 := 55;
      let a : Act := { wAct with xfers := 1 };
      let s : State := wAt 1001 (wTasks [] [{ wAct with xfers := 1 }]); let u := s.atTime at_;
      u.se.acts = [a] ∧ a.task = u.slotTask e slot ∧ a.isReady = false ∧ a.fill = false ∧ a.deadline < u.now) ∧
    (let at_ : TT := 0; let e : Fin 16 := 15; let half : Bool := true; let i : Fin 32 := 23;
      let s : State := wTasks [] [{ wAct with xfers := 1 }]; let u := s.atTime at_;
      let slot : TaskId := (e.val, 32 * (if half then 1 else 0) + i.val);
      u.reachable (SE_TASK_CANCEL e (if half then 1 else 0)) ∧ u.picked slot = none ∧
      ((u.taskSt slot).on = false ∨ (∀ a ∈ u.se.acts, a.task = slot → a.isReady = false))) ∧
    (let at_ : TT := 0; let e : Fin 16 := 15; let half : Bool := true; let i : Fin 32 := 23;
      let s : State := wTasks [(15, (wAct, 0))] [wAct]; let u := s.atTime at_;
      let slot : TaskId := (e.val, 32 * (if half then 1 else 0) + i.val); let a : Act := wAct;
      u.reachable (SE_TASK_CANCEL e (if half then 1 else 0)) ∧ u.picked slot = none ∧
      (u.taskSt slot).on = true ∧ u.se.acts = [a] ∧ a.task = slot ∧ a.isReady = true) ∧
    (let at_ : TT := 100000; let e : Fin 16 := 15; let a : Act := wAct; let start : Nat := 0;
      let d : TaskDesc := wTask; let s : State := wAt 100000 (wTasks [(15, (wAct, 0))] []);
      let u := s.atTime at_; u.se.running = [(e.val, (a, start))] ∧ u.se.acts = [] ∧ u.task a.task = some d ∧
      start + 5 * d.cycles < 6 * u.now + 6) := by
  refine ⟨?_, ?_, ?_, ?_, ?_, ?_⟩ <;> decide

theorem witness_RingAndCarouselAdvance :
    (let at_ : TT := 0; let x : Xfer := wXfer; let s : State := wRing wXfer; let u := s.atTime at_;
      let now := u.elapsed * 6 / 5; u.se.xfers = [x] ∧ x.init < 24 ∧ x.until_ = none ∧ x.at_ ≤ now) ∧
    (let at_ : TT := 0; let i : Fin 24 := 15; let x : Xfer := { wXfer with until_ := some 1 };
      let ready : Nat := 1; let s : State := wRing { wXfer with until_ := some 1 }; let u := s.atTime at_;
      u.se.xfers = [x] ∧ x.init = i.val ∧ x.until_ = some ready ∧ ready ≤ u.elapsed * 6 / 5 + 1 ∧
      (x.task = none ∨ u.se.acts = [])) ∧
    (let at_ : TT := 0; let i : Fin 24 := 15;
      let x : Xfer := { wXfer with task := some (15, 55), until_ := some 1 }; let ready : Nat := 1;
      let s : State := (let s := wTasks [(15, (wAct, 0))] [{ wAct with xfers := 1 }]; { s with se := { s.se with xfers := [{ wXfer with task := some (15, 55), until_ := some 1 }] } });
      let u := s.atTime at_; let k : TaskId := (15, 55); let a : Act := { wAct with xfers := 1 };
      u.se.xfers = [x] ∧ x.init = i.val ∧ x.until_ = some ready ∧ ready ≤ u.elapsed * 6 / 5 + 1 ∧
      x.task = some k ∧ u.se.acts = [a] ∧ a.task = k ∧ a.xfers ≠ 0 ∧
      (u.se.running.lookup (u.engineOf k)).isSome = true) ∧
    (let at_ : TT := 0; let e : Fin 16 := 15; let s : State := (wSt .follow).p (SE_PARAM_ADDR_word 15) 15;
      let u := s.atTime at_; let slot := u.g (SE_PARAM_ADDR_slot e); let bank := u.g (SE_PARAM_ADDR_bank e);
      let t0 : TaskId := (e.val, slot);
      let inForce := ((u.taskSt t0).on && (u.taskSt t0).bank == bank) || (u.enBit t0 && u.bankBit t0 == bank);
      u.reachable (SE_PARAM_DATA e) ∧ inForce = false) ∧
    (let at_ : TT := 0; let e : Fin 16 := 15;
      let s : State := (wSt .follow).setTask (15, 0) { TaskSt.initial with on := true }; let u := s.atTime at_;
      let slot := u.g (SE_PARAM_ADDR_slot e); let bank := u.g (SE_PARAM_ADDR_bank e);
      let t0 : TaskId := (e.val, slot);
      let inForce := ((u.taskSt t0).on && (u.taskSt t0).bank == bank) || (u.enBit t0 && u.bankBit t0 == bank);
      u.reachable (SE_PARAM_DATA e) ∧ inForce = true) ∧
    (let at_ : TT := 0; let s : State := ((wSt .follow).pb (SE_CAR_CTL_en 0) true).p (SE_CAR_CTL_mode 0) 2;
      let u := s.atTime at_; u.bit (SE_CAR_CTL_en 0) = true ∧ u.dev.active = true ∧
      u.g (SE_CAR_CTL_mode 0) = 2 ∧ u.se.acts = []) := by
  refine ⟨?_, ?_, ?_, ?_, ?_, ?_⟩ <;> decide

theorem witness_StreamsStartAndStop :
    (let at_ : TT := 0; let d : Fin 1024 := 1023; let v : W32 := 0x80000000;
      let s : State := (wSt .follow).p (DS_RES_res 1023) 400000; let u := s.atTime at_; let a := DS_CTL d;
      u.reachable a ∧ (v ^^^ s.rd a) &&& 0x7FF8FFFF = 0 ∧
      (u.bit (DS_CTL_enable d) = true ∨ u.resSum d true ≤ 400000)) ∧
    (let at_ : TT := 0; let d : Fin 1024 := 1023; let v : W32 := 0x80000000;
      let s : State := (wSt .follow).p (DS_RES_res 1023) 400001; let u := s.atTime at_; let a := DS_CTL d;
      u.reachable a ∧ (v ^^^ s.rd a) &&& 0x7FF8FFFF = 0 ∧ u.bit (DS_CTL_enable d) = false ∧
      400000 < u.resSum d true) ∧
    (let at_ : TT := 0; let d : Fin 1024 := 1023; let v : W32 := 0x80000000;
      let s : State := (wSt .follow).p (DS_RES_res 1023) 400000; let u := s.atTime at_; let a := DS_CTL d;
      u.reachable a ∧ (v ^^^ s.rd a) &&& 0x7FF8FFFF = 0) ∧
    (let at_ : TT := 0; let d : Fin 1024 := 1023; let s : State := wStream.pb (DS_CTL_enable 1023) true;
      let u := s.atTime at_; let k : _ := 3; u.unitDue d = true ∧ u.pwr.drain = none ∧ k < 4 ∧
      u.bit (DS_CTL_enable d) = true ∧ (u.stream d).arm = some k) ∧
    (let at_ : TT := 0; let d : Fin 1024 := 1023; let s : State := wStream; let u := s.atTime at_;
      u.unitDue d = true ∧ u.pwr.drain = none ∧ u.bit (DS_CTL_enable d) = false) := by
  refine ⟨?_, ?_, ?_, ?_, ?_⟩ <;> decide

theorem witness_FrameMemoryIsServed :
    (let at_ : TT := 0; let s : State := (wSt .follow).pb (DS_CTL_enable 1023) true; let u := s.atTime at_;
      let w := u.rollWindow.fm; u.dev.active = true ∧ u.now % 1000 = 0 ∧ w.wait = []) ∧
    (let at_ : TT := 0; let d : Fin 1024 := 1023; let line : BitVec 16 := 1;
      let c : LineCheck := { corrected := 0, uncorrectable := 0, crcBad := false };
      let s : State := ((wUp [100] wStream).p (DS_STAT_state 1023) 2).p (DS_GEOM_lines 1023) 1;
      let u := s.atTime at_; u.dev.active = true ∧ u.isReady rFm = true ∧ u.g (DS_STAT_state d) = 2 ∧
      u.yoyoOf d = none ∧ line.toNat = (u.stream d).lineRead + 1 ∧ line.toNat ≤ u.dsLines d ∧
      (u.askLine d line.toNat c).1 = true) ∧
    (let at_ : TT := 0; let d : Fin 1024 := 1023; let line : BitVec 16 := 1;
      let c : LineCheck := { corrected := 0, uncorrectable := 0, crcBad := false };
      let s : State := wFull ((((wUp [100] (wLine (wSt .follow))).p (DS_STAT_state 1023) 2).p (DS_GEOM_lines 1023) 1).setStream 1023 { StreamSt.initial with shape := [64] });
      let u := s.atTime at_; u.dev.active = true ∧ u.isReady rFm = true ∧ u.g (DS_STAT_state d) = 2 ∧
      u.yoyoOf d = none ∧ line.toNat = (u.stream d).lineRead + 1 ∧ line.toNat ≤ u.dsLines d ∧
      (u.askLine d line.toNat c).1 = false) ∧
    (let at_ : TT := 0; let s : State := ((wUp [100] (wSt .follow))).pb FM_CTL_scrub_en true;
      let u := s.atTime at_; let a := (u.rd FM_SCRUB_POS).toNat; u.bit FM_CTL_scrub_en = true ∧
      u.isReady rFm = true ∧ u.dev.active = true ∧ u.rollWindow.spareRoom a = true) ∧
    (let at_ : TT := 0; let size : Size := .s64; let a : W32 := 0xBFFFFFF8; let s : State := wSt .inspect;
      let u := s.atTime at_; let n := sizeBytes size; let w := u.rollWindow; u.sealed = false ∧
      (u.dev.running = true ∨ u.dev = .inspect) ∧ u.ax.rmt = none ∧ 0x40000000 ≤ a.toNat ∧
      a.toNat + n ≤ 0xC0000000 ∧ a.toNat % min n 4 = 0 ∧ u.windowServed = true ∧
      ((w.fm.wait = [] ∧ ∀ c < 8, w.fm.chan.get 0 c + 64 < 50000) ∨ w.windowWaits size a.toNat = true)) ∧
    (let at_ : TT := 0; let size : Size := .s64; let a : W32 := 0xBFFFFFF8; let s : State := wSt .inspect;
      let u := s.atTime at_; let n := sizeBytes size; let w := u.rollWindow; u.sealed = false ∧
      (u.dev.running = true ∨ u.dev = .inspect) ∧ u.ax.rmt = none ∧ 0x40000000 ≤ a.toNat ∧
      a.toNat + n ≤ 0xC0000000 ∧ a.toNat % min n 4 = 0 ∧ u.windowServed = true ∧
      ((w.fm.wait = [] ∧ ∀ c < 8, w.fm.chan.get 0 c + 64 < 50000) ∨ w.windowWaits size a.toNat = true)) ∧
    (let at_ : TT := 0; let size : Size := .s64; let a : W32 := 0xBFFFFFF8; let s : State := wSt .follow;
      let u := s.atTime at_; let n := sizeBytes size; let w := u.rollWindow; let served : Bool := false;
      u.sealed = false ∧ (u.dev.running = true ∨ u.dev = .inspect) ∧ u.ax.rmt = none ∧ 0x40000000 ≤ a.toNat ∧
      a.toNat + n ≤ 0xC0000000 ∧ a.toNat % min n 4 = 0 ∧
      (u.windowServed = false ∨ (served = false ∧ w.fm.wait ≠ []) ∨ (served = false ∧ ∀ c < 8, 50000 ≤ w.fm.chan.get 0 c))) ∧
    (let at_ : TT := 0; let n : Fin 256 := 255; let v : W32 := 0xCFFF0000; let s : State := wQuotas 0;
      let u := s.atTime at_; let q := (SV_CTL_quota n).of v; u.reachable (SV_CTL n) ∧
      (v ^^^ s.rd (SV_CTL n)) &&& 0xC0000000 = 0 ∧ u.quotaSum n q ≤ 4096) ∧
    (let at_ : TT := 0; let n : Fin 256 := 255; let v : W32 := 0xCFFF0000; let s : State := wQuotas 1;
      let u := s.atTime at_; let q := (SV_CTL_quota n).of v; u.reachable (SV_CTL n) ∧
      (v ^^^ s.rd (SV_CTL n)) &&& 0xC0000000 = 0 ∧ 4096 < u.quotaSum n q) := by
  refine ⟨?_, ?_, ?_, ?_, ?_, ?_, ?_, ?_, ?_⟩ <;> decide

theorem witness_LinksComeUp :
    (let at_ : TT := 0; let p : Fin 4 := 3; let s : State := wAx 0; let u := s.atTime at_;
      u.bit (AX_CTL_enable p) = true ∧ u.isReady (rAx p) = true ∧ u.g (AX_STAT_state p) < 3 ∧
      u.dev.active = true) ∧
    (let at_ : TT := 1000000; let p : Fin 4 := 3; let s : State := wAt 1000000 (wAx 0); let u := s.atTime at_;
      u.dev.active = true ∧ u.bit (AX_CTL_enable p) = true ∧ u.isReady (rAx p) = true ∧
      u.g (AX_STAT_state p) < 3 ∧ (u.port p).alignFrom + msNs ≤ u.elapsed) ∧
    (let at_ : TT := 0; let p : Fin 4 := 3; let s : State := wAx 3; let u := s.atTime at_;
      3 ≤ u.g (AX_STAT_state p)) ∧
    (let at_ : TT := 0; let p : Fin 4 := 3; let s : State := wAx 3; let u := s.atTime at_;
      u.g (AX_STAT_state p) = 3 ∧ (u.port p).helloRx = 0) ∧
    (let at_ : TT := 0; let p : Fin 4 := 3; let h : Hello := { wHello with acked := true };
      let s : State := (wAx 3).setPort 3 { PortSt.initial with helloRx := 1, helloAck := 1 };
      let u := s.atTime at_; u.g (AX_STAT_state p) = 3 ∧ 1 ≤ (u.port p).helloRx ∧ 1 ≤ (u.port p).helloAck ∧
      h.acked = true ∧ u.isMember = false) := by
  refine ⟨?_, ?_, ?_, ?_, ?_⟩ <;> decide

theorem witness_LinksGoDown :
    (let at_ : TT := 0; let p : Fin 4 := 3; let s : State := wAx 3; let u := s.atTime at_;
      u.g (AX_STAT_state p) = 3) ∧
    (let at_ : TT := 40000; let p : Fin 4 := 3; let cause : TT := 0;
      let c : Instr := .axSilenceTimeout 40000 3; let s : State := wAt 40000 (wAx 4); let u := s.atTime at_;
      u.portUp p = true ∧ u.isMember = false ∧ u.ax.bulk = [] ∧ u.scriptsQuiet ∧
      (∀ k < 8, (u.iso (8 * p + k)).inUnit = false) ∧
      (c = .axLockLoss at_ p cause ∨ c = .leave at_ p ∨ (c = .axSilenceTimeout at_ p ∧ (u.port p).lastRx + 40 * usNs ≤ u.elapsed))) ∧
    (let at_ : TT := 0; let p : Fin 4 := 3; let s : State := wAx 4; let u := s.atTime at_;
      3 ≤ u.g (AX_STAT_state p)) ∧
    (let at_ : TT := 0; let p : Fin 4 := 3; let s : State := wAx 4; let u := s.atTime at_;
      3 ≤ u.g (AX_STAT_state p)) ∧
    (let at_ : TT := 0; let p : Fin 4 := 3; let s : State := wAx 4; let u := s.atTime at_;
      3 ≤ u.g (AX_STAT_state p)) := by
  refine ⟨?_, ?_, ?_, ?_, ?_⟩ <;> decide

theorem witness_TroupeKeepsItsRoster :
    (let at_ : TT := 100000; let s : State := wAt 100000 ((wMember (wAx 4)).pb SYS_STATE_lead true);
      let u := s.atTime at_; u.dev.active = true ∧ u.isMember = true ∧ u.bit SYS_STATE_lead = true ∧
      u.ax.epochAt + 100 * usNs ≤ u.elapsed) ∧
    (let at_ : TT := 400000; let p : Fin 4 := 3; let a : AdvertSt := wAdvert;
      let s : State := wAt 400000 (((wMember (wAx 4)).pb SYS_STATE_lead true).setPort 3 { PortSt.initial with advert := some wAdvert });
      let u := s.atTime at_; u.isMember = true ∧ u.bit SYS_STATE_lead = true ∧ u.portUp p = true ∧
      (u.port p).advert = some a ∧ a.epochAt + 400 * usNs ≤ u.elapsed ∧ (∀ q < 4, u.advertOk q = false)) ∧
    (let at_ : TT := 0; let p : Fin 4 := 3; let s : State := wMember (wAx 4); let u := s.atTime at_;
      u.portUp p = true ∧ u.isMember = true ∧ u.bit SYS_STATE_lead = false) ∧
    (let at_ : TT := 0; let p : Fin 4 := 3; let id : MemberId := 5; let nonce : BitVec 64 := 77;
      let s : State := (wMember (wAx 4)).pb SYS_STATE_lead true; let u := s.atTime at_; u.portUp p = true ∧
      u.isMember = true ∧ u.bit SYS_STATE_lead = true ∧ id = u.memberId ∧ nonce ≠ u.ax.nonce) ∧
    (let at_ : TT := 0; let p : Fin 4 := 3; let id : MemberId := 9; let nonce : BitVec 64 := 77;
      let s : State := wRoute 9 2 77 (wMember (wAx 4)); let u := s.atTime at_; let q : Nat := 2;
      u.portUp p = true ∧ id ≠ u.memberId ∧
      u.ax.routes.find? (fun r => r.1 == id && r.2.2 == nonce) = some (id, q, nonce) ∧ q ≠ p) ∧
    (let at_ : TT := 0; let p : Fin 4 := 3; let id : MemberId := 5; let nonce : BitVec 64 := 0;
      let s : State := wMember (wAx 4); let u := s.atTime at_; u.portUp p = true ∧ id = u.memberId ∧
      nonce = u.ax.nonce ∧ u.isMember = true ∧ u.qualified 3 = false) := by
  refine ⟨?_, ?_, ?_, ?_, ?_, ?_⟩ <;> decide

theorem witness_FramesAreAcknowledged :
    (let at_ : TT := 0; let p : Fin 4 := 3; let cls : AxClass := .cue; let s : State := wAx 4;
      let u := s.atTime at_; let k := classCode cls; u.portUp p = true ∧ (u.port p).held.get [] k = [] ∧
      u.ax.bulk = []) ∧
    (let at_ : TT := 0; let p : Fin 4 := 3; let cls : AxClass := .cue;
      let s : State := (wAx 4).setPort 3 { PortSt.initial with unacked := [(clCue, [wFrame])], resends := [(clCue, 14)] };
      let u := s.atTime at_; let k := classCode cls; u.portUp p = true ∧ (u.port p).resends.get 0 k < 15) ∧
    (let at_ : TT := 2000; let p : Fin 4 := 3; let cls : AxClass := .cue;
      let s : State := wAt 2000 ((wAx 4).setPort 3 { PortSt.initial with unacked := [(clCue, [wFrame])] });
      let u := s.atTime at_; let k := classCode cls; let kept := (u.port p).unacked.get [] k;
      u.portUp p = true ∧ (u.port p).resends.get 0 k < 15 ∧ kept ≠ [] ∧
      2 * usNs ≤ u.elapsed - (u.port p).ackAt.get 0 k) ∧
    (let at_ : TT := 0; let p : Fin 4 := 3; let s : State := wAx 4; let u := s.atTime at_; u.portUp p = true ∧
      (∀ k ∈ [clCue, clMgmt, clBulk], (u.port p).held.get [] k = [])) ∧
    (let at_ : TT := 0; let p : Fin 4 := 3;
      let s : State := (wAx 4).setPort 3 { PortSt.initial with owed := [(clBulk, 1)] }; let u := s.atTime at_;
      let owed (k : Nat) := (u.port p).owed.get 0 k; u.portUp p = true ∧
      (owed clCue ≠ 0 ∨ owed clMgmt ≠ 0 ∨ owed clBulk ≠ 0)) ∧
    (let at_ : TT := 0; let p : Fin 4 := 3; let s : State := wAx 4; let u := s.atTime at_; u.portUp p = true ∧
      (u.port p).exchange = none) ∧
    (let at_ : TT := 0; let p : Fin 4 := 3; let s : State := wAx 4; let u := s.atTime at_; u.portUp p = true) ∧
    (let at_ : TT := 0; let p : Fin 4 := 3; let n : Nat := 0; let from_ : Nat := 0;
      let s : State := (wAx 4).setPort 3 { PortSt.initial with exchange := some (0, 0), okRun := 2 };
      let u := s.atTime at_; u.portUp p = true ∧ (u.port p).exchange = some (n, from_) ∧
      u.elapsed - from_ < 100 * usNs ∧ u.ax.parent ≠ some p.val ∧
      ((u.port p).okRun < 3 ∨ u.bit (AX_STAT_time_ok p) = true)) ∧
    (let at_ : TT := 100000; let p : Fin 4 := 3; let n : Nat := 0; let from_ : Nat := 0;
      let s : State := wAt 100000 ((wAx 4).setPort 3 { PortSt.initial with exchange := some (0, 0), missRun := 6 });
      let u := s.atTime at_; (u.port p).exchange = some (n, from_) ∧ 100 * usNs ≤ u.elapsed - from_ ∧
      (u.port p).missRun < 7) := by
  refine ⟨?_, ?_, ?_, ?_, ?_, ?_, ?_, ?_, ?_⟩ <;> decide

theorem witness_CuesCrossTheTroupe :
    (let at_ : TT := 0; let p : Fin 4 := 3; let h : AxHdr := wHdr 9 5 0;
      let r : CueRec := { wRec 0 5 0 0 0 with origin := 9, flags := 0x10 };
      let s : State := (wMember (wAx 4)).pb (AX_STAT_tree 3) true; let u := s.atTime at_;
      let same (d : DedupSt) := d.origin == r.origin.truncate 12 && d.live u.elapsed; u.inOrder p clCue h ∧
      u.bit (AX_STAT_tree p) = true ∧ u.isMember = true ∧ u.bit CUE_CTL_bcast_rx = true ∧ u.dev ≠ .drain ∧
      recBroadcast r = true ∧ u.cue.dedup.find? same = none) ∧
    (let at_ : TT := 0; let p : Fin 4 := 3; let h : AxHdr := wHdr 9 5 0;
      let r : CueRec := { wRec 0 5 0 0 0 with origin := 9, flags := 0x10 };
      let s : State := { ((wMember (wAx 4)).pb (AX_STAT_tree 3) true) with cue := { (wMember (wAx 4)).cue with dedup := [⟨9, 0, 0, 0⟩] } };
      let u := s.atTime at_; let same (d : DedupSt) := d.origin == r.origin.truncate 12 && d.live u.elapsed;
      let d : _ := ⟨9, 0, 0, 0⟩; u.inOrder p clCue h ∧ u.bit (AX_STAT_tree p) = true ∧ u.isMember = true ∧
      u.bit CUE_CTL_bcast_rx = true ∧ u.dev ≠ .drain ∧ recBroadcast r = true ∧
      u.cue.dedup.find? same = some d ∧ r.seq = d.highest) ∧
    (let at_ : TT := 0; let p : Fin 4 := 3; let h : AxHdr := { wHdr 9 5 0 with seq := 1 };
      let s : State := wAx 4; let u := s.atTime at_; let want := (u.port p).rxSeq.get 0 clCue;
      u.portUp p = true ∧ h.seq.toNat ≠ want ∧ (u.port p).nakSent.get false clCue = false) ∧
    (let at_ : TT := 50000; let p : Fin 4 := 3; let h : AxHdr := wHdr 9 5 0; let from_ : Nat := 0;
      let r : CueRec := wRec 0 5 0 0 0;
      let s : State := wAt 50000 { wCredit (wAx 4) with ax := { (wAx 4).ax with replay := [(0, wRec 0 5 0 0 0)] } };
      let u := s.atTime at_; u.inOrder p clCue h ∧ u.ax.replay = [(from_, r)] ∧ u.elapsed - from_ ≤ 50 * usNs ∧
      u.goesNow p (u.frame clCue 0 0 (cueWords r))) ∧
    (let at_ : TT := 0; let p : Fin 4 := 3; let h : AxHdr := wHdr 9 5 0; let r : CueRec := wRec 0 5 0 0 0;
      let s : State := (wMember (wAx 4)).pb (AX_STAT_tree 3) true; let u := s.atTime at_; u.inOrder p clCue h ∧
      recBroadcast r = false) := by
  refine ⟨?_, ?_, ?_, ?_, ?_⟩ <;> decide

theorem witness_IsoFramesStoreLines :
    (let at_ : TT := 0; let p : Fin 4 := 3; let h : AxHdr := wHdr 9 5 8; let bytes : List Byte := [1];
      let s : State := wAx 4; let u := s.atTime at_; let k := h.channel.toNat;
      let ours := k < 8 ∧ u.bit (AX_ISO_CTL_enable p k) = true ∧ u.bit (AX_ISO_CTL_dir p k) = true ∧ h.source = BitVec.ofNat 12 (u.g (AX_ISO_CTL_peer p k));
      let c : Instr := .isoUnit 0 3 (wHdr 9 5 8) [1] false; let lineDone : Bool := false; u.inOrder p clIso h ∧
      ¬ ours ∧ (c = .isoLine at_ p h bytes lineDone ∨ c = .isoUnit at_ p h bytes lineDone)) ∧
    (let at_ : TT := 0; let p : Fin 4 := 3; let h : AxHdr := wHdr 9 5 7; let bytes : List Byte := [1];
      let s : State := wIso; let u := s.atTime at_; let k := h.channel.toNat;
      let d := u.g (AX_ISO_CTL_stream p k); let x := u.iso (8 * p + k);
      let cont := x.inUnit && x.line == 1 && x.bytes != 0;
      let ours := k < 8 ∧ u.bit (AX_ISO_CTL_enable p k) = true ∧ u.bit (AX_ISO_CTL_dir p k) = true ∧ h.source = BitVec.ofNat 12 (u.g (AX_ISO_CTL_peer p k));
      let c : Instr := .isoUnit 0 3 (wHdr 9 5 7) [1] false; let lineDone : Bool := false; let line : Nat := 1;
      let from_ : Nat := 0; let a := u.lineAddr d (u.g (DS_STAT_widx d)) (u.linePlace d line).1;
      let n := u.dsStride d; u.inOrder p clIso h ∧
      ((c = .isoLine at_ p h bytes lineDone ∧ x.inUnit = true ∧ line = x.line ∧ from_ = x.bytes) ∨ (c = .isoUnit at_ p h bytes lineDone ∧ cont = true ∧ line = x.line ∧ from_ = x.bytes) ∨ (c = .isoUnit at_ p h bytes lineDone ∧ cont = false ∧ line = 1 ∧ from_ = 0)) ∧
      ours ∧ u.g (DS_STAT_state d) = 2 ∧ (u.linePlace d line).1 ≤ u.dsLines d ∧ from_ + bytes.length ≤ n ∧
      a + n ≤ 0x80000000) := by
  refine ⟨?_, ?_⟩ <;> decide

theorem witness_BulkTransfersRun :
    (let at_ : TT := 0; let v : W32 := 0x80050000; let s : State := wMember (wAx 4); let u := s.atTime at_;
      let target : MemberId := (v >>> 16).truncate 12; u.reachable (AX_BULK_CTL 0) ∧ v.getLsbD 31 = true ∧
      u.bulkBusy = false ∧ (u.isMember = false ∨ target = u.memberId ∨ u.routeTo target = none)) ∧
    (let at_ : TT := 0; let v : W32 := 0x80090000; let s : State := wRoute 9 3 77 (wMember (wAx 4));
      let u := s.atTime at_; let target : MemberId := (v >>> 16).truncate 12; u.reachable (AX_BULK_CTL 0) ∧
      v.getLsbD 31 = true ∧ u.bulkBusy = false ∧ u.isMember = true ∧ target ≠ u.memberId ∧
      u.routeTo target ≠ none) ∧
    (let at_ : TT := 0; let p : Fin 4 := 3; let h : AxHdr := wHdr 9 5 1;
      let s : State := (wMember (wAx 4)).pb (AX_CTL_bulk_rx 0) false; let u := s.atTime at_;
      u.inOrder p clBulk h ∧ h.dest = u.memberId ∧ u.bit (AX_CTL_bulk_rx 0) = false) ∧
    (let at_ : TT := 0; let p : Fin 4 := 3; let h : AxHdr := wHdr 9 5 1;
      let s : State := (wMember (wAx 4)).pb (AX_CTL_bulk_rx 0) true; let u := s.atTime at_;
      u.inOrder p clBulk h ∧ h.dest = u.memberId ∧ u.bit (AX_CTL_bulk_rx 0) = true ∧ u.ax.bulk = []) ∧
    (let at_ : TT := 0; let p : Fin 4 := 3; let h : AxHdr := wHdr 9 5 1;
      let s : State := wBulks [{ wBulk with phase := 2 }] ((wMember (wAx 4)).pb (AX_CTL_bulk_rx 0) true);
      let u := s.atTime at_; u.inOrder p clBulk h ∧ h.dest = u.memberId ∧ u.bit (AX_CTL_bulk_rx 0) = true ∧
      u.bulkHeld = true) ∧
    (let at_ : TT := 0; let p : Fin 4 := 3; let h : AxHdr := wHdr 9 5 1;
      let b : BulkSt := { wBulk with initiator := 5 };
      let s : State := wBulks [{ wBulk with initiator := 5 }] (wMember (wAx 4)); let u := s.atTime at_;
      u.inOrder p clBulk h ∧ h.dest = u.memberId ∧ u.ax.bulk = [b] ∧ b.tag = h.channel.toNat ∧
      b.initiator = u.memberId ∧ b.phase = 1) ∧
    (let at_ : TT := 0; let p : Fin 4 := 3; let h : AxHdr := wHdr 9 5 1; let b : BulkSt := wBulk;
      let s : State := wBulks [wBulk] (wMember (wAx 4)); let u := s.atTime at_; u.inOrder p clBulk h ∧
      h.dest = u.memberId ∧ u.ax.bulk = [b] ∧ b.tag = h.channel.toNat ∧ b.initiator = h.source) ∧
    (let at_ : TT := 0; let p : Fin 4 := 3; let h : AxHdr := wHdr 9 5 1; let b : BulkSt := wBulk;
      let s : State := wBulks [wBulk] (wMember (wAx 4)); let u := s.atTime at_; u.inOrder p clBulk h ∧
      h.dest = u.memberId ∧ u.ax.bulk = [b] ∧ b.tag = h.channel.toNat ∧ b.initiator = h.source ∧
      b.target = u.memberId) ∧
    (let at_ : TT := 0; let p : Fin 4 := 3; let h : AxHdr := wHdr 9 5 1; let b : BulkSt := wBulk;
      let s : State := wBulks [wBulk] (wMember (wAx 4)); let u := s.atTime at_; let raddr : W32 := 64;
      u.inOrder p clBulk h ∧ h.dest = u.memberId ∧ u.ax.bulk = [b] ∧ b.tag = h.channel.toNat ∧
      b.initiator = h.source ∧ b.raddr ≠ raddr.toNat) ∧
    (let at_ : TT := 0; let p : Fin 4 := 3; let h : AxHdr := wHdr 9 5 1;
      let b : BulkSt := { wBulk with raddr := 0x7FFFFFFF };
      let s : State := wBulks [{ wBulk with raddr := 0x7FFFFFFF }] (wMember (wAx 4)); let u := s.atTime at_;
      let raddr : W32 := 0x7FFFFFFF; let bytes : List Byte := [1]; let a := b.raddr + h.offset.toNat;
      u.inOrder p clBulk h ∧ b.raddr = raddr.toNat ∧
      h.dest = u.memberId ∧ u.ax.bulk = [b] ∧ b.tag = h.channel.toNat ∧ b.initiator = h.source ∧
      u.rollWindow.spareRoom a = true ∧ a + bytes.length ≤ 0x80000000) ∧
    (let at_ : TT := 0; let p : Fin 4 := 3; let h : AxHdr := wHdr 9 5 1; let b : BulkSt := wBulk;
      let s : State := wFull (wBulks [wBulk] (wMember (wAx 4))); let u := s.atTime at_; let raddr : W32 := 0;
      let a := b.raddr + h.offset.toNat; u.inOrder p clBulk h ∧ b.raddr = raddr.toNat ∧ h.dest = u.memberId ∧ u.ax.bulk = [b] ∧
      b.tag = h.channel.toNat ∧ b.initiator = h.source ∧ u.rollWindow.spareRoom a = false) ∧
    (let at_ : TT := 0; let p : Fin 4 := 3; let h : AxHdr := wHdr 9 5 1;
      let b : BulkSt := { wBulk with initiator := 5 };
      let s : State := wBulks [{ wBulk with initiator := 5 }] (wMember (wAx 4)); let u := s.atTime at_;
      u.inOrder p clBulk h ∧ h.dest = u.memberId ∧ u.ax.bulk = [b] ∧ b.tag = h.channel.toNat ∧
      b.initiator = u.memberId ∧ (∀ c < 32, (u.chan c).waits = false)) := by
  refine ⟨?_, ?_, ?_, ?_, ?_, ?_, ?_, ?_, ?_, ?_, ?_, ?_⟩ <;> decide

theorem witness_MembersReachEachOther :
    (let at_ : TT := 0; let v : W32 := 0x80000009; let s : State := wMember (wAx 4); let u := s.atTime at_;
      let target : MemberId := v.truncate 12; u.reachable (AX_RMT_CTL 0) ∧ v.getLsbD 31 = true ∧
      target ≠ u.memberId ∧ (u.isMember = false ∨ u.routeTo target = none)) ∧
    (let at_ : TT := 0; let v : W32 := 0x80000009; let s : State := wRoute 9 3 77 (wMember (wAx 4));
      let u := s.atTime at_; let target : MemberId := v.truncate 12; u.reachable (AX_RMT_CTL 0) ∧
      v.getLsbD 31 = true ∧ target ≠ u.memberId ∧ u.isMember = true ∧ u.routeTo target ≠ none) ∧
    (let at_ : TT := 0; let v : W32 := 0x80000005; let s : State := wMember (wAx 4); let u := s.atTime at_;
      let target : MemberId := v.truncate 12; u.reachable (AX_RMT_CTL 0) ∧ v.getLsbD 31 = true ∧
      target = u.memberId) ∧
    (let at_ : TT := 0; let p : Fin 4 := 3; let h : AxHdr := wHdr 9 5 1; let q : Nat := 3;
      let s : State := wCredit (wRoute 9 3 77 ((wMember (wAx 4)).pb (AX_CTL_mgmt_rx 0) false));
      let u := s.atTime at_; u.inOrder p clMgmt h ∧ h.dest = u.memberId ∧ u.routeTo h.source = some q ∧
      u.goesNow q (u.frame clMgmt 2 0 [0, 0]) ∧ u.bit (AX_CTL_mgmt_rx 0) = false) ∧
    (let at_ : TT := 0; let p : Fin 4 := 3; let h : AxHdr := wHdr 9 5 1; let q : Nat := 3;
      let s : State := wCredit (wRoute 9 3 77 ((wMember (wAx 4)).pb (AX_CTL_mgmt_rx 0) false));
      let u := s.atTime at_; u.inOrder p clMgmt h ∧ h.dest = u.memberId ∧ u.routeTo h.source = some q ∧
      u.goesNow q (u.frame clMgmt 2 0 [0, 0]) ∧ u.bit (AX_CTL_mgmt_rx 0) = false) ∧
    (let at_ : TT := 0; let p : Fin 4 := 3; let h : AxHdr := wHdr 9 5 1; let q : Nat := 3;
      let s : State := wCredit (wRoute 9 3 77 ((wMember (wAx 4)).pb (AX_CTL_mgmt_rx 0) true));
      let u := s.atTime at_; let n : Fin 8 := 7; u.inOrder p clMgmt h ∧ h.dest = u.memberId ∧
      u.routeTo h.source = some q ∧ u.goesNow q (u.frame clMgmt 2 0 [0, 0]) ∧ u.bit (AX_CTL_mgmt_rx 0) = true ∧
      u.reachable (KEEP_USER n) ∧ u.pwr.softErrs = []) ∧
    (let at_ : TT := 0; let p : Fin 4 := 3; let h : AxHdr := wHdr 9 5 1; let q : Nat := 3;
      let s : State := wCredit (wRoute 9 3 77 ((wMember (wAx 4)).pb (AX_CTL_mgmt_rx 0) true));
      let u := s.atTime at_; let n : Fin 8 := 7; u.inOrder p clMgmt h ∧ h.dest = u.memberId ∧
      u.routeTo h.source = some q ∧ u.goesNow q (u.frame clMgmt 2 0 [0, 0]) ∧ u.bit (AX_CTL_mgmt_rx 0) = true ∧
      u.reachable (KEEP_USER n) ∧ u.pwr.softErrs = [] ∧ u.bitOf BAT_USER_LOCK n = false) ∧
    (let at_ : TT := 0; let p : Fin 4 := 3; let h : AxHdr := wHdr 9 5 1; let tag : Nat := 1;
      let from_ : Nat := 0; let s : State := wRmt (wMember (wAx 4)); let u := s.atTime at_;
      u.inOrder p clMgmt h ∧ h.dest = u.memberId ∧ u.ax.rmt = some (tag, from_) ∧ tag = h.channel.toNat) ∧
    (let at_ : TT := 100000; let tag : Nat := 1; let from_ : Nat := 0;
      let s : State := wAt 100000 (wRmt (wMember (wAx 4))); let u := s.atTime at_;
      u.ax.rmt = some (tag, from_) ∧ from_ + 100 * usNs ≤ u.elapsed) ∧
    (let at_ : TT := 0; let p : Fin 4 := 3; let h : AxHdr := wHdr 9 5 1; let s : State := wMember (wAx 4);
      let u := s.atTime at_; u.inOrder p clMgmt h ∧ h.dest = u.memberId ∧ u.bit EL_COLLECT_CTL_enable = false) ∧
    (let at_ : TT := 0; let p : Fin 4 := 3; let h : AxHdr := wHdr 9 5 1;
      let s : State := wFull (((wMember (wAx 4)).pb EL_COLLECT_CTL_enable true).wr EL_COLLECT_BASE 0x7FFFFFE0);
      let u := s.atTime at_;
      let a := (u.rd EL_COLLECT_BASE).toNat + (u.rd EL_COLLECT_HEAD).toNat % 2 ^ u.g EL_COLLECT_CTL_size * 32;
      u.inOrder p clMgmt h ∧ h.dest = u.memberId ∧ u.bit EL_COLLECT_CTL_enable = true ∧
      u.rollWindow.spareRoom a = false) ∧
    (let at_ : TT := 0; let p : Fin 4 := 3; let h : AxHdr := wHdr 9 5 1;
      let payload : List Byte := List.replicate 24 1;
      let s : State := ((wMember (wAx 4)).pb EL_COLLECT_CTL_enable true).wr EL_COLLECT_BASE 0x7FFFFFE0;
      let u := s.atTime at_;
      let a := (u.rd EL_COLLECT_BASE).toNat + (u.rd EL_COLLECT_HEAD).toNat % 2 ^ u.g EL_COLLECT_CTL_size * 32;
      u.inOrder p clMgmt h ∧ h.dest = u.memberId ∧ u.bit EL_COLLECT_CTL_enable = true ∧
      u.rollWindow.spareRoom a = true ∧ payload.length = 24 ∧ a + 32 ≤ 0x80000000) := by
  refine ⟨?_, ?_, ?_, ?_, ?_, ?_, ?_, ?_, ?_, ?_, ?_, ?_⟩ <;> decide

theorem witness_FabricClocks :
    (let at_ : TT := 0; let k : Fin 128 := 127; let stale : Bool := false;
      let s : State := wQueue 127 (List.replicate 1023 1); let u := s.atTime at_; u.dev.active = true ∧
      u.isFifo k = true ∧ u.bit (QC_CTL_push_side k) = false ∧ u.seenFull k stale < u.bramDepth k) ∧
    (let at_ : TT := 0; let k : Fin 128 := 127; let stale : Bool := false;
      let s : State := wQueue 127 (List.replicate 1024 1); let u := s.atTime at_; u.dev.active = true ∧
      u.isFifo k = true ∧ u.bit (QC_CTL_push_side k) = false ∧ u.bramDepth k ≤ u.seenFull k stale) ∧
    (let at_ : TT := 0; let k : Fin 128 := 127; let stale : Bool := false; let s : State := wQueue 127 [1];
      let u := s.atTime at_; let w : _ := 1; let rest : _ := []; u.dev.active = true ∧ u.isFifo k = true ∧
      u.bit (QC_CTL_pop_side k) = false ∧ u.queueOf k = w :: rest ∧ 0 < u.seenEmpty k stale) ∧
    (let at_ : TT := 0; let k : Fin 128 := 127; let stale : Bool := true; let s : State := wQueue 127 [];
      let u := s.atTime at_; u.dev.active = true ∧ u.isFifo k = true ∧ u.bit (QC_CTL_pop_side k) = false ∧
      u.seenEmpty k stale = 0) ∧
    (let at_ : TT := 0; let k : Fin 128 := 127; let c : Fin 32 := 31;
      let x : BridgeSt := wChan 127 (some (wCopy false)); let y : BridgeCopy := wCopy false;
      let stale : Bool := true; let s : State := wBridge 31 (wChan 127 (some (wCopy false))) (wQueue 127 []);
      let u := s.atTime at_; u.dev.active = true ∧ u.isFifo k = true ∧ u.fab.bridge = [(c.val, x)] ∧
      x.need = 0 ∧ x.waits = false ∧ x.copy = some y ∧ y.block = k.val ∧ y.fifo = true ∧ y.left = 1 ∧
      (stale = false ∨ u.bridgeLags k = false) ∧ u.fm.wait = [] ∧
      u.rollWindow.roomNow (some (y.addr / 256 % 8)) = true ∧ y.toFm = false ∧ u.queueLevel k < u.bramDepth k) ∧
    (let at_ : TT := 0; let k : Fin 128 := 127; let c : Fin 32 := 31;
      let x : BridgeSt := wChan 127 (some (wCopy true)); let y : BridgeCopy := wCopy true;
      let stale : Bool := true; let s : State := wBridge 31 (wChan 127 (some (wCopy true))) (wQueue 127 [1]);
      let u := s.atTime at_; let w : _ := 1; let rest : _ := []; u.dev.active = true ∧ u.isFifo k = true ∧
      u.fab.bridge = [(c.val, x)] ∧ x.need = 0 ∧ x.waits = false ∧ x.copy = some y ∧ y.block = k.val ∧
      y.fifo = true ∧ y.left = 1 ∧ (stale = false ∨ u.bridgeLags k = false) ∧ u.fm.wait = [] ∧
      u.rollWindow.roomNow (some (y.addr / 256 % 8)) = true ∧ y.toFm = true ∧ y.addr + 4 ≤ 0x80000000 ∧
      u.queueOf k = w :: rest) ∧
    (let at_ : TT := 0; let k : Fin 128 := 127; let s : State := wQueue 127 [1]; let u := s.atTime at_;
      u.dev.active = true ∧ u.isFifo k = true) ∧
    (let at_ : TT := 0; let s : State := wSt .follow; let u := s.atTime at_; u.dev.active = true) ∧
    (let at_ : TT := 0; let s : State := wSt .follow; let u := s.atTime at_; u.dev.active = true) ∧
    (let at_ : TT := 4000; let k : Nat := 0;
      let c : CellCfg := { CellCfg.initial with table := 5, nets := [0, 0, 0, 0], registered := true };
      let s : State := wAt 4000 { wSt .follow with cfg := { (wSt .follow).cfg with hasFabric := true }, fab := { (wSt .follow).fab with cells := [(0, { CellCfg.initial with table := 5, nets := [0, 0, 0, 0], registered := true })] } };
      let u := s.atTime at_; u.fpllLocked = true ∧ u.fab.cells = [(k, c)] ∧ k < 0x5000 ∧ c.registered = true ∧
      c.rstEn = false ∧ c.ceEn = false ∧ c.nets = [k, k, k, k]) := by
  refine ⟨?_, ?_, ?_, ?_, ?_, ?_, ?_, ?_, ?_, ?_⟩ <;> decide

theorem witness_BridgeTakesCommands :
    (let at_ : TT := 0; let c : Fin 32 := 31; let w : W36 := 0; let rest : List W36 := [];
      let s : State := wBridge 31 (wChan 127 none) (wQueue 127 [0]); let u := s.atTime at_; let x := u.chan c;
      u.bridgeMay c 0 = true ∧ u.queueOf x.block = w :: rest ∧ x.batch = []) ∧
    (let at_ : TT := 0; let c : Fin 32 := 31; let i : Instr := .bridgeFmRead 0 31; let op : Nat := 4;
      let s : State := wBridge 31 (wChan 127 none) (wQueue 127 [0x400000000, 0]); let u := s.atTime at_;
      let x := u.chan c;
      ((i = .bridgeCue at_ c ∧ op = 1) ∨ (i = .bridgeFmWrite at_ c ∧ op = 3) ∨ (i = .bridgeFmRead at_ c ∧ op = 4) ∨ (i = .bridgeBulk at_ c ∧ op = 5)) ∧
      u.bridgeMay c op = true ∧ (u.queueOf x.block).length < bridgeWords op) ∧
    (let at_ : TT := 0; let c : Fin 32 := 31;
      let s : State := wBridge 31 (wChan 127 none) (wQueue 127 (0x100000000 :: List.replicate 8 0));
      let u := s.atTime at_; let x := u.chan c; let l := (u.queueOf x.block).take 9;
      let r : CueRec := { cueOfWords ((List.range 8).map (fun i => cmdWord l (i + 1))) with service := BitVec.ofNat 8 (u.chanSvc c) };
      u.bridgeMay c 1 = true ∧ 9 ≤ (u.queueOf x.block).length ∧ cmdWord l 0 = 0 ∧ cmdPlain l = true ∧
      recChain r = false ∧ u.dev ≠ .drain) ∧
    (let at_ : TT := 0; let c : Fin 32 := 31;
      let s : State := wBridge 31 (wChan 127 none) (wQueue 127 [0x100000000, 0, 0, 0, 0x40000, 0, 0, 0, 0]);
      let u := s.atTime at_; let x := u.chan c; let l := (u.queueOf x.block).take 9;
      let r : CueRec := { cueOfWords ((List.range 8).map (fun i => cmdWord l (i + 1))) with service := BitVec.ofNat 8 (u.chanSvc c) };
      u.bridgeMay c 1 = true ∧ 9 ≤ (u.queueOf x.block).length ∧ cmdWord l 0 = 0 ∧ cmdPlain l = true ∧
      recChain r = true) ∧
    (let at_ : TT := 0; let c : Fin 32 := 31; let w : W36 := 0x2000F0005; let rest : List W36 := [];
      let s : State := ((wBridge 31 (wChan 127 none) (wOwn kFb 31 5 (wQueue 127 [0x2000F0005]))).p (BA_CTL_service 15) 5).pb (BA_CTL_src 15) true;
      let u := s.atTime at_; let x := u.chan c; let v : W32 := w.truncate 32; let b := bitsOf v 23 16;
      u.bridgeMay c 2 = true ∧ u.queueOf x.block = w :: rest ∧ x.batch = [] ∧ bitsOf v 31 25 = 0 ∧
      u.g (BA_CTL_service b) = u.chanSvc c ∧ u.bit (BA_CTL_src b) = true) ∧
    (let at_ : TT := 0; let c : Fin 32 := 31;
      let s : State := wBridge 31 { wChan 127 none with busy := true } (wQueue 127 []); let u := s.atTime at_;
      let x := u.chan c; x.busy = true ∧ x.need = 0 ∧ x.waits = false ∧ (∀ y, x.copy = some y → y.left = 0) ∧
      (x.bulk = true → x.rejected = false → x.outcome ≠ none) ∧ (∀ b ∈ u.cue.engIn, b.1 ≠ u.chanSvc c)) := by
  refine ⟨?_, ?_, ?_, ?_, ?_, ?_⟩ <;> decide

theorem witness_BridgeMovesData :
    (let at_ : TT := 0; let c : Fin 32 := 31;
      let s : State := wBridge 31 (wChan 127 none) (wOwn kBr 126 5 (wOwn kFb 31 5 ((((wQueue 127 [0x3FC000000, 0, 0]).p (QC_CTL_width 126) 2).pb (QC_CTL_pop_side 126) true))));
      let u := s.atTime at_; let x := u.chan c; let l := (u.queueOf x.block).take 3; let w0 := cmdWord l 0;
      let a := (cmdWord l 1).toNat; let k := bitsOf w0 31 25; let n := 16 * (bitsOf (cmdWord l 2) 15 0 + 1);
      3 ≤ (u.queueOf x.block).length ∧ bitsOf w0 24 12 = 0 ∧ cmdPlain l = true ∧
      bitsOf (cmdWord l 2) 31 16 = 0 ∧ a % 64 = 0 ∧ a + 4 * n ≤ 0x80000000 ∧
      u.ownerOf kBr k = .svc (u.chanSvc c) ∧ u.rangeFenced (u.chanSvc c) a (4 * n) = false ∧
      u.isFifo k = false ∧ u.g (QC_CTL_width k) = 2 ∧ u.bit (QC_CTL_pop_side k) = true ∧ x.batch = [] ∧
      u.bridgeMay c 3 = true) ∧
    (let at_ : TT := 0; let c : Fin 32 := 31;
      let s : State := wBridge 31 (wChan 127 none) (wOwn kBr 126 5 (wOwn kFb 31 5 ((((wQueue 127 [0x4FC000000, 0x7FFFFFC0, 0]).p (QC_CTL_width 126) 2).pb (QC_CTL_pop_side 126) true))));
      let u := s.atTime at_; let x := u.chan c; let l := (u.queueOf x.block).take 3; let w0 := cmdWord l 0;
      let a := (cmdWord l 1).toNat; let k := bitsOf w0 31 25; let n := 16 * (bitsOf (cmdWord l 2) 15 0 + 1);
      3 ≤ (u.queueOf x.block).length ∧ bitsOf w0 24 12 = 0 ∧ cmdPlain l = true ∧
      bitsOf (cmdWord l 2) 31 16 = 0 ∧ a % 64 = 0 ∧ a + 4 * n ≤ 0x80000000 ∧
      u.ownerOf kBr k = .svc (u.chanSvc c) ∧ u.rangeFenced (u.chanSvc c) a (4 * n) = false ∧
      u.isFifo k = false ∧ u.g (QC_CTL_width k) = 2 ∧ u.bit (QC_CTL_pop_side k) = true ∧ x.batch = [] ∧
      u.bridgeMay c 4 = true ∧ n ≤ 1024) ∧
    (let at_ : TT := 0; let c : Fin 32 := 31;
      let s : State := (wBridge 31 (wChan 127 none) (wOwn kFb 31 5 (wQueue 127 [0x500000000, 0, 0, 0x90000]))).p (AX_BULK_STAT_status 0) 2;
      let u := s.atTime at_; let x := u.chan c; u.bridgeMay c 5 = true ∧ 4 ≤ (u.queueOf x.block).length ∧
      u.bulkBusy = true) ∧
    (let at_ : TT := 0; let c : Fin 32 := 31;
      let s : State := wMember (wBridge 31 (wChan 127 none) (wOwn kFb 31 5 (wQueue 127 [0x500000000, 0, 0, 0x90000])));
      let u := s.atTime at_; let x := u.chan c; let l := (u.queueOf x.block).take 4;
      let la := (cmdWord l 1).toNat; let ra := (cmdWord l 2).toNat;
      let n := 64 * (bitsOf (cmdWord l 3) 15 0 + 1);
      let target : MemberId := BitVec.ofNat 12 (bitsOf (cmdWord l 3) 27 16); u.bridgeMay c 5 = true ∧
      4 ≤ (u.queueOf x.block).length ∧ u.bulkBusy = false ∧ cmdWord l 0 = 0 ∧ cmdPlain l = true ∧
      bitsOf (cmdWord l 3) 31 28 = 0 ∧ la % 64 = 0 ∧ ra % 64 = 0 ∧ la + n ≤ 0x80000000 ∧ ra + n ≤ 0x80000000 ∧
      u.rangeFenced (u.chanSvc c) la n = false ∧ x.batch = [] ∧
      (u.isMember = false ∨ target = u.memberId ∨ u.routeTo target = none)) ∧
    (let at_ : TT := 0; let c : Fin 32 := 31;
      let s : State := wRoute 9 3 77 (wMember (wBridge 31 (wChan 127 none) (wOwn kFb 31 5 (wQueue 127 [0x500000000, 0, 0, 0x90000]))));
      let u := s.atTime at_; let x := u.chan c; let l := (u.queueOf x.block).take 4;
      let la := (cmdWord l 1).toNat; let ra := (cmdWord l 2).toNat;
      let n := 64 * (bitsOf (cmdWord l 3) 15 0 + 1);
      let target : MemberId := BitVec.ofNat 12 (bitsOf (cmdWord l 3) 27 16); u.bridgeMay c 5 = true ∧
      4 ≤ (u.queueOf x.block).length ∧ u.bulkBusy = false ∧ cmdWord l 0 = 0 ∧ cmdPlain l = true ∧
      bitsOf (cmdWord l 3) 31 28 = 0 ∧ la % 64 = 0 ∧ ra % 64 = 0 ∧ la + n ≤ 0x80000000 ∧ ra + n ≤ 0x80000000 ∧
      u.rangeFenced (u.chanSvc c) la n = false ∧ x.batch = [] ∧ u.isMember = true ∧ target ≠ u.memberId ∧
      u.routeTo target ≠ none) := by
  refine ⟨?_, ?_, ?_, ?_, ?_⟩ <;> decide

theorem witness_PinsFollow :
    (let at_ : TT := 0; let b : Fin 4 := 3; let size : Size := .s16; let off : Fin 4 := 2;
      let s : State := wSt .follow; let u := s.atTime at_; let n := sizeBytes size; let a := GP_OUT b;
      u.reachable a ∧ size ≠ .s64 ∧ off.val % n = 0) ∧
    (let at_ : TT := 0; let b : Fin 4 := 3; let size : Size := .s16; let off : Fin 4 := 3;
      let s : State := wSt .follow; let u := s.atTime at_; let n := sizeBytes size; let a := GP_OUT b;
      u.reachable a ∧ off.val % n ≠ 0) ∧
    (let at_ : TT := 0; let pads : BitVec 64 := 0xFF; let s : State := wSt .follow;
      let u := (s.atTime at_).seePads pads; u.reaches GPIO_IN_LO) ∧
    (let at_ : TT := 0; let k : Fin 16 := 15; let rises : Bool := true; let cause : TT := 0;
      let s : State := wSt .follow; let u := s.atTime at_;
      let selected := u.bit (PEL_CTL_enable k) && (u.g (PEL_CTL_edge k)).testBit (if rises then 0 else 1);
      u.pelRuns = true ∧ u.pelLevel k = !rises ∧ u.padMay k rises = true ∧ u.pelDue k cause.toNat = true ∧
      selected = false) ∧
    (let at_ : TT := 0; let k : Fin 16 := 15; let rises : Bool := true; let cause : TT := 0;
      let s : State := ((wSt .follow).pb (PEL_CTL_enable 15) true).p (PEL_CTL_edge 15) 1;
      let u := s.atTime at_;
      let selected := u.bit (PEL_CTL_enable k) && (u.g (PEL_CTL_edge k)).testBit (if rises then 0 else 1);
      u.pelRuns = true ∧ u.pelLevel k = !rises ∧ u.padMay k rises = true ∧ u.pelDue k cause.toNat = true ∧
      selected = true ∧ u.scriptsQuiet ∧ u.bitOf SYS_WAKE_SRC k = false) ∧
    (let at_ : TT := 0; let k : Fin 16 := 15; let s : State := (wSt .follow).p (PEL_CTL_deb 15) 1;
      let u := s.atTime at_; u.pelRuns = true ∧ u.g (PEL_CTL_deb k) ≠ 0 ∧ u.padMay k (u.pelLevel k) = true) ∧
    (let at_ : TT := 0; let k : Fin 16 := 15; let v : W32 := resetOf (PEL_CTL 15) ||| 0x80000000;
      let s : State := wSt .follow; let u := s.atTime at_; let a := PEL_CTL k; u.reachable a ∧
      (u.writeReg .observer a v 0xFFFFFFFF).1 = .ok) ∧
    (let at_ : TT := 20833; let f : TimeFn := .wclk48; let rises : Bool := true;
      let s : State := wAt 20833 (wSt .follow); let u := s.atTime at_; u.dev.active = true ∧
      timeEdgeAt f rises u.now = true) := by
  refine ⟨?_, ?_, ?_, ?_, ?_, ?_, ?_, ?_⟩ <;> decide

theorem witness_EventsAreRecorded :
    (let at_ : TT := 512000; let r : LogRec := ⟨0, 1, 0, 3, 9, 0⟩;
      let s : State := wAt 512000 { wSt .follow with log := { (wSt .follow).log with stage := [⟨0, 1, 0, 3, 9, 0⟩] } };
      let u := s.atTime at_; u.dev.timed = true ∧ u.log.stage = [r] ∧ u.horizon r ≤ u.now ∧ r.severity < 4 ∧
      u.bit EL_CTL_stream_en = false) ∧
    (let at_ : TT := 0; let v : W32 := 0xFFFFF000; let s : State := wSt .follow; let u := s.atTime at_;
      u.reachable EL_TAIL ∧ (u.rd EL_HEAD - v).toNat ≤ 4096) ∧
    (let at_ : TT := 0; let v : W32 := 0xFFFFEFFF; let s : State := wSt .follow; let u := s.atTime at_;
      u.reachable EL_TAIL ∧ 4096 < (u.rd EL_HEAD - v).toNat) ∧
    (let at_ : TT := 0; let slot : Fin 4096 := 4095; let s : State := wSt .follow; let u := s.atTime at_;
      u.reaches (RING_W slot 0)) ∧
    (let at_ : TT := 0; let m : MonitorIx := 13; let value : BitVec 16 := 0; let cause : TT := 0;
      let s : State := wSt .keep; let u := s.atTime at_; u.violRuns m = true ∧
      u.log.episodes.lookup m.val = none ∧
      (u.dev.timed = true → violMet m value.toNat (u.now - cause.toNat) = true) ∧
      (m.val = 12 → u.qualified 2 = true → u.activeSrc ≠ 2)) ∧
    (let at_ : TT := 1020; let m : MonitorIx := 15; let from_ : Nat := 0;
      let s : State := wAt 1020 { wSt .follow with log := { (wSt .follow).log with episodes := [(15, 0)] } };
      let u := s.atTime at_; u.log.episodes.lookup m.val = some from_ ∧
      (u.dev.timed = true → violOver m (u.elapsed - from_) = true)) := by
  refine ⟨?_, ?_, ?_, ?_, ?_, ?_⟩ <;> decide

theorem witness_ObserverFrames :
    (let at_ : TT := 0; let n : Nat := 4; let len : Nat := 3; let s : State := wSt .follow;
      let u := s.atTime at_; n + len ≤ 7 ∧ (∀ i ≤ len, u.reaches (KEEP_USER (n + i))) ∧ u.pwr.softErrs = []) ∧
    (let at_ : TT := 0; let n : Nat := 4; let len : Nat := 3; let s : State := wSt .follow;
      let u := s.atTime at_; n + len ≤ 7 ∧ (∀ i ≤ len, u.reaches (KEEP_USER (n + i))) ∧ u.pwr.softErrs = []) ∧
    (let at_ : TT := 0; let n : Fin 7 := 6; let s : State := wSt .follow; let u := s.atTime at_;
      u.reachable (KEEP_USER n) ∧ u.reachable (KEEP_USER (n + 1)) ∧ u.bitOf BAT_USER_LOCK n = false ∧
      u.bitOf BAT_USER_LOCK (n + 1) = false) ∧
    (let at_ : TT := 0; let n : Fin 7 := 6; let s : State := wSt .follow; let u := s.atTime at_;
      u.reachable (KEEP_USER n) ∧ u.reachable (KEEP_USER (n + 1)) ∧ u.bitOf BAT_USER_LOCK n = false ∧
      u.bitOf BAT_USER_LOCK (n + 1) = false) ∧
    (let at_ : TT := 0; let n : Fin 7 := 6; let s : State := wSt .follow; let u := s.atTime at_;
      u.reachable (KEEP_USER n) ∧ u.reachable (KEEP_USER (n + 1)) ∧ u.bitOf BAT_USER_LOCK n = false ∧
      u.bitOf BAT_USER_LOCK (n + 1) = false) ∧
    (let at_ : TT := 0; let op : Byte := 192; let len : Byte := 0; let addr : W32 := 0;
      let data : List Byte := []; let full : List Nat := []; let c : Instr := .obsRead 0 192 0 0 [];
      let s : State := wSt .reset; let u := s.atTime at_; u.dev.powered = true ∧
      (192 ≤ op.toNat ∨ op.toNat % 8 ≠ 0) ∧
      (c = .obsRead at_ op len addr full ∨ c = .obsWrite at_ op len addr data full ∨ c = .obsStat at_ op len addr)) ∧
    (let at_ : TT := 0; let s : State := wSt .reset; let u := s.atTime at_; u.dev.powered = true) ∧
    (let at_ : TT := 0; let s : State := { wSt .reset with obs := { (wSt .reset).obs with i2c := true } };
      let u := s.atTime at_; u.dev.powered = true ∧ u.obs.i2c = true) := by
  refine ⟨?_, ?_, ?_, ?_, ?_, ?_, ?_, ?_⟩ <;> decide

theorem witness_TestPortInstructions :
    (let at_ : TT := 0; let s : State := wSt .inert; let u := s.atTime at_; u.dev.powered = true) ∧
    (let at_ : TT := 0; let s : State := wSt .inert; let u := s.atTime at_; u.dev.powered = true) ∧
    (let at_ : TT := 0; let s : State := wSt .inert; let u := s.atTime at_; u.dev.powered = true) ∧
    (let at_ : TT := 0; let s : State := wSt .inert; let u := s.atTime at_; u.dev.powered = true) ∧
    (let at_ : TT := 0; let s : State := wSt .inert; let u := s.atTime at_; u.dev.powered = true) ∧
    (let at_ : TT := 0; let s : State := wSt .inert; let u := s.atTime at_; u.dev.powered = true) ∧
    (let at_ : TT := 0; let s : State := wSt .inert; let u := s.atTime at_; u.dev.powered = true) ∧
    (let at_ : TT := 0; let n : Fin 8 := 7; let s : State := wSt .follow; let u := s.atTime at_;
      u.reachable (KEEP_USER n) ∧ u.privateOff = false ∧ u.pwr.softErrs = []) ∧
    (let at_ : TT := 0; let n : Fin 8 := 7; let s : State := wSt .follow; let u := s.atTime at_;
      u.reachable (KEEP_USER n) ∧ u.privateOff = false ∧ u.bitOf BAT_USER_LOCK n = false) ∧
    (let at_ : TT := 0; let n : Fin 8 := 7; let v : W32 := 9;
      let s : State := (wSt .follow).pb CFG_STAT_sealed true; let u := s.atTime at_;
      let dr (op : Nat) : BitVec 72 := BitVec.ofNat 72 (op * 2 ^ 70 + 2 * 2 ^ 68 + KEEP_USER n * 2 ^ 32 + v.toNat);
      let c : Instr := .rbScan 0; u.reachable (KEEP_USER n) ∧ u.privateOff = true ∧
      (c = .obsAccess at_ (dr 1) false ∨ c = .rbScan at_)) ∧
    (let at_ : TT := 0; let s : State := (wSt .inspect).pb CFG_CHAN_CTL_en true; let u := s.atTime at_;
      u.privateOff = false ∧ u.dev = .inspect ∧ u.bit CFG_CHAN_CTL_en = true) := by
  refine ⟨?_, ?_, ?_, ?_, ?_, ?_, ?_, ?_, ?_, ?_, ?_⟩ <;> decide
end

section
/-! The state after reset, writes of registers whose fields are all fixed, and reads of the low half of a pair. -/

open Sys2Proof Sys2Proof.Machine

namespace Sys2Proof.Machine

/-! ### The state after reset -/

/-- The running states exclude RESET, so that the state of R137 is not asked for there. -/
theorem reset_followsTimebase : State.reset.followsTimebase := by
  intro hrun
  have hdev : State.reset.dev.running = false := rfl
  rw [hdev] at hrun
  cases hrun

/-- No test instruction has taken the pads after reset (R482). -/
theorem reset_tapInOrder : State.reset.tapInOrder := by
  intro htaken
  have hpads : State.reset.tap.padsTaken = false := rfl
  rw [hpads] at htaken
  cases htaken

/-- After reset no word is stored: every register reads its reset value, and every byte of frame memory 0. -/
theorem reset_canonical : State.reset.canonical := ⟨rfl, rfl⟩

/-! ### Registers with rules of their own before a write -/

/-- A block whose registers `State.gate` may refuse before it asks their access codes. -/
def Block.gated : Block → Bool
  | .bat | .cfg | .fc | .qc => true
  | _ => false

/-- Whether the register at an offset of a block, if there is one, has a field that a write may change. -/
def Block.writableAt (b : Block) (off : Nat) : Bool :=
  (b.rows.find? (·.has off)).all (fun r => !r.fields.all (fun f => f.acc.fixed))

/-- A register of a gated block is no mirror and has the fields of its row. -/
theorem regFields_gated {a i off : Nat} {b : Block} {r : RegRow} (hl : locate a = some (b, i, off))
    (hb : b.gated = true) (hr : rowOf a = some r) : regFields a = r.fields := by
  have hne {c : Nat} (hc : (locate c).all (fun x => !x.1.gated) = true) : a ≠ c := by
    rintro rfl
    simp [hl, hb] at hc
  have hka : a ≠ SYS_KA 3 := hne (by decide)
  have hax : ¬ (a = AX_CTL 1 ∨ a = AX_CTL 2 ∨ a = AX_CTL 3) := by
    rintro (h | h | h)
    · exact hne (by decide) h
    · exact hne (by decide) h
    · exact hne (by decide) h
  have hhome : homeOf a = a := by
    unfold homeOf
    rw [hl]
    cases b <;> simp_all [Block.gated]
  simp only [regFields, if_neg hka, if_neg hax, hhome, ne_eq, not_true_eq_false, if_false, hr]

/-- A register of a gated block all of whose fields are RO or RC is not one of those with a writable field. -/
theorem writableAt_of_fixed {a i off : Nat} {b : Block} (hl : locate a = some (b, i, off)) (hb : b.gated = true)
    (hrow : rowOf a ≠ none) (hfix : (regFields a).all (fun f => f.acc.fixed) = true) : b.writableAt off = false := by
  obtain ⟨r, hr⟩ := Option.ne_none_iff_exists'.mp hrow
  have hfind : b.rows.find? (·.has off) = some r := by simpa only [rowOf, hl] using hr
  rw [regFields_gated hl hb hr] at hfix
  simp only [Block.writableAt, hfind, Option.all_some, hfix, Bool.not_true]

/-- KEEP_MEMBER, KEEP_OSC_AGEING and the KEEP_USER words are writable (R153, R157). -/
theorem bat_writableAt {off : Nat} (h : off = 0x080 ∨ off = 0x084 ∨ 0x0E0 ≤ off ∧ off < 0x100) :
    Block.writableAt .bat off = true := by
  have huser : ∀ i < 32, Block.writableAt .bat (0x0E0 + i) = true := by decide
  obtain rfl | rfl | ⟨hlo, hhi⟩ := h
  · decide
  · decide
  · have hoff := huser (off - 0x0E0) (by omega)
    rwa [Nat.add_sub_cancel' hlo] at hoff

/-- What a block refuses of itself it refuses of registers with a writable field: a register all of whose fields are RO
or RC goes on to its access codes. -/
theorem State.gate_fixed (s : State) {a : Nat} (old new v mask act : W32) (hrow : rowOf a ≠ none)
    (hfix : (regFields a).all (fun f => f.acc.fixed) = true) :
    (s.gate .observer a old new v mask act).1 = .ok := by
  have hw {b : Block} {i off : Nat} (hl : locate a = some (b, i, off)) (hb : b.gated = true) :
      b.writableAt off = false := writableAt_of_fixed hl hb hrow hfix
  unfold State.gate
  rw [if_neg (by decide)]
  split
  case h_1 i off hl =>
    have hoff : ¬ (off = 0x080 ∨ off = 0x084 ∨ 0x0E0 ≤ off ∧ off < 0x100) := fun h =>
      absurd ((hw hl rfl).symm.trans (bat_writableAt h)) (by decide)
    rw [if_neg (by omega), if_neg (by omega)]
  case h_2 i off hl =>
    have hoff : off ≠ 0x0F0 := by
      rintro rfl
      exact absurd (hw hl rfl) (by decide)
    rw [if_neg hoff]
  case h_3 i hl => exact absurd (hw hl rfl) (by decide)
  case h_4 i hl => exact absurd (hw hl rfl) (by decide)
  case h_5 => rfl

/-- An address that a block answers for names a register (R472). -/
theorem State.rowOf_ne_none (s : State) {a : Nat} (h : s.addrStatus a = stOk) : rowOf a ≠ none := by
  intro hn
  have hres : s.addrStatus a = stReserved := by simp only [State.addrStatus, hn]
  rw [hres] at h
  exact absurd h (by decide)

/-- A write from the port of a register all of whose fields are RO or RC is answered ACCESS and leaves the state
(R15, R16). -/
theorem State.writeReg_fixed (s : State) {a : Nat} (v : W32) (hrow : rowOf a ≠ none)
    (hfix : (regFields a).all (fun f => f.acc.fixed) = true) :
    s.writeReg .observer a v 0xFFFFFFFF = (.access, s) := by
  apply State.writeReg_access s a v _ rfl (State.gate_fixed s _ _ _ _ _ hrow hfix)
  rw [accessRefuses, if_pos hfix]

/-! ### What a command keeps that changes nothing but the port's own record -/

/-- Time to a command's instant passes without a change of frame memory. -/
@[simp] theorem State.atTime_fm (s : State) (t : TT) : (s.atTime t).fm = s.fm := by
  obtain ⟨c, x, h⟩ := s.atTime_eq t
  rw [h]

/-- A command whose effect is on the port's own record alone keeps every register. -/
theorem keepsRegs_ended_obs (s : State) (at_ : TT) (o : ObsSt) :
    keepsRegs s (State.ended { s.atTime at_ with obs := o } s) [] := by
  intro a ha _
  rw [State.ended_rd _ _ ha]
  exact State.atTime_rd s at_ a

/-- A command whose effect is on the port's own record alone keeps frame memory. -/
theorem keepsMemory_ended_obs (s : State) (at_ : TT) (o : ObsSt) :
    keepsMemory s (State.ended { s.atTime at_ with obs := o } s) := by
  intro a
  simp only [State.fmByte, State.ended_fm, State.atTime_fm]

/-! ### A read of a KEEP word with an uncorrectable error -/

/-- A check of a KEEP word in which an uncorrectable error stands sets BAT_STAT.keep_err (R152). -/
theorem State.checkKeep_keepErr (s : State) {n : Nat} (h : s.pwr.softErrs.lookup n = some true) :
    (s.checkKeep n).bit BAT_STAT_keep_err = true := by
  simp only [State.checkKeep, h, if_true, State.bit, State.pb]
  rw [State.g_p_same _ _ _ (by decide) (by decide)]
  decide

/-- A read of KEEP_AO_SEC_LO, the low half of a pair among the KEEP words, snapshots its partner and checks the word as
a read of any KEEP word does. -/
theorem State.readEffect_aoSecLo (s : State) :
    s.readEffect KEEP_AO_SEC_LO = State.checkKeep { s with obs := { s.obs with
      snapHi := s.obs.snapHi.set KEEP_AO_SEC_LO (s.fresh (KEEP_AO_SEC_LO + 4)) } } 4 := by
  have hlo : isLo KEEP_AO_SEC_LO = true := by decide
  have hloc : locate KEEP_AO_SEC_LO = some (.bat, 0, 0x090) := by decide
  have hkeep : keepIndex KEEP_AO_SEC_LO = some 4 := by decide
  have hfields : regFields KEEP_AO_SEC_LO = [⟨31, 0, .ro, []⟩] := by decide
  simp only [State.readEffect, hlo, hloc, hkeep, hfields, if_true, List.foldl_cons, List.foldl_nil]
  rfl

/-- The state after reset with an uncorrectable error in KEEP_AO_SEC_LO, which is KEEP word 4. -/
def aoSecDamaged : State :=
  { State.reset with pwr := { State.reset.pwr with softErrs := [(4, true)] } }

end Sys2Proof.Machine

/-! ### The obligations -/

/-- Settles O4: in RESET the device does not run, the pads are not taken, and nothing is stored. -/
theorem resetIsInOrder : Obligations.ResetIsInOrder :=
  ⟨reset_followsTimebase, reset_tapInOrder, reset_canonical⟩

/-- Settles O6: no block refuses such a register before its access codes do, and the refusal leaves the state. -/
theorem fixedRegistersRefuseWrites : Obligations.FixedRegistersRefuseWrites := by
  intro at_ a v s hreach hfix
  have ⟨_, _, _, hstat, _, _, hrmt⟩ := hreach
  obtain ⟨o, hexec, hanswer⟩ := State.timedWrite at_ s a.toNat v hreach .access (s.atTime at_)
    (State.writeReg_fixed _ v (State.rowOf_ne_none _ hstat) hfix) hrmt
  refine ⟨_, hexec, ?_, keepsRegs_ended_obs s at_ o, keepsMemory_ended_obs s at_ o⟩
  rw [State.ended_obs]
  exact hanswer

/-- Refutes O7: its third clause says that a read of a _LO register changes no register, but KEEP_AO_SEC_LO is a KEEP
word too, and with an uncorrectable error in it (`aoSecDamaged`) its read sets BAT_STAT.keep_err (R152). -/
theorem not_readsClearAndSnapshot : ¬ Obligations.ReadsClearAndSnapshot := by
  rintro ⟨-, -, hpair, -⟩
  have hreach : (aoSecDamaged.atTime 0).reaches KEEP_AO_SEC_LO := by decide
  obtain ⟨t, hexec, -, -, hregs, -⟩ :=
    hpair 0 (BitVec.ofNat 32 KEEP_AO_SEC_LO) aoSecDamaged hreach (by decide)
  have hread := State.timedRead 0 aoSecDamaged KEEP_AO_SEC_LO hreach (by decide)
  have ht := Host.Outcome.next.inj (hexec.symm.trans hread)
  have hkept : t.bit BAT_STAT_keep_err = aoSecDamaged.bit BAT_STAT_keep_err := by
    simp only [State.bit, State.g, hregs BAT_STAT (by decide) List.not_mem_nil]
  have hset : t.bit BAT_STAT_keep_err = true := by
    rw [ht, State.bit, State.ended_g _ _ (by decide), State.readEffect_aoSecLo]
    exact State.checkKeep_keepErr _ rfl
  have hclear : aoSecDamaged.bit BAT_STAT_keep_err = false := by decide
  rw [hset, hclear] at hkept
  cases hkept
end

section
/-! What the shared ending keeps of every command's result, and what a wake, the end of a cue and the effect of a cue
change. -/

open Sys2Proof Sys2Proof.Machine

namespace Sys2Proof.Machine

/-! ### The ending, of registers and frame memory -/

/-- A command keeps the registers that its own effect keeps: the ending leaves all but those of `endsOn`. -/
theorem keepsRegs_ended {s u : State} {l : List Nat} (h : ∀ a, endsOn a = false → a ∉ l → u.rd a = s.rd a) :
    keepsRegs s (u.ended s) l := fun a ha hl => (State.ended_rd u s ha).trans (h a ha hl)

/-- A command keeps frame memory where its own effect does. -/
theorem keepsMemory_ended {s u : State} (h : u.fm = s.fm) : keepsMemory s (u.ended s) := by
  intro a
  simp only [State.fmByte, State.ended_fm, h]

/-! ### The ending, of resources -/

theorem State.markKeep_pwr (s old : State) : (s.markKeep old).pwr = s.pwr := by
  obtain ⟨c, h⟩ := s.markKeep_eq old
  rw [h]

theorem State.follow_res (s : State) (r : Nat) : s.follow.res r = s.res r := by
  unfold State.follow
  split
  · obtain ⟨c, l, h⟩ := s.changeState_eq s.runState
    rw [h]
    rfl
  · rfl

theorem State.pinScan_pwr (s : State) : s.pinScan.pwr = s.pwr := by
  obtain ⟨c, l, k, h⟩ := s.pinScan_eq
  rw [h]

theorem State.tapReturn_pwr (s : State) : s.tapReturn.pwr = s.pwr := by
  obtain ⟨x, h⟩ := s.tapReturn_eq
  rw [h]

/-- Idle times are all that the tracking of idle resources changes of a resource. -/
theorem State.trackIdle_res {β : Type} (F : ResSt → β) (hF : ∀ x o, F { x with idleFrom := o } = F x) (s : State)
    (r : Nat) : F (s.trackIdle.res r) = F (s.res r) := by
  have hset (s : State) (i : Nat) (o : Option Nat) : F ((s.setRes i { s.res i with idleFrom := o }).res r) = F (s.res r) := by
    by_cases h : r = i
    · rw [h, State.setRes_res, hF]
    · rw [State.setRes_res_ne s h]
  unfold State.trackIdle
  split
  · refine State.each_keeps (fun s => F (s.res r)) _ _ (fun s i _ => ?_) s
    simp only [State.trackOne]
    split <;> split
    · rfl
    · exact hset s i _
    · exact hset s i _
    · rfl
  · rfl

/-- The ending of a command changes of a resource its idle time alone. -/
theorem State.ended_res {β : Type} (F : ResSt → β) (hF : ∀ x o, F { x with idleFrom := o } = F x) (s old : State)
    (r : Nat) : F ((s.ended old).res r) = F (s.res r) := by
  have hres : (s.ended old).res r = (s.markKeep old).follow.trackIdle.res r := by
    simp only [State.ended, State.settle, State.res, State.tapReturn_pwr, State.pinScan_pwr]
  rw [hres, State.trackIdle_res F hF, State.follow_res]
  simp only [State.res, State.markKeep_pwr]

@[simp] theorem State.ended_power (s old : State) (r : Nat) : ((s.ended old).res r).power = (s.res r).power :=
  State.ended_res ResSt.power (fun _ _ => rfl) s old r

@[simp] theorem State.ended_holdUntil (s old : State) (r : Nat) : ((s.ended old).res r).holdUntil = (s.res r).holdUntil :=
  State.ended_res ResSt.holdUntil (fun _ _ => rfl) s old r

@[simp] theorem State.ended_holdUs (s old : State) (r : Nat) : ((s.ended old).res r).holdUs = (s.res r).holdUs :=
  State.ended_res ResSt.holdUs (fun _ _ => rfl) s old r

@[simp] theorem State.ended_isAwake (s old : State) (r : Nat) : (s.ended old).isAwake r = s.isAwake r := by
  simp only [State.isAwake, State.ended_power]

/-! ### Waking -/

/-- What a wake may do, of one resource or of several (R24, R138, R144): of registers it counts short naps alone; it makes
no resource ready, and puts none to sleep. -/
structure State.WakesTo (s t : State) : Prop where
  frame : ∃ c r n, t = { s with cells := c, pwr := { s.pwr with res := r, naps := n } }
  rd : ∀ a, a ≠ SYS_NAP_CNT → t.rd a = s.rd a
  ready : ∀ r, t.isReady r = s.isReady r
  awake : ∀ r, s.isAwake r = true → t.isAwake r = true

theorem State.WakesTo.refl (s : State) : s.WakesTo s :=
  ⟨⟨_, _, _, rfl⟩, fun _ _ => rfl, fun _ => rfl, fun _ h => h⟩

theorem State.WakesTo.trans {s t u : State} (h : s.WakesTo t) (h' : t.WakesTo u) : s.WakesTo u := by
  refine ⟨?_, fun a ha => (h'.rd a ha).trans (h.rd a ha), fun r => (h'.ready r).trans (h.ready r),
    fun r hr => h'.awake r (h.awake r hr)⟩
  obtain ⟨c, r, n, rfl⟩ := h.frame
  obtain ⟨c', r', n', rfl⟩ := h'.frame
  exact ⟨c', r', n', rfl⟩

theorem State.WakesTo.dev {s t : State} (h : s.WakesTo t) : t.dev = s.dev := by
  obtain ⟨c, r, n, rfl⟩ := h.frame
  rfl

theorem State.WakesTo.cue {s t : State} (h : s.WakesTo t) : t.cue = s.cue := by
  obtain ⟨c, r, n, rfl⟩ := h.frame
  rfl

theorem State.WakesTo.fm {s t : State} (h : s.WakesTo t) : t.fm = s.fm := by
  obtain ⟨c, r, n, rfl⟩ := h.frame
  rfl

theorem State.WakesTo.clock {s t : State} (h : s.WakesTo t) : t.clock = s.clock := by
  obtain ⟨c, r, n, rfl⟩ := h.frame
  rfl

/-- A resource that is not ready begins to wind up. -/
theorem State.setRes_winding_wakesTo (s : State) {r : Nat} {x : ResSt} {from_ : Nat} {resumed : Bool}
    (hs : s.isReady r = false) (hx : x.power = .winding from_ resumed) : s.WakesTo (s.setRes r x) := by
  refine ⟨⟨_, _, _, rfl⟩, fun _ _ => rfl, fun i => ?_, fun i hi => ?_⟩
  · by_cases h : i = r
    · rw [h, hs, State.isReady, State.setRes_res, hx]
      rfl
    · simp only [State.isReady, State.setRes_res_ne s h]
  · by_cases h : i = r
    · rw [h, State.isAwake, State.setRes_res, hx]
      rfl
    · rwa [State.isAwake, State.setRes_res_ne s h]

/-- A short nap of a resource of a class is counted, and noted for the class's sleep-delay loop (R144). -/
def State.countNap (s : State) (k : Nat) : State :=
  { s.inc (cnt16 SYS_NAP_CNT) with
    pwr := { (s.inc (cnt16 SYS_NAP_CNT)).pwr with naps := (k, s.elapsed) :: (s.inc (cnt16 SYS_NAP_CNT)).pwr.naps } }

theorem State.countNap_wakesTo (s : State) (nap : Bool) (k : Nat) : s.WakesTo (s.when nap (fun s => s.countNap k)) := by
  cases nap
  · exact .refl s
  · exact ⟨⟨_, _, _, rfl⟩, fun a ha => State.rd_inc_ne s (Ne.symm ha), fun _ => rfl, fun _ h => h⟩

/-- A wake leaves a resource that winds up or is ready; one that sleeps, or goes to sleep, begins to wind up, and the
nap is counted where it was a short one (R138, R144). -/
theorem State.wakeOne_cases (s : State) (r : Nat) : ((s.res r).power ≠ .asleep ∧ s.wakeOne r = s) ∨
    ∃ x from_ resumed nap, s.isReady r = false ∧ x.power = .winding from_ resumed ∧
      s.wakeOne r = (s.setRes r x).when nap (fun s => s.countNap (classOf r)) := by
  cases hp : (s.res r).power with
  | asleep => exact .inr ⟨_, _, _, _, by rw [State.isReady, hp]; rfl, rfl, by simp only [State.wakeOne, hp]; rfl⟩
  | switching from_ =>
    exact .inr ⟨_, _, _, _, by rw [State.isReady, hp]; rfl, rfl, by simp only [State.wakeOne, hp]; rfl⟩
  | winding from_ resumed => exact .inl ⟨by simp, by simp only [State.wakeOne, hp]⟩
  | ready => exact .inl ⟨by simp, by simp only [State.wakeOne, hp]⟩

theorem State.wakeOne_wakesTo (s : State) (r : Nat) : s.WakesTo (s.wakeOne r) := by
  obtain ⟨-, h⟩ | ⟨x, from_, resumed, nap, hr, hx, h⟩ := s.wakeOne_cases r
  · rw [h]
    exact .refl s
  · rw [h]
    exact (s.setRes_winding_wakesTo hr hx).trans (State.countNap_wakesTo _ nap _)

/-- A resource that is woken is awake. -/
theorem State.wakeOne_isAwake (s : State) (r : Nat) : (s.wakeOne r).isAwake r = true := by
  obtain ⟨hp, h⟩ | ⟨x, from_, resumed, nap, -, hx, h⟩ := s.wakeOne_cases r
  · rw [h]
    exact bne_iff_ne.mpr hp
  · have hset : (s.setRes r x).isAwake r = true := by
      rw [State.isAwake, State.setRes_res, hx]
      rfl
    rw [h]
    exact (State.countNap_wakesTo _ nap _).awake r hset

theorem State.each_wakesTo (f : State → Nat → State) (h : ∀ s r, State.WakesTo s (f s r)) (s : State) (l : List Nat) :
    s.WakesTo (s.each l f) := State.each_rel State.WakesTo f l .refl (fun _ _ _ => .trans) h s

theorem State.wake_wakesTo (s : State) (r : Nat) : s.WakesTo (s.wake r) := by
  unfold State.wake
  split
  · exact State.each_wakesTo _ State.wakeOne_wakesTo s _
  · exact .refl s

/-- A target that is woken is awake, in the states in which resources run (R24). -/
theorem State.wake_isAwake (s : State) (r : Nat) (h : s.dev.active = true) : (s.wake r).isAwake r = true := by
  rw [State.wake, if_pos h]
  exact (State.each_wakesTo _ State.wakeOne_wakesTo (s.wakeOne r) (s.dependencies r)).awake r (s.wakeOne_isAwake r)

theorem State.eachWake_isAwake (l : List Nat) (s : State) (h : s.dev.active = true) :
    ∀ r ∈ l, (s.each l (fun s r => s.wake r)).isAwake r = true := by
  induction l generalizing s with
  | nil => exact fun r hr => absurd hr List.not_mem_nil
  | cons x t ih =>
    have hx := s.wake_wakesTo x
    intro r hr
    obtain rfl | hr := List.mem_cons.mp hr
    · exact (State.each_wakesTo _ State.wake_wakesTo (s.wake r) t).awake r (s.wake_isAwake r h)
    · exact ih (s.wake x) (by rw [hx.dev]; exact h) r hr

/-! ### Entries of the queue -/

theorem State.entry_id {s : State} {id : CueId} {e : Entry} (h : s.entry id = some e) : e.id = id := by
  simpa using List.find?_some h

/-- A change of an entry that leaves its name gives the entry changed. -/
theorem State.updEntry_entry {s : State} {id : CueId} {e : Entry} (f : Entry → Entry) (hf : ∀ x, (f x).id = x.id)
    (h : s.entry id = some e) : (s.updEntry id f).entry id = some (f e) := by
  have hp : (fun x : Entry => x.id == id) ∘ (fun x => if x.id == id then f x else x) = fun x => x.id == id := by
    funext x
    by_cases hx : x.id = id
    · simp [hx, hf]
    · simp [hx]
  have he := State.entry_id h
  simp only [State.entry] at h
  simp only [State.entry, State.updEntry, State.setEntries, List.find?_map, hp, h, Option.map_some, he, beq_self_eq_true,
    if_true]

/-- What an entry claims is claimed (R103). -/
theorem State.isClaimed_of_entry {s : State} {id : CueId} {e : Entry} (h : s.entry id = some e) {r : Nat}
    (hr : r ∈ e.claims) : s.isClaimed r = true :=
  List.any_eq_true.mpr ⟨e, List.mem_of_find?_eq_some h, List.contains_iff_mem.mpr hr⟩

/-- A cue that leaves the queue is not found there any more (R97). -/
theorem State.removeEntry_entry (s : State) (e : Entry) : (s.removeEntry e).entry e.id = none := by
  have hask (s : State) : (s.askNext e).cue.entries = s.cue.entries := by
    unfold State.askNext
    split <;> rfl
  rw [State.entry, State.removeEntry, hask]
  simp only [State.setEntries, List.find?_eq_none, List.mem_filter]
  rintro x ⟨-, hx⟩ hid
  simp [hid] at hx

/-- Removing a cue changes the queue alone. -/
theorem State.removeEntry_eq (s : State) (e : Entry) : ∃ q, s.removeEntry e = { s with cue := q } := by
  unfold State.removeEntry State.askNext
  split <;> exact ⟨_, rfl⟩

/-- A cue that has taken effect changes the queue, and of registers those of the event log alone (R97, R514). -/
theorem State.finishCue_eq (s : State) (e : Entry) : ∃ c l q,
    s.finishCue e = { s with cells := c, log := { s.log with stage := l }, cue := q } ∧
      ∀ a, ¬ inLog a → cellGet c a = s.rd a := by
  obtain ⟨c, l, hn, hrd⟩ : ∃ c l, s.when (recNotify e.rec_) (fun s => s.eventNow 0x14 (recSvc e.rec_) e.rec_.seq) =
      { s with cells := c, log := { s.log with stage := l } } ∧ ∀ a, ¬ inLog a → cellGet c a = s.rd a := by
    cases recNotify e.rec_
    · exact ⟨_, _, rfl, fun _ _ => rfl⟩
    · obtain ⟨c, l, h⟩ := State.event_eq s 0x14 (recSvc e.rec_) e.rec_.seq s.now
      refine ⟨c, l, h, fun a ha => ?_⟩
      have hev := State.event_rd s 0x14 (recSvc e.rec_) e.rec_.seq s.now ha (by decide)
      rwa [h] at hev
  obtain ⟨q, hq⟩ : ∃ q, s.finishCue e = { s with cells := c, log := { s.log with stage := l }, cue := q } := by
    simp only [State.finishCue, hn]
    obtain ⟨q, hq⟩ := State.removeEntry_eq { s with cells := c, log := { s.log with stage := l } } e
    rw [hq]
    exact ⟨_, rfl⟩
  exact ⟨c, l, q, hq, hrd⟩

theorem State.finishCue_rd (s : State) (e : Entry) {a : Nat} (h : endsOn a = false) : (s.finishCue e).rd a = s.rd a := by
  obtain ⟨-, -, -, -, -, -, hlog⟩ := endsOn_out h
  obtain ⟨c, l, q, hf, hrd⟩ := s.finishCue_eq e
  rw [hf]
  exact hrd a hlog

@[simp] theorem State.finishCue_fm (s : State) (e : Entry) : (s.finishCue e).fm = s.fm := by
  obtain ⟨c, l, q, hf, -⟩ := s.finishCue_eq e
  rw [hf]

@[simp] theorem State.finishCue_res (s : State) (e : Entry) (r : Nat) : (s.finishCue e).res r = s.res r := by
  obtain ⟨c, l, q, hf, -⟩ := s.finishCue_eq e
  rw [hf]
  rfl

/-- A cue that has taken effect has left the queue. -/
theorem State.finishCue_entry (s : State) (e : Entry) : (s.finishCue e).entry e.id = none := by
  have hgone := State.removeEntry_entry (s.when (recNotify e.rec_) (fun s => s.eventNow 0x14 (recSvc e.rec_) e.rec_.seq)) e
  simp only [State.entry, List.find?_eq_none] at hgone
  simp only [State.finishCue, State.entry, State.setEntries, List.find?_eq_none, List.mem_map]
  rintro x ⟨y, hy, rfl⟩
  have hny := hgone y hy
  split <;> exact hny

/-! ### The effect of a cue -/

/-- A cue that may take effect, and that its target answers OK, has its action's effect and leaves the queue
(R92, R94). -/
theorem State.cueEffect_ok {s : State} {id : CueId} {e : Entry} {code : Nat} (he : s.entry id = some e) (hsub : id.sub = 0)
    (hcode : recAct e.rec_ = code) (hscene : code ≠ 4) (hmay : s.mayEffect e = true) (hok : (s.act e).1 = .ok) :
    s.cueEffect code id = (s.act e).2.finishCue e := by
  have hid : e.id.sub = 0 := by rw [State.entry_id he, hsub]
  simp only [State.cueEffect, he]
  rw [if_pos (by simp [hcode, hscene, hmay]), State.takeEffect]
  generalize s.act e = x at hok
  obtain ⟨why, t⟩ := x
  obtain rfl : why = .ok := hok
  simp only [State.cueDone, hid, if_true]

/-- The command of a cue that takes effect and that its target answers OK. -/
theorem timed_cueEffect {at_ : TT} {s : State} {id : CueId} {e : Entry} {code : Nat}
    (he : (s.atTime at_).entry id = some e) (hsub : id.sub = 0) (hcode : recAct e.rec_ = code) (hscene : code ≠ 4)
    (hmay : (s.atTime at_).mayEffect e = true) (hok : ((s.atTime at_).act e).1 = .ok) :
    timed at_ (fun s => s.cueEffect code id) s = .next ((((s.atTime at_).act e).2.finishCue e).ended s) := by
  simp only [timed, State.cueEffect_ok he hsub hcode hscene hmay hok]

/-- A cue is not in the queue any more once the command of its effect has ended. -/
theorem State.ended_finishCue_entry (s u : State) {id : CueId} {e : Entry} (h : e.id = id) :
    ((u.finishCue e).ended s).entry id = none := by
  rw [State.entry, State.ended_cue, ← h]
  exact State.finishCue_entry u e

/-- The end of a cue and of its command leave the registers outside `endsOn`. -/
theorem State.ended_finishCue_rd (s u : State) (e : Entry) {a : Nat} (h : endsOn a = false) :
    ((u.finishCue e).ended s).rd a = u.rd a := (State.ended_rd _ s h).trans (State.finishCue_rd u e h)

theorem State.mayEffect_active {s : State} {e : Entry} (h : s.mayEffect e = true) : s.dev.active = true := by
  simp only [State.mayEffect, Bool.and_eq_true] at h
  exact h.1.1.1.1

end Sys2Proof.Machine
end

section
/-! The wakes of the cue engine: pre-rolls, WAKE cues, and the end of a hold. -/

open Sys2Proof Sys2Proof.Machine

namespace Sys2Proof.Machine

/-- The pre-roll of a queued cue that has begun wakes and claims the cue's targets (R102). -/
theorem State.prerollDue_of_due {s : State} {id : CueId} {e : Entry} (he : s.entry id = some e)
    (hpre : recPreroll e.rec_ = true) (hst : e.stage = .queued) (hact : s.dev.active = true)
    (hdue : e.rec_.launch.toNat ≤ s.now + e.rec_.preroll.toNat * usNs) : s.prerollDue id = s.wakeCue e := by
  simp only [State.prerollDue, he]
  rw [if_pos (by simp [hpre, hst, hact, hdue])]

/-- What the cue engine's wake of a list of resources may do. -/
theorem State.eachWake_wakesTo (s : State) (l : List Nat) : s.WakesTo (s.each l (fun s r => s.wake r)) :=
  State.each_wakesTo _ State.wake_wakesTo s l

/-- A cue that has been woken for claims what was woken (R103). -/
theorem State.wakeCue_entry {s : State} {id : CueId} {e : Entry} (he : s.entry id = some e) :
    (s.wakeCue e).entry id = some { e with claims := s.wakeList e.rec_ } := by
  have hw := s.eachWake_wakesTo (s.wakeList e.rec_)
  obtain rfl := State.entry_id he
  exact State.updEntry_entry _ (fun _ => rfl) (by rw [State.entry, hw.cue]; exact he)

/-- A WAKE cue that its target answers OK wakes and holds it (R91). -/
theorem State.act_wake {s : State} {e : Entry} (hcode : recAct e.rec_ = 0xD) (hok : (s.act e).1 = .ok) :
    (s.act e).2 = s.wakeHold (recTarget e.rec_) (e.rec_.a.toNat % 65536) := by
  have hfits : targetFits 0xD (recTarget e.rec_) = true := rfl
  simp only [State.act, hcode, hfits] at hok ⊢
  by_cases howned : actOwned 0xD (recSvc e.rec_) (s.actOwners e.rec_) = .ok
  · simp [howned, actTargets]
  · simp [howned, actTargets] at hok

/-- The hold of a WAKE cue on a resource: from now on where it is ready, else from when it is (R91). -/
def State.holdFor (s : State) (r us : Nat) : State :=
  if s.isReady r then s.setRes r { s.res r with holdUntil := some (s.elapsed + us * usNs) }
  else s.setRes r { s.res r with holdUs := us }

theorem State.wakeHold_eq (s : State) {a r : Nat} (h : targetRes a = some r) (us : Nat) :
    s.wakeHold a us = (s.wake r).holdFor r us := by
  simp only [State.wakeHold, h]
  rfl

@[simp] theorem State.holdFor_rd (s : State) (r us a : Nat) : (s.holdFor r us).rd a = s.rd a := by
  unfold State.holdFor
  split <;> rfl

@[simp] theorem State.holdFor_fm (s : State) (r us : Nat) : (s.holdFor r us).fm = s.fm := by
  unfold State.holdFor
  split <;> rfl

/-- A hold leaves the resource's power as it is. -/
theorem State.holdFor_isAwake (s : State) (r us : Nat) : (s.holdFor r us).isAwake r = s.isAwake r := by
  unfold State.holdFor
  split <;> simp only [State.isAwake, State.setRes_res]

theorem State.holdFor_holdUntil {s : State} {r : Nat} (us : Nat) (h : s.isReady r = true) :
    ((s.holdFor r us).res r).holdUntil = some (s.elapsed + us * usNs) := by
  rw [State.holdFor, if_pos h, State.setRes_res]

theorem State.holdFor_holdUs {s : State} {r : Nat} (us : Nat) (h : s.isReady r = false) :
    ((s.holdFor r us).res r).holdUs = us := by
  rw [State.holdFor, if_neg (by simp [h]), State.setRes_res]

/-- A hold whose time has come is gone; nothing else of the device changes (R143). -/
theorem State.holdEnds_of_due {s : State} {r until_ : Nat} (h : (s.res r).holdUntil = some until_) (hdue : until_ ≤ s.elapsed) :
    s.holdEnds r = s.setRes r { s.res r with holdUntil := none } := by
  simp only [State.holdEnds, h, hdue, if_true]

/-! ### The three commands -/

/-- A pre-roll that has begun wakes and claims its cue's targets (R24, R102, R103). -/
theorem exec_prerollWake_of_due (at_ : TT) (id : CueId) (e : Entry) (s : State) (he : (s.atTime at_).entry id = some e)
    (hpre : recPreroll e.rec_ = true) (hst : e.stage = .queued) (hact : (s.atTime at_).dev.active = true)
    (hdue : e.rec_.launch.toNat ≤ (s.atTime at_).now + e.rec_.preroll.toNat * usNs) :
    ∃ t, exec (.prerollWake at_ id) s = .next t ∧
      t.entry id = some { e with claims := (s.atTime at_).wakeList e.rec_ } ∧
      (∀ r ∈ (s.atTime at_).wakeList e.rec_, t.isAwake r = true ∧ t.isClaimed r = true) ∧
      keepsRegs s t [SYS_NAP_CNT] ∧ keepsMemory s t := by
  have hexec : exec (.prerollWake at_ id) s = .next (((s.atTime at_).wakeCue e).ended s) := by
    rw [← State.prerollDue_of_due he hpre hst hact hdue]
    rfl
  have hentry : (((s.atTime at_).wakeCue e).ended s).entry id = some { e with claims := (s.atTime at_).wakeList e.rec_ } := by
    rw [State.entry, State.ended_cue]
    exact State.wakeCue_entry he
  have hw := (s.atTime at_).eachWake_wakesTo ((s.atTime at_).wakeList e.rec_)
  refine ⟨_, hexec, hentry, fun r hr => ⟨?_, State.isClaimed_of_entry hentry hr⟩,
    keepsRegs_ended (fun a _ ha => ?_), keepsMemory_ended ?_⟩
  · rw [State.ended_isAwake]
    exact State.eachWake_isAwake _ _ hact r hr
  · exact (hw.rd a (by simpa using ha)).trans (State.atTime_rd s at_ a)
  · exact hw.fm.trans (State.atTime_fm s at_)

/-- A WAKE cue that takes effect wakes its target and holds it awake (R91, R143). -/
theorem exec_wake_of_ok (at_ : TT) (id : CueId) (e : Entry) (r : Nat) (s : State) (he : (s.atTime at_).entry id = some e)
    (hsub : id.sub = 0) (hcode : recAct e.rec_ = 0xD) (hres : targetRes (recTarget e.rec_) = some r)
    (hok : ((s.atTime at_).act e).1 = .ok) (hmay : (s.atTime at_).mayEffect e = true) :
    ∃ t, exec (.wake at_ id) s = .next t ∧ t.entry id = none ∧ t.isAwake r = true ∧
      ((s.atTime at_).isReady r = true →
        (t.res r).holdUntil = some ((s.atTime at_).elapsed + e.rec_.a.toNat % 65536 * usNs)) ∧
      ((s.atTime at_).isReady r = false → (t.res r).holdUs = e.rec_.a.toNat % 65536) ∧
      keepsRegs s t [SYS_NAP_CNT] ∧ keepsMemory s t := by
  have hact := State.mayEffect_active hmay
  have hexec : exec (.wake at_ id) s = _ := timed_cueEffect he hsub hcode (by decide) hmay hok
  rw [State.act_wake hcode hok, State.wakeHold_eq _ hres] at hexec
  have hw := (s.atTime at_).wake_wakesTo r
  refine ⟨_, hexec, State.ended_finishCue_entry s _ (State.entry_id he), ?_, fun hr => ?_, fun hr => ?_,
    keepsRegs_ended (fun a hends ha => ?_), keepsMemory_ended ?_⟩
  · rw [State.ended_isAwake, State.isAwake, State.finishCue_res]
    exact (State.holdFor_isAwake _ _ _).trans (State.wake_isAwake _ r hact)
  · rw [State.ended_holdUntil, State.finishCue_res, State.holdFor_holdUntil _ ((hw.ready r).trans hr), State.elapsed, hw.clock]
    rfl
  · rw [State.ended_holdUs, State.finishCue_res, State.holdFor_holdUs _ ((hw.ready r).trans hr)]
  · rw [State.finishCue_rd _ _ hends, State.holdFor_rd, hw.rd a (by simpa using ha), State.atTime_rd]
  · rw [State.finishCue_fm, State.holdFor_fm, hw.fm, State.atTime_fm]

/-- A hold that has run out is gone, and its resource stays as it is (R143). -/
theorem exec_wakeHoldExpire_of_due (at_ : TT) (r : Fin 127) (until_ : Nat) (s : State)
    (hhold : ((s.atTime at_).res r).holdUntil = some until_) (hdue : until_ ≤ (s.atTime at_).elapsed) :
    ∃ t, exec (.wakeHoldExpire at_ r) s = .next t ∧ (t.res r).holdUntil = none ∧
      (t.res r).power = ((s.atTime at_).res r).power ∧ keepsRegs s t [] ∧ keepsMemory s t := by
  have hexec : exec (.wakeHoldExpire at_ r) s =
      .next (((s.atTime at_).setRes r { (s.atTime at_).res r with holdUntil := none }).ended s) := by
    rw [← State.holdEnds_of_due hhold hdue]
    rfl
  refine ⟨_, hexec, ?_, ?_, keepsRegs_ended (fun a _ _ => ?_), keepsMemory_ended ?_⟩
  · rw [State.ended_holdUntil, State.setRes_res]
  · rw [State.ended_power, State.setRes_res]
  · rw [State.setRes_rd, State.atTime_rd]
  · rw [State.setRes_fm, State.atTime_fm]

end Sys2Proof.Machine

/-! ### The obligation -/

/-- Settles O17: a wake leaves everything awake that it wakes, claims stand in the cue's entry, and the ending changes
of a resource its idle time alone. -/
theorem cuesWakeTheirTargets : Obligations.CuesWakeTheirTargets :=
  ⟨exec_prerollWake_of_due, exec_wake_of_ok, exec_wakeHoldExpire_of_due⟩
end

section
/-! Writes that cues make: the judgement of R92 at a register, the mode of an adaptive loop, and what a freeze takes
back. -/

open Sys2Proof Sys2Proof.Machine

namespace Sys2Proof.Machine

/-! ### A write that is answered OK -/

/-- A write that is answered OK has left the new word and what its block makes of it, unless its register is one whose
write is an action of its own (`State.actionWrite`, `State.special`) or WMn_STAT. -/
theorem State.writeReg_of_ok {s : State} {w : Writer} {a : Nat} {v m : W32}
    (haction : ∀ act, s.actionWrite a (v &&& m) act = none) (hspecial : ∀ act, s.special w a act = none)
    (hwm : (locate a).any (fun x => x.1 == .wm && x.2.2 == 0x8) = false) (hok : (s.writeReg w a v m).1 = .ok) :
    (s.writeReg w a v m).2 = (s.wr a (newWord (w == .image) (regFields a) (s.rd a) v m)).written w a (s.rd a) v
      (actWord (regFields a) v m) m := by
  unfold State.writeReg at hok ⊢
  simp only [haction, hspecial, hwm] at hok ⊢
  generalize s.ownWhy w a (s.rd a) _ v m = own at hok ⊢
  generalize s.gate w a (s.rd a) _ v m _ = g at hok ⊢
  obtain ⟨g, s'⟩ := g
  have hfence : ¬ (own = .fence ∨ own = .housekeeping) := fun h => by
    rw [if_pos h] at hok
    obtain rfl | rfl := h <;> cases hok
  rw [if_neg hfence] at hok ⊢
  have hgate : ¬ g ≠ .ok := fun h => by
    rw [if_pos h] at hok
    exact h hok
  rw [if_neg hgate] at hok ⊢
  split at hok
  · cases hok
  rename_i haccess
  split at hok
  · cases hok
  rename_i hencoding
  split at hok
  · cases hok
  rename_i hnames
  rw [if_neg haccess, if_neg hencoding, if_neg hnames]
  rfl

/-! ### Cues that write a register -/

/-- The actions that write their target's register (R91). -/
theorem actTargets_of_write {code : Nat} (h : [0x1, 0x2, 0x3, 0x5, 0xB, 0xC].contains code = true) :
    actTargets code = true ∧ code ≠ 0x4 := by
  simp only [List.contains_cons, List.contains_nil, Bool.or_eq_true, beq_iff_eq, Bool.or_false] at h
  obtain rfl | rfl | rfl | rfl | rfl | rfl := h <;> decide

/-- A cue of an action that writes a register, at a target of its kind, makes the write that its operands name (R91). -/
theorem State.act_of_writeOf {s : State} {e : Entry} {v m : W32}
    (hcode : [0x1, 0x2, 0x3, 0x5, 0xB, 0xC].contains (recAct e.rec_) = true)
    (hfits : targetFits (recAct e.rec_) (recTarget e.rec_) = true) (hrow : (rowOf (recTarget e.rec_)).isNone = false)
    (hw : writeOf e.rec_ = some (v, m)) :
    s.act e = s.writeReg (.cue (recSvc e.rec_) (recAct e.rec_)) (recTarget e.rec_) v m := by
  obtain ⟨hact, hscene⟩ := actTargets_of_write hcode
  simp only [State.act, hact, hscene, hfits, hcode, hrow, hw, Bool.not_true, Bool.false_eq_true, if_false, if_true]

/-- A cue of such an action that is answered OK makes the write that its operands name (R91, R92). -/
theorem State.act_of_write_ok {s : State} {e : Entry}
    (hcode : [0x1, 0x2, 0x3, 0x5, 0xB, 0xC].contains (recAct e.rec_) = true) (hok : (s.act e).1 = .ok) :
    ∃ v m, writeOf e.rec_ = some (v, m) ∧
      s.act e = s.writeReg (.cue (recSvc e.rec_) (recAct e.rec_)) (recTarget e.rec_) v m := by
  obtain ⟨hact, hscene⟩ := actTargets_of_write hcode
  cases hfits : targetFits (recAct e.rec_) (recTarget e.rec_) with
  | false =>
    simp only [State.act, hact, hscene, hfits, Bool.not_true, Bool.not_false, Bool.false_eq_true, if_false, if_true] at hok
    split at hok
    · cases hok
    · rename_i howned
      exact absurd hok howned
  | true =>
    cases hw : writeOf e.rec_ with
    | none =>
      simp only [State.act, hact, hscene, hfits, hcode, hw, Bool.not_true, Bool.false_eq_true, if_false, if_true] at hok
      split at hok <;> cases hok
    | some x =>
      cases hrow : (rowOf (recTarget e.rec_)).isNone with
      | true =>
        simp only [State.act, hact, hscene, hfits, hcode, hw, hrow, Bool.not_true, Bool.false_eq_true, if_false,
          if_true] at hok
        cases hok
      | false => exact ⟨x.1, x.2, rfl, State.act_of_writeOf hcode hfits hrow hw⟩

/-! ### The target of a cell's clamp -/

theorem locate_dcrTarget : ∀ c : Fin 48, locate (AC_DCR_TARGET c) = some (.ac, c.val, 0x018) := by decide

theorem regFields_dcrTarget : ∀ c : Fin 48, regFields (AC_DCR_TARGET c) = [⟨11, 0, .rw, []⟩] := by decide

theorem endsOn_dcrTarget : ∀ c : Fin 48, endsOn (AC_DCR_TARGET c) = false := by decide

theorem rowOf_dcrTarget : ∀ c : Fin 48, (rowOf (AC_DCR_TARGET c)).isNone = false := by decide

/-- A cue of the service that owns a cell writes the masked bits of its clamp's target, and no others (R91, R92). -/
theorem State.writeReg_dcrTarget {s : State} {svc act : Nat} (c : Fin 48) (v m : W32)
    (hown : s.ownerOf kQuad (c.val / 4) = .svc svc) :
    s.writeReg (.cue svc act) (AC_DCR_TARGET c) v m = (.ok, s.wr (AC_DCR_TARGET c)
      ((s.rd (AC_DCR_TARGET c) &&& ~~~(0xFFF &&& m)) ||| (v &&& (0xFFF &&& m)))) := by
  have hloc := locate_dcrTarget c
  have hfields := regFields_dcrTarget c
  have hmask : (⟨11, 0, .rw, []⟩ : FieldDesc).mask = 0xFFF := by decide
  have hown' : ∀ new, s.ownWhy (.cue svc act) (AC_DCR_TARGET c) (s.rd (AC_DCR_TARGET c)) new v m = .ok := by
    intro new
    simp [State.ownWhy, State.cueOwns, hloc, ownersOk, State.regOwner, hown, State.namesRefuse, State.namesOf]
  have himage : (Writer.cue svc act == .image) = false := rfl
  simp [State.writeReg, hown', himage, State.gate, hloc, hfields, hmask, newWord, accessRefuses, Acc.fixed, Acc.isL,
    State.actionWrite, State.special, encodingRefuses, FieldDesc.lists, State.ruleRefuses, Writer.isCue, State.written,
    State.acWritten]

/-! ### The registers of an adaptive loop -/

/-- What holds of each kind of loop, at each of its places, holds of every loop (R27). -/
theorem forall_loopId {P : LoopId → Prop} (h : (∀ p, P (.eq p)) ∧ P .servo ∧ (∀ c, P (.dcr c)) ∧ (∀ c, P (.dcb c)) ∧
    (∀ k, P (.sleep k)) ∧ P .carousel) : ∀ l, P l := by
  obtain ⟨heq, hservo, hdcr, hdcb, hsleep, hcar⟩ := h
  intro l
  cases l with
  | eq p => exact heq p
  | servo => exact hservo
  | dcr c => exact hdcr c
  | dcb c => exact hdcb c
  | sleep k => exact hsleep k
  | carousel => exact hcar

/-- The field of a loop's mode (R51). -/
def loopModeFld (l : LoopId) : Fld := ⟨loopCtl l, 1, 0⟩

/-- Where a loop's control register lies: its block, the place in the block, and the offset there. -/
def loopPlace : LoopId → Block × Nat × Nat
  | .eq p => (.lp, p.val, 0x01C)
  | .servo => (.tb, 0, 0x020)
  | .dcr c => (.ac, c.val, 0x014)
  | .dcb c => (.fc, c.val, 0x00C)
  | .sleep k => (.sys, 0, 0x070 + 4 * k.val)
  | .carousel => (.se, 0, 0x044)

theorem locate_loopCtl : ∀ l, locate (loopCtl l) = some (loopPlace l) := forall_loopId (by decide)

/-- The registers of a loop are four different ones. -/
theorem loopRegs_nodup : ∀ l, [loopCtl l, loopSet l, loopStat l, loopCnt l].Nodup := forall_loopId (by decide)

/-- The ending of a command leaves the registers of the loops. -/
theorem endsOn_loopRegs : ∀ l, ∀ a ∈ [loopCtl l, loopSet l, loopStat l, loopCnt l], endsOn a = false :=
  forall_loopId (by decide)

/-- The field of a loop's setting lies at the low end of its setting register (R52). -/
theorem loopField_place : ∀ l, (loopField l).addr = loopSet l ∧ (loopField l).lo = 0 ∧ (loopField l).hi < 32 :=
  forall_loopId (by decide)

/-- A loop's control register has the mode in its lowest two bits, which are written; its other fields lie outside
them. -/
theorem regFields_loopCtl : ∀ l, (regFields (loopCtl l)).getLast? = some ⟨1, 0, .rw, [(0, 2)]⟩ ∧
    ∀ f ∈ (regFields (loopCtl l)).dropLast, f.mask &&& 3 = 0 := forall_loopId (by decide)

/-- A field without a bit in the mask is not written (R513). -/
theorem newWord_outside {fs : List FieldDesc} {m : W32} (h : ∀ f ∈ fs, f.mask &&& m = 0) (old v : W32) :
    newWord false fs old v m = old := by
  induction fs generalizing old with
  | nil => rfl
  | cons f fs ih =>
    have hf := h f List.mem_cons_self
    have hstep : newWord false [f] old v m = old := by
      have hones : ∀ w : W32, w &&& 4294967295#32 = w := fun _ => BitVec.and_allOnes
      cases hacc : f.acc <;> simp [newWord, hacc, hf, hones]
    rw [show newWord false (f :: fs) old v m = newWord false fs (newWord false [f] old v m) v m from rfl, hstep]
    exact ih (fun g hg => h g (List.mem_cons_of_mem f hg)) old

/-- A write of a loop's mode sets the mode's field (R31, R513). -/
theorem newWord_loopCtl (l : LoopId) (old : W32) {n : Nat} (hn : n < 3) :
    newWord false (regFields (loopCtl l)) old (BitVec.ofNat 32 n) 3 = (loopModeFld l).put old n := by
  obtain ⟨hlast, hout⟩ := regFields_loopCtl l
  obtain ⟨fs, hfs⟩ := List.getLast?_eq_some_iff.mp hlast
  rw [hfs, List.dropLast_concat] at hout
  have hmask : (⟨1, 0, .rw, [(0, 2)]⟩ : FieldDesc).mask = 3 := by decide
  rw [hfs, show newWord false (fs ++ [⟨1, 0, .rw, [(0, 2)]⟩]) old (BitVec.ofNat 32 n) 3 =
    newWord false [⟨1, 0, .rw, [(0, 2)]⟩] (newWord false fs old (BitVec.ofNat 32 n) 3) (BitVec.ofNat 32 n) 3 from
    List.foldl_append, newWord_outside hout]
  simp only [newWord, List.foldl_cons, List.foldl_nil, hmask, Fld.put, loopModeFld]
  interval_cases n <;> rfl

/-- A write of a loop's control register is no action with an answer of its own. -/
theorem State.actionWrite_loopCtl (s : State) (l : LoopId) (v act : W32) : s.actionWrite (loopCtl l) v act = none := by
  have hloc := locate_loopCtl l
  cases l with
  | sleep k =>
    have hoff : 0x070 + 4 * k.val ≠ 0x00C := by omega
    simp [State.actionWrite, hloc, loopPlace, hoff]
  | _ => simp [State.actionWrite, hloc, loopPlace]

theorem State.special_loopCtl (s : State) (w : Writer) (l : LoopId) (act : W32) : s.special w (loopCtl l) act = none := by
  have hloc := locate_loopCtl l
  cases l <;> simp [State.special, hloc, loopPlace]

/-- A write of a loop's control register that leaves the loop FROZEN freezes it, and brings about nothing else (R34). -/
theorem State.written_loopCtl (s : State) (w : Writer) (l : LoopId) (old v act m : W32) :
    s.written w (loopCtl l) old v act m =
      s.when (s.loopMode l == 2) (fun s => s.freezeLoop (loopField l) (loopStat l) (loopCnt l)) := by
  have hloc := locate_loopCtl l
  cases l with
  | sleep k =>
    simp only [State.written, hloc, loopPlace]
    have : (0x070 + 4 * k.val - 0x070) / 4 = k.val := by omega
    rw [State.sysWritten, if_neg (by omega), if_pos (by omega), this]
    rfl
  | _ =>
    simp only [State.written, hloc, loopPlace]
    rfl

/-! ### Freezing and releasing a loop -/

theorem State.loopMode_eq (s : State) (l : LoopId) : s.loopMode l = s.g (loopModeFld l) := rfl

/-- A mode that is written is the mode that stands there. -/
theorem State.loopMode_p (s : State) (l : LoopId) {n : Nat} (hn : n < 3) : (s.p (loopModeFld l) n).loopMode l = n := by
  rw [State.loopMode_eq, State.g_p_same _ _ _ (Nat.zero_le 1) (by show 1 < 32; decide)]
  exact Nat.mod_eq_of_lt (by show n < 4; omega)

/-- A cue that sets a loop's mode, and that is answered OK, sets it; into FROZEN it freezes the loop too (R31, R34). -/
theorem State.act_loopMode {s : State} {e : Entry} {l : LoopId} {n : Nat} (htarget : recTarget e.rec_ = loopCtl l)
    (hcode : [0x1, 0x2, 0x3, 0x5, 0xB, 0xC].contains (recAct e.rec_) = true) (hok : (s.act e).1 = .ok)
    (hw : writeOf e.rec_ = some (BitVec.ofNat 32 n, 3)) (hn : n < 3) :
    (s.act e).2 = (s.p (loopModeFld l) n).when (n == 2) (fun s =>
      s.freezeLoop (loopField l) (loopStat l) (loopCnt l)) := by
  obtain ⟨v, m, hvm, hact⟩ := State.act_of_write_ok hcode hok
  obtain ⟨rfl, rfl⟩ : BitVec.ofNat 32 n = v ∧ 3 = m := by simpa [hw] using hvm
  rw [htarget] at hact
  rw [hact] at hok ⊢
  have hwm : (locate (loopCtl l)).any (fun x => x.1 == .wm && x.2.2 == 0x8) = false := by
    rw [locate_loopCtl]
    cases l <;> rfl
  have hstate := State.writeReg_of_ok (fun act => s.actionWrite_loopCtl l _ act) (fun act => s.special_loopCtl _ l act) hwm hok
  rw [State.written_loopCtl] at hstate
  have himage (svc act : Nat) : (Writer.cue svc act == .image) = false := rfl
  have hput : s.wr (loopCtl l) ((loopModeFld l).put (s.rd (loopCtl l)) n) = s.p (loopModeFld l) n := rfl
  rw [hstate, himage, newWord_loopCtl l _ hn, hput, State.loopMode_p s l hn]

/-- Where the loop has made no update in the present cycle, a freeze changes no register (R34). -/
theorem State.freezeLoop_of_none {s : State} {l : LoopId} (h : s.undoNow l = none) :
    s.freezeLoop (loopField l) (loopStat l) (loopCnt l) = s.seed (loopStat l) := by
  unfold State.undoNow at h
  rw [State.freezeLoop, State.loopUndo]
  cases hx : s.undo.lookup (loopStat l) with
  | none => rfl
  | some x =>
    rw [hx, Option.filter_some] at h
    have hat : x.at_ ≠ s.elapsed := by
      intro hat
      simp [hat] at h
    simp only [if_pos hat]

/-- An update that the loop has made in the present cycle is taken back by a freeze, with its setting (R34). -/
theorem State.freezeLoop_of_some {s : State} {l : LoopId} {x : LoopUndo} (h : s.undoNow l = some x) :
    ∃ p q z, s.freezeLoop (loopField l) (loopStat l) (loopCnt l) =
      { ((s.wr (loopStat l) x.stat).wr (loopCnt l) x.cnt).p (loopField l) x.setting with press := p, undo := q, seeded := z } := by
  obtain ⟨hx, hat⟩ := Option.filter_eq_some_iff.mp h
  have hat' : ¬ x.at_ ≠ s.elapsed := by simpa using hat
  rw [State.freezeLoop, State.loopUndo, hx]
  simp only [if_neg hat', if_true]
  exact ⟨_, _, _, rfl⟩

/-- The setting, the status and the counter that a freeze brings back (R34). -/
theorem State.freezeLoop_undone {s : State} {l : LoopId} {x : LoopUndo} (h : s.undoNow l = some x) :
    (s.freezeLoop (loopField l) (loopStat l) (loopCnt l)).g (loopField l) = x.setting % ((loopField l).max + 1) ∧
      (s.freezeLoop (loopField l) (loopStat l) (loopCnt l)).rd (loopStat l) = x.stat ∧
      (s.freezeLoop (loopField l) (loopStat l) (loopCnt l)).rd (loopCnt l) = x.cnt := by
  obtain ⟨haddr, hlo, hhi⟩ := loopField_place l
  have hnodup := loopRegs_nodup l
  simp only [List.nodup_cons, List.mem_cons, List.not_mem_nil, not_or, or_false] at hnodup
  obtain ⟨-, ⟨hset_stat, hset_cnt⟩, hstat_cnt, -⟩ := hnodup
  obtain ⟨p, q, z, hf⟩ := State.freezeLoop_of_some h
  rw [hf]
  refine ⟨?_, ?_, ?_⟩
  · have hmax : (loopField l).max + 1 = 2 ^ ((loopField l).hi + 1 - (loopField l).lo) :=
      Nat.sub_add_cancel (Nat.one_le_two_pow)
    rw [hmax]
    exact State.g_p_same _ _ _ (by omega) hhi
  · refine (State.rd_p_ne _ (haddr ▸ hset_stat) _).trans ?_
    rw [State.rd_wr_ne _ (Ne.symm hstat_cnt), State.rd_wr_same]
  · refine (State.rd_p_ne _ (haddr ▸ hset_cnt) _).trans ?_
    rw [State.rd_wr_same]

/-- A freeze leaves every register but the loop's setting, status and counter. -/
theorem State.freezeLoop_rd_ne (s : State) {l : LoopId} {a : Nat} (ha : a ∉ [loopSet l, loopStat l, loopCnt l]) :
    (s.freezeLoop (loopField l) (loopStat l) (loopCnt l)).rd a = s.rd a := by
  simp only [List.mem_cons, List.not_mem_nil, or_false, not_or] at ha
  obtain ⟨hset, hstat, hcnt⟩ := ha
  cases hx : s.undoNow l with
  | none => rw [State.freezeLoop_of_none hx, State.seed_rd]
  | some x =>
    obtain ⟨p, q, z, hf⟩ := State.freezeLoop_of_some hx
    rw [hf]
    refine (State.rd_p_ne _ ((loopField_place l).1 ▸ Ne.symm hset) _).trans ?_
    rw [State.rd_wr_ne _ (Ne.symm hcnt), State.rd_wr_ne _ (Ne.symm hstat)]

theorem State.freezeLoop_fm (s : State) (l : LoopId) : (s.freezeLoop (loopField l) (loopStat l) (loopCnt l)).fm = s.fm := by
  cases hx : s.undoNow l with
  | none => rw [State.freezeLoop_of_none hx, State.seed_fm]
  | some x =>
    obtain ⟨p, q, z, hf⟩ := State.freezeLoop_of_some hx
    rw [hf]
    rfl

/-! ### The commands -/

/-- WRITE_FIELD, SET_BITS and CLEAR_BITS are the actions that write bits (R91). -/
theorem writeBits_code {code : Nat} (h : [0x1, 0x2, 0x3].contains code = true) : code = 1 ∨ code = 2 ∨ code = 3 := by
  simpa using h

/-- The commands of the three actions that write bits. -/
theorem exec_cueCommand {at_ : TT} {id : CueId} {code : Nat} {cmd : Instr} (s : State)
    (hcode : [0x1, 0x2, 0x3].contains code = true) (hcmd : cueCommand at_ id code = some cmd) :
    exec cmd s = timed at_ (fun s => s.cueEffect code id) s := by
  obtain rfl | rfl | rfl := writeBits_code hcode <;> (cases hcmd; rfl)

/-- A cue of a cell's owner writes the masked bits of the clamp's target, and no others (R91, R92). -/
theorem exec_dcrTargetWrite_of_owned (at_ : TT) (id : CueId) (e : Entry) (c : Fin 48) (m v : W32) (cmd : Instr) (s : State)
    (he : (s.atTime at_).entry id = some e) (hsub : id.sub = 0) (htarget : recTarget e.rec_ = AC_DCR_TARGET c)
    (hcode : [1, 2, 3].contains (recAct e.rec_) = true) (hcmd : cueCommand at_ id (recAct e.rec_) = some cmd)
    (hw : writeOf e.rec_ = some (v, m)) (hown : (s.atTime at_).ownerOf kQuad (c.val / 4) = .svc (recSvc e.rec_))
    (hmay : (s.atTime at_).mayEffect e = true) :
    ∃ t, exec cmd s = .next t ∧ t.entry id = none ∧
      t.rd (AC_DCR_TARGET c) = (s.rd (AC_DCR_TARGET c) &&& ~~~(0xFFF &&& m)) ||| (v &&& (0xFFF &&& m)) ∧
      keepsRegs s t [AC_DCR_TARGET c] ∧ keepsMemory s t := by
  obtain ⟨hwrites, hfits, hscene⟩ : [0x1, 0x2, 0x3, 0x5, 0xB, 0xC].contains (recAct e.rec_) = true ∧
      targetFits (recAct e.rec_) (recTarget e.rec_) = true ∧ recAct e.rec_ ≠ 4 := by
    obtain h | h | h := writeBits_code hcode <;> rw [h] <;> exact ⟨by decide, rfl, by decide⟩
  have hact := State.act_of_writeOf (s := s.atTime at_) hwrites hfits (by rw [htarget]; exact rowOf_dcrTarget c) hw
  rw [htarget, State.writeReg_dcrTarget c v m hown, State.atTime_rd] at hact
  have hexec := (exec_cueCommand s hcode hcmd).trans (timed_cueEffect he hsub rfl hscene hmay (by rw [hact]))
  rw [hact] at hexec
  refine ⟨_, hexec, State.ended_finishCue_entry s _ (State.entry_id he), ?_, keepsRegs_ended (fun a hends ha => ?_),
    keepsMemory_ended ?_⟩
  · rw [State.ended_finishCue_rd _ _ _ (endsOn_dcrTarget c), State.rd_wr_same]
  · rw [State.finishCue_rd _ _ hends, State.rd_wr_ne _ (Ne.symm (by simpa using ha)), State.atTime_rd]
  · rw [State.finishCue_fm, State.wr_fm, State.atTime_fm]

/-- FREEZE sets a loop's mode to FROZEN, and takes back an update of the same cycle with its setting (R31, R34, R91). -/
theorem exec_freeze_of_ok (at_ : TT) (id : CueId) (e : Entry) (l : LoopId) (s : State)
    (he : (s.atTime at_).entry id = some e) (hsub : id.sub = 0) (htarget : recTarget e.rec_ = loopCtl l)
    (hmay : (s.atTime at_).mayEffect e = true) (hok : ((s.atTime at_).act e).1 = .ok) (hcode : recAct e.rec_ = 0xB) :
    ∃ t, exec (.freeze at_ id) s = .next t ∧ t.entry id = none ∧ t.loopMode l = 2 ∧
      ((s.atTime at_).undoNow l = none → keepsRegs s t [loopCtl l]) ∧
      (∀ x, (s.atTime at_).undoNow l = some x → t.g (loopField l) = x.setting % ((loopField l).max + 1) ∧
        t.rd (loopStat l) = x.stat ∧ t.rd (loopCnt l) = x.cnt ∧
        keepsRegs s t [loopCtl l, loopSet l, loopStat l, loopCnt l]) ∧ keepsMemory s t := by
  have hw : writeOf e.rec_ = some (BitVec.ofNat 32 2, 3) := by
    simp only [writeOf, hcode]
    rfl
  have hexec : exec (.freeze at_ id) s = _ := timed_cueEffect he hsub hcode (by decide) hmay hok
  have hact : ((s.atTime at_).act e).2 =
      ((s.atTime at_).p (loopModeFld l) 2).freezeLoop (loopField l) (loopStat l) (loopCnt l) :=
    State.act_loopMode htarget (by rw [hcode]; decide) hok hw (by decide)
  rw [hact] at hexec
  have hundo : ((s.atTime at_).p (loopModeFld l) 2).undoNow l = (s.atTime at_).undoNow l := rfl
  have hends := endsOn_loopRegs l
  have hctl : loopCtl l ∉ [loopSet l, loopStat l, loopCnt l] := (List.nodup_cons.mp (loopRegs_nodup l)).1
  have hmode {a : Nat} (ha : a ≠ loopCtl l) : ((s.atTime at_).p (loopModeFld l) 2).rd a = s.rd a :=
    (State.rd_p_ne _ (Ne.symm ha) _).trans (State.atTime_rd s at_ a)
  refine ⟨_, hexec, State.ended_finishCue_entry s _ (State.entry_id he), ?_, fun hx => ?_, fun x hx => ?_,
    keepsMemory_ended ?_⟩
  · rw [State.loopMode, State.g, State.ended_finishCue_rd _ _ _ (hends _ (by simp)), State.freezeLoop_rd_ne _ hctl]
    exact State.loopMode_p (s.atTime at_) l (n := 2) (by decide)
  · rw [State.freezeLoop_of_none (hundo.trans hx)]
    refine keepsRegs_ended (fun a hea ha => ?_)
    rw [State.finishCue_rd _ _ hea, State.seed_rd, hmode (by simpa using ha)]
  · obtain ⟨hset, hstat, hcnt⟩ := State.freezeLoop_undone (hundo.trans hx)
    obtain ⟨haddr, -, -⟩ := loopField_place l
    refine ⟨?_, ?_, ?_, keepsRegs_ended (fun a hea ha => ?_)⟩
    · rwa [State.g, haddr, State.ended_finishCue_rd _ _ _ (hends _ (by simp)), ← haddr]
    · rwa [State.ended_finishCue_rd _ _ _ (hends _ (by simp))]
    · rwa [State.ended_finishCue_rd _ _ _ (hends _ (by simp))]
    · obtain ⟨hne, hout⟩ := not_or.mp (fun h => ha (List.mem_cons.mpr h))
      rw [State.finishCue_rd _ _ hea, State.freezeLoop_rd_ne _ hout, hmode hne]
  · rw [State.finishCue_fm, State.freezeLoop_fm, State.p_fm, State.atTime_fm]

/-- RELEASE sets a loop's mode to the one that its operand names, FREE or BOUNDED (R31, R91). -/
theorem exec_release_of_ok (at_ : TT) (id : CueId) (e : Entry) (l : LoopId) (s : State)
    (he : (s.atTime at_).entry id = some e) (hsub : id.sub = 0) (htarget : recTarget e.rec_ = loopCtl l)
    (hmay : (s.atTime at_).mayEffect e = true) (hok : ((s.atTime at_).act e).1 = .ok) (hcode : recAct e.rec_ = 0xC) :
    ∃ t, exec (.release at_ id) s = .next t ∧ t.entry id = none ∧ t.loopMode l = e.rec_.a.toNat ∧
      keepsRegs s t [loopCtl l] ∧ keepsMemory s t := by
  have hwrites : [0x1, 0x2, 0x3, 0x5, 0xB, 0xC].contains (recAct e.rec_) = true := by
    rw [hcode]
    decide
  obtain ⟨ha, hw⟩ : e.rec_.a.toNat < 2 ∧ writeOf e.rec_ = some (BitVec.ofNat 32 e.rec_.a.toNat, 3) := by
    obtain ⟨v, m, hvm, -⟩ := State.act_of_write_ok hwrites hok
    by_cases ha : e.rec_.a.toNat < 2
    · exact ⟨ha, by simp only [writeOf, hcode, if_pos ha, BitVec.ofNat_toNat, BitVec.setWidth_eq]⟩
    · simp [writeOf, hcode, ha] at hvm
  have hexec : exec (.release at_ id) s = _ := timed_cueEffect he hsub hcode (by decide) hmay hok
  have hact : ((s.atTime at_).act e).2 = (s.atTime at_).p (loopModeFld l) e.rec_.a.toNat := by
    rw [State.act_loopMode htarget hwrites hok hw (by omega), show (e.rec_.a.toNat == 2) = false from beq_false_of_ne (by omega)]
    rfl
  rw [hact] at hexec
  refine ⟨_, hexec, State.ended_finishCue_entry s _ (State.entry_id he), ?_, keepsRegs_ended (fun a hends hne => ?_),
    keepsMemory_ended ?_⟩
  · rw [State.loopMode, State.g, State.ended_finishCue_rd _ _ _ (endsOn_loopRegs l _ (by simp))]
    exact State.loopMode_p (s.atTime at_) l (by omega)
  · have hne' : a ≠ loopCtl l := by simpa using hne
    rw [State.finishCue_rd _ _ hends]
    exact (State.rd_p_ne _ (Ne.symm hne') _).trans (State.atTime_rd s at_ a)
  · rw [State.finishCue_fm, State.p_fm, State.atTime_fm]

end Sys2Proof.Machine

/-! ### The obligation -/

/-- Settles O21: the write that a cue makes is judged as its operands give it, and what stands in the loop's undo is what
a freeze brings back. -/
theorem cuesWriteBitsAndHoldLoops : Obligations.CuesWriteBitsAndHoldLoops := by
  refine ⟨?_, fun at_ id e l s he hsub htarget hmay hok => ⟨?_, ?_⟩⟩
  · intro at_ id e c m v cmd s u he hsub htarget hcode hcmd hw _ hown hmay
    exact exec_dcrTargetWrite_of_owned at_ id e c m v cmd s he hsub htarget hcode hcmd hw hown hmay
  · exact exec_freeze_of_ok at_ id e l s he hsub htarget hmay hok
  · exact exec_release_of_ok at_ id e l s he hsub htarget hmay hok
end

section
/-! A write of a loop's setting in the reserved mode. -/

open Sys2Proof Sys2Proof.Machine

namespace Sys2Proof.Machine

/-- A device in FOLLOW whose line port 0 has the written window 100 to 200 and the reserved mode 3 in LP_EQ_CTL, which
R18 refuses of a write. -/
def eqModeReserved : State :=
  ({ State.reset with pwr := { State.reset.pwr with state := .follow } } : State).wr (LP_EQ_CTL 0) 0x00C80643

/-- In mode 3 `State.eqWindow` gives the written window, so that a written 0 becomes the window's lower bound. -/
theorem eqModeReserved_seedWrite :
    ∃ t, exec (.loopSeedWrite 0 (.eq 0) 0) eqModeReserved = .next t ∧ t.rd (LP_EQ_SET 0) = 100 :=
  ⟨_, rfl, by decide⟩

/-- In mode 3 `State.loopRange` gives the hardware range, in which 0 lies. -/
theorem eqModeReserved_loopRange : (eqModeReserved.atTime 0).loopRange (.eq 0) = (0, 800) := by decide

end Sys2Proof.Machine

/-! ### The obligation -/

/-- Refutes O8, which speaks of every state, by one that holds a reserved encoding: with mode 3 in LP_EQ_CTL
(`eqModeReserved`) the equalizer clamps a written setting into the written window, while the statement asks for the
hardware range in every mode but BOUNDED. -/
theorem not_loopWritesAreClamped : ¬ Obligations.LoopWritesAreClamped := by
  intro h
  obtain ⟨t, hexec, hset, -⟩ := h 0 (.eq 0) 0 eqModeReserved (by decide)
  obtain ⟨t', hexec', hrd⟩ := eqModeReserved_seedWrite
  obtain rfl := Host.Outcome.next.inj (hexec.symm.trans hexec')
  rw [eqModeReserved_loopRange, show loopSet (.eq 0) = LP_EQ_SET 0 from rfl, hrd] at hset
  exact absurd hset (by decide)
end

section
/-! Registers and frame memory that an effect spares, and phase samples. -/

open Sys2Proof Sys2Proof.Machine

namespace Sys2Proof.Machine

/-! ### What an effect spares -/

/-- The registers of a set hold their words, and frame memory is as it was. -/
structure State.Spares (P : Nat → Prop) (s t : State) : Prop where
  rd : ∀ a, P a → t.rd a = s.rd a
  fm : t.fm = s.fm

/-- A register outside a list, and outside those that the shared ending may change. -/
abbrev Outside (l : List Nat) (a : Nat) : Prop := endsOn a = false ∧ a ∉ l

theorem not_outside_of_mem {l : List Nat} {a : Nat} (h : a ∈ l) : ¬ Outside l a := fun ho => ho.2 h

theorem not_inLog_of_outside {l : List Nat} {a : Nat} (h : Outside l a) : ¬ inLog a := by
  obtain ⟨-, -, -, -, -, -, hlog⟩ := endsOn_out h.1
  exact hlog

namespace State.Spares

variable {P : Nat → Prop} {s t u : State}

theorem refl (s : State) : s.Spares P s := ⟨fun _ _ => rfl, rfl⟩

theorem trans (h : s.Spares P t) (h' : t.Spares P u) : s.Spares P u :=
  ⟨fun a ha => (h'.rd a ha).trans (h.rd a ha), h'.fm.trans h.fm⟩

/-- An update of the state beside its words and frame memory. -/
theorem of_cells (h : s.Spares P t) (hc : u.cells = t.cells) (hf : u.fm = t.fm) : s.Spares P u :=
  ⟨fun a ha => by rw [State.rd, hc]; exact h.rd a ha, hf.trans h.fm⟩

theorem wr (h : s.Spares P t) {a : Nat} (ha : ¬ P a) (v : W32) : s.Spares P (t.wr a v) :=
  ⟨fun b hb => (State.rd_wr_ne t (by rintro rfl; exact ha hb) v).trans (h.rd b hb), h.fm⟩

theorem p (h : s.Spares P t) {f : Fld} (hf : ¬ P f.addr) (v : Nat) : s.Spares P (t.p f v) := h.wr hf _

theorem pb (h : s.Spares P t) {f : Fld} (hf : ¬ P f.addr) (b : Bool) : s.Spares P (t.pb f b) := h.p hf _

theorem inc (h : s.Spares P t) {f : Fld} (hf : ¬ P f.addr) : s.Spares P (t.inc f) := h.p hf _

/-- An event record is counted and held in the event log alone. -/
theorem event (h : s.Spares P t) (hP : ∀ a, P a → ¬ inLog a) {code : Nat} (hc : code < 64) (svc : Nat) (d : W32)
    (cause : Nat) : s.Spares P (t.event code svc d cause) := by
  refine ⟨fun a ha => (State.event_rd t code svc d cause (hP a ha) hc).trans (h.rd a ha), ?_⟩
  obtain ⟨c, l, he⟩ := State.event_eq t code svc d cause
  rw [he]
  exact h.fm

end State.Spares

/-- What its effect spares, a command keeps. -/
theorem keepsRegs_of_spares {s u : State} {at_ : TT} {l : List Nat} (h : (s.atTime at_).Spares (Outside l) u) :
    keepsRegs s (u.ended s) l :=
  keepsRegs_ended fun a ha hl => (h.rd a ⟨ha, hl⟩).trans (State.atTime_rd s at_ a)

theorem keepsMemory_of_spares {s u : State} {at_ : TT} {P : Nat → Prop} (h : (s.atTime at_).Spares P u) :
    keepsMemory s (u.ended s) :=
  keepsMemory_ended (h.fm.trans (State.atTime_fm s at_))

/-! ### Phase samples -/

/-- The registers that a phase sample changes. -/
def phaseRegs : List Nat := [TB_PHASE_ERR, TB_STAT, TB_FREQ_ADJ]

/-- The error is shown and kept for the servo, and the runs towards lock and out of it are counted (R63, R71). -/
def State.sampleKept (s : State) (err : Int) (lr ur : Nat) : State :=
  { s.wr TB_PHASE_ERR (sword err) with
    tb := { s.tb with samples := (err :: s.tb.samples).take 64, lockRun := lr, unlockRun := ur } }

/-- The servo's two paths take their free steps (R57, R71). -/
def State.servoSteers (s : State) : State :=
  let (y, s) := s.drawInt (-freqMax) freqMax
  let (v, s) := s.drawInt (-(s.g TB_SLEW_CTL_rate : Int)) (s.g TB_SLEW_CTL_rate : Int)
  let s := s.setFreq y
  { s with tb := { s.tb with slew := v } }

/-- The timebase goes from PULL to LOCKED, or back, by the runs of samples in and out of lock (R63). -/
def State.lockMoves (s : State) (lr ur : Nat) : State :=
  if s.g TB_STAT_tb_state = tbPull ∧ lr = 8 then
    let s := s.p TB_STAT_tb_state tbLocked
    { s with tb := { s.tb with lockSince := some s.elapsed, hourMeans := [] } }
  else if s.g TB_STAT_tb_state = tbLocked ∧ ur = 4 then
    let s := s.p TB_STAT_tb_state tbPull
    { s with tb := { s.tb with lockSince := none } }
  else s

/-- A phase sample is kept, may move the timebase, and steers the servo unless OBSERVER is active. -/
theorem State.phaseSample_eq (s : State) (err : Int) : ∃ lr ur,
    s.phaseSample err = if ((s.sampleKept err lr ur).lockMoves lr ur).activeSrc = 4 then
      (s.sampleKept err lr ur).lockMoves lr ur else ((s.sampleKept err lr ur).lockMoves lr ur).servoSteers :=
  ⟨_, _, rfl⟩

/-- What a phase sample leaves: the error shown, the newest sample of the servo, and the armed time of day. -/
structure State.SampledTo (s : State) (err : Int) (t : State) : Prop where
  shown : t.rd TB_PHASE_ERR = sword err
  samples : t.tb.samples = (err :: s.tb.samples).take 64
  tod : t.tb.tod = s.tb.tod
  spares : s.Spares (Outside phaseRegs) t

theorem State.sampleKept_sampledTo (s : State) (err : Int) (lr ur : Nat) : s.SampledTo err (s.sampleKept err lr ur) :=
  ⟨State.rd_wr_same s _ _, rfl, rfl,
    ((State.Spares.refl s).wr (not_outside_of_mem (by decide)) _).of_cells rfl rfl⟩

theorem State.SampledTo.lockMoves {s t : State} {err : Int} (h : s.SampledTo err t) (lr ur : Nat) :
    s.SampledTo err (t.lockMoves lr ur) := by
  have hstate (v : Nat) : (t.p TB_STAT_tb_state v).rd TB_PHASE_ERR = sword err ∧
      s.Spares (Outside phaseRegs) (t.p TB_STAT_tb_state v) :=
    ⟨(State.rd_p_ne t (by decide) v).trans h.shown, h.spares.p (not_outside_of_mem (by decide)) v⟩
  unfold State.lockMoves
  split_ifs
  · exact ⟨(hstate _).1, h.samples, h.tod, (hstate _).2.of_cells rfl rfl⟩
  · exact ⟨(hstate _).1, h.samples, h.tod, (hstate _).2.of_cells rfl rfl⟩
  · exact h

theorem State.SampledTo.servoSteers {s t : State} {err : Int} (h : s.SampledTo err t) : s.SampledTo err t.servoSteers :=
  ⟨(State.rd_wr_ne _ (by decide) _).trans h.shown, h.samples, h.tod,
    ((h.spares.of_cells (u := { t with free := t.free + 1 + 1 }) rfl rfl).wr (a := TB_FREQ_ADJ)
      (not_outside_of_mem (by decide)) _).of_cells rfl rfl⟩

theorem State.phaseSample_sampledTo (s : State) (err : Int) : s.SampledTo err (s.phaseSample err) := by
  obtain ⟨lr, ur, h⟩ := s.phaseSample_eq err
  have hmoved := (s.sampleKept_sampledTo err lr ur).lockMoves lr ur
  rw [h]
  split_ifs
  · exact hmoved
  · exact hmoved.servoSteers

/-! ### Reference events -/

/-- A source that is present is not overdue. -/
theorem State.loseOverdue_of_present {s : State} {c : Nat} (h : s.refPresent c = true) : s.loseOverdue c = s := by
  unfold State.loseOverdue
  split
  · rfl
  · rw [if_pos h]

/-- A reference event of the active source, which is qualified, gives a phase sample (R71). -/
theorem State.refEvent_sampledTo {s : State} {c : Nat} (err : Int) (follows present : Bool) (hq : s.qualified c = true)
    (ha : s.activeSrc = c) : s.SampledTo err (s.refEvent c err follows present) := by
  have hset (x : SourceSt) : (s.setSrc c x).qualified c = true ∧ (s.setSrc c x).activeSrc = c := ⟨hq, ha⟩
  simp only [State.refEvent, (hset _).1, (hset _).2, Bool.not_true, Bool.false_and, Bool.false_eq_true, if_false, if_true,
    State.setSrc_srcSt]
  obtain ⟨hshown, hsamples, htod, hrd, hfm⟩ := State.phaseSample_sampledTo (s.setSrc c _) err
  exact ⟨hshown, hsamples, htod, hrd, hfm⟩

/-- A reference frame of the format of TB_GEN_CTL is a reference event of GENLOCK (R65, R66). -/
theorem State.genlockSeen_eq {s : State} {f : Format} (err : Int) (hon : s.servoOn = true)
    (hf : formatOf (s.g TB_GEN_CTL_format) = some f) (hp : s.refPresent 1 = true) :
    s.genlockSeen f.code err = s.refEvent 1 (f.wrapErr err) (s.refFollows 1) true := by
  simp only [State.genlockSeen, hf, hon, bne_self_eq_false, Bool.not_true, Bool.or_self, Bool.false_eq_true, if_false,
    State.loseOverdue_of_present hp, hp]

/-- A PPS edge near an expected instant of the qualified source is a reference event; with no time of day armed it is no
more than that (R61, R68). -/
theorem State.ppsSeen_eq {s : State} (err : Int) (hon : s.servoOn = true) (hq : s.qualified 2 = true)
    (ha : s.activeSrc = 2) (hp : s.refPresent 2 = true) (hexp : s.ppsExpected = true) (htod : s.tb.tod = none) :
    s.ppsSeen err = s.refEvent 2 err true true := by
  have htod' : (s.refEvent 2 err true true).tb.tod = none :=
    (State.refEvent_sampledTo err true true hq ha).tod.trans htod
  have hexpire : (s.refEvent 2 err true true).todExpire = s.refEvent 2 err true true := by
    simp only [State.todExpire, htod']
  simp only [State.ppsSeen, hon, State.loseOverdue_of_present hp, hq, hexp, Bool.not_true, Bool.false_eq_true, if_false,
    if_true, hexpire, htod']

/-- A phase sample that a command takes is shown and kept, and nothing else is changed but TB_STAT and TB_FREQ_ADJ. -/
theorem timed_sampledTo {at_ : TT} {s : State} {f : State → State} {err : Int}
    (h : (s.atTime at_).SampledTo err (f (s.atTime at_))) :
    ∃ t, timed at_ f s = .next t ∧ t.rd TB_PHASE_ERR = sword err ∧
      t.tb.samples = (err :: (s.atTime at_).tb.samples).take 64 ∧ keepsRegs s t phaseRegs ∧ keepsMemory s t := by
  refine ⟨_, rfl, ?_, ?_, keepsRegs_of_spares h.spares, keepsMemory_of_spares h.spares⟩
  · exact (State.ended_rd _ s (by decide)).trans h.shown
  · exact (congrArg TimebaseSt.samples (State.ended_tb _ s)).trans h.samples

end Sys2Proof.Machine

/-! ### The obligation -/

/-- Settles O10: either event is a reference event of the active source, and that is a phase sample. -/
theorem referencesGivePhaseSamples : Obligations.ReferencesGivePhaseSamples := by
  refine ⟨?_, ?_⟩
  · intro at_ f err s u hon hf hcode hq ha hp
    have hfmt : (BitVec.ofNat 6 f.code).toNat = f.code := by
      rw [BitVec.toNat_ofNat]
      exact Nat.mod_eq_of_lt hcode
    refine timed_sampledTo (f := fun s => s.genlockSeen (BitVec.ofNat 6 f.code).toNat err.toInt) ?_
    rw [hfmt, State.genlockSeen_eq err.toInt hon hf hp]
    exact State.refEvent_sampledTo _ _ _ hq ha
  · intro at_ err last s u hon hq ha htod hp hlast hlate hnear
    have hexp : u.ppsExpected = true := by
      simp only [State.ppsExpected, hlast, Bool.and_eq_true, Bool.or_eq_true, decide_eq_true_eq]
      exact ⟨hlate, hnear⟩
    refine timed_sampledTo (f := fun s => s.ppsSeen err.toInt) ?_
    rw [State.ppsSeen_eq err.toInt hon hq ha hp hexp htod]
    exact State.refEvent_sampledTo _ _ _ hq ha
end

section
/-! Reference sources that qualify and are lost, and the writes of their priority list. -/

open Sys2Proof Sys2Proof.Machine

namespace Sys2Proof.Machine

/-! ### Single bits of a word -/

theorem Fld.of_bit (a i : Nat) (w : W32) : (Fld.mk a i i).of w = if w.getLsbD i then 1 else 0 := by
  have hw : i + 1 - i = 1 := by omega
  rw [Fld.of, hw, pow_one, BitVec.getLsbD, Nat.testBit_eq_decide_div_mod_eq]
  have := Nat.mod_two_eq_zero_or_one (w.toNat / 2 ^ i)
  obtain h | h := this <;> simp [h]

theorem State.bitOf_eq_bit (s : State) (a i : Nat) : s.bitOf a i = s.bit ⟨a, i, i⟩ := by
  rw [State.bitOf, State.bit, State.g, Fld.of_bit]
  split <;> simp_all

theorem State.bit_pb_same (s : State) (f : Fld) (b : Bool) (h1 : f.lo ≤ f.hi) (h2 : f.hi < 32) :
    (s.pb f b).bit f = b := by
  have h : 1 < 2 ^ (f.hi + 1 - f.lo) := Nat.one_lt_two_pow (by omega)
  rw [State.bit, State.pb, State.g_p_same s f _ h1 h2]
  cases b
  · simp
  · simp [Nat.mod_eq_of_lt h]

theorem State.bitOf_setBitOf_same (s : State) (a : Nat) {i : Nat} (hi : i < 32) (b : Bool) :
    (s.setBitOf a i b).bitOf a i = b := by
  rw [State.bitOf_eq_bit]
  exact State.bit_pb_same s ⟨a, i, i⟩ b (Nat.le_refl i) hi

theorem State.bitOf_setBitOf_ne (s : State) (a : Nat) {i j : Nat} (hj : j < 32) (h : i ≠ j) (b : Bool) :
    (s.setBitOf a i b).bitOf a j = s.bitOf a j := by
  rw [State.bitOf_eq_bit, State.bitOf_eq_bit, State.bit, State.bit]
  congr 1
  exact State.g_p_ne s _ _ _ (Nat.le_refl i) hj (Or.inr (by simp only; omega))

theorem State.g_of_rd {s t : State} {f : Fld} (h : t.rd f.addr = s.rd f.addr) : t.g f = s.g f := by
  rw [State.g, State.g, h]

/-! ### Qualification -/

theorem State.qualified_setQualified_same (s : State) {c : Nat} (h1 : 1 ≤ c) (h2 : c ≤ 32) (b : Bool) :
    (s.setQualified c b).qualified c = b := by
  rw [State.qualified, State.setQualified, State.bitOf_setBitOf_same s _ (by omega)]
  simp [h1]

theorem State.qualified_setQualified_ne (s : State) {c d : Nat} (h1 : 1 ≤ c) (h2 : d ≤ 32) (h : d ≠ c) (b : Bool) :
    (s.setQualified c b).qualified d = s.qualified d := by
  rw [State.qualified, State.qualified]
  by_cases hd : 1 ≤ d
  · rw [State.setQualified, State.bitOf_setBitOf_ne s _ (by omega) (by omega)]
  · simp [hd]

theorem State.qualified_of_rd {s t : State} (hstat : t.rd TB_SRC_STAT = s.rd TB_SRC_STAT) (c : Nat) :
    t.qualified c = s.qualified c := by
  simp only [State.qualified, State.bitOf, hstat]

theorem State.activeSrc_of_rd {s t : State} (h : t.rd TB_STAT = s.rd TB_STAT) : t.activeSrc = s.activeSrc := by
  simp only [State.activeSrc, State.g, h]

theorem State.activeSrc_lt (s : State) : s.activeSrc < 8 := Nat.mod_lt _ (by decide)

theorem State.eligible_of_rd {s t : State} (hprio : t.rd TB_SRC_PRIO = s.rd TB_SRC_PRIO)
    (hlead : t.rd SYS_STATE = s.rd SYS_STATE) : t.eligible = s.eligible := by
  simp only [State.eligible, State.prioList, State.bit, State.g, hprio, hlead]

/-- An active source that is eligible and qualified stays (R59, R61). -/
theorem State.selectSource_of_stands {s : State} (h0 : s.activeSrc ≠ 0) (he : s.eligible.contains s.activeSrc = true)
    (hq : s.qualified s.activeSrc = true) (cause : Nat) : s.selectSource cause = s := by
  unfold State.selectSource
  exact if_pos ⟨h0, he, hq⟩

/-- A source that qualifies beside an active one that stands sets its bit, and no more of the registers (R60). -/
theorem State.qualify_of_stands {s : State} {c : Nat} (hc : 1 ≤ c) (h0 : s.activeSrc ≠ 0) (hne : s.activeSrc ≠ c)
    (he : s.eligible.contains s.activeSrc = true) (hq : s.qualified s.activeSrc = true) :
    s.qualify c = (s.setQualified c true).setSrc c { s.srcSt c with requal := true, misses := 0 } := by
  have hstat {a : Nat} (ha : a ≠ TB_SRC_STAT) : (s.setQualified c true).rd a = s.rd a := State.rd_p_ne s (Ne.symm ha) _
  have hactive : (s.setQualified c true).activeSrc = s.activeSrc := State.activeSrc_of_rd (hstat (by decide))
  have helig : (s.setQualified c true).eligible = s.eligible := State.eligible_of_rd (hstat (by decide)) (hstat (by decide))
  have hqual : (s.setQualified c true).qualified s.activeSrc = s.qualified s.activeSrc :=
    State.qualified_setQualified_ne s hc (by have := s.activeSrc_lt; omega) hne true
  have hlift (x : SourceSt) (d : Nat) : ((s.setQualified c true).setSrc c x).activeSrc = (s.setQualified c true).activeSrc ∧
      ((s.setQualified c true).setSrc c x).eligible = (s.setQualified c true).eligible ∧
      ((s.setQualified c true).setSrc c x).qualified d = (s.setQualified c true).qualified d := ⟨rfl, rfl, rfl⟩
  refine State.selectSource_of_stands ?_ ?_ ?_ _
  · rw [(hlift _ 0).1, hactive]; exact h0
  · rw [(hlift _ 0).1, (hlift _ 0).2.1, hactive, helig]; exact he
  · rw [(hlift _ 0).1, hactive, (hlift _ _).2.2, hqual]; exact hq

/-- A source whose time of presence has run out qualifies (R60). -/
theorem State.requalify_of_due {s : State} {c from_ : Nat} (hc : c ≠ 4) (hon : s.servoOn = true)
    (hq : s.qualified c = false) (hr : (s.srcSt c).requal = true) (hp : s.refPresent c = true)
    (hrun : initialRun c ≤ (s.srcSt c).run) (hsince : (s.srcSt c).since = some from_)
    (hdue : from_ + s.g TB_SRC_QUAL_requal_s * secNs ≤ s.elapsed) : s.requalify c = s.qualify c := by
  have hc' : (c == 4) = false := beq_false_of_ne hc
  have hrun' : ¬ (s.srcSt c).run < initialRun c := by omega
  have hdue' : ¬ s.elapsed < from_ + s.g TB_SRC_QUAL_requal_s * secNs := by omega
  simp only [State.requalify, hsince, hon, hc', hq, hr, hp, hrun', hdue', decide_false, Bool.not_true, Bool.or_self,
    Bool.false_eq_true, if_false]

/-- The state in which a source that was not active has been lost (R61). -/
def State.sourceLost (s : State) (c cause : Nat) : State :=
  let t := (((s.setQualified c false).setSrc c { SourceSt.initial with requal := true }).inc (cnt16 TB_SRC_LOSS_CNT)).event
    0x08 0 (BitVec.ofNat 32 c) cause
  { t with tb := { t.tb with hourMeans := [] } }

theorem State.loseSource_of_qualified {s : State} {c : Nat} (hq : s.qualified c = true) (hne : s.activeSrc ≠ c)
    (cause : Nat) : s.loseSource c cause = s.sourceLost c cause := by
  simp only [State.loseSource, hq, hne, Bool.not_true, Bool.false_eq_true, if_false]
  rfl

/-- A 16-bit counter counts to 65,535 at most (R20). -/
theorem State.g_inc_cnt16 (s : State) (a : Nat) : (s.inc (cnt16 a)).g (cnt16 a) = min (s.g (cnt16 a) + 1) 65535 := by
  have hmax : (cnt16 a).max = 65535 := rfl
  rw [State.inc, State.addSat, hmax, State.g_p_same s _ _ (Nat.zero_le 15) (by show 15 < 32; decide)]
  exact Nat.mod_eq_of_lt (by show min _ 65535 < 65536; omega)

theorem State.rd_sourceLost_ne (s : State) (c cause : Nat) {a : Nat} (h : ¬ inLog a) (ha : a ≠ TB_SRC_STAT)
    (ha' : a ≠ TB_SRC_LOSS_CNT) : (s.sourceLost c cause).rd a = s.rd a :=
  ((State.event_rd _ _ _ _ _ h (by decide)).trans (State.rd_inc_ne _ (Ne.symm ha'))).trans (State.rd_p_ne s (Ne.symm ha) _)

theorem State.sourceLost_spares (s : State) (c cause : Nat) :
    s.Spares (Outside [TB_SRC_STAT, TB_SRC_LOSS_CNT]) (s.sourceLost c cause) := by
  refine ⟨fun a ha => ?_, ?_⟩
  · have hne := ha.2
    simp only [List.mem_cons, List.not_mem_nil, or_false, not_or] at hne
    exact State.rd_sourceLost_ne s c cause (not_inLog_of_outside ha) hne.1 hne.2
  · obtain ⟨_, _, h⟩ := State.event_eq (((s.setQualified c false).setSrc c { SourceSt.initial with requal := true }).inc
      (cnt16 TB_SRC_LOSS_CNT)) 0x08 0 (BitVec.ofNat 32 c) cause
    simp only [State.sourceLost, h]
    rfl

theorem State.qualified_sourceLost (s : State) {c : Nat} (h1 : 1 ≤ c) (h2 : c ≤ 32) (cause : Nat) :
    (s.sourceLost c cause).qualified c = false := by
  have hrd : (s.sourceLost c cause).rd TB_SRC_STAT = (s.setQualified c false).rd TB_SRC_STAT :=
    (State.event_rd _ _ _ _ _ (by unfold inLog; decide) (by decide)).trans (State.rd_inc_ne _ (by decide))
  rw [State.qualified_of_rd hrd]
  exact State.qualified_setQualified_same s h1 h2 false

theorem State.lossCnt_sourceLost (s : State) (c cause : Nat) :
    (s.sourceLost c cause).g (cnt16 TB_SRC_LOSS_CNT) = min (s.g (cnt16 TB_SRC_LOSS_CNT) + 1) 65535 := by
  have hrd : (s.sourceLost c cause).g (cnt16 TB_SRC_LOSS_CNT) =
      (((s.setQualified c false).setSrc c { SourceSt.initial with requal := true }).inc (cnt16 TB_SRC_LOSS_CNT)).g
        (cnt16 TB_SRC_LOSS_CNT) := State.g_of_rd (State.event_rd _ _ _ _ _ (by unfold inLog; decide) (by decide))
  have hcnt : ((s.setQualified c false).setSrc c { SourceSt.initial with requal := true }).g (cnt16 TB_SRC_LOSS_CNT) =
      s.g (cnt16 TB_SRC_LOSS_CNT) :=
    State.g_of_rd (State.rd_p_ne s (f := ⟨TB_SRC_STAT, c - 1, c - 1⟩) (show TB_SRC_STAT ≠ TB_SRC_LOSS_CNT by decide) _)
  rw [hrd, State.g_inc_cnt16, hcnt]

/-! ### The priority list -/

/-- The four source codes that a word of TB_SRC_PRIO lists, from the highest priority down (R59). -/
def prioCodes (w : W32) : List Nat := [w.toNat % 8, w.toNat / 8 % 8, w.toNat / 64 % 8, w.toNat / 512 % 8]

theorem State.prioList_eq (s : State) : s.prioList = (prioCodes (s.rd TB_SRC_PRIO)).filter (· != 0) := by
  simp [State.prioList, prioCodes, State.g, Fld.of]

/-- The fields of TB_SRC_PRIO: revert, and four codes of which 0 to 4 are listed (R59). -/
def prioFields : List FieldDesc :=
  [⟨12, 12, .rw, []⟩, ⟨11, 9, .rw, [(0, 4)]⟩, ⟨8, 6, .rw, [(0, 4)]⟩, ⟨5, 3, .rw, [(0, 4)]⟩, ⟨2, 0, .rw, [(0, 4)]⟩]

theorem regFields_srcPrio : regFields TB_SRC_PRIO = prioFields := by decide

theorem locate_srcPrio : locate TB_SRC_PRIO = some (.tb, 0, 0x014) := by decide

/-- A write leaves the bits written in TB_SRC_PRIO. -/
theorem getLsbD_newWord_srcPrio (old v : W32) {i : Nat} (hi : i < 13) :
    (newWord false prioFields old v 0xFFFFFFFF).getLsbD i = v.getLsbD i := by
  simp only [newWord, prioFields, List.foldl_cons, List.foldl_nil, FieldDesc.mask, BitVec.getLsbD_or, BitVec.getLsbD_and,
    BitVec.getLsbD_not]
  interval_cases i <;> simp

/-- The codes of a word are its bits. -/
theorem prioCodes_eq_of_getLsbD {v w : W32} (h : ∀ i < 13, w.getLsbD i = v.getLsbD i) : prioCodes w = prioCodes v := by
  have hcode (k : Nat) (hk : k < 10) : w.toNat / 2 ^ k % 2 ^ 3 = v.toNat / 2 ^ k % 2 ^ 3 := by
    apply Nat.eq_of_testBit_eq
    intro j
    rw [Nat.testBit_mod_two_pow, Nat.testBit_mod_two_pow, Nat.testBit_div_two_pow, Nat.testBit_div_two_pow]
    by_cases hj : j < 3
    · rw [show w.toNat.testBit (j + k) = v.toNat.testBit (j + k) from h (j + k) (by omega)]
    · simp only [hj, decide_false, Bool.false_and]
  have h0 := hcode 0 (by decide)
  have h3 := hcode 3 (by decide)
  have h6 := hcode 6 (by decide)
  have h9 := hcode 9 (by decide)
  norm_num at h0 h3 h6 h9
  simp only [prioCodes, h0, h3, h6, h9]

theorem prioCodes_newWord (old v : W32) : prioCodes (newWord false prioFields old v 0xFFFFFFFF) = prioCodes v :=
  prioCodes_eq_of_getLsbD fun _ hi => getLsbD_newWord_srcPrio old v hi

/-- A word that every bit is written of is the word written. -/
theorem masked_all (old v : W32) : (old &&& ~~~0xFFFFFFFF) ||| (v &&& 0xFFFFFFFF) = v := by
  rw [show (0xFFFFFFFF : W32) = BitVec.allOnes 32 from rfl, BitVec.not_allOnes, BitVec.and_zero, BitVec.and_allOnes,
    BitVec.zero_or]

theorem lists_code (hi lo : Nat) (acc : Acc) (n : Nat) : (FieldDesc.mk hi lo acc [(0, 4)]).lists n = !Nat.blt 4 n := by
  have h : decide (n ≤ 4) = !Nat.blt 4 n := by
    rw [Bool.eq_iff_iff, decide_eq_true_eq, Bool.not_eq_true', ← Bool.not_eq_true, Nat.blt_eq, not_lt]
  simp only [FieldDesc.lists, List.isEmpty_cons, List.any_cons, List.any_nil, Nat.zero_le, decide_true, Bool.true_and,
    Bool.or_false, Bool.false_or, h]

/-- A code above 4 is one that R18 refuses. -/
theorem encodingRefuses_srcPrio (old v : W32) :
    encodingRefuses .observer prioFields old v 0xFFFFFFFF = (prioCodes v).any (fun c => decide (4 < c)) := by
  rw [Bool.eq_iff_iff]
  simp only [encodingRefuses, prioFields, List.any_cons, List.any_nil, masked_all, lists_code]
  simp [FieldDesc.lists, FieldDesc.of, FieldDesc.mask, bitsOf, Acc.fixed, Acc.isL, prioCodes]
  omega

theorem State.ruleRefuses_srcPrio (s : State) (w : Writer) (old new act m : W32) :
    s.ruleRefuses w TB_SRC_PRIO old new act m = !decide ((prioCodes new).filter (· != 0)).Nodup := by
  have hcodes : [0, 3, 6, 9].map (fun i => new.toNat / 2 ^ i % 8) = prioCodes new := by simp [prioCodes]
  simp only [State.ruleRefuses, locate_srcPrio, if_true, hcodes]

/-- A write from the port of a value that a field's table or its chapter's rule refuses changes nothing (R18). -/
theorem State.writeReg_encoding (s : State) (a : Nat) (v : W32) (fs : List FieldDesc) (hf : regFields a = fs)
    (hg : ∀ new act, (s.gate .observer a (s.rd a) new v 0xFFFFFFFF act).1 = .ok)
    (hr : accessRefuses .observer fs (s.rd a) v 0xFFFFFFFF = false) (hx : ∀ act, s.actionWrite a v act = none)
    (hs : ∀ act, s.special .observer a act = none)
    (hbad : (encodingRefuses .observer fs (s.rd a) v 0xFFFFFFFF || s.ruleRefuses .observer a (s.rd a)
      (newWord false fs (s.rd a) v 0xFFFFFFFF) (actWord fs v 0xFFFFFFFF) 0xFFFFFFFF) = true) :
    s.writeReg .observer a v 0xFFFFFFFF = (.encoding, s) := by
  have hv : v &&& 0xFFFFFFFF = v := BitVec.and_allOnes
  have h1 : (Writer.observer == Writer.image) = false := rfl
  have hgate := hg (newWord false fs (s.rd a) v 0xFFFFFFFF) (actWord fs v 0xFFFFFFFF)
  simp only [State.writeReg, State.ownWhy, hf, h1, hv, hx, hs, hr, hbad, Writer.isCue]
  generalize s.gate .observer a (s.rd a) _ v 0xFFFFFFFF _ = g at hgate
  obtain ⟨g, s'⟩ := g
  obtain rfl : g = .ok := hgate
  rfl

/-- A register of the timebase is judged by no block before its access codes, and no write of it is an action. -/
theorem State.tb_plain {a i off : Nat} (hl : locate a = some (.tb, i, off)) (s : State) :
    (∀ w old new v m act, s.gate w a old new v m act = (.ok, s)) ∧ (∀ v act, s.actionWrite a v act = none) ∧
      (∀ w act, s.special w a act = none) ∧ (locate a).any (fun x => x.1 == .wm && x.2.2 == 0x8) = false := by
  refine ⟨fun w old new v m act => ?_, fun v act => ?_, fun w act => ?_, ?_⟩
  · simp [State.gate, hl]
  · simp [State.actionWrite, hl]
  · simp [State.special, hl]
  · rw [hl]; rfl

theorem accessRefuses_srcPrio (old v m : W32) : accessRefuses .observer prioFields old v m = false := by
  simp [accessRefuses, prioFields, Acc.fixed, Acc.isL, Writer.isCue]

/-- A list that names a code twice, or one that no source has, is refused whole (R18, R59). -/
theorem State.writeReg_srcPrio_refused (s : State) {v : W32}
    (h : (prioCodes v).any (fun c => decide (4 < c)) = true ∨ ¬ ((prioCodes v).filter (· != 0)).Nodup) :
    s.writeReg .observer TB_SRC_PRIO v 0xFFFFFFFF = (.encoding, s) := by
  obtain ⟨hgate, haction, hspecial, -⟩ := s.tb_plain locate_srcPrio
  refine State.writeReg_encoding s _ v prioFields regFields_srcPrio (fun _ _ => by rw [hgate]) (accessRefuses_srcPrio _ _ _)
    (haction v) (hspecial _) ?_
  rw [encodingRefuses_srcPrio, State.ruleRefuses_srcPrio, prioCodes_newWord]
  obtain h | h := h
  · rw [h, Bool.true_or]
  · rw [decide_eq_false h, Bool.not_false, Bool.or_true]

/-- A list of codes of sources, each at most once, is taken (R59): the sources are chosen anew where the servo runs. -/
theorem State.writeReg_srcPrio_taken (s : State) {v : W32} (hcodes : (prioCodes v).all (fun c => decide (c ≤ 4)) = true)
    (hnodup : ((prioCodes v).filter (· != 0)).Nodup) :
    s.writeReg .observer TB_SRC_PRIO v 0xFFFFFFFF =
      (.ok, (s.wr TB_SRC_PRIO (newWord false prioFields (s.rd TB_SRC_PRIO) v 0xFFFFFFFF)).when
        (s.wr TB_SRC_PRIO (newWord false prioFields (s.rd TB_SRC_PRIO) v 0xFFFFFFFF)).servoOn
        (fun s => s.selectSource s.now)) := by
  obtain ⟨hgate, haction, hspecial, hwm⟩ := s.tb_plain locate_srcPrio
  have hencoding : encodingRefuses .observer prioFields (s.rd TB_SRC_PRIO) v 0xFFFFFFFF = false := by
    rw [encodingRefuses_srcPrio, List.any_eq_false]
    intro c hc
    have := List.all_eq_true.mp hcodes c hc
    simp only [decide_eq_true_eq] at this ⊢
    omega
  rw [State.writeReg_plain s _ v prioFields _ _ regFields_srcPrio rfl rfl (by rw [hgate]) (accessRefuses_srcPrio _ _ _)
    (haction v _) (hspecial _ _) hencoding ?_ ?_ hwm]
  · simp only [State.written, locate_srcPrio, State.tbWritten, if_true]
  · rw [State.ruleRefuses_srcPrio, prioCodes_newWord, decide_eq_true hnodup, Bool.not_true]
  · simp [State.namesRefuse, State.namesOf, locate_srcPrio]

/-- A list in which the active source stands keeps it active. -/
theorem State.selectSource_srcPrio {s : State} {new : W32} (h0 : s.activeSrc ≠ 0) (hq : s.qualified s.activeSrc = true)
    (hl : (prioCodes new).contains s.activeSrc = true) (hlead : ¬ (s.activeSrc = 3 ∧ s.bit SYS_STATE_lead = true))
    (cause : Nat) : (s.wr TB_SRC_PRIO new).selectSource cause = s.wr TB_SRC_PRIO new := by
  have hactive : (s.wr TB_SRC_PRIO new).activeSrc = s.activeSrc := State.activeSrc_of_rd (State.rd_wr_ne s (by decide) _)
  have hqual : (s.wr TB_SRC_PRIO new).qualified s.activeSrc = s.qualified s.activeSrc :=
    State.qualified_of_rd (State.rd_wr_ne s (by decide) _) _
  have hbit : (s.wr TB_SRC_PRIO new).bit SYS_STATE_lead = s.bit SYS_STATE_lead := by
    rw [State.bit, State.g_of_rd (State.rd_wr_ne s (by decide) _), State.bit]
  refine State.selectSource_of_stands (hactive ▸ h0) ?_ ?_ cause
  · rw [hactive, State.eligible, State.prioList_eq, State.rd_wr_same, hbit]
    simp only [List.contains_eq_mem, List.mem_filter, decide_eq_true_eq] at hl ⊢
    refine ⟨⟨hl, by simpa using h0⟩, ?_⟩
    simpa [imp_iff_not_or] using hlead
  · rw [hactive, hqual, hq]

/-- Such a list leaves the sources as they are, whether or not the servo runs. -/
theorem State.when_selectSource_srcPrio {s : State} {v new : W32} (hnew : prioCodes new = prioCodes v)
    (h : s.servoOn = true → s.activeSrc ≠ 0 ∧ s.qualified s.activeSrc = true ∧
      (prioCodes v).contains s.activeSrc = true ∧ ¬ (s.activeSrc = 3 ∧ s.bit SYS_STATE_lead = true)) :
    (s.wr TB_SRC_PRIO new).when (s.wr TB_SRC_PRIO new).servoOn (fun s => s.selectSource s.now) = s.wr TB_SRC_PRIO new := by
  have hon : (s.wr TB_SRC_PRIO new).servoOn = s.servoOn := rfl
  rw [hon, State.when]
  split
  next hs =>
    obtain ⟨h0, hq, hl, hlead⟩ := h hs
    exact State.selectSource_srcPrio h0 hq (hnew ▸ hl) hlead _
  next => rfl

/-! ### The commands -/

theorem srcCode_of_ne_observer {src : RefSrc} (h : src ≠ .observer) : 1 ≤ srcCode src ∧ srcCode src ≤ 3 := by
  cases src with
  | genlock | pps | axlink => decide
  | observer => exact absurd rfl h

/-- SOURCE_REQUALIFY of a source that is due (R60). -/
theorem exec_sourceRequalify_of_due (at_ : TT) (src : RefSrc) (s : State) (h1 : 1 ≤ srcCode src) (h3 : srcCode src ≤ 3)
    (h0 : (s.atTime at_).activeSrc ≠ 0) (hne : (s.atTime at_).activeSrc ≠ srcCode src)
    (he : (s.atTime at_).eligible.contains (s.atTime at_).activeSrc = true)
    (hq : (s.atTime at_).qualified (s.atTime at_).activeSrc = true)
    (hdue : (s.atTime at_).requalify (srcCode src) = (s.atTime at_).qualify (srcCode src)) :
    ∃ t, exec (.sourceRequalify at_ src) s = .next t ∧ t.qualified (srcCode src) = true ∧
      t.activeSrc = (s.atTime at_).activeSrc ∧ keepsRegs s t [TB_SRC_STAT] ∧ keepsMemory s t := by
  have hexec : exec (.sourceRequalify at_ src) s = .next (((s.atTime at_).requalify (srcCode src)).ended s) := rfl
  rw [hdue, State.qualify_of_stands h1 h0 hne he hq] at hexec
  have hspares : (s.atTime at_).Spares (Outside [TB_SRC_STAT]) (((s.atTime at_).setQualified (srcCode src) true).setSrc
      (srcCode src) { (s.atTime at_).srcSt (srcCode src) with requal := true, misses := 0 }) :=
    ((State.Spares.refl _).p (f := ⟨TB_SRC_STAT, srcCode src - 1, srcCode src - 1⟩)
      (not_outside_of_mem (List.mem_singleton.mpr rfl)) _).of_cells rfl rfl
  refine ⟨_, hexec, ?_, ?_, keepsRegs_of_spares hspares, keepsMemory_of_spares hspares⟩
  · rw [State.qualified_of_rd (State.ended_rd _ s (by decide))]
    exact State.qualified_setQualified_same _ h1 (by omega) true
  · rw [State.activeSrc_of_rd (State.ended_rd _ s (by decide))]
    exact State.activeSrc_of_rd (hspares.rd _ (by decide))

/-- SRC_LOSS of a qualified source beside the active one (R61). -/
theorem exec_srcLoss_of_qualified (at_ : TT) {src : RefSrc} (cause : TT) (s : State) (hsrc : src ≠ .observer)
    (hon : (s.atTime at_).servoOn = true) (hq : (s.atTime at_).qualified (srcCode src) = true)
    (hne : (s.atTime at_).activeSrc ≠ srcCode src) :
    ∃ t, exec (.srcLoss at_ src cause) s = .next t ∧ t.qualified (srcCode src) = false ∧
      t.g (cnt16 TB_SRC_LOSS_CNT) = min (s.g (cnt16 TB_SRC_LOSS_CNT) + 1) 65535 ∧
      t.activeSrc = (s.atTime at_).activeSrc ∧ keepsRegs s t [TB_SRC_STAT, TB_SRC_LOSS_CNT] ∧ keepsMemory s t := by
  obtain ⟨h1, h3⟩ := srcCode_of_ne_observer hsrc
  have hexec : exec (.srcLoss at_ src cause) s = .next (((s.atTime at_).sourceLost (srcCode src) cause.toNat).ended s) := by
    rw [← State.loseSource_of_qualified hq hne]
    simp [exec, execSrcLoss, timed, hon, hsrc]
  have hspares := (s.atTime at_).sourceLost_spares (srcCode src) cause.toNat
  refine ⟨_, hexec, ?_, ?_, ?_, keepsRegs_of_spares hspares, keepsMemory_of_spares hspares⟩
  · rw [State.qualified_of_rd (State.ended_rd _ s (by decide)), State.qualified_sourceLost _ h1 (by omega)]
  · rw [State.ended_g _ s (by decide), State.lossCnt_sourceLost, State.g_of_rd (State.atTime_rd s at_ _)]
  · rw [State.activeSrc_of_rd (State.ended_rd _ s (by decide))]
    exact State.activeSrc_of_rd (hspares.rd _ (by decide))

/-- TB_SRC_PRIO_WRITE of a list that R59 does not allow. -/
theorem exec_tbSrcPrioWrite_refused (at_ : TT) (s : State) {v : W32} (hreach : (s.atTime at_).reachable TB_SRC_PRIO)
    (h : (prioCodes v).any (fun c => decide (4 < c)) = true ∨ ¬ ((prioCodes v).filter (· != 0)).Nodup) :
    ∃ t, exec (.tbSrcPrioWrite at_ v) s = .next t ∧ t.obs.answer = [6, 0] ∧ keepsRegs s t [] ∧ keepsMemory s t := by
  obtain ⟨-, -, -, -, -, -, hrmt⟩ := id hreach
  obtain ⟨o, hexec, hanswer⟩ := State.timedWrite at_ s TB_SRC_PRIO v hreach .encoding (s.atTime at_)
    (State.writeReg_srcPrio_refused _ h) hrmt
  refine ⟨_, hexec, ?_, keepsRegs_ended_obs s at_ o, keepsMemory_ended_obs s at_ o⟩
  rw [State.ended_obs]
  exact hanswer

/-- TB_SRC_PRIO_WRITE of a list that R59 allows, in which the active source stands where the servo runs. -/
theorem exec_tbSrcPrioWrite_taken (at_ : TT) (s : State) {v : W32} (hreach : (s.atTime at_).reachable TB_SRC_PRIO)
    (hcodes : (prioCodes v).all (fun c => decide (c ≤ 4)) = true) (hnodup : ((prioCodes v).filter (· != 0)).Nodup)
    (hactive : (s.atTime at_).servoOn = true → (s.atTime at_).activeSrc ≠ 0 ∧
      (s.atTime at_).qualified (s.atTime at_).activeSrc = true ∧ (prioCodes v).contains (s.atTime at_).activeSrc = true ∧
      ¬ ((s.atTime at_).activeSrc = 3 ∧ (s.atTime at_).bit SYS_STATE_lead = true)) :
    ∃ t, exec (.tbSrcPrioWrite at_ v) s = .next t ∧ t.obs.answer = [0, 0] ∧
      t.prioList = (prioCodes v).filter (· != 0) ∧ t.activeSrc = (s.atTime at_).activeSrc ∧
      keepsRegs s t [TB_SRC_PRIO] ∧ keepsMemory s t := by
  obtain ⟨-, -, -, -, -, -, hrmt⟩ := id hreach
  have hwrite := State.writeReg_srcPrio_taken (s.atTime at_) hcodes hnodup
  rw [State.when_selectSource_srcPrio (prioCodes_newWord _ v) hactive] at hwrite
  obtain ⟨o, hexec, hanswer⟩ := State.timedWrite at_ s TB_SRC_PRIO v hreach .ok _ hwrite hrmt
  have hspares : (s.atTime at_).Spares (Outside [TB_SRC_PRIO]) { (s.atTime at_).wr TB_SRC_PRIO
      (newWord false prioFields ((s.atTime at_).rd TB_SRC_PRIO) v 0xFFFFFFFF) with obs := o } :=
    ((State.Spares.refl _).wr (not_outside_of_mem (List.mem_singleton.mpr rfl)) _).of_cells rfl rfl
  refine ⟨_, hexec, ?_, ?_, ?_, keepsRegs_of_spares hspares, keepsMemory_of_spares hspares⟩
  · rw [State.ended_obs]
    exact hanswer
  · rw [State.prioList_eq, State.ended_rd _ s (by decide)]
    exact congrArg (List.filter (· != 0)) ((congrArg prioCodes (State.rd_wr_same _ _ _)).trans (prioCodes_newWord _ v))
  · rw [State.activeSrc_of_rd (State.ended_rd _ s (by decide))]
    exact State.activeSrc_of_rd (hspares.rd _ (by decide))

end Sys2Proof.Machine

/-! ### The obligation -/

/-- Settles O11: the choice of a source leaves an active one that stands. -/
theorem sourcesQualifyAndAreListed : Obligations.SourcesQualifyAndAreListed := by
  refine ⟨?_, ?_, ?_⟩
  · intro at_ src from_ s u c hsrc hon hq hr hp hrun hsince hdue h0 hne he hqa
    obtain ⟨h1, h3⟩ := srcCode_of_ne_observer hsrc
    exact exec_sourceRequalify_of_due at_ src s h1 h3 h0 hne he hqa
      (State.requalify_of_due (by omega) hon hq hr hp hrun hsince hdue)
  · intro at_ src cause s u c hsrc hon hq hne
    exact exec_srcLoss_of_qualified at_ cause s hsrc hon hq hne
  · intro at_ v s u codes hreach
    exact ⟨exec_tbSrcPrioWrite_refused at_ s hreach, exec_tbSrcPrioWrite_taken at_ s hreach⟩
end

section
/-! The second update of the servo, the time of day, and the learned ageing. -/

open Sys2Proof Sys2Proof.Machine

namespace Sys2Proof.Machine

/-! ### An update of an adaptive loop -/

/-- Which bound an update presses is noted in its loop's status, and an episode in its counter (R29, R30). -/
theorem State.Spares.pressed {P : Nat → Prop} {s t : State} (h : s.Spares P t) {stat cnt : Nat} (hstat : ¬ P stat)
    (hcnt : ¬ P cnt) (side : Option Bool) : s.Spares P (t.pressed stat cnt side) := by
  cases side with
  | none => exact (h.pb (f := ⟨stat, 1, 1⟩) hstat false).of_cells rfl rfl
  | some b =>
    have hside (q : Tab (Nat × Bool)) :
        s.Spares P { (t.pb ⟨stat, 1, 1⟩ true).pb ⟨stat, 2, 2⟩ b with press := q } :=
      ((h.pb (f := ⟨stat, 1, 1⟩) hstat true).pb (f := ⟨stat, 2, 2⟩) hstat b).of_cells rfl rfl
    have hepisode (q : Tab (Nat × Bool)) (n : Nat) : s.Spares P
        (if n = 64 then ({ (t.pb ⟨stat, 1, 1⟩ true).pb ⟨stat, 2, 2⟩ b with press := q }.pb ⟨stat, 0, 0⟩ true).inc (cnt16 cnt)
        else { (t.pb ⟨stat, 1, 1⟩ true).pb ⟨stat, 2, 2⟩ b with press := q }) := by
      split
      · exact ((hside q).pb (f := ⟨stat, 0, 0⟩) hstat true).inc (f := cnt16 cnt) hcnt
      · exact hside q
    exact hepisode _ _

theorem State.pressed_tb (s : State) (stat cnt : Nat) (side : Option Bool) : (s.pressed stat cnt side).tb = s.tb := by
  cases side with
  | none => rfl
  | some b =>
    simp only [State.pressed]
    split_ifs <;> rfl

/-- A completed update changes the loop's setting, its status and its counter. -/
theorem State.loopDone_spares (s : State) (set : Fld) (v stat cnt : Nat) (side : Option Bool) :
    s.Spares (Outside [set.addr, stat, cnt]) (s.loopDone set v stat cnt side) := by
  have hput := ((State.Spares.refl (P := Outside [set.addr, stat, cnt]) s).of_cells (u := { s with
    undo := s.undo.set stat ⟨s.elapsed, s.g set, s.rd stat, s.rd cnt, s.press.get (0, false) stat⟩ }) rfl rfl).p
      (not_outside_of_mem (List.mem_cons_self)) v
  exact hput.pressed (not_outside_of_mem (by simp)) (not_outside_of_mem (by simp)) side

theorem State.loopDone_tb (s : State) (set : Fld) (v stat cnt : Nat) (side : Option Bool) :
    (s.loopDone set v stat cnt side).tb = s.tb := State.pressed_tb _ stat cnt side

/-- The setting takes the value that the update applied. -/
theorem State.loopDone_g (s : State) {set : Fld} {v stat cnt : Nat} (side : Option Bool) (hstat : stat ≠ set.addr)
    (hcnt : cnt ≠ set.addr) (h1 : set.lo ≤ set.hi) (h2 : set.hi < 32) (hv : v < 2 ^ (set.hi + 1 - set.lo)) :
    (s.loopDone set v stat cnt side).g set = v := by
  have hkept {t : State} : (t.pressed stat cnt side).g set = t.g set :=
    State.g_of_rd (((State.Spares.refl (P := (· = set.addr)) t).pressed hstat hcnt side).rd _ rfl)
  rw [State.loopDone, hkept, State.g_p_same _ _ _ h1 h2, Nat.mod_eq_of_lt hv]

/-- What an update applies lies in the window (R28, R34). -/
theorem loopApply_within (cur computed : Int) {lo hi : Int} (h : lo ≤ hi) :
    lo ≤ (loopApply cur computed lo hi).1 ∧ (loopApply cur computed lo hi).1 ≤ hi := by
  simp only [loopApply, clampInt]
  split_ifs <;> constructor <;> omega

/-! ### The second update -/

theorem State.g_lt (s : State) (f : Fld) : s.g f < 2 ^ (f.hi + 1 - f.lo) := Nat.mod_lt _ (Nat.two_pow_pos _)

/-- The servo's window lies in the nine bits of its code (R69, R70). -/
theorem State.servoWindow_bounds (s : State) (c : Nat) : 0 ≤ (s.servoWindow c).1 ∧ (s.servoWindow c).2 < 512 := by
  unfold State.servoWindow
  split
  · exact ⟨Int.natCast_nonneg _, Int.ofNat_lt.mpr (s.g_lt (TB_SERVO_WIN_bw_max (c - 1)))⟩
  · refine ⟨le_refl 0, ?_⟩
    simp only [servoHw]
    split_ifs <;> decide

/-- The servo's update is none, or one of its loop. -/
theorem State.servoStep_cases (s : State) : s.servoStep = s ∨ ∃ v side,
    s.servoStep = s.loopDone TB_SERVO_BW_b v TB_SERVO_STAT TB_SERVO_BOUND_CNT side := by
  simp only [State.servoStep]
  split
  · exact .inl rfl
  · exact .inr ⟨_, _, rfl⟩

theorem State.servoStep_spares (s : State) :
    s.Spares (Outside [TB_SERVO_BW, TB_SERVO_STAT, TB_SERVO_BOUND_CNT]) s.servoStep := by
  obtain h | ⟨v, side, h⟩ := s.servoStep_cases
  · rw [h]
    exact State.Spares.refl s
  · rw [h]
    exact s.loopDone_spares TB_SERVO_BW_b v TB_SERVO_STAT TB_SERVO_BOUND_CNT side

theorem State.servoStep_tb (s : State) : s.servoStep.tb = s.tb := by
  obtain h | ⟨v, side, h⟩ := s.servoStep_cases
  · rw [h]
  · rw [h, State.loopDone_tb]

/-- An update of the servo brings the bandwidth code into its window (R69, R71). -/
theorem State.servoStep_within {s : State} (hmode : s.g TB_SERVO_CTL_mode ≠ 2) (hfree : s.loopBlocked TB_SERVO_STAT = false)
    (h1 : 1 ≤ s.activeSrc) (h3 : s.activeSrc ≤ 3) (hwin : (s.servoWindow s.activeSrc).1 ≤ (s.servoWindow s.activeSrc).2) :
    (s.servoWindow s.activeSrc).1 ≤ (s.servoStep.g TB_SERVO_BW_b : Int) ∧
      (s.servoStep.g TB_SERVO_BW_b : Int) ≤ (s.servoWindow s.activeSrc).2 := by
  have hgo : ¬ (s.activeSrc = 0 ∨ s.activeSrc = 4 ∨ s.g TB_SERVO_CTL_mode = 2 ∨ s.loopBlocked TB_SERVO_STAT = true) := by
    simp only [hmode, hfree, Bool.false_eq_true, or_false]
    omega
  obtain ⟨hlo, hhi⟩ := s.servoWindow_bounds s.activeSrc
  obtain ⟨hge, hle⟩ := loopApply_within (s.g TB_SERVO_BW_b) (s.servoComputed s.activeSrc (s.g TB_SERVO_BW_b)) hwin
  have hval : (s.servoStep.g TB_SERVO_BW_b : Int) = (loopApply (s.g TB_SERVO_BW_b)
      (s.servoComputed s.activeSrc (s.g TB_SERVO_BW_b)) (s.servoWindow s.activeSrc).1 (s.servoWindow s.activeSrc).2).1 := by
    simp only [State.servoStep, if_neg hgo]
    rw [State.loopDone_g _ _ (by decide) (by decide) (by decide) (by decide) (by show _ < 512; omega)]
    omega
  rw [hval]
  exact ⟨hge, hle⟩

theorem State.revertStep_of_clear {s : State} (h : s.bit TB_SRC_PRIO_revert = false) : s.revertStep = s := by
  simp [State.revertStep, h]

/-- The second update with revert clear: the second's mean is taken, and the servo makes its update where it runs. -/
theorem State.secondUpdate_of_clear {s : State} (htimed : s.dev.timed = true) (hsec : s.now % secNs = 0)
    (hlate : s.tb.secondAt < s.elapsed) (hrevert : s.bit TB_SRC_PRIO_revert = false) :
    s.secondUpdate = s.closeSecond.when s.servoOn State.servoStep := by
  have hkept : s.closeSecond.servoStep.bit TB_SRC_PRIO_revert = false := by
    rw [State.bit, State.g_of_rd (s.closeSecond.servoStep_spares.rd TB_SRC_PRIO (by decide))]
    exact hrevert
  have hlate' : ¬ s.elapsed ≤ s.tb.secondAt := by omega
  have hon : s.closeSecond.servoOn = s.servoOn := rfl
  simp only [State.secondUpdate, htimed, hsec, hlate', hon, State.when, State.revertStep_of_clear hkept, Bool.not_true,
    bne_self_eq_false, decide_false, Bool.or_self, Bool.false_eq_true, if_false]

theorem State.when_servoStep_tb (s : State) (b : Bool) : (s.when b State.servoStep).tb = s.tb :=
  State.when_keeps State.tb State.servoStep b s s.servoStep_tb

theorem State.when_servoStep_spares (s : State) (b : Bool) :
    s.Spares (Outside [TB_SERVO_BW, TB_SERVO_STAT, TB_SERVO_BOUND_CNT]) (s.when b State.servoStep) := by
  cases b with
  | false => exact State.Spares.refl s
  | true => exact s.servoStep_spares

/-- SERVO_UPDATE at a whole second with revert clear (R71). -/
theorem exec_servoUpdate_of_clear (at_ : TT) (s : State) (htimed : (s.atTime at_).dev.timed = true)
    (hsec : (s.atTime at_).now % secNs = 0) (hlate : (s.atTime at_).tb.secondAt < (s.atTime at_).elapsed)
    (hrevert : (s.atTime at_).bit TB_SRC_PRIO_revert = false) :
    ∃ t, exec (.servoUpdate at_) s = .next t ∧ t.tb = (s.atTime at_).closeSecond.tb ∧
      t.g TB_SERVO_BW_b = ((s.atTime at_).closeSecond.when (s.atTime at_).servoOn State.servoStep).g TB_SERVO_BW_b ∧
      keepsRegs s t [TB_SERVO_BW, TB_SERVO_STAT, TB_SERVO_BOUND_CNT] ∧ keepsMemory s t := by
  have hexec : exec (.servoUpdate at_) s = .next ((s.atTime at_).secondUpdate.ended s) := rfl
  rw [State.secondUpdate_of_clear htimed hsec hlate hrevert] at hexec
  obtain ⟨hrd, hfm⟩ := (s.atTime at_).closeSecond.when_servoStep_spares (s.atTime at_).servoOn
  have hspares : (s.atTime at_).Spares (Outside [TB_SERVO_BW, TB_SERVO_STAT, TB_SERVO_BOUND_CNT])
      ((s.atTime at_).closeSecond.when (s.atTime at_).servoOn State.servoStep) := ⟨hrd, hfm⟩
  refine ⟨_, hexec, ?_, State.ended_g _ s (by decide), keepsRegs_of_spares hspares, keepsMemory_of_spares hspares⟩
  rw [State.ended_tb, State.when_servoStep_tb]

/-! ### The time of day -/

/-- The fields of TB_TOD_CTL: armed, at_pps and arm (R68). -/
def todFields : List FieldDesc := [⟨2, 2, .ro, []⟩, ⟨1, 1, .rw, []⟩, ⟨0, 0, .wo, []⟩]

theorem regFields_todCtl : regFields TB_TOD_CTL = todFields := by decide

theorem locate_todCtl : locate TB_TOD_CTL = some (.tb, 0, 0x054) := by decide

theorem getLsbD_newWord_todCtl (old v : W32) : (newWord false todFields old v 0xFFFFFFFF).getLsbD 1 = v.getLsbD 1 := by
  simp [newWord, todFields, FieldDesc.mask]

theorem getLsbD_actWord_todCtl (v : W32) : (actWord todFields v 0xFFFFFFFF).getLsbD 0 = v.getLsbD 0 := by
  simp [actWord, todFields, FieldDesc.mask]

/-- The state with a time of day armed, or none. -/
def State.setTod (s : State) (x : Option (BitVec 64 × Nat)) : State := { s with tb := { s.tb with tod := x } }

theorem State.Spares.setTod {P : Nat → Prop} {s t : State} (h : s.Spares P t) (x : Option (BitVec 64 × Nat)) :
    s.Spares P (t.setTod x) := h.of_cells rfl rfl

/-- Arming at the next PPS edge keeps the value and its instant (R68). -/
theorem State.todArmed_of_pps {s : State} (hon : s.servoOn = true) (hpps : s.bit TB_TOD_CTL_at_pps = true) :
    s.todArmed = (s.setTod (some (s.rd64 TB_TOD_LO, s.elapsed))).pb TB_TOD_CTL_armed true := by
  simp only [State.todArmed, hon, hpps, Bool.not_true, Bool.false_eq_true, if_false, if_true]
  rfl

/-- A write of TB_TOD_CTL with arm and at_pps. -/
theorem State.writeReg_todCtl_pps {s : State} {v : W32} (hon : s.servoOn = true) (harm : v.getLsbD 0 = true)
    (hpps : v.getLsbD 1 = true) : ∃ w, s.writeReg .observer TB_TOD_CTL v 0xFFFFFFFF = (.ok,
      ((s.wr TB_TOD_CTL w).setTod (some (s.rd64 TB_TOD_LO, s.elapsed))).pb TB_TOD_CTL_armed true) := by
  obtain ⟨hgate, haction, hspecial, hwm⟩ := s.tb_plain locate_todCtl
  refine ⟨newWord false todFields (s.rd TB_TOD_CTL) v 0xFFFFFFFF, ?_⟩
  rw [State.writeReg_plain s _ v todFields _ _ regFields_todCtl rfl rfl (by rw [hgate]) rfl (haction v _) (hspecial _ _) ?_
    ?_ ?_ hwm]
  · have hbit : (s.wr TB_TOD_CTL (newWord false todFields (s.rd TB_TOD_CTL) v 0xFFFFFFFF)).bit TB_TOD_CTL_at_pps = true := by
      rw [← State.bitOf_eq_bit, State.bitOf, State.rd_wr_same, getLsbD_newWord_todCtl, hpps]
    have hvalue : (s.wr TB_TOD_CTL (newWord false todFields (s.rd TB_TOD_CTL) v 0xFFFFFFFF)).rd64 TB_TOD_LO =
        s.rd64 TB_TOD_LO := by
      rw [State.rd64, State.rd_wr_ne s (by decide), State.rd_wr_ne s (by decide), State.rd64]
    simp only [State.written, locate_todCtl, State.tbWritten, getLsbD_actWord_todCtl, harm, State.when, if_true]
    rw [State.todArmed_of_pps (s := s.wr TB_TOD_CTL _) hon hbit, hvalue]
    rfl
  · simp [encodingRefuses, todFields, FieldDesc.lists, Acc.fixed, Acc.isL]
  · simp [State.ruleRefuses, locate_todCtl]
  · simp [State.namesRefuse, State.namesOf, locate_todCtl]

/-- TOD_ARM for the next PPS edge (R68). -/
theorem exec_todArm_of_pps (at_ : TT) (v : W32) (s : State) (hreach : (s.atTime at_).reachable TB_TOD_CTL)
    (hon : (s.atTime at_).servoOn = true) (harm : v.getLsbD 0 = true) (hpps : v.getLsbD 1 = true) :
    ∃ t, exec (.todArm at_ v) s = .next t ∧
      t.tb.tod = some ((s.atTime at_).rd64 TB_TOD_LO, (s.atTime at_).elapsed) ∧ t.bit TB_TOD_CTL_armed = true ∧
      t.obs.answer = [0, 0] ∧ keepsRegs s t [TB_TOD_CTL] ∧ keepsMemory s t := by
  obtain ⟨-, -, -, -, -, -, hrmt⟩ := id hreach
  obtain ⟨w, hwrite⟩ := State.writeReg_todCtl_pps hon harm hpps
  obtain ⟨o, hexec, hanswer⟩ := State.timedWrite at_ s TB_TOD_CTL v hreach .ok _ hwrite hrmt
  have hin : ¬ Outside [TB_TOD_CTL] TB_TOD_CTL := not_outside_of_mem (List.mem_singleton.mpr rfl)
  have hspares : (s.atTime at_).Spares (Outside [TB_TOD_CTL]) { (((s.atTime at_).wr TB_TOD_CTL w).setTod
      (some ((s.atTime at_).rd64 TB_TOD_LO, (s.atTime at_).elapsed))).pb TB_TOD_CTL_armed true with obs := o } :=
    ((((State.Spares.refl _).wr hin w).setTod _).pb (f := TB_TOD_CTL_armed) hin true).of_cells rfl rfl
  refine ⟨_, hexec, ?_, ?_, ?_, keepsRegs_of_spares hspares, keepsMemory_of_spares hspares⟩
  · rw [State.ended_tb]
    rfl
  · rw [State.bit, State.ended_g _ s (by decide)]
    exact State.bit_pb_same _ TB_TOD_CTL_armed true (by decide) (by decide)
  · rw [State.ended_obs]
    exact hanswer

/-- An armed time of day that has waited 2 s is discarded with a NOTICE (R68). -/
theorem State.todExpire_of_due {s : State} {tod : BitVec 64} {from_ : Nat} (h : s.tb.tod = some (tod, from_))
    (hdue : from_ + 2 * secNs ≤ s.elapsed) :
    s.todExpire = ((s.setTod none).pb TB_TOD_CTL_armed false).eventNow 0x0A 0 0 := by
  have hdue' : ¬ s.elapsed < from_ + 2 * secNs := by omega
  simp only [State.todExpire, h, if_neg hdue']
  rfl

/-- TOD_DISCARD of a time of day that has waited 2 s (R68). -/
theorem exec_todDiscard_of_due (at_ : TT) {tod : BitVec 64} {from_ : Nat} (s : State)
    (h : (s.atTime at_).tb.tod = some (tod, from_)) (hdue : from_ + 2 * secNs ≤ (s.atTime at_).elapsed) :
    ∃ t, exec (.todDiscard at_) s = .next t ∧ t.tb.tod = none ∧ t.bit TB_TOD_CTL_armed = false ∧
      keepsRegs s t [TB_TOD_CTL] ∧ keepsMemory s t := by
  have hexec : exec (.todDiscard at_) s = .next ((s.atTime at_).todExpire.ended s) := rfl
  rw [State.todExpire_of_due h hdue] at hexec
  have hspares : (s.atTime at_).Spares (Outside [TB_TOD_CTL])
      ((((s.atTime at_).setTod none).pb TB_TOD_CTL_armed false).eventNow 0x0A 0 0) :=
    (((State.Spares.refl _).setTod none).pb (f := TB_TOD_CTL_armed) (not_outside_of_mem (List.mem_singleton.mpr rfl))
      false).event (fun _ => not_inLog_of_outside) (by decide) _ _ _
  have hlogged {f : Fld} (hf : ¬ inLog f.addr) : ((((s.atTime at_).setTod none).pb TB_TOD_CTL_armed false).eventNow 0x0A 0 0).g
      f = (((s.atTime at_).setTod none).pb TB_TOD_CTL_armed false).g f :=
    State.g_of_rd (State.event_rd _ _ _ _ _ hf (by decide))
  refine ⟨_, hexec, ?_, ?_, keepsRegs_of_spares hspares, keepsMemory_of_spares hspares⟩
  · obtain ⟨c, l, he⟩ := State.event_eq (((s.atTime at_).setTod none).pb TB_TOD_CTL_armed false) 0x0A 0 0 (s.atTime at_).now
    rw [State.ended_tb]
    exact congrArg (fun x : State => x.tb.tod) he
  · rw [State.bit, State.ended_g _ s (by decide), hlogged (by unfold inLog; decide)]
    exact State.bit_pb_same _ TB_TOD_CTL_armed false (by decide) (by decide)

/-! ### The learned ageing -/

/-- The registers that a fit of the ageing changes. -/
def ageingRegs : List Nat := [KEEP_OSC_AGEING, KEEP_AGE_FITS, TB_HO_STAT]

/-- A KEEP word that has been written is free of errors, and among those of the battery block it is marked. -/
theorem State.Spares.keepWritten {l : List Nat} {s t : State} (h : s.Spares (Outside l) t) (n : Nat) :
    s.Spares (Outside l) (t.keepWritten n) := by
  have hmark : ¬ Outside l BAT_KEEP_STAT := fun ho => absurd ho.1 (by decide)
  have hcleared := h.of_cells (u := { t with pwr := { t.pwr with
    softErrs := t.pwr.softErrs.filter (fun x => x.1 != n) } }) rfl rfl
  rw [State.keepWritten, State.when]
  split
  · exact hcleared.pb (f := ⟨BAT_KEEP_STAT, n, n⟩) hmark true
  · exact hcleared

theorem State.keepWritten_rd (s : State) (n : Nat) {a : Nat} (h : a ≠ BAT_KEEP_STAT) : (s.keepWritten n).rd a = s.rd a := by
  rw [State.keepWritten, State.when]
  split
  · exact State.rd_p_ne _ (Ne.symm h) _
  · rfl

/-- The state after a fit that gives a value for KEEP_OSC_AGEING (R74). -/
def State.ageingFitted (s : State) (b : Int) : State :=
  let t := { s with tb := { s.tb with fitAt := s.elapsed } }
  ((((t.inc (cnt16 KEEP_AGE_FITS)).keepWritten 2).wr KEEP_OSC_AGEING (sword b)).keepWritten 1).pb TB_HO_STAT_learned true

/-- At every hour of continuous lock from the 24th on the ageing is fitted (R74). -/
theorem State.fitAgeing_of_due {s : State} {from_ : Nat} {b : Int} (hlock : s.tb.lockSince = some from_)
    (hstate : s.g TB_STAT_tb_state = tbLocked) (hday : 86400 * secNs ≤ s.elapsed - from_)
    (hhour : (s.elapsed - from_) % (3600 * secNs) = 0) (hmeans : 86400 ≤ s.tb.hourMeans.length)
    (hnew : s.tb.fitAt ≠ s.elapsed)
    (hb : b = (s.keepRd 1).toInt + (ageingSlope (hourSums s.tb.hourMeans 24) - (s.keepRd 1).toInt) / 8)
    (hlo : -2147483648 ≤ b) (hhi : b ≤ 2147483647) : s.fitAgeing = s.ageingFitted b := by
  have hclamp : clampInt (-2147483648) 2147483647 b = b := by
    rw [clampInt, if_neg (by omega), if_neg (by omega)]
  have hday' : ¬ s.elapsed - from_ < 86400 * secNs := by omega
  have hmeans' : ¬ s.tb.hourMeans.length < 86400 := by omega
  have hnew' : (s.tb.fitAt == s.elapsed) = false := beq_false_of_ne hnew
  unfold State.fitAgeing
  split
  next h =>
    rw [hlock] at h
    cases h
  next t h =>
    obtain rfl : from_ = t := Option.some.inj (hlock.symm.trans h)
    simp only [hstate, hday', hhour, hmeans', hnew', ← hb, hclamp, bne_self_eq_false, decide_false, Bool.or_self,
      Bool.false_and, Bool.false_eq_true, if_false]
    rfl

theorem State.ageingFitted_spares (s : State) (b : Int) : s.Spares (Outside ageingRegs) (s.ageingFitted b) := by
  have hcounted := ((State.Spares.refl (P := Outside ageingRegs) s).of_cells
    (u := { s with tb := { s.tb with fitAt := s.elapsed } }) rfl rfl).inc (f := cnt16 KEEP_AGE_FITS)
      (not_outside_of_mem (by decide))
  exact (((hcounted.keepWritten 2).wr (not_outside_of_mem (by decide)) (sword b)).keepWritten 1).pb
    (not_outside_of_mem (by decide)) true

theorem State.ageing_ageingFitted (s : State) {b : Int} (hlo : -2147483648 ≤ b) (hhi : b ≤ 2147483647) :
    ((s.ageingFitted b).rd KEEP_OSC_AGEING).toInt = b := by
  rw [State.ageingFitted, State.pb, State.rd_p_ne _ (by decide), State.keepWritten_rd _ _ (by decide), State.rd_wr_same, sword,
    BitVec.toInt_ofInt]
  exact Int.bmod_eq_of_le (by omega) (by omega)

theorem State.fits_ageingFitted (s : State) (b : Int) :
    (s.ageingFitted b).g (cnt16 KEEP_AGE_FITS) = min (s.g (cnt16 KEEP_AGE_FITS) + 1) 65535 := by
  rw [← State.g_inc_cnt16]
  refine State.g_of_rd ?_
  show (s.ageingFitted b).rd KEEP_AGE_FITS = _
  rw [State.ageingFitted, State.pb, State.rd_p_ne _ (by decide), State.keepWritten_rd _ _ (by decide),
    State.rd_wr_ne _ (by decide), State.keepWritten_rd _ _ (by decide)]
  rfl

end Sys2Proof.Machine

/-! ### The obligations -/

/-- Settles O12: the second's mean is taken, the servo's loop applies a value in its window, and an armed time of day
waits or is discarded. -/
theorem secondsAndTimeOfDay : Obligations.SecondsAndTimeOfDay := by
  refine ⟨?_, fun at_ v s => exec_todArm_of_pps at_ v s, fun at_ tod from_ s => exec_todDiscard_of_due at_ s⟩
  intro at_ s u htimed hsec hlate hrevert
  obtain ⟨t, hexec, htb, hcode, hregs, hmem⟩ := exec_servoUpdate_of_clear at_ s htimed hsec hlate hrevert
  refine ⟨t, hexec, ?_, ?_, fun hon hmode hfree h1 h3 hwin => ?_, hregs, hmem⟩
  · rw [htb]
    rfl
  · rw [htb]
    rfl
  · have hclosed : u.closeSecond.when u.servoOn State.servoStep = u.closeSecond.servoStep := by rw [State.when, if_pos hon]
    rw [hcode, hclosed]
    exact State.servoStep_within (s := u.closeSecond) hmode hfree h1 h3 hwin

/-- Settles O13: the fit is due, and its value fits the register. -/
theorem ageingIsLearned : Obligations.AgeingIsLearned := by
  intro at_ from_ s u a b hlock hstate hday hhour hmeans hnew hlo hhi
  have hexec : exec (.ageingFit at_) s = .next (u.fitAgeing.ended s) := rfl
  rw [State.fitAgeing_of_due (b := b) hlock hstate hday hhour hmeans hnew rfl hlo hhi] at hexec
  have hspares := u.ageingFitted_spares b
  refine ⟨_, hexec, ?_, ?_, ?_, keepsRegs_of_spares hspares, keepsMemory_of_spares hspares⟩
  · rw [State.ended_rd _ s (by decide), State.ageing_ageingFitted u hlo hhi]
  · rw [State.bit, State.ended_g _ s (by decide)]
    exact State.bit_pb_same _ TB_HO_STAT_learned true (by decide) (by decide)
  · rw [State.ended_g _ s (by decide), State.fits_ageingFitted, State.g_of_rd (State.atTime_rd s at_ _)]
end

section
/-! Events, cues, windows and sample grids leave the timebase: its state, its registers, and frame memory beside them. -/

open Sys2Proof Sys2Proof.Machine

namespace Sys2Proof.Machine

/-! ### What leaves the timebase -/

/-- A register of the timebase's block. -/
abbrev InTb (a : Nat) : Prop := 0x10000 ≤ a ∧ a < 0x20000

theorem not_inTb_add (b n : Nat) (h : 0x20000 ≤ b) : ¬ InTb (b + n) := by omega

/-- The timebase is left as it was, with its registers, and so are frame memory and a remote access under way. -/
structure State.KeepsTime (s t : State) : Prop extends State.Spares InTb s t where
  tb : t.tb = s.tb
  rmt : t.ax.rmt = s.ax.rmt

namespace State.KeepsTime

variable {s t u : State}

theorem refl (s : State) : s.KeepsTime s := ⟨.refl s, rfl, rfl⟩

theorem trans (h : s.KeepsTime t) (h' : t.KeepsTime u) : s.KeepsTime u :=
  ⟨h.toSpares.trans h'.toSpares, h'.tb.trans h.tb, h'.rmt.trans h.rmt⟩

/-- An update of parts of the state that the timebase does not rest on. -/
theorem of_parts (h : s.KeepsTime t) (hc : u.cells = t.cells) (hf : u.fm = t.fm) (htb : u.tb = t.tb)
    (hr : u.ax.rmt = t.ax.rmt) : s.KeepsTime u := ⟨h.toSpares.of_cells hc hf, htb.trans h.tb, hr.trans h.rmt⟩

theorem wr (h : s.KeepsTime t) {a : Nat} (ha : ¬ InTb a) (v : W32) : s.KeepsTime (t.wr a v) :=
  ⟨h.toSpares.wr ha v, h.tb, h.rmt⟩

theorem p (h : s.KeepsTime t) {f : Fld} (hf : ¬ InTb f.addr) (v : Nat) : s.KeepsTime (t.p f v) := h.wr hf _

theorem pb (h : s.KeepsTime t) {f : Fld} (hf : ¬ InTb f.addr) (b : Bool) : s.KeepsTime (t.pb f b) := h.p hf _

theorem inc (h : s.KeepsTime t) {f : Fld} (hf : ¬ InTb f.addr) : s.KeepsTime (t.inc f) := h.p hf _

theorem incWrap (h : s.KeepsTime t) {f : Fld} (hf : ¬ InTb f.addr) : s.KeepsTime (t.incWrap f) := h.p hf _

theorem raise (h : s.KeepsTime t) {f : Fld} (hf : ¬ InTb f.addr) (v : Nat) : s.KeepsTime (t.raise f v) := h.p hf _

theorem setBitOf (h : s.KeepsTime t) {a : Nat} (ha : ¬ InTb a) (i : Nat) (b : Bool) : s.KeepsTime (t.setBitOf a i b) :=
  h.pb (f := ⟨a, i, i⟩) ha b

theorem event (h : s.KeepsTime t) {code : Nat} (hc : code < 64) (svc : Nat) (d : W32) (cause : Nat) :
    s.KeepsTime (t.event code svc d cause) := by
  have hspares := h.toSpares.event (fun a (ha : InTb a) => by unfold inLog; omega) hc svc d cause
  obtain ⟨c, l, he⟩ := State.event_eq t code svc d cause
  rw [he] at hspares ⊢
  exact ⟨hspares, h.tb, h.rmt⟩

theorem each {α : Type} (h : s.KeepsTime t) {f : State → α → State} (hf : ∀ s x, State.KeepsTime s (f s x)) (l : List α) :
    s.KeepsTime (t.each l f) :=
  h.trans (State.each_rel State.KeepsTime f l refl (fun _ _ _ => trans) hf t)

theorem when (h : s.KeepsTime t) (b : Bool) {f : State → State} (hf : ∀ s, State.KeepsTime s (f s)) :
    s.KeepsTime (t.when b f) := by
  cases b with
  | false => exact h
  | true => exact h.trans (hf t)

theorem of_wakesTo (h : s.WakesTo t) : s.KeepsTime t := by
  obtain ⟨c, r, n, hframe⟩ := h.frame
  have hnap : ¬ InTb SYS_NAP_CNT := by decide
  refine ⟨⟨fun a ha => h.rd a (by rintro rfl; exact hnap ha), h.fm⟩, ?_, ?_⟩
  · rw [hframe]
  · rw [hframe]

theorem setEntries (h : s.KeepsTime t) (l : List Entry) : s.KeepsTime (t.setEntries l) := h.of_parts rfl rfl rfl rfl

theorem updEntry (h : s.KeepsTime t) (id : CueId) (f : Entry → Entry) : s.KeepsTime (t.updEntry id f) := h.setEntries _

end State.KeepsTime

/-! ### Cues -/

theorem State.keepsTime_countReject (s : State) (svc : Nat) (seq : W32) (why : Nat) :
    s.KeepsTime (s.countReject svc seq why) := by
  have hcount : s.KeepsTime (if why = whyQuota then (s.inc (cnt16 CUE_QUOTA_CNT)).inc (SV_CUE_CNT_quota svc)
      else s.inc (cnt16 CUE_REJECT_CNT)) := by
    split
    · exact ((State.KeepsTime.refl s).inc (by decide)).inc (not_inTb_add _ _ (by decide))
    · exact (State.KeepsTime.refl s).inc (by decide)
  exact (((hcount.wr (by decide) _).p (by decide) _).p (by decide) _).event (by decide) _ _ _

theorem State.keepsTime_dropChain (s : State) (id : CueId) : s.KeepsTime (s.dropChain id) := by
  unfold State.dropChain
  split
  · exact .refl s
  · exact (((State.KeepsTime.refl s).setEntries _).inc (by decide)).event (by decide) _ _ _

theorem State.keepsTime_lastInstance (s : State) (e : Nat) : s.KeepsTime (s.lastInstance e) := by
  unfold State.lastInstance
  split
  · exact (State.KeepsTime.refl s).when _ fun s => (State.KeepsTime.refl s).setBitOf (not_inTb_add _ _ (by decide)) _ _
  · exact .refl s

theorem State.keepsTime_askNext (s : State) (e : Entry) : s.KeepsTime (s.askNext e) := by
  unfold State.askNext
  split
  · exact (State.KeepsTime.refl s).of_parts rfl rfl rfl rfl
  · exact .refl s

theorem State.keepsTime_removeEntry (s : State) (e : Entry) : s.KeepsTime (s.removeEntry e) :=
  ((State.KeepsTime.refl s).setEntries _).trans (State.keepsTime_askNext _ e)

theorem State.keepsTime_removeCue (s : State) (e : Entry) : s.KeepsTime (s.removeCue e) :=
  (s.keepsTime_removeEntry e).trans (State.keepsTime_dropChain _ e.id)

theorem State.keepsTime_finishCue (s : State) (e : Entry) : s.KeepsTime (s.finishCue e) :=
  (((State.KeepsTime.refl s).when _ fun s => (State.KeepsTime.refl s).event (by decide) _ _ _).trans
    (State.keepsTime_removeEntry _ e)).setEntries _

theorem State.keepsTime_sceneDone (s : State) (e : Entry) : s.KeepsTime (s.sceneDone e) := by
  unfold State.sceneDone
  split_ifs
  · exact .refl s
  · exact .refl s
  · split
    · exact s.keepsTime_finishCue _
    · exact .refl s

theorem State.keepsTime_wake (s : State) (r : Nat) : s.KeepsTime (s.wake r) := .of_wakesTo (s.wake_wakesTo r)

theorem State.keepsTime_wakeCue (s : State) (e : Entry) : s.KeepsTime (s.wakeCue e) :=
  ((State.KeepsTime.refl s).each State.keepsTime_wake _).updEntry _ _

theorem State.keepsTime_becomeLate (s : State) (e : Entry) : s.KeepsTime (s.becomeLate e) := by
  have hlogged : s.KeepsTime (((s.eventNow 0x11 (recSvc e.rec_) ((e.rec_.seq <<< 2) ||| BitVec.ofNat 32
      (recPolicy e.rec_))).inc (cnt16 CUE_LATE_CNT)).inc (SV_CUE_CNT_late (recSvc e.rec_))) :=
    (((State.KeepsTime.refl s).event (by decide) _ _ _).inc (by decide)).inc (not_inTb_add _ _ (by decide))
  simp only [State.becomeLate]
  split_ifs
  · exact .refl s
  · exact (hlogged.inc (by decide)).trans (State.keepsTime_removeCue _ e)
  · exact ((hlogged.inc (by decide)).setEntries _).trans (State.keepsTime_sceneDone _ e)
  · exact (hlogged.trans (State.keepsTime_wakeCue _ e)).updEntry _ _

theorem State.keepsTime_goQueued (s : State) (id : CueId) (launch : Nat) : s.KeepsTime (s.goQueued id launch) := by
  have hput (f : Entry → Entry) : s.KeepsTime (s.updEntry id f) := (State.KeepsTime.refl s).updEntry id f
  simp only [State.goQueued]
  split
  · exact hput _
  · split_ifs
    · exact (hput _).trans (State.keepsTime_becomeLate _ _)
    · exact (hput _).trans (State.keepsTime_wakeCue _ _)
    · exact hput _

theorem State.keepsTime_dedupe (s : State) (origin : MemberId) (seq : W32) : s.KeepsTime (s.dedupe origin seq).2 := by
  have hput (l : List DedupSt) : s.KeepsTime { s with cue := { s.cue with dedup := l } } :=
    (State.KeepsTime.refl s).of_parts rfl rfl rfl rfl
  simp only [State.dedupe]
  split
  · exact hput _
  · split_ifs
    all_goals exact hput _

theorem not_inTb_sourceCnt (src : CueSource) : ¬ InTb (sourceCnt src) := by
  cases src <;> exact not_inTb_add _ _ (by decide)

theorem State.keepsTime_addEntry (s : State) (src : CueSource) (r : CueRec) (script : Option Nat) (after : Option CueId) :
    s.KeepsTime (s.addEntry src r script after).2 := by
  have hseq (b : Bool) (v : W32) : s.KeepsTime (if b then s else s.wr CUE_SEQ v) := by
    cases b with
    | false => exact (State.KeepsTime.refl s).wr (by decide) v
    | true => exact .refl s
  have hcounted (t : State) (h : s.KeepsTime t) (q : CueSt) (n : Nat) : s.KeepsTime
      ((({ t with cue := q } : State).incWrap (word (sourceCnt src))).raise ⟨CUE_PEAK, 12, 0⟩ n) :=
    ((h.of_parts (u := { t with cue := q }) rfl rfl rfl rfl).incWrap (not_inTb_sourceCnt src)).raise (by decide) n
  have hplaced (t : State) (h : s.KeepsTime t) (armed queued : Bool) (e : Entry) (id : CueId) (n : Nat) :
      s.KeepsTime (if armed then t.wakeCue e else if queued then t.goQueued id n else t) := by
    split
    · exact h.trans (t.keepsTime_wakeCue e)
    · split
      · exact h.trans (t.keepsTime_goQueued id n)
      · exact h
  exact hplaced _ (hcounted _ (hseq _ _) _ _) _ _ _ _ _

/-! ### Frames -/

theorem State.KeepsTime.setPort {s t : State} (h : s.KeepsTime t) (p : Nat) (x : PortSt) : s.KeepsTime (t.setPort p x) :=
  h.of_parts rfl rfl rfl rfl

theorem State.keepsTime_putOnWire (s : State) (p : Nat) (f : AxFrame) : s.KeepsTime (s.putOnWire p f) := by
  have hsent (x y : PortSt) (w : List (Nat × AxFrame)) : s.KeepsTime ((({ s.setPort p x with
      ax := { (s.setPort p x).ax with wire := w } } : State).setPort p y).incWrap (word (AX_TX_FRAME_CNT p))) :=
    ((((State.KeepsTime.refl s).setPort p x).of_parts (u := { s.setPort p x with
      ax := { (s.setPort p x).ax with wire := w } }) rfl rfl rfl rfl).setPort p y).incWrap (not_inTb_add _ _ (by decide))
  exact hsent _ _ _

theorem State.keepsTime_sendFrame (s : State) (p : Nat) (f : AxFrame) : s.KeepsTime (s.sendFrame p f) := by
  have hcredit : s.KeepsTime (match creditOf p f.cls with | some c => s.p c (s.g c - f.cost) | none => s) := by
    unfold creditOf
    split_ifs
    · exact (State.KeepsTime.refl s).p (not_inTb_add _ _ (by decide)) _
    · exact (State.KeepsTime.refl s).p (not_inTb_add _ _ (by decide)) _
    · exact (State.KeepsTime.refl s).p (not_inTb_add _ _ (by decide)) _
    · exact .refl s
  simp only [State.sendFrame]
  split_ifs
  · exact .refl s
  · exact hcredit.trans (State.keepsTime_putOnWire _ _ _)
  · exact (State.KeepsTime.refl s).setPort _ _

theorem State.keepsTime_floodCue (s : State) (r : CueRec) (but : Option Nat) : s.KeepsTime (s.floodCue r but) := by
  have hport (s : State) (p : Nat) : s.KeepsTime (if s.treePort p && but != some p then
      s.sendFrame p { s.frame clCue 0 0 (cueWords r) with bcast := true, source := r.origin.truncate 12 } else s) := by
    split
    · exact s.keepsTime_sendFrame p _
    · exact .refl s
  simp only [State.floodCue]
  split
  · exact .refl s
  · exact ((State.KeepsTime.refl s).each hport _).of_parts rfl rfl rfl rfl

/-! ### Scripts and events -/

/-- What each step of a fold leaves, the fold leaves. -/
theorem State.KeepsTime.foldl {α β : Type} (F : β → State) (f : β → α → β) (h : ∀ b a, (F b).KeepsTime (F (f b a)))
    (l : List α) (b : β) : (F b).KeepsTime (F (l.foldl f b)) := by
  induction l generalizing b with
  | nil => exact .refl _
  | cons a l ih => exact (h b a).trans (ih (f b a))

theorem State.keepsTime_acceptChain (s : State) (src : CueSource) (recs : List CueRec) (open_ : Bool)
    (script : Option Nat) : s.KeepsTime (s.acceptChain src recs open_ script).2 := by
  unfold State.acceptChain
  split
  · exact (State.KeepsTime.refl s).each (fun s _ => s.keepsTime_countReject _ _ _) _
  · refine State.KeepsTime.foldl (fun acc : List Taken × Option CueId × State => acc.2.2) _ (fun acc r => ?_) recs
      ([], none, s)
    refine ((State.keepsTime_addEntry _ _ _ _ _).when _ fun t => ?_).when _ fun t => t.keepsTime_dedupe _ _
    split
    · exact t.keepsTime_floodCue _ _
    · exact t.keepsTime_floodCue _ _

theorem State.keepsTime_insertScript (s : State) (e : Nat) : s.KeepsTime (s.insertScript e) := by
  have hput (t : State) (h : s.KeepsTime t) (x : ScriptSt) : s.KeepsTime (t.setScript e x) := h.of_parts rfl rfl rfl rfl
  have hnoted (recs : List CueRec) (open_ ok : Bool) (script : Option Nat) (x y : ScriptSt) : s.KeepsTime
      (if ok then (s.acceptChain .script recs open_ script).2.setScript e x
        else (s.acceptChain .script recs open_ script).2.setScript e y) := by
    split
    · exact hput _ (s.keepsTime_acceptChain _ _ _ _) x
    · exact hput _ (s.keepsTime_acceptChain _ _ _ _) y
  unfold State.insertScript
  split
  · exact .refl s
  · split_ifs
    · exact .refl s
    · exact (State.KeepsTime.refl s).setBitOf (not_inTb_add _ _ (by decide)) _ _
    · dsimp only
      split
      · exact .refl s
      · exact hnoted _ _ _ _ _ _

theorem State.keepsTime_nextInstances (s : State) : s.KeepsTime s.nextInstances := by
  have hstart (q : CueSt) : s.KeepsTime { s with cue := q } := (State.KeepsTime.refl s).of_parts rfl rfl rfl rfl
  refine (hstart _).each (fun s e => ?_) _
  split
  · exact s.keepsTime_insertScript e
  · exact s.keepsTime_lastInstance e

theorem State.keepsTime_fire (s : State) (src cause : Nat) : s.KeepsTime (s.fire src cause) :=
  (((State.KeepsTime.refl s).setEntries _).each (fun s e => (s.keepsTime_askNext e).updEntry _ _) _).trans
    (State.keepsTime_nextInstances _)

/-! ### Monitors -/

theorem State.KeepsTime.setMon {s t : State} (h : s.KeepsTime t) (m : Nat) (x : MonSt) : s.KeepsTime (t.setMon m x) :=
  h.of_parts rfl rfl rfl rfl

theorem State.keepsTime_monReport (s : State) (m : Nat) (before : Bool) (cause : Nat) :
    s.KeepsTime (s.monReport m before cause) := by
  simp only [State.monReport]
  split_ifs
  · exact .refl s
  · exact ((State.KeepsTime.refl s).inc (not_inTb_add _ _ (by decide))).trans (State.keepsTime_fire _ _ _)
  · exact s.keepsTime_fire _ _

theorem not_inTb_wmStat (m : Nat) : ¬ InTb (WM_STAT m) := not_inTb_add _ _ (by decide)

theorem State.keepsTime_setLive (s : State) (m : Nat) (v side : Bool) (cause : Nat) :
    s.KeepsTime (s.setLive m v side cause) := by
  have hstat := not_inTb_wmStat m
  have hflags (t : State) (h : s.KeepsTime t) : s.KeepsTime (if t.bit (WM_CTL_mode m) then
      (if v then t.pb (WM_STAT_rise m) true else t.pb (WM_STAT_fall m) true)
      else t.when v (fun s => s.pb (WM_STAT_latched m) true)) := by
    split
    · split
      · exact h.pb (f := WM_STAT_rise m) hstat true
      · exact h.pb (f := WM_STAT_fall m) hstat true
    · exact h.when v fun s => (State.KeepsTime.refl s).pb (f := WM_STAT_latched m) hstat true
  simp only [State.setLive]
  split
  · exact .refl s
  · refine (hflags _ ?_).trans (State.keepsTime_monReport _ _ _ _)
    exact (((State.KeepsTime.refl s).pb (f := WM_STAT_live m) hstat v).setMon m _).when v fun s =>
      (State.KeepsTime.refl s).pb (f := WM_STAT_side m) hstat side

theorem State.keepsTime_monBlank (s : State) (m : Nat) : s.KeepsTime (s.monBlank m) := by
  have hput (b : Bool) := (State.KeepsTime.refl s).pb (f := WM_STAT_blanked m) (not_inTb_wmStat m) b
  simp only [State.monBlank]
  split
  · exact .refl s
  · split
    · exact hput _
    · exact (hput _).trans (State.keepsTime_setLive _ _ _ _ _)

theorem State.keepsTime_blankAll (s : State) : s.KeepsTime s.blankAll :=
  (State.KeepsTime.refl s).each State.keepsTime_monBlank _

theorem State.keepsTime_monPeriod (s : State) (rg : Nat) (frame : Bool) : s.KeepsTime (s.monPeriod rg frame) :=
  (State.KeepsTime.refl s).each (fun s m =>
    (((State.KeepsTime.refl s).pb (f := WM_STAT_latched m) (not_inTb_wmStat m) _).setMon m _).trans
      (State.keepsTime_monReport _ _ _ _)) _

/-! ### Cells and chains -/

theorem State.KeepsTime.setCell {s t : State} (h : s.KeepsTime t) (c : Nat) (x : CellSt) : s.KeepsTime (t.setCell c x) :=
  h.of_parts rfl rfl rfl rfl

theorem State.KeepsTime.drawIn {s t : State} (h : s.KeepsTime t) (lo hi : Nat) : s.KeepsTime (t.drawIn lo hi).2 :=
  h.of_parts rfl rfl rfl rfl

theorem State.KeepsTime.trimField {s t : State} (h : s.KeepsTime t) {f : Fld} (hf : ¬ InTb f.addr) :
    s.KeepsTime (t.trimField f) := (h.drawIn 0 2).p hf _

theorem State.keepsTime_trimUpdate (s : State) (c : Nat) : s.KeepsTime (s.trimUpdate c) := by
  have htrims : s.KeepsTime (s.each [⟨AC_TRIM_CONV c, 31, 16⟩, ⟨AC_TRIM_CONV c, 15, 0⟩, ⟨AC_TRIM_PGA c, 15, 8⟩,
      ⟨AC_TRIM_PGA c, 7, 0⟩, ⟨AC_TRIM_F0 c, 7, 0⟩] (fun s f => s.trimField f)) :=
    (((((State.KeepsTime.refl s).trimField (f := ⟨AC_TRIM_CONV c, 31, 16⟩) (not_inTb_add _ _ (by decide))).trimField
      (f := ⟨AC_TRIM_CONV c, 15, 0⟩) (not_inTb_add _ _ (by decide))).trimField
      (f := ⟨AC_TRIM_PGA c, 15, 8⟩) (not_inTb_add _ _ (by decide))).trimField
      (f := ⟨AC_TRIM_PGA c, 7, 0⟩) (not_inTb_add _ _ (by decide))).trimField
      (f := ⟨AC_TRIM_F0 c, 7, 0⟩) (not_inTb_add _ _ (by decide))
  simp only [State.trimUpdate]
  split
  · exact .refl s
  · exact ((htrims.incWrap (f := word (AC_CAL_UPD_CNT c)) (not_inTb_add _ _ (by decide))).pb
      (f := AC_STAT_cal_stale c) (not_inTb_add _ _ (by decide)) false).setCell c _

theorem State.keepsTime_keyEdge (s : State) (bt : Nat) (opens : Bool) : s.KeepsTime (s.keyEdge bt opens) := by
  refine (State.KeepsTime.refl s).each (fun s c => ?_) _
  dsimp only
  split
  · exact ((State.KeepsTime.refl s).setCell c _).trans (State.keepsTime_trimUpdate _ c)
  · exact (State.KeepsTime.refl s).setCell c _

theorem State.keepsTime_gridCheck (s : State) (c : Nat) : s.KeepsTime (s.gridCheck c) := by
  simp only [State.gridCheck]
  split
  · exact .refl s
  · exact ((State.KeepsTime.refl s).pb (f := FC_STAT_grid_free c) (not_inTb_add _ _ (by decide)) _).when _ fun s =>
      ((State.KeepsTime.refl s).pb (f := FC_STICKY_grid c) (not_inTb_add _ _ (by decide)) true).event (by decide) _ _ _

theorem State.keepsTime_gridsCheck (s : State) : s.KeepsTime s.gridsCheck :=
  (State.KeepsTime.refl s).each State.keepsTime_gridCheck _

end Sys2Proof.Machine
end

section
/-! What a frame start and a line start bring about in the other blocks leaves the timebase's state (R77, R80). -/

open Sys2Proof Sys2Proof.Machine

namespace Sys2Proof.Machine

/-! ### Words, counters and repetition -/

@[simp] theorem State.pb_tb (s : State) (f : Fld) (b : Bool) : (s.pb f b).tb = s.tb := rfl
@[simp] theorem State.inc_tb (s : State) (f : Fld) : (s.inc f).tb = s.tb := rfl
@[simp] theorem State.incWrap_tb (s : State) (f : Fld) : (s.incWrap f).tb = s.tb := rfl

@[simp] theorem State.event_tb (s : State) (code svc : Nat) (d : W32) (cause : Nat) :
    (s.event code svc d cause).tb = s.tb := by
  obtain ⟨c, l, h⟩ := State.event_eq s code svc d cause
  rw [h]

@[simp] theorem State.eventNow_tb (s : State) (code svc : Nat) (d : W32) : (s.eventNow code svc d).tb = s.tb :=
  State.event_tb s code svc d _

/-- What each application leaves, the repetition leaves. -/
theorem State.each_tb {α : Type} (f : State → α → State) (h : ∀ s x, (f s x).tb = s.tb) (l : List α) (s : State) :
    (s.each l f).tb = s.tb := State.each_keeps State.tb f l (fun s x _ => h s x) s

theorem State.when_tb (f : State → State) (h : ∀ s, (f s).tb = s.tb) (b : Bool) (s : State) :
    (s.when b f).tb = s.tb := State.when_keeps State.tb f b s (h s)

/-- A part of the state set or not, the timebase is the same. -/
theorem State.ite_tb {t u v : State} {b : Prop} [Decidable b] (ht : t.tb = v.tb) (hu : u.tb = v.tb) :
    (if b then t else u).tb = v.tb := by
  split
  · exact ht
  · exact hu

theorem State.eventNow_when_tb (s : State) (b : Bool) (code svc : Nat) (d : W32) :
    (s.when b (fun s => s.eventNow code svc d)).tb = s.tb := State.when_tb _ (fun s => s.eventNow_tb code svc d) b s

@[simp] theorem State.writeFm_tb (s : State) (a : Nat) (l : List Byte) : (s.writeFm a l).tb = s.tb := by
  obtain ⟨m, h⟩ := State.writeFm_eq l s a
  rw [h]

@[simp] theorem State.wakeUsed_tb (s : State) (r : Nat) : (s.wakeUsed r).tb = s.tb := by
  unfold State.wakeUsed
  split
  · exact (s.keepsTime_wake r).tb
  · rfl

@[simp] theorem State.monPeriod_tb (s : State) (rg : Nat) (frame : Bool) : (s.monPeriod rg frame).tb = s.tb :=
  (s.keepsTime_monPeriod rg frame).tb

@[simp] theorem State.blankAll_tb (s : State) : s.blankAll.tb = s.tb := s.keepsTime_blankAll.tb

@[simp] theorem State.gridsCheck_tb (s : State) : s.gridsCheck.tb = s.tb := s.keepsTime_gridsCheck.tb

@[simp] theorem State.keyEdge_tb (s : State) (n : Nat) (b : Bool) : (s.keyEdge n b).tb = s.tb := (s.keepsTime_keyEdge n b).tb

/-! ### Slices, lines and streams -/

@[simp] theorem State.fanOut_tb (s : State) (kind idx : Nat) (q : QSlice) : (s.fanOut kind idx q).tb = s.tb :=
  State.each_tb _ (fun _ _ => by rfl) _ s

@[simp] theorem State.lineToPorts_tb (s : State) (key line : Nat) (l : List Slice) :
    (s.lineToPorts key line l).tb = s.tb :=
  State.each_tb _ (fun _ _ => by rfl) _ s

@[simp] theorem State.produce_tb (s : State) (b n : Nat) : (s.produce b n).tb = s.tb :=
  State.when_tb _ (fun _ => by rfl) _ s

@[simp] theorem State.writerCounts_tb (s : State) (d gran n : Nat) : (s.writerCounts d gran n).tb = s.tb := by
  unfold State.writerCounts
  split
  · split
    · exact State.produce_tb _ _ _
    · rfl
  · rfl

@[simp] theorem State.showUnread_tb (s : State) (d : Nat) : (s.showUnread d).tb = s.tb := rfl

@[simp] theorem State.rollWindow_tb (s : State) : s.rollWindow.tb = s.tb := by
  simp only [State.rollWindow]
  split <;> rfl

@[simp] theorem State.lineServes_tb (s : State) (d bytes : Nat) : (s.lineServes d bytes).tb = s.tb :=
  State.each_tb _ (fun _ _ => by rfl) _ _

@[simp] theorem State.lineAsks_tb (s : State) (d bytes : Nat) (work : FmWork) : (s.lineAsks d bytes work).2.tb = s.tb := by
  unfold State.lineAsks
  extract_lets w credit m u own
  have hu : u.tb = s.tb := State.ite_tb s.rollWindow_tb s.rollWindow_tb
  clear_value u
  split
  · exact (u.lineServes_tb d bytes).trans hu
  · exact hu

@[simp] theorem State.lineStored_tb (s : State) (d base pos : Nat) : (s.lineStored d base pos).tb = s.tb := by
  simp only [State.lineStored]
  split
  · rw [State.showUnread_tb]
    split <;> simp
  · simp

@[simp] theorem State.lineBegun_tb (s : State) (d pos : Nat) (second audio : Bool) (shape : List Nat) :
    (s.lineBegun d pos second audio shape).tb = s.tb := rfl

@[simp] theorem State.storeLine_tb (s : State) (d line : Nat) (l : List Slice) (audio : Bool) :
    (s.storeLine d line l audio).tb = s.tb := by
  simp only [State.storeLine]
  split_ifs <;> simp

@[simp] theorem State.deliverSlice_tb (s : State) (kind idx : Nat) (q : QSlice) (audio : Bool) :
    (s.deliverSlice kind idx q audio).tb = s.tb := by
  unfold State.deliverSlice
  extract_lets f cur g v x u
  refine State.ite_tb ?_ (State.ite_tb (State.ite_tb rfl (State.ite_tb ?_ ?_)) rfl)
  · exact (State.when_tb _ (fun s => s.lineToPorts_tb _ _ _) _ v).trans (State.fanOut_tb _ _ _ _)
  · exact (State.storeLine_tb _ _ _ _ _).trans (s.writerCounts_tb _ _ _)
  · exact s.writerCounts_tb _ _ _

@[simp] theorem State.deliver_tb (s : State) (kind idx line : Nat) (l : List Slice) (audio : Bool) :
    (s.deliver kind idx line l audio).tb = s.tb :=
  State.each_tb _ (fun s q => s.deliverSlice_tb kind idx q audio) _ s

@[simp] theorem State.endReading_tb (s : State) (d : Nat) : (s.endReading d).tb = s.tb := by
  simp only [State.endReading]
  split <;> simp

@[simp] theorem State.yoyoDrop_tb (s : State) (d : Nat) : (s.yoyoDrop d).tb = s.tb := by
  simp [State.yoyoDrop]

@[simp] theorem State.followAudio_tb (s : State) (t : TaskDesc) (base : Nat) (joint : Option Nat) :
    (s.followAudio t base joint).tb = s.tb := by
  unfold State.followAudio
  split <;> rfl

@[simp] theorem State.yoyoDecide_tb (s : State) (t : TaskDesc) (d : Nat) : (s.yoyoDecide t d).tb = s.tb := by
  unfold State.yoyoDecide
  extract_lets e x0 u x w high low lines k r f o svc read c cont next x1
  have hu : u.tb = s.tb := s.endReading_tb d
  have hread (v : State) (h : v.tb = s.tb) (b : Nat) (rest : List Nat) (joint : Option Nat) :
      (read v b rest joint).tb = s.tb := by
    refine (State.followAudio_tb _ _ _ _).trans ?_
    exact (State.eventNow_when_tb v _ 0x2A svc _).trans h
  have hcont : cont.tb = s.tb := (State.eventNow_when_tb c _ 0x29 svc _).trans hu
  clear_value u read cont
  refine State.ite_tb hu (State.ite_tb ?_ (State.ite_tb ?_ ?_))
  · split
    · exact hu
    · exact (State.followAudio_tb _ _ _ _).trans hcont
  · split
    · exact hread _ ((u.yoyoDrop_tb d).trans hu) _ _ _
    · exact hu
  · split
    · exact hread _ hu _ _ _
    · exact hu

@[simp] theorem State.yoyoFrame_tb (s : State) (rg k : Nat) : (s.yoyoFrame rg k).tb = s.tb := by
  refine State.each_tb _ (fun s t => ?_) _ s
  split
  · split <;> simp
  · rfl

/-! ### Tasks -/

@[simp] theorem State.release_tb (s : State) (t : TaskDesc) (ins : List QSlice) : (s.release t ins).tb = s.tb := by
  refine State.each_tb _ (fun s x => State.ite_tb rfl ?_) _ s
  split
  · rfl
  · exact State.ite_tb rfl (State.ite_tb rfl rfl)

@[simp] theorem State.putOut_tb (s : State) (t : TaskDesc) (q : QSlice) (outs : List Slice) :
    (s.putOut t q outs).tb = s.tb := by
  unfold State.putOut
  extract_lets e x cur u named
  refine (State.each_tb _ (fun v o => ?_) _ u).trans rfl
  rw [State.deliverSlice_tb, State.incWrap_tb]

@[simp] theorem State.fillOut_tb (s : State) (a : Act) : (s.fillOut a).tb = s.tb := by
  unfold State.fillOut
  split <;> simp

@[simp] theorem State.yoyoLine_tb (s : State) (rg : Nat) : (s.yoyoLine rg).tb = s.tb := by
  refine State.each_tb _ (fun s t => ?_) _ s
  split
  · exact State.ite_tb rfl (State.each_tb _ (fun s q => s.fillOut_tb _) _ s)
  · rfl

@[simp] theorem State.forgetOld_tb (s : State) (t : TaskDesc) : (s.forgetOld t).tb = s.tb := by
  simp only [State.forgetOld]
  split
  · split <;> simp
  · simp
  · rfl

@[simp] theorem State.taskBits_tb (s : State) (t : TaskDesc) : (s.taskBits t).tb = s.tb := by
  unfold State.taskBits
  extract_lets x on bank r old fresh healed y begun q cleared u
  have hcleared : cleared.tb = s.tb := State.each_tb _ (fun _ _ => by rfl) _ q
  clear_value cleared
  have hu : u.tb = s.tb := by
    refine State.ite_tb ?_ rfl
    split
    · exact hcleared
    · exact hcleared
  clear_value u
  exact State.ite_tb rfl (State.ite_tb ((u.wakeUsed_tb _).trans hu) hu)

@[simp] theorem State.taskLine_tb (s : State) (rg : Nat) : (s.taskLine rg).tb = s.tb := by
  refine State.each_tb _ (fun s t => ?_) _ s
  rw [State.taskBits_tb, State.forgetOld_tb]

/-! ### Cells -/

@[simp] theorem State.keyedLine_tb (s : State) (rg : Nat) : (s.keyedLine rg).tb = s.tb :=
  State.each_tb _ (fun _ _ => by rfl) _ s

@[simp] theorem State.suspectTo_tb (s : State) (c t : Nat) : (s.suspectTo c t).tb = s.tb := by
  simp only [State.suspectTo, State.markBegins]
  split <;> simp

@[simp] theorem State.filtApply_tb (s : State) (c : Nat) : (s.filtApply c).tb = s.tb := by
  simp only [State.filtApply]
  split <;> simp

@[simp] theorem State.filtLine_tb (s : State) (rg : Nat) : (s.filtLine rg).tb = s.tb :=
  State.each_tb _ (fun s c => s.filtApply_tb c) _ s

/-! ### Line ports -/

@[simp] theorem State.txCount_tb (s : State) (p : Nat) (l : List Slice) : (s.txCount p l).tb = s.tb := by
  have hmarked (u : State) (b : Bool) (f : Fld) : (u.when b (fun s => s.pb f true)).tb = u.tb :=
    State.when_tb _ (fun _ => by rfl) b u
  exact (hmarked _ _ _).trans (hmarked _ _ _)

@[simp] theorem State.txLineEnd_tb (s : State) (p : Nat) : (s.txLineEnd p).tb = s.tb := by
  simp only [State.txLineEnd]
  split
  · rfl
  · split <;> simp

@[simp] theorem State.rxDeliver_tb (s : State) (p line : Nat) (l : List Slice) : (s.rxDeliver p line l).tb = s.tb := by
  simp [State.rxDeliver]

@[simp] theorem State.rxFill_tb (s : State) (p : Nat) (f : Format) (line : Nat) : (s.rxFill p f line).tb = s.tb := by
  simp [State.rxFill]

@[simp] theorem State.rxFillRun_tb (p : Nat) (f : Format) (n line : Nat) (s : State) :
    (s.rxFillRun p f line n).tb = s.tb := by
  induction n generalizing line s with
  | zero => rfl
  | succ n ih => rw [State.rxFillRun, ih, State.rxFill_tb]

@[simp] theorem State.completeFrame_tb (s : State) (p : Nat) : (s.completeFrame p).tb = s.tb := by
  simp only [State.completeFrame, State.fillFrame]
  split
  · rfl
  · split <;> simp

@[simp] theorem State.eqStart_tb (s : State) (p rate : Nat) (warm : Bool) : (s.eqStart p rate warm).tb = s.tb := by
  simp only [State.eqStart]
  split <;> rfl

@[simp] theorem State.startTrial_tb (s : State) (p i : Nat) : (s.startTrial p i).tb = s.tb := by
  simp only [State.startTrial]
  split <;> simp

@[simp] theorem State.startSearch_tb (s : State) (p : Nat) : (s.startSearch p).tb = s.tb :=
  (State.startTrial_tb _ p 0).trans (State.when_tb _ (fun s => s.completeFrame_tb p) _ s)

@[simp] theorem State.lpTakeMode_tb (s : State) (p : Nat) : (s.lpTakeMode p).tb = s.tb := by
  unfold State.lpTakeMode
  extract_lets rx tx old m x set woken searching held y idle z u v
  have hwoken : woken.tb = s.tb := ((State.wakeUsed_tb _ _).trans (State.wakeUsed_tb _ _)).trans rfl
  clear_value woken
  have hsearching : searching.tb = s.tb := State.ite_tb ((woken.startSearch_tb p).trans hwoken) hwoken
  clear_value searching
  have hidle : idle.tb = s.tb := State.ite_tb hsearching hsearching
  clear_value idle
  have hu : u.tb = s.tb := State.ite_tb hidle hidle
  clear_value u
  exact State.ite_tb rfl (State.ite_tb hu hu)

@[simp] theorem State.lpTakeDrive_tb (s : State) (p : Nat) : (s.lpTakeDrive p).tb = s.tb :=
  State.ite_tb rfl rfl

@[simp] theorem State.portLine_tb (s : State) (rg p : Nat) : (s.portLine rg p).tb = s.tb := by
  refine (State.when_tb _ (fun s => s.lpTakeMode_tb p) _ _).trans (State.when_tb _ (fun s => ?_) _ s)
  rw [State.lpTakeDrive_tb, State.txLineEnd_tb]

@[simp] theorem State.rxLineStart_tb (s : State) (rg p line : Nat) : (s.rxLineStart rg p line).tb = s.tb := by
  simp only [State.rxLineStart]
  split
  · split
    · rfl
    · split <;> simp
  · rfl

@[simp] theorem State.txLineStart_tb (s : State) (rg p : Nat) : (s.txLineStart rg p).tb = s.tb := by
  have htaken (b : Bool) (x : LpSt) : (if b then s.setLp p x else s).tb = s.tb := State.ite_tb rfl rfl
  refine State.ite_tb (htaken _ _) (State.ite_tb (htaken _ _) ?_)
  split
  · exact htaken _ _
  · exact State.ite_tb (htaken _ _) (State.ite_tb (htaken _ _) (State.ite_tb (htaken _ _) (htaken _ _)))

@[simp] theorem State.txFrameStart_tb (s : State) (rg p : Nat) (adjusted : Bool) :
    (s.txFrameStart rg p adjusted).tb = s.tb := by
  unfold State.txFrameStart
  extract_lets x own sent adj marked rate ok noted go y
  have hsent : sent.tb = s.tb := State.when_tb _ (fun _ => by rfl) _ s
  clear_value sent
  have hadj : adj.tb = s.tb := (State.when_tb _ (fun _ => by rfl) _ sent).trans hsent
  clear_value adj
  have hmarked : marked.tb = s.tb := (State.eventNow_when_tb adj _ 0x1D own _).trans hadj
  clear_value marked
  have hnoted : noted.tb = s.tb :=
    (State.when_tb _ (fun s => State.eventNow_tb (s.pb _ true) 0x1E own _) _ marked).trans hmarked
  clear_value noted
  exact State.ite_tb rfl hnoted

/-! ### Raster instants -/

/-- What begins with a line leaves the timebase. -/
@[simp] theorem State.lineWork_tb (s : State) (n : Nat) : (s.lineWork n).tb = s.tb := by
  refine (State.each_tb _ (fun s p => s.txLineStart_tb n p) _ _).trans ?_
  refine (State.each_tb _ (fun s p => s.rxLineStart_tb n p _) _ _).trans ?_
  refine (State.each_tb _ (fun s p => s.portLine_tb n p) _ _).trans ?_
  rw [State.strobe_tb, State.monPeriod_tb, State.filtLine_tb, State.yoyoLine_tb, State.taskLine_tb, State.keyedLine_tb]

@[simp] theorem State.drainFrame_tb (s : State) (rg t : Nat) : (s.drainFrame rg t).tb = s.tb := by
  unfold State.drainFrame
  split
  · rfl
  · split <;> rfl

end Sys2Proof.Machine
end

section
/-! Rasters and trigger timers at their instants, and the writes of their registers (R77, R78, R80, R82, R85). -/

open Sys2Proof Sys2Proof.Machine

namespace Sys2Proof.Machine

/-! ### Timers beside the rasters -/

/-- The rasters are left as they were, with the timebase's registers, frame memory and a remote access under way; timers
may have taken new settings. -/
structure State.KeepsRasters (s t : State) : Prop extends State.Spares InTb s t where
  rasters : t.tb.rasters = s.tb.rasters
  rmt : t.ax.rmt = s.ax.rmt

theorem State.KeepsTime.keepsRasters {s t : State} (h : s.KeepsTime t) : s.KeepsRasters t :=
  ⟨h.toSpares, congrArg TimebaseSt.rasters h.tb, h.rmt⟩

theorem State.KeepsRasters.trans {s t u : State} (h : s.KeepsRasters t) (h' : t.KeepsRasters u) : s.KeepsRasters u :=
  ⟨h.toSpares.trans h'.toSpares, h'.rasters.trans h.rasters, h'.rmt.trans h.rmt⟩

theorem State.keepsRasters_setBt (s : State) (n : Nat) (b : TimerSt) : s.KeepsRasters (s.setBt n b) :=
  ⟨(State.Spares.refl s).of_cells rfl rfl, rfl, rfl⟩

theorem State.rg_of_rasters {s t : State} (h : t.tb.rasters = s.tb.rasters) (n : Nat) : t.rg n = s.rg n := by
  rw [State.rg, h, State.rg]

theorem State.rg_of_tb {s t : State} (h : t.tb = s.tb) (n : Nat) : t.rg n = s.rg n :=
  State.rg_of_rasters (congrArg TimebaseSt.rasters h) n

theorem State.bt_of_tb {s t : State} (h : t.tb = s.tb) (n : Nat) : t.bt n = s.bt n := by
  rw [State.bt, h, State.bt]

theorem State.keepsTime_keyEdge_when (s : State) (n : Nat) (b opens : Bool) :
    s.KeepsTime (s.when b (fun s => s.keyEdge n opens)) := (State.KeepsTime.refl s).when b fun s => s.keepsTime_keyEdge n opens

/-- A timer that takes its register's setting leaves the rasters (R85). -/
theorem State.keepsRasters_btTakes (s : State) (n : Nat) : s.KeepsRasters (s.btTakes n) :=
  ((s.keepsTime_keyEdge_when n _ false).keepsRasters.trans (State.keepsRasters_setBt _ n _)).trans
    (State.keepsTime_keyEdge_when _ n _ true).keepsRasters

theorem State.keepsRasters_timersApply (s : State) (n : Nat) : s.KeepsRasters (s.timersApply n) := by
  refine State.each_rel State.KeepsRasters _ _ (fun s => (State.KeepsTime.refl s).keepsRasters)
    (fun _ _ _ => State.KeepsRasters.trans) (fun s b => ?_) s
  dsimp only
  split
  · exact s.keepsRasters_btTakes b
  · exact (State.KeepsTime.refl s).keepsRasters

/-! ### Frame and line starts -/

/-- A raster whose next frame begins with the settings of the registers (R77, R80). -/
def RasterSt.begun (r : RasterSt) (f : Format) (off : Int) : RasterSt :=
  { r with
    running := true, waiting := false, format := f.code, offset := off, frame := r.nextFrame, frameAt := r.nextAt,
    frameFrac := BitVec.toNat (BitVec.ofNat 16 (f.frac r.nextFrame)), line := 1, lineAt := r.nextAt,
    nextFrame := r.nextFrame + 1, nextAt := (f.inst off (r.nextFrame + 1) 1 0).toNat, change := false, interval := none,
    stepped := false }

/-- All that a frame start brings about leaves its raster in the new frame. -/
theorem State.frameBegins_rg {s : State} {n : Nat} {f : Format} (hf : formatOf (s.g (TB_RG_CTL_format n)) = some f) :
    (s.frameBegins n).rg n = (s.rg n).begun f (s.rgOffset n) := by
  have hports (u : State) (l : List Nat) (b : Bool) : (u.each l (fun s p => (s.portLine n p).txFrameStart n p b)).tb = u.tb :=
    State.each_tb _ (fun s p => (State.txFrameStart_tb _ n p b).trans (s.portLine_tb n p)) l u
  have hlogged (u : State) (b : Bool) (svc : State → Nat) (w : W32) (c : Nat) :
      (u.when b (fun s => s.event 0x0C (svc s) w c)).tb = u.tb := State.when_tb _ (fun s => s.event_tb 0x0C (svc s) w c) b u
  unfold State.frameBegins
  extract_lets r off k
  split
  next h =>
    rw [hf] at h
    cases h
  next g h =>
    obtain rfl : f = g := Option.some.inj (hf.symm.trans h)
    extract_lets begun logged timers yoyo ports
    have hlog : logged.rg n = r.begun f (s.rgOffset n) := by
      have htb : logged.tb = begun.tb := hlogged begun _ (fun s => (s.ownerOf kRg n).byte) _ _
      exact (State.rg_of_tb htb n).trans (State.setRg_rg s n _)
    clear_value logged
    have htimers : timers.rg n = r.begun f (s.rgOffset n) :=
      (State.rg_of_tb ((State.monPeriod_tb _ n true).trans ((State.gridsCheck_tb _).trans (State.blankAll_tb _))) n).trans
        ((State.rg_of_rasters (logged.keepsRasters_timersApply n).rasters n).trans hlog)
    clear_value timers
    have hyoyo : yoyo.rg n = r.begun f (s.rgOffset n) := (State.rg_of_tb (timers.yoyoFrame_tb n _) n).trans htimers
    clear_value yoyo
    have hports : ports.rg n = r.begun f (s.rgOffset n) := (State.rg_of_tb (hports _ _ _) n).trans hyoyo
    clear_value ports
    refine (State.rg_of_tb ?_ n).trans hports
    rw [State.lineWork_tb, State.strobe_tb, State.drainFrame_tb]

theorem State.frameDue_of_due {s : State} {n : Nat} (ht : s.dev.timed = true) (hon : s.rgOn n = true)
    (hc : (s.rg n).change = false) (hnow : (s.rg n).nextAt ≤ s.now) : s.frameDue n = s.frameBegins n := by
  simp only [State.frameDue, ht, hon, hc, Nat.not_lt.mpr hnow, Bool.not_true, decide_false, Bool.or_self, Bool.false_eq_true,
    if_false]

theorem State.rgSchedule_of_format {s : State} {n : Nat} {f : Format} (hf : formatOf (s.g (TB_RG_CTL_format n)) = some f)
    (t : Nat) (r : RasterSt) : s.rgSchedule n t r = s.setRg n ({ r with waiting := true }.due f (s.rgOffset n) t) := by
  unfold State.rgSchedule
  rw [hf]

/-- A raster that waits, in the interval of a change, for the first frame start of its new settings (R80). -/
def RasterSt.changing (r : RasterSt) (f : Format) (off : Int) : RasterSt :=
  { r with
    waiting := true, change := false, nextFrame := f.firstFrame off r.nextAt,
    nextAt := (f.inst off (f.firstFrame off r.nextAt) 1 0).toNat, interval := some (r.interval.getD r.nextAt) }

theorem State.frameDue_of_change {s : State} {n : Nat} {f : Format} (ht : s.dev.timed = true)
    (hrun : (s.rg n).running = true) (hc : (s.rg n).change = true) (hnow : (s.rg n).nextAt ≤ s.now)
    (hen : s.rgEnabled n = true) (hf : formatOf (s.g (TB_RG_CTL_format n)) = some f)
    (hlater : (f.inst (s.rgOffset n) (f.firstFrame (s.rgOffset n) (s.rg n).nextAt) 1 0).toNat ≠ (s.rg n).nextAt) :
    ∃ r, s.frameDue n = (s.setRg n r).setRg n ((s.rg n).changing f (s.rgOffset n)) := by
  have hon : s.rgOn n = true := by rw [State.rgOn, hrun, Bool.true_or]
  simp only [State.frameDue, ht, hon, hc, hen, hrun, Nat.not_lt.mpr hnow, Bool.not_true, decide_false, Bool.or_self,
    Bool.false_eq_true, if_false, if_true, State.rgSchedule_of_format hf, State.setRg_rg, RasterSt.due, if_neg hlater]
  refine ⟨_, congrArg (State.setRg _ n) ?_⟩
  simp only [RasterSt.changing, hrun]

theorem State.lineDue_of_due {s : State} {n : Nat} {f : Format} {next : Nat} (ht : s.dev.timed = true)
    (hrun : (s.rg n).running = true) (hf : formatOf (s.rg n).format = some f) (hnext : (s.rg n).nextLineAt = some next)
    (hnow : next ≤ s.now) (hin : (s.rg n).line < f.lines ∨ (s.rg n).held = true) (hlt : next < (s.rg n).nextAt) :
    s.lineDue n = (s.setRg n { s.rg n with line := (s.rg n).line + 1, lineAt := next }).lineWork n := by
  have hheld : (decide (f.lines ≤ (s.rg n).line) && !(s.rg n).held) = false := by
    obtain hlines | hheld := hin
    · rw [decide_eq_false (by omega), Bool.false_and]
    · rw [hheld, Bool.not_true, Bool.and_false]
  unfold State.lineDue
  dsimp only
  rw [hf, hnext]
  simp only [ht, hrun, hheld, Nat.not_lt.mpr hnow, Nat.not_le.mpr hlt, Bool.not_true, decide_false, Bool.or_self,
    Bool.false_eq_true, if_false]

/-- FRAME_START where no change is pending (R77). -/
theorem exec_frameStart_of_due (at_ : TT) (n : Fin 16) {f : Format} (s : State) (ht : (s.atTime at_).dev.timed = true)
    (hon : (s.atTime at_).rgOn n = true) (hc : ((s.atTime at_).rg n).change = false)
    (hnow : ((s.atTime at_).rg n).nextAt ≤ (s.atTime at_).now)
    (hf : formatOf ((s.atTime at_).g (TB_RG_CTL_format n)) = some f) :
    ∃ t, exec (.frameStart at_ n) s = .next t ∧ t.rg n = ((s.atTime at_).rg n).begun f ((s.atTime at_).rgOffset n) := by
  have hexec : exec (.frameStart at_ n) s = .next (((s.atTime at_).frameDue n).ended s) := rfl
  rw [State.frameDue_of_due ht hon hc hnow] at hexec
  exact ⟨_, hexec, (State.rg_of_tb (State.ended_tb _ s) n).trans (State.frameBegins_rg hf)⟩

/-- FRAME_START with a change pending, where the new settings' first frame starts later (R80). -/
theorem exec_frameStart_of_change (at_ : TT) (n : Fin 16) {f : Format} (s : State) (ht : (s.atTime at_).dev.timed = true)
    (hrun : ((s.atTime at_).rg n).running = true) (hc : ((s.atTime at_).rg n).change = true)
    (hnow : ((s.atTime at_).rg n).nextAt ≤ (s.atTime at_).now) (hen : (s.atTime at_).rgEnabled n = true)
    (hf : formatOf ((s.atTime at_).g (TB_RG_CTL_format n)) = some f)
    (hlater : (f.inst ((s.atTime at_).rgOffset n) (f.firstFrame ((s.atTime at_).rgOffset n) ((s.atTime at_).rg n).nextAt) 1
      0).toNat ≠ ((s.atTime at_).rg n).nextAt) :
    ∃ t, exec (.frameStart at_ n) s = .next t ∧ t.rg n = ((s.atTime at_).rg n).changing f ((s.atTime at_).rgOffset n) ∧
      keepsRegs s t [] ∧ keepsMemory s t := by
  have hexec : exec (.frameStart at_ n) s = .next (((s.atTime at_).frameDue n).ended s) := rfl
  obtain ⟨r, hr⟩ := State.frameDue_of_change ht hrun hc hnow hen hf hlater
  rw [hr] at hexec
  have hspares : (s.atTime at_).Spares (Outside []) (((s.atTime at_).setRg n r).setRg n
      (((s.atTime at_).rg n).changing f ((s.atTime at_).rgOffset n))) := (State.Spares.refl _).of_cells rfl rfl
  exact ⟨_, hexec, (State.rg_of_tb (State.ended_tb _ s) n).trans (State.setRg_rg _ n _), keepsRegs_of_spares hspares,
    keepsMemory_of_spares hspares⟩

/-- LINE_START of a running raster (R77). -/
theorem exec_lineStart_of_due (at_ : TT) (n : Fin 16) {f : Format} {next : Nat} (s : State)
    (ht : (s.atTime at_).dev.timed = true) (hrun : ((s.atTime at_).rg n).running = true)
    (hf : formatOf ((s.atTime at_).rg n).format = some f) (hnext : ((s.atTime at_).rg n).nextLineAt = some next)
    (hnow : next ≤ (s.atTime at_).now) (hin : ((s.atTime at_).rg n).line < f.lines ∨ ((s.atTime at_).rg n).held = true)
    (hlt : next < ((s.atTime at_).rg n).nextAt) :
    ∃ t, exec (.lineStart at_ n) s = .next t ∧
      t.rg n = { (s.atTime at_).rg n with line := ((s.atTime at_).rg n).line + 1, lineAt := next } := by
  have hexec : exec (.lineStart at_ n) s = .next (((s.atTime at_).lineDue n).ended s) := rfl
  rw [State.lineDue_of_due ht hrun hf hnext hnow hin hlt] at hexec
  exact ⟨_, hexec, (State.rg_of_tb ((State.ended_tb _ s).trans (State.lineWork_tb _ n)) n).trans (State.setRg_rg _ n _)⟩

/-! ### Windows -/

theorem State.windowSet_bt (s : State) (n : Nat) (opens : Bool) : (s.windowSet n opens).bt n =
    { s.bt n with open_ := opens, openAt := if opens then some s.now else (s.bt n).openAt } :=
  (State.bt_of_tb (State.keyEdge_tb _ n opens) n).trans (State.setBt_bt s n _)

theorem State.keepsRasters_windowSet (s : State) (n : Nat) (opens : Bool) : s.KeepsRasters (s.windowSet n opens) :=
  (s.keepsRasters_setBt n _).trans (State.keepsTime_keyEdge _ n opens).keepsRasters

theorem State.windowEdge_of_covers {s : State} {n : Nat} {opens : Bool} (hopen : (s.bt n).open_ = !opens)
    (hcov : s.btCovers (s.bt n).ctl = opens) : s.windowEdge n opens = (s.windowSet n opens).blankAll := by
  have hedge : ((s.bt n).open_ == opens || s.btCovers (s.bt n).ctl != opens) = false := by
    rw [hopen, hcov]
    cases opens <;> rfl
  simp only [State.windowEdge, hedge, Bool.false_eq_true, if_false]

/-- BT_WINDOW_EDGE where the raster places it (R82). -/
theorem exec_btWindowEdge_of_covers (at_ : TT) (n : Fin 32) {opens : Bool} (s : State)
    (hopen : ((s.atTime at_).bt n).open_ = !opens) (hcov : (s.atTime at_).btCovers ((s.atTime at_).bt n).ctl = opens) :
    ∃ t, exec (.btWindowEdge at_ n opens) s = .next t ∧ (t.bt n).open_ = opens ∧
      (opens = true → (t.bt n).openAt = some (s.atTime at_).now) ∧ keepsMemory s t := by
  have hexec : exec (.btWindowEdge at_ n opens) s = .next (((s.atTime at_).windowEdge n opens).ended s) := rfl
  rw [State.windowEdge_of_covers hopen hcov] at hexec
  have hbt : (State.ended ((s.atTime at_).windowSet n opens).blankAll s).bt n = _ :=
    (State.bt_of_tb ((State.ended_tb _ s).trans (State.blankAll_tb _)) n).trans (State.windowSet_bt _ n opens)
  refine ⟨_, hexec, ?_, fun h => ?_, keepsMemory_of_spares
    (((s.atTime at_).keepsRasters_windowSet n opens).trans (State.keepsTime_blankAll _).keepsRasters).toSpares⟩
  · rw [hbt]
  · rw [hbt, h]
    rfl

/-! ### Register writes -/

/-- What a command's write of a timebase register makes of it leaves the new word, and keeps frame memory. -/
theorem exec_tbWrite_of_ok (at_ : TT) (s : State) {a i off : Nat} {v : W32} (hloc : locate a = some (.tb, i, off))
    (hend : endsOn a = false) (htb : InTb a) (hreach : (s.atTime at_).reachable a)
    (hok : ((s.atTime at_).writeReg .observer a v 0xFFFFFFFF).1 = .ok)
    (hkeeps : ∀ (u : State) (act : W32), u.Spares InTb (u.tbWritten off act) ∧ (u.tbWritten off act).ax.rmt = u.ax.rmt) :
    ∃ t act, timed at_ (fun s => s.portWrite a v) s = .next t ∧ t.obs.answer = [0, 0] ∧
      t.rd a = newWord false (regFields a) (s.rd a) v 0xFFFFFFFF ∧
      t.tb = (((s.atTime at_).wr a (newWord false (regFields a) (s.rd a) v 0xFFFFFFFF)).tbWritten off act).tb ∧
      keepsMemory s t := by
  obtain ⟨-, haction, hspecial, hwm⟩ := State.tb_plain hloc (s.atTime at_)
  have hwrite := State.writeReg_of_ok (fun act => haction _ act) (fun act => hspecial _ act) hwm hok
  rw [State.atTime_rd s at_ a] at hwrite
  generalize hnew : newWord (Writer.observer == Writer.image) (regFields a) (s.rd a) v 0xFFFFFFFF = new at hwrite
  generalize actWord (regFields a) v 0xFFFFFFFF = act at hwrite
  have hwritten : ((s.atTime at_).wr a new).written .observer a (s.rd a) v act 0xFFFFFFFF =
      ((s.atTime at_).wr a new).tbWritten off act := by
    unfold State.written
    rw [hloc]
  rw [hwritten] at hwrite
  obtain ⟨hspares, hrmt⟩ := hkeeps ((s.atTime at_).wr a new) act
  obtain ⟨-, -, -, -, -, -, hnormt⟩ := id hreach
  obtain ⟨o, hexec, hanswer⟩ := State.timedWrite at_ s a v hreach .ok _ (Prod.ext hok hwrite) (hrmt.trans hnormt)
  refine ⟨_, act, hexec, ?_, ?_, ?_, keepsMemory_ended (hspares.fm.trans (State.atTime_fm s at_))⟩
  · rw [State.ended_obs]
    exact hanswer
  · rw [State.ended_rd _ s hend]
    exact ((hspares.rd a htb).trans (State.rd_wr_same _ a new)).trans hnew.symm
  · rw [State.ended_tb]
    exact congrArg (fun w => (((s.atTime at_).wr a w).tbWritten off act).tb) hnew.symm

/-- A change of a raster's registers changes the raster alone (R78, R80). -/
theorem State.rgChanged_eq (s : State) (n : Nat) : ∃ r, s.rgChanged n = s.setRg n r := by
  unfold State.rgChanged
  dsimp only
  split
  · exact ⟨_, rfl⟩
  · split
    · unfold State.rgSchedule
      split <;> exact ⟨_, rfl⟩
    · exact ⟨_, rfl⟩

theorem State.rgChanged_of_on {s : State} {n : Nat} (ht : s.dev.timed = true) (hon : s.rgOn n = true) :
    s.rgChanged n = s.setRg n { s.rg n with change := true } := by
  simp only [State.rgChanged, ht, hon, Bool.and_self, if_true]

theorem State.btChanged_of_on {s : State} {n : Nat} (ht : s.dev.timed = true) (hon : s.rgOn (btRg (s.bt n).ctl) = true) :
    s.btChanged n = s.setBt n { s.bt n with change := true } := by
  simp only [State.btChanged, ht, hon, Bool.and_self, if_true]

theorem State.keepsRasters_btChanged (s : State) (n : Nat) : s.KeepsRasters (s.btChanged n) := by
  unfold State.btChanged
  dsimp only
  split
  · exact s.keepsRasters_setBt n _
  · exact (s.keepsRasters_btTakes n).trans (State.keepsTime_gridsCheck _).keepsRasters

/-- A write of RGn_CTL or RGn_OFFSET is followed by a check of the sample grids. -/
theorem State.tbWritten_rg (s : State) {off n : Nat} (h1 : 0x100 ≤ off) (h2 : off < 0x180) (hn : (off - 0x100) / 8 = n)
    (act : W32) : s.tbWritten off act = (s.rgChanged n).each (List.range 48) (fun s c => s.gridCheck c) := by
  unfold State.tbWritten
  rw [if_neg (by omega), if_neg (by omega), if_neg (by omega), if_neg (by omega), if_pos ⟨h1, h2⟩, hn]

/-- A write of BTn_CTL is followed by the monitors' blanking. -/
theorem State.tbWritten_bt (s : State) {off n : Nat} (h : 0x200 ≤ off) (hn : (off - 0x200) / 4 = n) (act : W32) :
    s.tbWritten off act = (s.btChanged n).blankAll := by
  unfold State.tbWritten
  rw [if_neg (by omega), if_neg (by omega), if_neg (by omega), if_neg (by omega), if_neg (by omega), if_pos h, hn]

/-- The register that RGN_CTL_WRITE writes, and its offset in the block. -/
def rgReg (n : Nat) (offset : Bool) : Nat := if offset then TB_RG_OFFSET n else TB_RG_CTL n

def rgOff (n : Nat) (offset : Bool) : Nat := if offset then 0x104 + n * 8 else 0x100 + n * 8

theorem locate_rgReg : ∀ (n : Fin 16) (offset : Bool), locate (rgReg n offset) = some (Block.tb, 0, rgOff n offset) := by decide

theorem endsOn_rgReg : ∀ (n : Fin 16) (offset : Bool), endsOn (rgReg n offset) = false := by decide

theorem locate_btCtl : ∀ n : Fin 32, locate (TB_BT_CTL n) = some (Block.tb, 0, 0x200 + n.val * 4) := by decide

theorem endsOn_btCtl : ∀ n : Fin 32, endsOn (TB_BT_CTL n) = false := by decide

theorem inTb_rgReg (n : Fin 16) (offset : Bool) : InTb (rgReg n offset) := by
  cases offset
  · simp only [rgReg, TB_RG_CTL, Bool.false_eq_true, if_false]
    omega
  · simp only [rgReg, TB_RG_OFFSET, if_true]
    omega

theorem inTb_btCtl (n : Fin 32) : InTb (TB_BT_CTL n) := by
  simp only [TB_BT_CTL]
  omega

theorem rgOff_eq (n : Fin 16) (offset : Bool) :
    0x100 ≤ rgOff n offset ∧ rgOff n offset < 0x180 ∧ (rgOff n offset - 0x100) / 8 = n := by
  cases offset
  · simp only [rgOff, Bool.false_eq_true, if_false]
    omega
  · simp only [rgOff, if_true]
    omega

/-- RGN_CTL_WRITE that the register rules take (R78, R80). -/
theorem exec_rgnCtlWrite_of_ok (at_ : TT) (n : Fin 16) (offset : Bool) (v : W32) (s : State)
    (hreach : (s.atTime at_).reachable (rgReg n offset))
    (hok : ((s.atTime at_).writeReg .observer (rgReg n offset) v 0xFFFFFFFF).1 = .ok) :
    ∃ t, exec (.rgnCtlWrite at_ n offset v) s = .next t ∧ t.obs.answer = [0, 0] ∧
      t.rd (rgReg n offset) = newWord false (regFields (rgReg n offset)) (s.rd (rgReg n offset)) v 0xFFFFFFFF ∧
      ((s.atTime at_).dev.timed = true → (s.atTime at_).rgOn n = true →
        t.rg n = { (s.atTime at_).rg n with change := true }) ∧ keepsMemory s t := by
  obtain ⟨h1, h2, hn⟩ := rgOff_eq n offset
  obtain ⟨t, act, hexec, hanswer, hrd, htb, hmem⟩ := exec_tbWrite_of_ok at_ s (locate_rgReg n offset)
    (endsOn_rgReg n offset) (inTb_rgReg n offset) hreach hok fun u act => by
      rw [u.tbWritten_rg h1 h2 hn act]
      obtain ⟨r, hr⟩ := u.rgChanged_eq n
      have hgrids := (State.KeepsTime.refl (u.rgChanged n)).each State.keepsTime_gridCheck (List.range 48)
      rw [hr] at hgrids ⊢
      refine ⟨((State.Spares.refl u).of_cells (u := u.setRg n r) rfl rfl).trans hgrids.toSpares, ?_⟩
      rw [hgrids.rmt, State.setRg_ax]
  refine ⟨t, hexec, hanswer, hrd, fun ht hon => ?_, hmem⟩
  rw [State.tbWritten_rg _ h1 h2 hn, State.rgChanged_of_on (s := (s.atTime at_).wr _ _) ht hon] at htb
  have hgrids (u : State) := ((State.KeepsTime.refl u).each State.keepsTime_gridCheck (List.range 48)).tb
  rw [State.rg_of_tb (htb.trans (hgrids _)) n, State.setRg_rg, State.rg_of_tb (State.wr_tb _ _ _)]

/-- BTN_CTL_WRITE that the register rules take (R85). -/
theorem exec_btnCtlWrite_of_ok (at_ : TT) (n : Fin 32) (v : W32) (s : State)
    (hreach : (s.atTime at_).reachable (TB_BT_CTL n))
    (hok : ((s.atTime at_).writeReg .observer (TB_BT_CTL n) v 0xFFFFFFFF).1 = .ok) :
    ∃ t, exec (.btnCtlWrite at_ n v) s = .next t ∧ t.obs.answer = [0, 0] ∧
      t.rd (TB_BT_CTL n) = newWord false (regFields (TB_BT_CTL n)) (s.rd (TB_BT_CTL n)) v 0xFFFFFFFF ∧
      ((s.atTime at_).dev.timed = true → (s.atTime at_).rgOn (btRg ((s.atTime at_).bt n).ctl) = true →
        t.bt n = { (s.atTime at_).bt n with change := true }) ∧ keepsMemory s t := by
  have hoff : (0x200 + n * 4 - 0x200) / 4 = n.val := by omega
  obtain ⟨t, act, hexec, hanswer, hrd, htb, hmem⟩ := exec_tbWrite_of_ok at_ s (locate_btCtl n) (endsOn_btCtl n) (inTb_btCtl n)
    hreach hok fun u act => by
      rw [u.tbWritten_bt (Nat.le_add_right _ _) hoff act]
      have hkeeps := (u.keepsRasters_btChanged n).trans (State.keepsTime_blankAll _).keepsRasters
      exact ⟨hkeeps.toSpares, hkeeps.rmt⟩
  refine ⟨t, hexec, hanswer, hrd, fun ht hon => ?_, hmem⟩
  rw [State.tbWritten_bt _ (Nat.le_add_right _ _) hoff, State.btChanged_of_on (s := (s.atTime at_).wr _ _) ht hon,
    State.blankAll_tb] at htb
  exact (State.bt_of_tb htb n).trans (State.setBt_bt _ n _)

end Sys2Proof.Machine

/-! ### The obligation -/

/-- Settles O14: what a raster's instants bring about in other blocks leaves the raster, and a write changes no more of the
timebase than its raster or timer. -/
theorem rastersAdvanceAndWait : Obligations.RastersAdvanceAndWait := by
  refine ⟨?_, ?_, ?_, ?_, ?_, ?_⟩
  · intro at_ n f s u r ht hon hc hnow hf
    obtain ⟨t, hexec, hrg⟩ := exec_frameStart_of_due at_ n s ht hon hc hnow hf
    exact ⟨t, hexec, congrArg RasterSt.running hrg, congrArg RasterSt.frame hrg, congrArg RasterSt.frameAt hrg,
      congrArg RasterSt.line hrg, congrArg RasterSt.format hrg, congrArg RasterSt.nextFrame hrg⟩
  · intro at_ n f s u r k next ht hrun hc hnow hen hf hlater
    exact exec_frameStart_of_change at_ n s ht hrun hc hnow hen hf hlater
  · intro at_ n f next s u r ht hrun hf hnext hnow hin hlt
    obtain ⟨t, hexec, hrg⟩ := exec_lineStart_of_due at_ n s ht hrun hf hnext hnow hin hlt
    refine ⟨t, hexec, ?_, ?_, ?_, ?_⟩
    all_goals rw [hrg]
  · intro at_ n opens s u hopen hcov
    exact exec_btWindowEdge_of_covers at_ n s hopen hcov
  · intro at_ n offset v s u a hreach hok
    exact exec_rgnCtlWrite_of_ok at_ n offset v s hreach hok
  · intro at_ n v s u a hreach hok
    exact exec_btnCtlWrite_of_ok at_ n v s hreach hok
end

section
/-! What the event log holds after a command, and NOP and NOTIFY cues. -/

open Sys2Proof Sys2Proof.Machine

namespace Sys2Proof.Machine

/-! ### Records in the commit stage -/

theorem mem_logInsert {x r : LogRec} {l : List LogRec} : x ∈ logInsert r l ↔ x = r ∨ x ∈ l := by
  induction l with
  | nil => simp [logInsert]
  | cons y l ih =>
    unfold logInsert
    split
    · simp
    · simp only [List.mem_cons, ih]
      tauto

/-- The commit stage of a state loses no record on the way to another (R446). -/
def State.StageGrows (s t : State) : Prop := ∀ r ∈ s.log.stage, r ∈ t.log.stage

theorem State.StageGrows.of_eq {s t : State} (h : t.log.stage = s.log.stage) : s.StageGrows t := fun _ hr => h ▸ hr

theorem State.StageGrows.trans {s t u : State} (h : s.StageGrows t) (h' : t.StageGrows u) : s.StageGrows u :=
  fun r hr => h' r (h r hr)

theorem State.event_stageGrows (s : State) (code service : Nat) (d : W32) (cause : Nat) :
    s.StageGrows (s.event code service d cause) := by
  simp only [State.event]
  split
  · exact .of_eq rfl
  · split
    · exact .of_eq rfl
    · split
      · exact .of_eq rfl
      · split
        · simp only [State.commitRec]
          split <;> exact .of_eq rfl
        · exact fun r hr => mem_logInsert.mpr (.inr hr)

theorem State.StageGrows.event {s t : State} (h : s.StageGrows t) (code service : Nat) (d : W32) (cause : Nat) :
    s.StageGrows (t.event code service d cause) := h.trans (t.event_stageGrows code service d cause)

/-- A record that is not filtered, and for which there is room, is held in the commit stage (R446–R448). -/
theorem State.event_mem_stage {s : State} {code : Nat} (service : Nat) (d : W32) (cause : Nat) (hcode : code < 64)
    (hact : s.dev.active = true) (hsev : s.g EL_CTL_min_sev = 0) (hroom : s.log.stage.length < 1024) :
    ⟨cause, code, service, severityOf code, d, s.now⟩ ∈ (s.event code service d cause).log.stage := by
  have hmin : (s.inc (cnt16 (EL_CODE_CNT code))).g EL_CTL_min_sev = 0 := by
    rw [← hsev]
    refine State.g_of_rd (State.rd_inc_ne s ?_)
    show EL_CODE_CNT code ≠ EL_CTL
    simp only [EL_CODE_CNT, EL_CTL]
    omega
  obtain ⟨hpow, htimed, hinert⟩ : s.dev.powered = true ∧ s.dev.timed = true ∧ s.dev ≠ .inert := by
    cases hdev : s.dev <;> simp_all [DevState.active, DevState.powered, DevState.timed]
  have hfull : ¬ 1024 ≤ (s.inc (cnt16 (EL_CODE_CNT code))).log.stage.length := by
    show ¬ 1024 ≤ s.log.stage.length
    omega
  have hdev : ¬ (s.inc (cnt16 (EL_CODE_CNT code))).dev = .inert := hinert
  simp only [State.event, hpow, htimed, hmin, hfull, hdev, Nat.not_lt_zero, Bool.not_true, Bool.false_eq_true,
    decide_false, Bool.and_false, if_true, if_false]
  exact mem_logInsert.mpr (.inl rfl)

theorem State.each_stageGrows {α : Type} (f : State → α → State) (h : ∀ s x, State.StageGrows s (f s x)) (l : List α)
    (s : State) : s.StageGrows (s.each l f) := State.each_rel State.StageGrows f l (fun _ => .of_eq rfl) (fun _ _ _ => .trans) h s

theorem State.follow_stageGrows (s : State) : s.StageGrows s.follow := by
  unfold State.follow
  split
  · simp only [State.changeState, State.eventNow]
    refine State.StageGrows.event ?_ _ _ _ _
    exact .of_eq rfl
  · exact .of_eq rfl

theorem State.pinScan_stageGrows (s : State) : s.StageGrows s.pinScan := by
  simp only [State.pinScan, State.eventNow]
  refine State.StageGrows.trans (State.StageGrows.trans ?_ (State.each_stageGrows _ ?_ _ _))
    (State.each_stageGrows _ ?_ _ _)
  · exact .of_eq rfl
  · exact fun _ _ => .of_eq rfl
  · exact fun s x => State.StageGrows.event (t := s.inc (cnt16 (GP_CONFLICT_CNT (x / 16)))) (.of_eq rfl) _ _ _ _

/-- The ending of a command leaves the records in the commit stage. -/
theorem State.ended_stageGrows (s old : State) : s.StageGrows (s.ended old) := by
  obtain ⟨c, hmark⟩ := s.markKeep_eq old
  obtain ⟨r, hidle⟩ := (s.markKeep old).follow.trackIdle_eq
  obtain ⟨x, htap⟩ := (s.markKeep old).follow.trackIdle.pinScan.tapReturn_eq
  have h1 : s.StageGrows (s.markKeep old) := .of_eq (by rw [hmark])
  have h2 : (s.markKeep old).follow.StageGrows (s.markKeep old).follow.trackIdle := .of_eq (by rw [hidle])
  have h3 : (s.markKeep old).follow.trackIdle.pinScan.StageGrows (s.ended old) := .of_eq (by
    rw [State.ended, State.settle, htap])
  exact (((h1.trans (State.follow_stageGrows _)).trans h2).trans (State.pinScan_stageGrows _)).trans h3

theorem State.finishCue_stageGrows (s : State) (e : Entry) : s.StageGrows (s.finishCue e) := by
  have hnotify : s.StageGrows (s.when (recNotify e.rec_) (fun s => s.eventNow 0x14 (recSvc e.rec_) e.rec_.seq)) := by
    cases recNotify e.rec_
    · exact .of_eq rfl
    · exact s.event_stageGrows _ _ _ _
  obtain ⟨q, hq⟩ := State.removeEntry_eq (s.when (recNotify e.rec_) (fun s => s.eventNow 0x14 (recSvc e.rec_) e.rec_.seq)) e
  refine hnotify.trans (.of_eq ?_)
  simp only [State.finishCue, hq]
  rfl

/-! ### The end of a cue's command -/

/-- A command whose cue takes effect keeps what the effect spares. -/
theorem keeps_of_finishCue {s t : State} {at_ : TT} {l : List Nat} (h : (s.atTime at_).Spares (Outside l) t) (e : Entry) :
    keepsRegs s ((t.finishCue e).ended s) l ∧ keepsMemory s ((t.finishCue e).ended s) := by
  have hend : (s.atTime at_).Spares (Outside l) (t.finishCue e) :=
    ⟨fun a ha => (State.finishCue_rd t e ha.1).trans (h.rd a ha), (State.finishCue_fm t e).trans h.fm⟩
  exact ⟨keepsRegs_of_spares hend, keepsMemory_of_spares hend⟩

/-! ### NOP and NOTIFY -/

theorem State.act_nop (s : State) {e : Entry} (hcode : recAct e.rec_ = 0) : s.act e = (.ok, s) := by
  simp [State.act, hcode, actTargets]

/-- NOTIFY logs its operand under its service (R91). -/
theorem State.act_notify (s : State) {e : Entry} (hcode : recAct e.rec_ = 0xF) :
    s.act e = (.ok, s.eventNow 0x00 (recSvc e.rec_) e.rec_.a) := by
  simp [State.act, hcode, actTargets]

theorem exec_nop_of_mayEffect (at_ : TT) (id : CueId) (e : Entry) (s : State) (he : (s.atTime at_).entry id = some e)
    (hsub : id.sub = 0) (hcode : recAct e.rec_ = 0) (hmay : (s.atTime at_).mayEffect e = true) :
    ∃ t, exec (.nop at_ id) s = .next t ∧ t.entry id = none ∧ keepsRegs s t [] ∧ keepsMemory s t := by
  have hact := (s.atTime at_).act_nop hcode
  have hexec : exec (.nop at_ id) s = _ := timed_cueEffect he hsub hcode (by decide) hmay (by rw [hact])
  rw [hact] at hexec
  exact ⟨_, hexec, State.ended_finishCue_entry s _ (State.entry_id he), keeps_of_finishCue (.refl _) e⟩

theorem exec_notify_of_mayEffect (at_ : TT) (id : CueId) (e : Entry) (s : State) (he : (s.atTime at_).entry id = some e)
    (hsub : id.sub = 0) (hcode : recAct e.rec_ = 0xF) (hmay : (s.atTime at_).mayEffect e = true)
    (hsev : (s.atTime at_).g EL_CTL_min_sev = 0) (hroom : (s.atTime at_).log.stage.length < 1024) :
    ∃ t, exec (.notify at_ id) s = .next t ∧ t.entry id = none ∧
      (∃ r ∈ t.log.stage, r.code = 0 ∧ r.service = recSvc e.rec_ ∧ r.detail = e.rec_.a ∧ r.cause = (s.atTime at_).now) ∧
      keepsRegs s t [] ∧ keepsMemory s t := by
  have hact := (s.atTime at_).act_notify hcode
  have hexec : exec (.notify at_ id) s = _ := timed_cueEffect he hsub hcode (by decide) hmay (by rw [hact])
  rw [hact] at hexec
  have hrec := State.event_mem_stage (recSvc e.rec_) e.rec_.a (s.atTime at_).now (code := 0) (by decide)
    (State.mayEffect_active hmay) hsev hroom
  exact ⟨_, hexec, State.ended_finishCue_entry s _ (State.entry_id he),
    ⟨_, State.ended_stageGrows _ s _ (State.finishCue_stageGrows _ e _ hrec), rfl, rfl, rfl, rfl⟩,
    keeps_of_finishCue ((State.Spares.refl _).event (fun _ => not_inLog_of_outside) (by decide) _ _ _) e⟩

end Sys2Proof.Machine

/-! ### The obligation -/

/-- Settles O20: NOP is answered OK without more ado, and the record that NOTIFY makes stays in the commit stage. -/
theorem nopAndNotify : Obligations.NopAndNotify :=
  ⟨exec_nop_of_mayEffect, exec_notify_of_mayEffect⟩
end

section
/-! Cues in the queue: hand-over, successors, and the effect of a scene. -/

open Sys2Proof Sys2Proof.Machine

namespace Sys2Proof.Machine

/-! ### Commands that change the cue engine's queue alone -/

/-- A command whose effect is known ends from there. -/
theorem timed_of_eq {at_ : TT} {f : State → State} {s u : State} (h : f (s.atTime at_) = u) :
    timed at_ f s = .next (u.ended s) := by
  rw [timed, h]

/-- A change of the cue engine's own state leaves the registers and frame memory. -/
theorem keeps_of_cue {s t : State} {at_ : TT} {q : CueSt} (h : t = { s.atTime at_ with cue := q }) :
    keepsRegs s (t.ended s) [] ∧ keepsMemory s (t.ended s) := by
  have hspares : (s.atTime at_).Spares (Outside []) t := h ▸ (State.Spares.refl _).of_cells rfl rfl
  exact ⟨keepsRegs_of_spares hspares, keepsMemory_of_spares hspares⟩

/-! ### Hand-over -/

/-- An entry as the hand-over of a cue that is on time leaves it (R94, R104). -/
def Entry.handOver (x : Entry) (launch : Nat) (atCycle : Bool) : Entry :=
  { x with stage := .handed, earliest := launch, frameFrom := none, atCycle := atCycle }

/-- A due cue that is on time and accepted by its target is handed over in its turn (R92, R104). -/
theorem State.handover_of_due {s : State} {id : CueId} {e : Entry} (he : s.entry id = some e) (hscene : recAct e.rec_ ≠ 4)
    (hst : e.stage = .queued) (hlate : e.late = false) (hact : s.dev.active = true)
    (hdue : e.rec_.launch.toNat ≤ s.now + 1000)
    (hready : actTargets (recAct e.rec_) = true → s.targetReady (recTarget e.rec_) = true)
    (hbehind : s.cue.entries.any (fun x => x.late && x.blocks e) = false) (hturn : s.handoverTurn e = true)
    (hjudge : s.judge e = .ok) :
    s.handover id = s.updEntry id (fun x => x.handOver e.rec_.launch.toNat (s.notRunning (s.recQuantum e.rec_))) := by
  have hok : (!actTargets (recAct e.rec_) || s.targetReady (recTarget e.rec_)) = true := by
    cases h : actTargets (recAct e.rec_) <;> simp [hready, h]
  have hone : s.handoverOne id = s.updEntry id (fun x => x.handOver e.rec_.launch.toNat (s.notRunning (s.recQuantum e.rec_))) := by
    have hahead : ¬ s.now + 1000 < e.rec_.launch.toNat := by omega
    simp only [State.handoverOne, he, hst, hlate, hact, hok, hbehind, hturn, hjudge, hahead, bne_self_eq_false,
      decide_false, Bool.not_true, Bool.not_false, Bool.or_self, Bool.and_false, Bool.false_and, Bool.false_eq_true, if_false,
      Entry.handOver]
  have hentry := State.updEntry_entry (fun x => x.handOver e.rec_.launch.toNat (s.notRunning (s.recQuantum e.rec_)))
    (fun _ => rfl) he
  simp only [State.handover, he, hone, hentry, hscene, ne_eq, not_false_eq_true, true_or, if_true]

/-! ### Successors -/

/-- Outside a drain no cue that enters the queue is cut off (R146). -/
theorem State.drainLate_of_none {s : State} (h : s.pwr.drain = none) : s.drainLate = s := by
  simp only [State.drainLate, h]

/-- An entry as it enters the queue sorted by launch (R102). -/
def Entry.enterQueue (x : Entry) (launch now : Nat) : Entry :=
  { x with
    stage := .queued, earliest := launch, acceptedAt := now,
    rec_ := { x.rec_ with launch := BitVec.ofNat 64 launch } }

/-- A cue without a pre-roll that enters the queue ahead of its hand-over waits there (R102, R105). -/
theorem State.goQueued_of_ahead {s : State} {id : CueId} {e : Entry} {launch : Nat} (he : s.entry id = some e)
    (hpre : recPreroll e.rec_ = false) (hahead : s.now + 1000 ≤ launch) :
    s.goQueued id launch = s.updEntry id (fun x => x.enterQueue launch s.now) := by
  have hentry := State.updEntry_entry (fun x => x.enterQueue launch s.now) (fun _ => rfl) he
  have hnow (f : Entry → Entry) : (s.updEntry id f).now = s.now := rfl
  have hpre' : recPreroll (e.enterQueue launch s.now).rec_ = false := hpre
  simp only [Entry.enterQueue] at hentry hpre' ⊢
  simp only [State.goQueued, hentry, hnow, hpre', Nat.not_lt.mpr hahead, Bool.false_and, Bool.false_eq_true, if_false]

/-- A released successor without a pre-roll enters the queue with its delay counted from the effect (R115). -/
theorem State.unpark_of_released {s : State} {id : CueId} {e : Entry} {effect : Nat} (he : s.entry id = some e)
    (hst : e.stage = .released effect) (hpre : recPreroll e.rec_ = false)
    (hahead : s.now + 1000 ≤ effect + e.rec_.launch.toNat) (hdrain : s.pwr.drain = none) :
    s.unpark id = s.updEntry id (fun x => x.enterQueue (effect + e.rec_.launch.toNat) s.now) := by
  simp only [State.unpark, he, hst]
  rw [State.goQueued_of_ahead he hpre hahead]
  exact State.drainLate_of_none hdrain

/-! ### Scenes -/

/-- The last internal cue of a scene takes effect, and the SCENE cue is done with it (R93). -/
theorem State.cueDone_lastInternal {s : State} {p x : Entry} (hq : s.cue.entries = [p, x]) (hsub : p.id.sub = 0)
    (hx : x.id = { p.id with sub := 1 }) : s.cueDone x = (s.setEntries [p]).finishCue p := by
  have hne : p.id ≠ x.id := fun h => by
    rw [h, hx] at hsub
    cases hsub
  have hx0 : x.id.sub ≠ 0 := by
    rw [hx]
    exact Nat.one_ne_zero
  have hhead : ({ x.id with sub := 0 } : CueId) = p.id := by
    rw [hx, ← hsub]
  have hleft : s.cue.entries.filter (fun y => y.id != x.id) = [p] := by
    simp [hq, hne]
  have hnone : (s.setEntries [p]).cue.entries.any (fun y =>
      y.id.origin == x.id.origin && y.id.seq == x.id.seq && y.id.sub != 0) = false := by
    simp [State.setEntries, hsub]
  have hentry : (s.setEntries [p]).entry { x.id with sub := 0 } = some p := by
    simp [State.entry, State.setEntries, hhead]
  simp only [State.cueDone, if_neg hx0, hleft, State.sceneDone, hnone, hentry, Bool.false_eq_true, if_false]

/-- The entries that stay when a cue leaves the queue: neither the cue nor its internal cues do (R109). -/
def Entry.staysWithout (x e : Entry) : Bool :=
  !(x.id == e.id || (e.id.sub == 0 && x.id.origin == e.id.origin && x.id.seq == e.id.seq))

theorem State.removeEntry_entries (s : State) (e : Entry) :
    (s.removeEntry e).cue.entries = s.cue.entries.filter (fun x => x.staysWithout e) := by
  unfold State.removeEntry State.askNext
  split <;> rfl

/-- A successor parked behind a cue is released by its effect (R115). -/
def Entry.releasedBy (x e : Entry) (effect : Nat) : Entry :=
  if x.stage == .parked e.id then { x with stage := .released effect } else x

theorem Entry.releasedBy_id (x e : Entry) (effect : Nat) : (x.releasedBy e effect).id = x.id := by
  unfold Entry.releasedBy
  split <;> rfl

/-- What stands in the queue once a cue has taken effect. -/
theorem State.finishCue_entries (s : State) (e : Entry) : (s.finishCue e).cue.entries =
    (s.cue.entries.filter (fun x => x.staysWithout e)).map (fun x => x.releasedBy e s.now) := by
  obtain ⟨c, l, hnotify⟩ : ∃ c l, s.when (recNotify e.rec_) (fun s => s.eventNow 0x14 (recSvc e.rec_) e.rec_.seq) =
      { s with cells := c, log := { s.log with stage := l } } := by
    cases recNotify e.rec_
    · exact ⟨_, _, rfl⟩
    · exact State.event_eq s 0x14 (recSvc e.rec_) e.rec_.seq s.now
  obtain ⟨q, hq⟩ := State.removeEntry_eq { s with cells := c, log := { s.log with stage := l } } e
  have hentries := State.removeEntry_entries { s with cells := c, log := { s.log with stage := l } } e
  rw [hq] at hentries
  simp only [State.finishCue, hnotify, hq]
  exact congrArg _ hentries

/-- The internal cue of a scene of one takes effect (R93). -/
theorem State.sceneEffect_of_one {s : State} {id : CueId} {p x : Entry} (hq : s.cue.entries = [p, x]) (hp : p.id = id)
    (hsub : id.sub = 0) (hx : x.id = { id with sub := 1 }) (hmay : s.mayEffect x = true) :
    s.sceneEffect id = s.takeEffect x := by
  subst hp
  have hne : p.id ≠ x.id := fun h => by
    rw [h, hx] at hsub
    cases hsub
  have hmine : s.cue.entries.filter (fun y => y.id.origin == p.id.origin && y.id.seq == p.id.seq && y.id.sub != 0) = [x] := by
    simp [hq, hsub, hx]
  have hentry : s.entry x.id = some x := by
    simp [State.entry, hq, hne]
  simp only [State.sceneEffect, hmine, State.each, List.foldl_cons, List.foldl_nil, hentry, hmay, if_true]

/-! ### The commands -/

theorem exec_cueHandover_of_due (at_ : TT) (id : CueId) (e : Entry) (s : State) (he : (s.atTime at_).entry id = some e)
    (hscene : recAct e.rec_ ≠ 4) (hst : e.stage = .queued) (hlate : e.late = false)
    (hact : (s.atTime at_).dev.active = true) (hdue : e.rec_.launch.toNat ≤ (s.atTime at_).now + 1000)
    (hready : actTargets (recAct e.rec_) = true → (s.atTime at_).targetReady (recTarget e.rec_) = true)
    (hbehind : (s.atTime at_).cue.entries.any (fun x => x.late && x.blocks e) = false)
    (hturn : (s.atTime at_).handoverTurn e = true) (hjudge : (s.atTime at_).judge e = .ok) :
    ∃ t, exec (.cueHandover at_ id) s = .next t ∧
      t.entry id = some { e with
        stage := .handed, earliest := e.rec_.launch.toNat, frameFrom := none,
        atCycle := (s.atTime at_).notRunning ((s.atTime at_).recQuantum e.rec_) } ∧
      keepsRegs s t [] ∧ keepsMemory s t := by
  have hstate := State.handover_of_due he hscene hst hlate hact hdue hready hbehind hturn hjudge
  have hexec : exec (.cueHandover at_ id) s = _ := timed_of_eq (f := fun s => s.handover id) hstate
  refine ⟨_, hexec, ?_, keeps_of_cue rfl⟩
  rw [State.entry, State.ended_cue]
  exact State.updEntry_entry _ (fun _ => rfl) he

theorem exec_chainSuccessorRelease_of_released (at_ : TT) (id : CueId) (e : Entry) (effect : Nat) (s : State)
    (he : (s.atTime at_).entry id = some e) (hst : e.stage = .released effect) (hpre : recPreroll e.rec_ = false)
    (hahead : (s.atTime at_).now + 1000 ≤ effect + e.rec_.launch.toNat) (hfits : effect + e.rec_.launch.toNat < 2 ^ 64)
    (hdrain : (s.atTime at_).pwr.drain = none) :
    ∃ t e', exec (.chainSuccessorRelease at_ id) s = .next t ∧ t.entry id = some e' ∧ e'.stage = .queued ∧
      e'.rec_.launch.toNat = effect + e.rec_.launch.toNat ∧ keepsRegs s t [] ∧ keepsMemory s t := by
  have hstate := State.unpark_of_released he hst hpre hahead hdrain
  have hexec : exec (.chainSuccessorRelease at_ id) s = _ := timed_of_eq (f := fun s => s.unpark id) hstate
  refine ⟨_, e.enterQueue (effect + e.rec_.launch.toNat) (s.atTime at_).now, hexec, ?_, rfl, ?_, keeps_of_cue rfl⟩
  · rw [State.entry, State.ended_cue]
    exact State.updEntry_entry _ (fun _ => rfl) he
  · exact (BitVec.toNat_ofNat _ _).trans (Nat.mod_eq_of_lt hfits)

theorem exec_scene_of_one (at_ : TT) (id : CueId) (x p : Entry) (s : State) (hq : (s.atTime at_).cue.entries = [p, x])
    (hp : p.id = id) (hsub : id.sub = 0) (hx : x.id = { id with sub := 1 }) (hmay : (s.atTime at_).mayEffect x = true)
    (hok : ((s.atTime at_).act x).1 = .ok) (hcue : ((s.atTime at_).act x).2.cue = (s.atTime at_).cue) :
    ∃ t, exec (.scene at_ id) s = .next t ∧ t.cue.entries = [] ∧
      (∀ a, endsOn a = false → t.rd a = ((s.atTime at_).act x).2.rd a) ∧ t.fm = ((s.atTime at_).act x).2.fm := by
  have hstate : (s.atTime at_).sceneEffect id = (((s.atTime at_).act x).2.setEntries [p]).finishCue p := by
    rw [State.sceneEffect_of_one hq hp hsub hx hmay, State.takeEffect]
    generalize (s.atTime at_).act x = y at hok hcue
    obtain ⟨why, t⟩ := y
    obtain rfl : why = .ok := hok
    exact State.cueDone_lastInternal (hcue ▸ hq) (hp ▸ hsub) (hp ▸ hx)
  have hexec : exec (.scene at_ id) s = _ := timed_of_eq (f := fun s => s.sceneEffect id) hstate
  refine ⟨_, hexec, ?_, fun a ha => State.ended_finishCue_rd s _ p ha, ?_⟩
  · rw [State.ended_cue, State.finishCue_entries]
    simp [State.setEntries, Entry.staysWithout]
  · rw [State.ended_fm, State.finishCue_fm]
    rfl

end Sys2Proof.Machine

/-! ### The obligations -/

/-- Settles O18: none of the branches of a late, an unready or a refused cue is taken. -/
theorem dueCuesAreHandedOver : Obligations.DueCuesAreHandedOver := exec_cueHandover_of_due

/-- Settles O19: the successor's launch time lies ahead, so it waits in the queue. -/
theorem successorsFollowTheirPredecessor : Obligations.SuccessorsFollowTheirPredecessor :=
  exec_chainSuccessorRelease_of_released

/-- Settles O26: with the scene's one internal cue no other of it is left, and the SCENE cue finishes. -/
theorem scenesTakeEffect : Obligations.ScenesTakeEffect := exec_scene_of_one
end

section
/-! Cues at their targets: gains, directions, pins, routes, streams and barriers. -/

open Sys2Proof Sys2Proof.Machine

namespace Sys2Proof.Machine

/-! ### What an effect spares -/

namespace State.Spares

variable {P : Nat → Prop} {s t : State}

theorem mono {Q : Nat → Prop} (h : s.Spares P t) (hQ : ∀ a, Q a → P a) : s.Spares Q t :=
  ⟨fun a ha => h.rd a (hQ a ha), h.fm⟩

theorem incWrap (h : s.Spares P t) {f : Fld} (hf : ¬ P f.addr) : s.Spares P (t.incWrap f) := h.p hf _

theorem each {α : Type} (h : s.Spares P t) {f : State → α → State} (hf : ∀ s x, State.Spares P s (f s x)) (l : List α) :
    s.Spares P (t.each l f) :=
  h.trans (State.each_rel (State.Spares P) f l refl (fun _ _ _ => trans) hf t)

theorem when (h : s.Spares P t) (b : Bool) {f : State → State} (hf : ∀ s, State.Spares P s (f s)) :
    s.Spares P (t.when b f) := by
  cases b with
  | false => exact h
  | true => exact h.trans (hf t)

/-- A register that is not changed keeps its fields. -/
theorem g (h : s.Spares P t) {f : Fld} (hf : P f.addr) : t.g f = s.g f := State.g_of_rd (h.rd _ hf)

end State.Spares

/-! ### Where a register lies -/

/-- The blocks lie apart. -/
theorem Block.apart : ∀ b ∈ Block.all, ∀ c ∈ Block.all, c ≠ b →
    c.base + c.count * c.stride ≤ b.base ∨ b.base + b.count * b.stride ≤ c.base := by decide

theorem Block.mem_all (b : Block) : b ∈ Block.all := by cases b <;> decide

theorem locateIn_of_apart {b : Block} {i off : Nat} (hi : i < b.count) (hoff : off < b.stride) {l : List Block}
    (hb : b ∈ l) (hl : ∀ c ∈ l, c ≠ b → c.base + c.count * c.stride ≤ b.base ∨ b.base + b.count * b.stride ≤ c.base) :
    locateIn l (b.base + i * b.stride + off) = some (b, i, off) := by
  have hlast : i * b.stride + off < b.count * b.stride :=
    calc i * b.stride + off < (i + 1) * b.stride := by rw [Nat.succ_mul]; omega
      _ ≤ b.count * b.stride := Nat.mul_le_mul_right _ hi
  induction l with
  | nil => cases hb
  | cons c l ih =>
    by_cases hc : c = b
    · subst hc
      have hsub : c.base + i * c.stride + off - c.base = off + i * c.stride := by omega
      rw [locateIn, if_pos (by omega), hsub, Nat.add_mul_div_right _ _ (by omega), Nat.add_mul_mod_self_right,
        Nat.div_eq_of_lt hoff, Nat.mod_eq_of_lt hoff, Nat.zero_add]
    · have hapart := hl c List.mem_cons_self hc
      rw [locateIn, if_neg (by omega)]
      exact ih ((List.mem_cons.mp hb).resolve_left (Ne.symm hc)) fun d hd => hl d (List.mem_cons_of_mem c hd)

/-- The block, the number and the offset of an address (R484, R485). -/
theorem locate_of_block (b : Block) {i off : Nat} (hi : i < b.count) (hoff : off < b.stride) :
    locate (b.base + i * b.stride + off) = some (b, i, off) :=
  locateIn_of_apart hi hoff b.mem_all fun c hc => Block.apart b b.mem_all c hc

theorem locate_acGain : ∀ c : Fin 48, locate (AC_GAIN c) = some (.ac, c.val, 0x008) := by decide

theorem locate_acConvCtl : ∀ c : Fin 48, locate (AC_CONV_CTL c) = some (.ac, c.val, 0x004) := by decide

theorem locate_gpOut : ∀ b : Fin 4, locate (GP_OUT b) = some (.gp, b.val, 0x00) := by decide

theorem locate_lpTxSrc : ∀ p : Fin 32, locate (LP_TX_SRC p) = some (.lp, p.val, 0x00C) := by decide

theorem locate_dsCtl (d : Fin 1024) : locate (DS_CTL d) = some (.ds, d.val, 0x00) :=
  locate_of_block .ds (off := 0) d.isLt (by decide)

theorem locate_baCtl (b : Fin 256) : locate (BA_CTL b) = some (.ba, b.val, 0x0) :=
  locate_of_block .ba (off := 0) b.isLt (by decide)

/-! ### What the end of a cue leaves -/

/-- The registers above the event log are not the ending's. -/
theorem endsOn_of_ge {a : Nat} (h : 0xC00000 ≤ a) : endsOn a = false := by
  have hstate : [SYS_STATE, SYS_STATE_TT_LO, SYS_STATE_TT_LO + 4, SYS_STATE_CHANGE_CNT, BAT_KEEP_STAT].contains a = false := by
    simp only [List.contains_cons, List.contains_nil, Bool.or_eq_false_iff, beq_eq_false_iff_ne, SYS_STATE, SYS_STATE_TT_LO,
      SYS_STATE_CHANGE_CNT, BAT_KEEP_STAT]
    refine ⟨?_, ?_, ?_, ?_, ?_, trivial⟩ <;> omega
  have hpins : (List.range 4).any (fun b => a == GP_CONFLICT b || a == GP_CONFLICT_CNT b) = false := by
    simp only [List.any_eq_false, List.mem_range, Bool.or_eq_true, beq_iff_eq, GP_CONFLICT, GP_CONFLICT_CNT]
    omega
  have hlog : decide (a < 0xC00000) = false := decide_eq_false (by omega)
  rw [endsOn, hstate, hpins, hlog, Bool.and_false]
  rfl

@[simp] theorem State.finishCue_cell (s : State) (e : Entry) : (s.finishCue e).cell = s.cell := by
  obtain ⟨c, l, q, hf, -⟩ := s.finishCue_eq e
  rw [hf]

@[simp] theorem State.finishCue_ds (s : State) (e : Entry) : (s.finishCue e).ds = s.ds := by
  obtain ⟨c, l, q, hf, -⟩ := s.finishCue_eq e
  rw [hf]

/-! ### The judgement of an action -/

/-- An action that acts on a target without writing its register (R91). -/
def plainActs : List Nat := [0x6, 0x7, 0x8, 0x9, 0xA, 0xD]

/-- Such an action that is answered OK is at a target of its kind, and at one of its service's own (R92). -/
theorem State.owned_of_act_ok {s : State} {e : Entry} (hcode : recAct e.rec_ ∈ plainActs) (hok : (s.act e).1 = .ok) :
    targetFits (recAct e.rec_) (recTarget e.rec_) = true ∧
      actOwned (recAct e.rec_) (recSvc e.rec_) (s.actOwners e.rec_) = .ok := by
  obtain ⟨htargets, hscene, hwrites⟩ : actTargets (recAct e.rec_) = true ∧ recAct e.rec_ ≠ 4 ∧
      [0x1, 0x2, 0x3, 0x5, 0xB, 0xC].contains (recAct e.rec_) = false := by
    revert hcode
    generalize recAct e.rec_ = n
    simp only [plainActs, List.mem_cons, List.not_mem_nil, or_false]
    rintro (rfl | rfl | rfl | rfl | rfl | rfl) <;> decide
  by_cases howned : actOwned (recAct e.rec_) (recSvc e.rec_) (s.actOwners e.rec_) = .ok
  · cases hfits : targetFits (recAct e.rec_) (recTarget e.rec_) with
    | true => exact ⟨rfl, howned⟩
    | false => simp [State.act, htargets, hscene, hfits, howned] at hok
  · have hwhy : (s.act e).1 = actOwned (recAct e.rec_) (recSvc e.rec_) (s.actOwners e.rec_) := by
      cases hfits : targetFits (recAct e.rec_) (recTarget e.rec_) <;>
        simp only [State.act, htargets, hscene, hwrites, hfits, howned, Bool.not_true, Bool.not_false, Bool.false_eq_true,
          ne_eq, not_false_eq_true, if_true, if_false]
    exact absurd (hwhy.symm.trans hok) howned

/-- A cue on a quad's cell is its owner's to make (R92). -/
theorem State.actOwned_ac {s : State} {r : CueRec} {c off : Nat} (hcode : recAct r = 6 ∨ recAct r = 7)
    (hloc : locate (recTarget r) = some (.ac, c, off)) (hown : s.ownerOf kQuad (c / 4) = .svc (recSvc r)) :
    actOwned (recAct r) (recSvc r) (s.actOwners r) = .ok := by
  obtain h | h := hcode <;>
    simp [h, State.actOwners, hloc, State.regOwner, hown, actOwned, ownersOk]

/-! ### Gains -/

/-- The field of the gain of one of a cell's PGAs. -/
def gainFld (c : Nat) (pgaB : Bool) : Fld := if pgaB then AC_GAIN_gain_b c else AC_GAIN_gain_a c

theorem gainFld_place (c : Nat) (pgaB : Bool) :
    (gainFld c pgaB).addr = AC_GAIN c ∧ (gainFld c pgaB).lo ≤ (gainFld c pgaB).hi ∧ (gainFld c pgaB).hi < 32 ∧
      (gainFld c pgaB).hi + 1 - (gainFld c pgaB).lo = 10 := by
  cases pgaB <;> simp [gainFld]

/-- The ramp of one of a cell's PGAs (R221). -/
def CellSt.ramp (x : CellSt) (pgaB : Bool) : Option Ramp := if pgaB then x.rampB else x.rampA

/-- GAIN_STEP by a cell's owner, with a code of the gain's range, is answered OK (R91, R92). -/
theorem State.act_gainStep {s : State} {e : Entry} (c : Fin 48) (hcode : recAct e.rec_ = 6)
    (htarget : recTarget e.rec_ = AC_GAIN c) (hgain : e.rec_.a.toNat % 1024 ≤ 720)
    (hown : s.ownerOf kQuad (c.val / 4) = .svc (recSvc e.rec_)) :
    s.act e = (.ok, s.gainCue c (e.rec_.a.toNat % 1024) (e.rec_.a.getLsbD 16) (e.rec_.b.toNat % 65536)) := by
  have hloc := locate_acGain c
  have howned := State.actOwned_ac (.inl hcode) (htarget ▸ hloc) hown
  rw [hcode] at howned
  simp [State.act, hcode, htarget, actTargets, targetFits, hloc, howned, Nat.not_lt.mpr hgain]

theorem State.gainCue_spares (s : State) (c code : Nat) (pgaB : Bool) (len : Nat) :
    s.Spares (Outside [AC_GAIN c, AC_GAIN_CUE_CNT c]) (s.gainCue c code pgaB len) := by
  have hcount : s.Spares (Outside [AC_GAIN c, AC_GAIN_CUE_CNT c]) (s.inc (cnt16 (AC_GAIN_CUE_CNT c))) :=
    (State.Spares.refl s).inc (not_outside_of_mem (by simp [cnt16]))
  have hset (x : CellSt) := hcount.of_cells (u := (s.inc (cnt16 (AC_GAIN_CUE_CNT c))).setCell c x) rfl rfl
  have haddr : (gainFld c pgaB).addr ∈ [AC_GAIN c, AC_GAIN_CUE_CNT c] := by simp [(gainFld_place c pgaB).1]
  simp only [State.gainCue]
  split
  · exact (hset _).p (f := gainFld c pgaB) (not_outside_of_mem haddr) _
  · exact hset _

/-- A gain step without a length sets the gain (R221). -/
theorem State.gainCue_gain (s : State) {c code : Nat} (pgaB : Bool) (hcode : code < 1024) :
    (s.gainCue c code pgaB 0).g (gainFld c pgaB) = code := by
  obtain ⟨-, hlo, hhi, hwidth⟩ := gainFld_place c pgaB
  obtain ⟨t, ht⟩ : ∃ t : State, s.gainCue c code pgaB 0 = t.p (gainFld c pgaB) code := ⟨_, rfl⟩
  rw [ht, State.g_p_same _ _ _ hlo hhi, hwidth]
  exact Nat.mod_eq_of_lt hcode

/-- A gain step with a length begins a ramp from the gain in force (R221). -/
theorem State.gainCue_ramp (s : State) {c code len : Nat} (pgaB : Bool) (hlen : len ≠ 0) :
    ((s.gainCue c code pgaB len).cellSt c).ramp pgaB = some ⟨s.g (gainFld c pgaB), code, len, 0⟩ := by
  have hg : (s.inc (cnt16 (AC_GAIN_CUE_CNT c))).g (gainFld c pgaB) = s.g (gainFld c pgaB) := by
    refine State.g_of_rd (State.rd_inc_ne s ?_)
    rw [(gainFld_place c pgaB).1]
    simp only [cnt16, AC_GAIN_CUE_CNT, AC_GAIN]
    omega
  rw [← hg]
  simp only [State.gainCue, if_neg hlen, State.setCell_cellSt]
  cases pgaB <;> rfl

theorem exec_gainStep_of_owned (at_ : TT) (id : CueId) (e : Entry) (c : Fin 48) (s : State)
    (he : (s.atTime at_).entry id = some e) (hsub : id.sub = 0) (hcode : recAct e.rec_ = 6)
    (htarget : recTarget e.rec_ = AC_GAIN c) (hgain : e.rec_.a.toNat % 1024 ≤ 720)
    (hown : (s.atTime at_).ownerOf kQuad (c.val / 4) = .svc (recSvc e.rec_)) (hmay : (s.atTime at_).mayEffect e = true) :
    ∃ t, exec (.gainStep at_ id) s = .next t ∧ t.entry id = none ∧
      (e.rec_.b.toNat % 65536 = 0 → t.g (gainFld c (e.rec_.a.getLsbD 16)) = e.rec_.a.toNat % 1024) ∧
      (e.rec_.b.toNat % 65536 ≠ 0 → (t.cellSt c).ramp (e.rec_.a.getLsbD 16) =
        some ⟨(s.atTime at_).g (gainFld c (e.rec_.a.getLsbD 16)), e.rec_.a.toNat % 1024, e.rec_.b.toNat % 65536, 0⟩) ∧
      keepsRegs s t [AC_GAIN c, AC_GAIN_CUE_CNT c] ∧ keepsMemory s t := by
  have hact := State.act_gainStep c hcode htarget hgain hown
  have hexec : exec (.gainStep at_ id) s = _ := timed_cueEffect he hsub hcode (by decide) hmay (by rw [hact])
  rw [hact] at hexec
  refine ⟨_, hexec, State.ended_finishCue_entry s _ (State.entry_id he), fun hlen => ?_, fun hlen => ?_,
    keeps_of_finishCue (State.gainCue_spares _ _ _ _ _) e⟩
  · have haddr := (gainFld_place c (e.rec_.a.getLsbD 16)).1
    have hends : ∀ c : Fin 48, endsOn (AC_GAIN c) = false := by decide
    rw [State.g, haddr, State.ended_finishCue_rd _ _ _ (hends c), ← haddr, hlen]
    exact State.gainCue_gain _ _ (by omega)
  · rw [← State.gainCue_ramp _ _ hlen, State.cellSt, State.ended_cell, State.finishCue_cell]
    rfl

/-! ### Directions -/

/-- DIRECTION by a cell's owner is answered OK (R91, R92). -/
theorem State.act_direction {s : State} {e : Entry} (c : Fin 48) (hcode : recAct e.rec_ = 7)
    (htarget : recTarget e.rec_ = AC_CONV_CTL c) (hown : s.ownerOf kQuad (c.val / 4) = .svc (recSvc e.rec_)) :
    s.act e = (.ok, s.turn c (e.rec_.a.toNat % 2) e.atCycle) := by
  have hloc := locate_acConvCtl c
  have howned := State.actOwned_ac (.inr hcode) (htarget ▸ hloc) hown
  rw [hcode] at howned
  simp [State.act, hcode, htarget, actTargets, targetFits, hloc, howned]

/-- The registers that the beginning of a direction change may change (R228, R231). -/
def turnRegs (c : Nat) : List Nat := [AC_CONV_CTL c, AC_STAT c, AC_STICKY c, AC_OVR_LEN c, AC_DIR_UNBLANKED_CNT c]

/-- The modulator's stop leaves the clock, and the registers of the cell but for its status and the length of its
episode. -/
theorem State.modulatorStops_keeps (s : State) (c : Nat) :
    s.Spares (Outside (turnRegs c)) (s.modulatorStops c) ∧ (s.modulatorStops c).clock = s.clock := by
  have hstat : ¬ Outside (turnRegs c) (AC_STAT c) := not_outside_of_mem (by simp [turnRegs])
  have hlen : ¬ Outside (turnRegs c) (AC_OVR_LEN c) := not_outside_of_mem (by simp [turnRegs])
  have hset (s : State) (d : Nat) (x : CellSt) : s.Spares (Outside (turnRegs c)) (s.setCell d x) :=
    (State.Spares.refl s).of_cells rfl rfl
  have hovr : s.Spares (Outside (turnRegs c)) (s.ovrStops c 0) ∧ (s.ovrStops c 0).clock = s.clock := by
    unfold State.ovrStops
    split
    · exact ⟨.refl s, rfl⟩
    · refine ⟨State.Spares.each ?_ (fun s d => hset s d _) _, Eq.trans (State.each_keeps State.clock _ _ ?_ _) ?_⟩
      · exact ((hset s c _).pb (f := AC_STAT_ovr_now c) hstat _).wr hlen _
      · exact fun _ _ _ => rfl
      · rfl
  simp only [State.modulatorStops]
  split
  · exact hovr
  · refine ⟨(hovr.1.when _ fun s => hset s c _).pb (f := AC_STAT_suspect_now c) hstat _, ?_⟩
    exact (State.when_keeps State.clock _ _ _ rfl).trans hovr.2

/-- A direction change begins (R228, R229). -/
def State.turnBegins (s : State) (c dir : Nat) (held : BufLevel) : State :=
  ((s.setCell c { s.cellSt c with changing := some (s.now, dir), heldOut := some held }).p (AC_CONV_CTL_dir c) dir).pb
    (AC_STAT_changing c) true

/-- A direction change outside the keying window is noted and logged (R231). -/
def State.turnUnblanked (s : State) (c : Nat) : State :=
  ((s.pb (AC_STICKY_dir_unblanked c) true).inc (cnt16 (AC_DIR_UNBLANKED_CNT c))).eventNow 0x20 (s.quadByte c) (BitVec.ofNat 32 c)

theorem State.turnUnblanked_spares (s : State) (c : Nat) :
    s.Spares (Outside [AC_STICKY c, AC_DIR_UNBLANKED_CNT c]) (s.turnUnblanked c) :=
  (((State.Spares.refl s).pb (f := AC_STICKY_dir_unblanked c) (not_outside_of_mem (by simp)) _).inc
    (f := cnt16 (AC_DIR_UNBLANKED_CNT c)) (not_outside_of_mem (by simp [cnt16]))).event (fun _ => not_inLog_of_outside)
      (by decide) _ _ _

theorem State.turnUnblanked_cell (s : State) (c : Nat) : (s.turnUnblanked c).cell = s.cell := by
  obtain ⟨_, _, h⟩ := State.event_eq ((s.pb (AC_STICKY_dir_unblanked c) true).inc (cnt16 (AC_DIR_UNBLANKED_CNT c))) 0x20
    (s.quadByte c) (BitVec.ofNat 32 c) s.now
  exact (congrArg State.cell h).trans rfl

theorem State.turnBegins_keeps (s : State) (c : Fin 48) {dir : Nat} (hdir : dir < 2) (held : BufLevel) :
    s.Spares (Outside (turnRegs c)) (s.turnBegins c dir held) ∧ (s.turnBegins c dir held).g (AC_CONV_CTL_dir c) = dir ∧
      (s.turnBegins c dir held).bit (AC_STAT_changing c) = true ∧
      ((s.turnBegins c dir held).cellSt c).changing = some (s.now, dir) := by
  have hset (x : CellSt) : s.Spares (Outside (turnRegs c)) (s.setCell c x) := (State.Spares.refl s).of_cells rfl rfl
  have hne : ∀ c : Fin 48, AC_STAT c ≠ AC_CONV_CTL c := by decide
  refine ⟨?_, ?_, State.bit_pb_same _ _ _ (Nat.le_refl 8) (by show 8 < 32; decide), ?_⟩
  · exact ((hset _).p (f := AC_CONV_CTL_dir c) (not_outside_of_mem (by simp [turnRegs])) _).pb (f := AC_STAT_changing c)
      (not_outside_of_mem (by simp [turnRegs])) _
  · exact (State.g_of_rd (State.rd_p_ne _ (hne c) _)).trans
      ((State.g_p_same _ _ _ (Nat.le_refl 0) (by show 0 < 32; decide)).trans (Nat.mod_eq_of_lt hdir))
  · exact congrArg CellSt.changing (s.setCell_cellSt c _)

/-- DIRECTION of an enabled cell that stands in the other direction begins the change (R228, R229, R231). -/
theorem State.turn_of_enabled {s : State} (c : Fin 48) {dir : Nat} (unblanked : Bool) (hdir : dir < 2)
    (hne : s.g (AC_CONV_CTL_dir c) ≠ dir) (hon : s.bit (AC_CTL_enable c) = true) :
    s.Spares (Outside (turnRegs c)) (s.turn c dir unblanked) ∧ (s.turn c dir unblanked).g (AC_CONV_CTL_dir c) = dir ∧
      (s.turn c dir unblanked).bit (AC_STAT_changing c) = true ∧
      ((s.turn c dir unblanked).cellSt c).changing = some (s.now, dir) := by
  obtain ⟨held, hturn⟩ : ∃ held, s.turn c dir unblanked =
      ((s.modulatorStops c).turnBegins c dir held).when unblanked (fun s => s.turnUnblanked c) := by
    simp only [State.turn, if_neg hne, hon, Bool.not_true, Bool.false_eq_true, if_false]
    exact ⟨_, rfl⟩
  obtain ⟨hstops, hclock⟩ := s.modulatorStops_keeps c
  obtain ⟨hbegins, hdirection, hchanging, hcell⟩ := (s.modulatorStops c).turnBegins_keeps c hdir held
  have hnoted : State.Spares (Outside [AC_STICKY c, AC_DIR_UNBLANKED_CNT c]) ((s.modulatorStops c).turnBegins c dir held)
      (s.turn c dir unblanked) := hturn ▸ (State.Spares.refl _).when _ fun s => s.turnUnblanked_spares c
  have hnotedCell : (s.turn c dir unblanked).cell = ((s.modulatorStops c).turnBegins c dir held).cell :=
    hturn ▸ State.when_keeps State.cell _ _ _ (State.turnUnblanked_cell _ c)
  have hout : ∀ c : Fin 48, Outside [AC_STICKY c, AC_DIR_UNBLANKED_CNT c] (AC_CONV_CTL c) ∧
      Outside [AC_STICKY c, AC_DIR_UNBLANKED_CNT c] (AC_STAT c) := by decide
  refine ⟨(hstops.trans hbegins).trans (hnoted.mono fun a ha => ⟨ha.1, fun h => ha.2 ?_⟩), ?_, ?_, ?_⟩
  · simp only [List.mem_cons, List.not_mem_nil, or_false, turnRegs] at h ⊢
    tauto
  · exact (hnoted.g (hout c).1).trans hdirection
  · rw [State.bit, hnoted.g (hout c).2]
    exact hchanging
  · rw [State.cellSt, hnotedCell]
    exact hcell.trans (by rw [State.now, hclock]; rfl)

theorem exec_direction_of_owned (at_ : TT) (id : CueId) (e : Entry) (c : Fin 48) (s : State)
    (he : (s.atTime at_).entry id = some e) (hsub : id.sub = 0) (hcode : recAct e.rec_ = 7)
    (htarget : recTarget e.rec_ = AC_CONV_CTL c) (hown : (s.atTime at_).ownerOf kQuad (c.val / 4) = .svc (recSvc e.rec_))
    (hmay : (s.atTime at_).mayEffect e = true) (hon : (s.atTime at_).bit (AC_CTL_enable c) = true)
    (hne : (s.atTime at_).g (AC_CONV_CTL_dir c) ≠ e.rec_.a.toNat % 2) :
    ∃ t, exec (.direction at_ id) s = .next t ∧ t.entry id = none ∧ t.g (AC_CONV_CTL_dir c) = e.rec_.a.toNat % 2 ∧
      t.bit (AC_STAT_changing c) = true ∧ (t.cellSt c).changing = some ((s.atTime at_).now, e.rec_.a.toNat % 2) ∧
      keepsRegs s t (turnRegs c) ∧ keepsMemory s t := by
  have hact := State.act_direction c hcode htarget hown
  have hexec : exec (.direction at_ id) s = _ := timed_cueEffect he hsub hcode (by decide) hmay (by rw [hact])
  rw [hact] at hexec
  obtain ⟨hspares, hdirection, hchanging, hcell⟩ := State.turn_of_enabled c e.atCycle (Nat.mod_lt _ (by decide)) hne hon
  have hends : ∀ c : Fin 48, endsOn (AC_CONV_CTL c) = false ∧ endsOn (AC_STAT c) = false := by decide
  obtain ⟨hctl, hstat⟩ := hends c
  refine ⟨_, hexec, State.ended_finishCue_entry s _ (State.entry_id he), ?_, ?_, ?_, keeps_of_finishCue hspares e⟩
  · exact (State.g_of_rd (State.ended_finishCue_rd s _ e hctl)).trans hdirection
  · rw [State.bit, State.g_of_rd (State.ended_finishCue_rd s _ e hstat)]
    exact hchanging
  · rw [State.cellSt, State.ended_cell, State.finishCue_cell]
    exact hcell

/-! ### Pins -/

/-- The sum of the powers of two that a truth value selects has those bits. -/
theorem testBit_sum_two_pow (f : Nat → Bool) (n : Nat) :
    (((List.range n).map (fun j => if f j then 2 ^ j else 0)).sum < 2 ^ n) ∧
    ∀ i < n, ((List.range n).map (fun j => if f j then 2 ^ j else 0)).sum.testBit i = f i := by
  induction n with
  | zero => exact ⟨by simp, fun i hi => absurd hi (Nat.not_lt_zero i)⟩
  | succ n ih =>
    obtain ⟨hlt, hbits⟩ := ih
    rw [List.range_succ, List.map_append, List.sum_append, List.map_singleton, List.sum_singleton]
    generalize ((List.range n).map (fun j => if f j then 2 ^ j else 0)).sum = m at hlt hbits
    have hpow : 2 ^ (n + 1) = 2 ^ n + 2 ^ n := by omega
    refine ⟨by split <;> omega, fun i hi => ?_⟩
    obtain hin | rfl := Nat.lt_succ_iff_lt_or_eq.mp hi
    · rw [← hbits i hin]
      split
      · rw [Nat.add_comm, Nat.testBit_two_pow_add_gt hin]
      · rw [Nat.add_zero]
    · cases hf : f i with
      | true => simp [Nat.add_comm m, Nat.testBit_two_pow_add_eq, Nat.testBit_lt_two_pow hlt]
      | false => simp [Nat.testBit_lt_two_pow hlt]

/-- A bit of a register, read in a field that begins at bit 0. -/
theorem State.bitOf_eq_testBit_g (s : State) (a hi : Nat) {i : Nat} (h : i ≤ hi) :
    s.bitOf a i = (s.g ⟨a, hi, 0⟩).testBit i := by
  have hlt : i < hi + 1 - 0 := by omega
  simp only [State.bitOf, State.g, Fld.of, Nat.testBit_mod_two_pow, hlt, decide_true, Bool.true_and, pow_zero, Nat.div_one,
    BitVec.getLsbD]

/-- The levels of a bank after a PIN cue (R426). -/
def pinLevels (old levels mask : Nat) : Nat :=
  ((List.range 16).map (fun i => if (if mask.testBit i then levels.testBit i else old.testBit i) then 2 ^ i else 0)).sum

theorem testBit_pinLevels (old levels mask : Nat) {i : Nat} (hi : i < 16) :
    (pinLevels old levels mask % 65536).testBit i = if mask.testBit i then levels.testBit i else old.testBit i := by
  obtain ⟨hlt, hbits⟩ := testBit_sum_two_pow (fun i => if mask.testBit i then levels.testBit i else old.testBit i) 16
  exact (congrArg (Nat.testBit · i) (Nat.mod_eq_of_lt hlt)).trans (hbits i hi)

/-- The registers that a PIN cue changes (R426). -/
def pinRegs (b : Nat) : List Nat :=
  [GP_OUT b, GPIO_PIN_CUE_CNT, GPIO_LAST_PIN, GPIO_LAST_PIN_TT_LO, GPIO_LAST_PIN_TT_LO + 4, GPIO_STAT]

/-- The record of a PIN cue changes registers of the GPIO block alone (R426). -/
theorem State.pinCue_spares {P : Nat → Prop} (s : State) (b levels mask : Nat) (launch : BitVec 64)
    (hP : ∀ a ∈ [GPIO_PIN_CUE_CNT, GPIO_LAST_PIN, GPIO_LAST_PIN_TT_LO, GPIO_LAST_PIN_TT_LO + 4, GPIO_STAT], ¬ P a) :
    (s.p (GP_OUT_level b) (pinLevels (s.g (GP_OUT_level b)) levels mask)).Spares P (s.pinCue b levels mask launch) := by
  simp only [List.forall_mem_cons] at hP
  obtain ⟨hcnt, hlast, hlo, hhi, hstat, -⟩ := hP
  exact (((((State.Spares.refl _).incWrap (f := word GPIO_PIN_CUE_CNT) hcnt).wr hlast _).wr hlo _).wr hhi _).p
    (f := GPIO_STAT_last_bank) hstat _

theorem State.act_pin {s : State} {e : Entry} (b : Fin 4) (hcode : recAct e.rec_ = 8) (htarget : recTarget e.rec_ = GP_OUT b)
    (hok : (s.act e).1 = .ok) :
    (s.act e).2 = s.pinCue b (e.rec_.a.toNat % 65536) (e.rec_.b.toNat % 65536) e.rec_.launch := by
  obtain ⟨hfits, howned⟩ := State.owned_of_act_ok (by rw [hcode]; decide) hok
  rw [hcode, htarget] at hfits
  rw [hcode] at howned
  simp [State.act, hcode, htarget, actTargets, hfits, howned, locate_gpOut b]

theorem exec_pin_of_ok (at_ : TT) (id : CueId) (e : Entry) (b : Fin 4) (s : State) (he : (s.atTime at_).entry id = some e)
    (hsub : id.sub = 0) (hcode : recAct e.rec_ = 8) (htarget : recTarget e.rec_ = GP_OUT b)
    (hok : ((s.atTime at_).act e).1 = .ok) (hmay : (s.atTime at_).mayEffect e = true) :
    ∃ t, exec (.pin at_ id) s = .next t ∧ t.entry id = none ∧
      (∀ i < 16, t.bitOf (GP_OUT b) i = if e.rec_.b.getLsbD i then e.rec_.a.getLsbD i else s.bitOf (GP_OUT b) i) ∧
      keepsRegs s t (pinRegs b) ∧ keepsMemory s t := by
  have hexec : exec (.pin at_ id) s = _ := timed_cueEffect he hsub hcode (by decide) hmay hok
  rw [State.act_pin b hcode htarget hok] at hexec
  have hout : ∀ b : Fin 4, endsOn (GP_OUT b) = false ∧ GP_OUT b ∉ (pinRegs b).tail := by decide
  refine ⟨_, hexec, State.ended_finishCue_entry s _ (State.entry_id he), fun i hi => ?_, keeps_of_finishCue (at_ := at_) ?_ e⟩
  · have hrest := State.pinCue_spares (P := (· = GP_OUT b)) (s.atTime at_) b (e.rec_.a.toNat % 65536)
      (e.rec_.b.toNat % 65536) e.rec_.launch (fun a ha h => (hout b).2 (h ▸ ha))
    have hold : (s.atTime at_).g (GP_OUT_level b) = s.g (GP_OUT_level b) := State.g_of_rd (State.atTime_rd s at_ _)
    have hlow (w : W32) : (w.toNat % 65536).testBit i = w.getLsbD i := by
      have hmod : (w.toNat % 65536).testBit i = (decide (i < 16) && w.toNat.testBit i) := Nat.testBit_mod_two_pow _ 16 i
      rw [hmod, decide_eq_true hi, Bool.true_and, BitVec.getLsbD]
    have hset (v : Nat) : ((s.atTime at_).p (GP_OUT_level b) v).g (GP_OUT_level b) = v % 65536 :=
      State.g_p_same _ _ _ (Nat.zero_le 15) (by show 15 < 32; decide)
    rw [State.bitOf_eq_testBit_g _ _ 15 (by omega), State.g_of_rd (State.ended_finishCue_rd s _ e (hout b).1), hrest.g rfl,
      hset, testBit_pinLevels _ _ _ hi, hlow, hlow, hold, State.bitOf_eq_testBit_g s _ 15 (by omega)]
  · refine State.Spares.trans ((State.Spares.refl _).p (f := GP_OUT_level b) (not_outside_of_mem (by simp [pinRegs])) _)
      (State.pinCue_spares _ _ _ _ _ fun a ha => not_outside_of_mem ?_)
    exact List.mem_cons_of_mem _ ha

/-! ### Routes -/

/-- The fields of LPn_TX_SRC: kind and index (R211). -/
def lpTxSrcFields : List FieldDesc := [⟨11, 10, .rw, []⟩, ⟨9, 0, .rw, []⟩]

theorem regFields_lpTxSrc : ∀ p : Fin 32, regFields (LP_TX_SRC p) = lpTxSrcFields := by decide

/-- A whole write leaves the bits written in LPn_TX_SRC. -/
theorem getLsbD_newWord_lpTxSrc (old v : W32) {i : Nat} (hi : i < 12) :
    (newWord false lpTxSrcFields old v 0xFFFFFFFF).getLsbD i = v.getLsbD i := by
  simp only [newWord, lpTxSrcFields, List.foldl_cons, List.foldl_nil, FieldDesc.mask, BitVec.getLsbD_or,
    BitVec.getLsbD_and, BitVec.getLsbD_not]
  interval_cases i <;> simp

/-- A field whose bits agree in two words has one value in both. -/
theorem Fld.of_congr {f : Fld} {v w : W32} (h : ∀ i, f.lo ≤ i → i ≤ f.hi → w.getLsbD i = v.getLsbD i) :
    f.of w = f.of v := by
  apply Nat.eq_of_testBit_eq
  intro j
  simp only [Fld.of, Nat.testBit_mod_two_pow, Nat.testBit_div_two_pow]
  by_cases hj : j < f.hi + 1 - f.lo
  · have hbit := h (j + f.lo) (by omega) (by omega)
    simpa [BitVec.getLsbD, hj] using hbit
  · simp [hj]

/-- A line port's source is written; `l` gives the line ports' states, in which it may be in force at once (R211). -/
def State.withRoute (s : State) (p : Nat) (v : W32) (l : Tab LpSt) : State :=
  { s.wr (LP_TX_SRC p) (newWord false lpTxSrcFields (s.rd (LP_TX_SRC p)) v 0xFFFFFFFF) with lp := l }

/-- ROUTE of a line-port output that is answered OK writes its operand (R91, R211). -/
theorem State.act_route {s : State} {e : Entry} (p : Fin 32) (hcode : recAct e.rec_ = 5)
    (htarget : recTarget e.rec_ = LP_TX_SRC p) (hok : (s.act e).1 = .ok) :
    ∃ l, (s.act e).2 = s.withRoute p e.rec_.a l := by
  obtain ⟨v, m, hw, hact⟩ := State.act_of_write_ok (by rw [hcode]; decide) hok
  obtain ⟨rfl, rfl⟩ : e.rec_.a = v ∧ 0xFFFFFFFF = m := by simpa [writeOf, hcode] using hw
  have hloc := locate_lpTxSrc p
  rw [hcode, htarget] at hact
  rw [hact] at hok ⊢
  have haction (act : W32) : s.actionWrite (LP_TX_SRC p) (e.rec_.a &&& 0xFFFFFFFF) act = none := by
    simp [State.actionWrite, hloc]
  have hspecial (act : W32) : s.special (.cue (recSvc e.rec_) 5) (LP_TX_SRC p) act = none := by simp [State.special, hloc]
  rw [State.writeReg_of_ok haction hspecial (by rw [hloc]; rfl) hok, regFields_lpTxSrc]
  simp only [State.written, hloc, State.lpWritten, if_true]
  generalize RasterSt.switchingLine _ = b
  cases b <;> exact ⟨_, rfl⟩

theorem exec_route_of_ok (at_ : TT) (id : CueId) (e : Entry) (p : Fin 32) (s : State)
    (he : (s.atTime at_).entry id = some e) (hsub : id.sub = 0) (hcode : recAct e.rec_ = 5)
    (htarget : recTarget e.rec_ = LP_TX_SRC p) (hok : ((s.atTime at_).act e).1 = .ok)
    (hmay : (s.atTime at_).mayEffect e = true) :
    ∃ t, exec (.route at_ id) s = .next t ∧ t.entry id = none ∧
      t.g (LP_TX_SRC_kind p) = (LP_TX_SRC_kind p).of e.rec_.a ∧ t.g (LP_TX_SRC_index p) = (LP_TX_SRC_index p).of e.rec_.a ∧
      keepsRegs s t [LP_TX_SRC p] ∧ keepsMemory s t := by
  have hexec : exec (.route at_ id) s = _ := timed_cueEffect he hsub hcode (by decide) hmay hok
  obtain ⟨l, hact⟩ := State.act_route p hcode htarget hok
  rw [hact] at hexec
  have hends : ∀ p : Fin 32, endsOn (LP_TX_SRC p) = false := by decide
  have hword := (State.ended_finishCue_rd s ((s.atTime at_).withRoute p e.rec_.a l) e (hends p)).trans
    (State.rd_wr_same _ _ _)
  refine ⟨_, hexec, State.ended_finishCue_entry s _ (State.entry_id he), ?_, ?_, keeps_of_finishCue (at_ := at_) ?_ e⟩
  · rw [State.g, hword]
    exact Fld.of_congr fun i _ (hi : i ≤ 11) => getLsbD_newWord_lpTxSrc _ _ (by omega)
  · rw [State.g, hword]
    exact Fld.of_congr fun i _ (hi : i ≤ 9) => getLsbD_newWord_lpTxSrc _ _ (by omega)
  · exact ((State.Spares.refl _).wr (not_outside_of_mem List.mem_cons_self) _).of_cells rfl rfl

/-! ### Streams and barriers -/

theorem State.act_streamArm {s : State} {e : Entry} (d : Fin 1024) (hcode : recAct e.rec_ = 9)
    (htarget : recTarget e.rec_ = DS_CTL d) (hok : (s.act e).1 = .ok) :
    (s.act e).2 = s.setStream d { s.stream d with arm := some (e.rec_.a.toNat % 4) } := by
  obtain ⟨hfits, howned⟩ := State.owned_of_act_ok (by rw [hcode]; decide) hok
  rw [hcode, htarget] at hfits
  rw [hcode] at howned
  have hact : s.act e = if s.bit (DS_CTL_timing d) then (.access, s) else
      if s.g (DS_CTL_nb d) < e.rec_.a.toNat % 4 then (.encoding, s)
      else (.ok, s.setStream d { s.stream d with arm := some (e.rec_.a.toNat % 4) }) := by
    simp [State.act, hcode, htarget, actTargets, hfits, howned, locate_dsCtl d, State.when]
  rw [hact] at hok ⊢
  split_ifs at hok ⊢
  rfl

theorem State.setStream_spares (P : Nat → Prop) (s : State) (d : Nat) (x : StreamSt) : s.Spares P (s.setStream d x) :=
  (State.Spares.refl s).of_cells rfl rfl

theorem exec_streamArm_of_ok (at_ : TT) (id : CueId) (e : Entry) (d : Fin 1024) (s : State)
    (he : (s.atTime at_).entry id = some e) (hsub : id.sub = 0) (hcode : recAct e.rec_ = 9)
    (htarget : recTarget e.rec_ = DS_CTL d) (hok : ((s.atTime at_).act e).1 = .ok)
    (hmay : (s.atTime at_).mayEffect e = true) :
    ∃ t, exec (.streamArm at_ id) s = .next t ∧ t.entry id = none ∧ (t.stream d).arm = some (e.rec_.a.toNat % 4) ∧
      keepsRegs s t [] ∧ keepsMemory s t := by
  have hexec : exec (.streamArm at_ id) s = _ := timed_cueEffect he hsub hcode (by decide) hmay hok
  rw [State.act_streamArm d hcode htarget hok] at hexec
  refine ⟨_, hexec, State.ended_finishCue_entry s _ (State.entry_id he), ?_,
    keeps_of_finishCue (at_ := at_) (State.setStream_spares _ _ _ _) e⟩
  rw [State.stream, State.ended_ds, State.finishCue_ds, ← State.stream, State.setStream_stream]

theorem State.act_barrier {s : State} {e : Entry} (b : Fin 256) (hcode : recAct e.rec_ = 0xA)
    (htarget : recTarget e.rec_ = BA_CTL b) (hok : (s.act e).1 = .ok) :
    (s.act e).2 = s.setBarrier b (e.rec_.a.getLsbD 16) (e.rec_.a.toNat % 65536) := by
  obtain ⟨hfits, howned⟩ := State.owned_of_act_ok (by rw [hcode]; decide) hok
  rw [hcode, htarget] at hfits
  rw [hcode] at howned
  simp [State.act, hcode, htarget, actTargets, hfits, howned, locate_baCtl b]

/-- The registers that a BARRIER changes (R327). -/
def barrierRegs (b : Nat) : List Nat := [BA_COUNT b, BA_STAT b, FM_BARRIER_SAT_CNT, FM_STICKY]

theorem State.setBarrier_spares (s : State) (b : Nat) (add : Bool) (v : Nat) :
    s.Spares (Outside (barrierRegs b)) (s.setBarrier b add v) := by
  have hcount : ¬ Outside (barrierRegs b) (BA_COUNT b) := not_outside_of_mem (by simp [barrierRegs])
  have hsat (s : State) : s.Spares (Outside (barrierRegs b))
      (((s.pb (BA_STAT_sat b) true).inc (cnt16 FM_BARRIER_SAT_CNT)).pb FM_STICKY_barrier_sat true) :=
    (((State.Spares.refl s).pb (f := BA_STAT_sat b) (not_outside_of_mem (by simp [barrierRegs])) _).inc
      (f := cnt16 FM_BARRIER_SAT_CNT) (not_outside_of_mem (by simp [barrierRegs, cnt16]))).pb (f := FM_STICKY_barrier_sat)
      (not_outside_of_mem (by simp [barrierRegs])) _
  cases add with
  | false => exact (State.Spares.refl s).p (f := BA_COUNT_count b) hcount _
  | true => exact ((State.Spares.refl s).when _ hsat).p (f := BA_COUNT_count b) hcount _

/-- A barrier's count is set, or added to and held at 65,535 (R327). -/
theorem State.setBarrier_count (s : State) (b : Nat) (add : Bool) {v : Nat} (hv : v < 65536) :
    (s.setBarrier b add v).g (BA_COUNT_count b) = if add then min (s.g (BA_COUNT_count b) + v) 65535 else v := by
  obtain ⟨t, ht⟩ : ∃ t : State, s.setBarrier b add v =
      t.p (BA_COUNT_count b) (if add then min (s.g (BA_COUNT_count b) + v) 65535 else v) := by
    cases add <;> exact ⟨_, rfl⟩
  rw [ht, State.g_p_same _ _ _ (Nat.zero_le 15) (by show 15 < 32; decide)]
  refine Nat.mod_eq_of_lt ?_
  show _ < 65536
  split <;> omega

theorem exec_barrier_of_ok (at_ : TT) (id : CueId) (e : Entry) (b : Fin 256) (s : State)
    (he : (s.atTime at_).entry id = some e) (hsub : id.sub = 0) (hcode : recAct e.rec_ = 0xA)
    (htarget : recTarget e.rec_ = BA_CTL b) (hok : ((s.atTime at_).act e).1 = .ok)
    (hmay : (s.atTime at_).mayEffect e = true) :
    ∃ t, exec (.barrier at_ id) s = .next t ∧ t.entry id = none ∧
      t.g (BA_COUNT_count b) = (if e.rec_.a.getLsbD 16 then
        min ((s.atTime at_).g (BA_COUNT_count b) + e.rec_.a.toNat % 65536) 65535 else e.rec_.a.toNat % 65536) ∧
      keepsRegs s t (barrierRegs b) ∧ keepsMemory s t := by
  have hexec : exec (.barrier at_ id) s = _ := timed_cueEffect he hsub hcode (by decide) hmay hok
  rw [State.act_barrier b hcode htarget hok] at hexec
  have hends : endsOn (BA_COUNT b) = false := endsOn_of_ge (by simp only [BA_COUNT]; omega)
  refine ⟨_, hexec, State.ended_finishCue_entry s _ (State.entry_id he), ?_,
    keeps_of_finishCue (at_ := at_) (State.setBarrier_spares _ _ _ _) e⟩
  exact (State.g_of_rd (State.ended_finishCue_rd s _ e hends)).trans
    (State.setBarrier_count _ _ _ (Nat.mod_lt _ (by decide)))

end Sys2Proof.Machine

/-! ### The obligations -/

/-- Settles O22: the cell belongs to the cue's service, so that the gain's fields, or the direction and its change, are as
the action leaves them. -/
theorem cuesSetGainsAndDirections : Obligations.CuesSetGainsAndDirections := by
  refine ⟨?_, exec_direction_of_owned⟩
  intro at_ id e c s u f len he hsub hcode htarget hgain hown hmay
  exact exec_gainStep_of_owned at_ id e c s he hsub hcode htarget hgain hown hmay

/-- Settles O23: a PIN cue puts the bank's levels together bit by bit, and a ROUTE is a whole write of its register. -/
theorem pinAndRouteCuesTakeEffect : Obligations.PinAndRouteCuesTakeEffect :=
  ⟨exec_pin_of_ok, exec_route_of_ok⟩

/-- Settles O24: an action that is answered OK is at a target of its kind and its service's own. -/
theorem cuesArmStreamsAndBarriers : Obligations.CuesArmStreamsAndBarriers :=
  ⟨exec_streamArm_of_ok, exec_barrier_of_ok⟩
end

section
/-! What rejections, removals, frames and the acceptance of records spare. -/

open Sys2Proof Sys2Proof.Machine

namespace Sys2Proof.Machine

/-! ### The queue -/

theorem State.entry_eq_none_iff {s : State} {id : CueId} : s.entry id = none ↔ ∀ x ∈ s.cue.entries, x.id ≠ id := by
  simp [State.entry]

/-- A cue that is not in the queue is not there once another has taken effect. -/
theorem State.finishCue_entry_none {s : State} {id : CueId} (e : Entry) (h : s.entry id = none) :
    (s.finishCue e).entry id = none := by
  rw [State.entry_eq_none_iff] at h ⊢
  intro x hx
  simp only [State.finishCue_entries, List.mem_map, List.mem_filter] at hx
  obtain ⟨y, ⟨hy, -⟩, rfl⟩ := hx
  rw [Entry.releasedBy_id]
  exact h y hy

/-- The drop of a chain takes cues out of the queue, counts them and logs them; it changes no more of the cue engine
(R117). -/
theorem State.dropChain_cases (s : State) (id : CueId) : s.dropChain id = s ∨ ∃ p svc seq,
    s.dropChain id = ((s.setEntries (s.cue.entries.filter p)).inc (cnt16 CUE_CHAIN_DROP_CNT)).eventNow 0x13 svc seq := by
  unfold State.dropChain
  split
  · exact .inl rfl
  · exact .inr ⟨_, _, _, rfl⟩

theorem State.event_cue (s : State) (code svc : Nat) (d : W32) (cause : Nat) : (s.event code svc d cause).cue = s.cue := by
  obtain ⟨c, l, h⟩ := State.event_eq s code svc d cause
  rw [h]

/-- A cue that has left the queue is not found there, whatever becomes of its chain (R97, R117). -/
theorem State.removeCue_entry (s : State) (e : Entry) : (s.removeCue e).entry e.id = none := by
  have hgone := s.removeEntry_entry e
  obtain h | ⟨p, svc, seq, h⟩ := (s.removeEntry e).dropChain_cases e.id
  · rwa [State.removeCue, h]
  · rw [State.entry_eq_none_iff] at hgone ⊢
    intro x hx
    rw [State.removeCue, h, State.eventNow, State.event_cue] at hx
    exact hgone x (List.mem_of_mem_filter hx)

/-- The removal of a cue of no script entry leaves the script's requests as they are. -/
theorem State.removeCue_scriptIn (s : State) {e : Entry} (h : e.script = none) :
    (s.removeCue e).cue.scriptIn = s.cue.scriptIn := by
  have hentry : (s.removeEntry e).cue.scriptIn = s.cue.scriptIn := by
    simp only [State.removeEntry, State.askNext, h]
    rfl
  obtain hd | ⟨p, svc, seq, hd⟩ := (s.removeEntry e).dropChain_cases e.id
  · rw [State.removeCue, hd, hentry]
  · rw [State.removeCue, hd, State.eventNow, State.event_cue]
    exact hentry

/-- Where no script entry asks for an occurrence, none is armed (R126). -/
theorem State.nextInstances_of_none {s : State} (h : s.cue.scriptIn = []) : s.nextInstances = s := by
  have hsame : ({ s with cue := { s.cue with scriptIn := [] } } : State) = s := by
    rw [← h]
  simp only [State.nextInstances, h, List.filter_nil, State.each, List.foldl_nil, hsame]

/-! ### What removals and rejections spare -/

/-- A change of the cue engine's own state. -/
theorem State.Spares.cue {P : Nat → Prop} {s t : State} (h : s.Spares P t) (q : CueSt) : s.Spares P { t with cue := q } :=
  h.of_cells rfl rfl

section

variable {P : Nat → Prop} (hlog : ∀ a, P a → ¬ inLog a)

include hlog

theorem State.removeCue_spares (s : State) (e : Entry) (hdrop : ¬ P CUE_CHAIN_DROP_CNT) : s.Spares P (s.removeCue e) := by
  have hentry : s.Spares P (s.removeEntry e) := by
    obtain ⟨q, hq⟩ := s.removeEntry_eq e
    rw [hq]
    exact (State.Spares.refl s).of_cells rfl rfl
  obtain h | ⟨p, svc, seq, h⟩ := (s.removeEntry e).dropChain_cases e.id
  · rwa [State.removeCue, h]
  · rw [State.removeCue, h]
    have hkept : s.Spares P ((s.removeEntry e).setEntries ((s.removeEntry e).cue.entries.filter p)) := hentry.cue _
    exact (hkept.inc (f := cnt16 CUE_CHAIN_DROP_CNT) hdrop).event hlog (code := 0x13) (by decide) _ _ _

theorem State.finishCue_spares (s : State) (e : Entry) : s.Spares P (s.finishCue e) := by
  obtain ⟨c, l, q, hf, hrd⟩ := s.finishCue_eq e
  rw [hf]
  exact ⟨fun a ha => hrd a (hlog a ha), rfl⟩

end

/-- A rejection for a reason other than the quota, but for its record in the event log (R92). -/
def State.noteReject (s : State) (svc : Nat) (seq : W32) (why : Nat) : State :=
  (((s.inc (cnt16 CUE_REJECT_CNT)).wr CUE_LAST_REJECT seq).p CUE_LAST_REJECT_WHY_service svc).p CUE_LAST_REJECT_WHY_reason why

/-- The registers that such a rejection changes (R127, R128). -/
def rejectRegs : List Nat := [CUE_REJECT_CNT, CUE_LAST_REJECT, CUE_LAST_REJECT_WHY]

theorem State.noteReject_spares (s : State) (svc : Nat) (seq : W32) (why : Nat) :
    s.Spares (Outside rejectRegs) (s.noteReject svc seq why) :=
  ((((State.Spares.refl s).inc (f := cnt16 CUE_REJECT_CNT) (not_outside_of_mem (by decide))).wr (a := CUE_LAST_REJECT)
    (not_outside_of_mem (by decide)) seq).p (f := CUE_LAST_REJECT_WHY_service) (not_outside_of_mem (by decide)) svc).p
    (f := CUE_LAST_REJECT_WHY_reason) (not_outside_of_mem (by decide)) why

/-- A rejection is counted, and shown with its reason (R92, R128). -/
theorem State.noteReject_shows (s : State) (svc : Nat) (seq : W32) {why : Nat} (hwhy : why < 16) :
    (s.noteReject svc seq why).g (cnt16 CUE_REJECT_CNT) = min (s.g (cnt16 CUE_REJECT_CNT) + 1) 65535 ∧
      (s.noteReject svc seq why).rd CUE_LAST_REJECT = seq ∧ (s.noteReject svc seq why).g CUE_LAST_REJECT_WHY_reason = why := by
  refine ⟨?_, ?_, ?_⟩
  · rw [← State.g_inc_cnt16]
    refine State.g_of_rd ((State.rd_p_ne _ ?_ _).trans ((State.rd_p_ne _ ?_ _).trans (State.rd_wr_ne _ ?_ _))) <;> decide
  · refine (State.rd_p_ne _ ?_ _).trans ((State.rd_p_ne _ ?_ _).trans (State.rd_wr_same _ _ _)) <;> decide
  · exact (State.g_p_same _ _ _ (by decide) (by decide)).trans (Nat.mod_eq_of_lt hwhy)

theorem State.countReject_eq (s : State) (svc : Nat) (seq : W32) {why : Nat} (hquota : why ≠ whyQuota) :
    s.countReject svc seq why =
      (s.noteReject svc seq why).eventNow 0x10 svc ((seq <<< 4) ||| BitVec.ofNat 32 why) := by
  simp only [State.countReject, if_neg hquota]
  rfl

/-! ### What the acceptance of records spares -/

/-- Registers of the cue engine that the acceptance of a record leaves: the count of cancels and the script's enable
bits. -/
abbrev IntakeLeaves (a : Nat) : Prop := a = CUE_CANCEL_CNT ∨ (CUE_SCRIPT_EN 0 ≤ a ∧ a < CUE_SCRIPT_EN 32)

theorem not_inLog_of_intakeLeaves {a : Nat} (h : IntakeLeaves a) : ¬ inLog a := by
  simp only [IntakeLeaves, CUE_CANCEL_CNT, CUE_SCRIPT_EN] at h
  simp only [inLog]
  omega

/-- The blocks behind the cue engine's are none of them. -/
theorem not_intakeLeaves_of_ge {a : Nat} (h : 0x20100 ≤ a) : ¬ IntakeLeaves a := by
  simp only [IntakeLeaves, CUE_CANCEL_CNT, CUE_SCRIPT_EN]
  omega

theorem not_intakeLeaves_sourceCnt (src : CueSource) : ¬ IntakeLeaves (sourceCnt src) := by cases src <;> decide

theorem State.countReject_intakeLeaves (s : State) (svc : Nat) (seq : W32) (why : Nat) :
    s.Spares IntakeLeaves (s.countReject svc seq why) := by
  have hcount : s.Spares IntakeLeaves (if why = whyQuota then (s.inc (cnt16 CUE_QUOTA_CNT)).inc (SV_CUE_CNT_quota svc)
      else s.inc (cnt16 CUE_REJECT_CNT)) := by
    have hsvc : ¬ IntakeLeaves (SV_CUE_CNT svc) := not_intakeLeaves_of_ge (by simp only [SV_CUE_CNT]; omega)
    split
    · exact ((State.Spares.refl s).inc (f := cnt16 CUE_QUOTA_CNT) (by decide)).inc (f := SV_CUE_CNT_quota svc) hsvc
    · exact (State.Spares.refl s).inc (f := cnt16 CUE_REJECT_CNT) (by decide)
  exact (((hcount.wr (a := CUE_LAST_REJECT) (by decide) _).p (f := CUE_LAST_REJECT_WHY_service) (by decide) _).p
    (f := CUE_LAST_REJECT_WHY_reason) (by decide) _).event (fun _ => not_inLog_of_intakeLeaves) (code := 0x10) (by decide) _ _ _

theorem State.WakesTo.spares {P : Nat → Prop} {s t : State} (h : s.WakesTo t) (hP : ¬ P SYS_NAP_CNT) : s.Spares P t :=
  ⟨fun a ha => h.rd a (fun hne => hP (hne ▸ ha)), h.fm⟩

theorem State.updEntry_spares {P : Nat → Prop} (s : State) (id : CueId) (f : Entry → Entry) : s.Spares P (s.updEntry id f) :=
  (State.Spares.refl s).of_cells rfl rfl

theorem State.wakeCue_spares {P : Nat → Prop} (s : State) (e : Entry) (hP : ¬ P SYS_NAP_CNT) : s.Spares P (s.wakeCue e) :=
  ((s.eachWake_wakesTo (s.wakeList e.rec_)).spares hP).trans (State.updEntry_spares _ _ _)

theorem State.sceneDone_intakeLeaves (s : State) (e : Entry) : s.Spares IntakeLeaves (s.sceneDone e) := by
  unfold State.sceneDone
  split_ifs
  · exact .refl s
  · exact .refl s
  · split
    · exact s.finishCue_spares (fun _ => not_inLog_of_intakeLeaves) _
    · exact .refl s

theorem State.becomeLate_intakeLeaves (s : State) (e : Entry) : s.Spares IntakeLeaves (s.becomeLate e) := by
  have hsvc : ¬ IntakeLeaves (SV_CUE_CNT (recSvc e.rec_)) := not_intakeLeaves_of_ge (by simp only [SV_CUE_CNT]; omega)
  have hlogged : s.Spares IntakeLeaves (((s.eventNow 0x11 (recSvc e.rec_) ((e.rec_.seq <<< 2) ||| BitVec.ofNat 32
      (recPolicy e.rec_))).inc (cnt16 CUE_LATE_CNT)).inc (SV_CUE_CNT_late (recSvc e.rec_))) :=
    (((State.Spares.refl s).event (fun _ => not_inLog_of_intakeLeaves) (by decide) _ _ _).inc (f := cnt16 CUE_LATE_CNT)
      (by decide)).inc (f := SV_CUE_CNT_late (recSvc e.rec_)) hsvc
  have hdiscarded := hlogged.inc (f := cnt16 CUE_DISCARD_CNT) (by decide)
  simp only [State.becomeLate]
  split_ifs
  · exact .refl s
  · exact hdiscarded.trans (State.removeCue_spares (fun _ => not_inLog_of_intakeLeaves) _ e (by decide))
  · exact (hdiscarded.cue _).trans (State.sceneDone_intakeLeaves _ e)
  · exact (hlogged.trans (State.wakeCue_spares _ e (by decide))).trans (State.updEntry_spares _ _ _)

theorem State.goQueued_intakeLeaves (s : State) (id : CueId) (launch : Nat) : s.Spares IntakeLeaves (s.goQueued id launch) := by
  simp only [State.goQueued]
  split
  · exact s.updEntry_spares _ _
  · split_ifs
    · exact (s.updEntry_spares _ _).trans (State.becomeLate_intakeLeaves _ _)
    · exact (s.updEntry_spares _ _).trans (State.wakeCue_spares _ _ (by decide))
    · exact s.updEntry_spares _ _

theorem State.dedupe_spares {P : Nat → Prop} (s : State) (origin : MemberId) (seq : W32) :
    s.Spares P (s.dedupe origin seq).2 := by
  have hput (l : List DedupSt) : s.Spares P { s with cue := { s.cue with dedup := l } } := (State.Spares.refl s).cue _
  simp only [State.dedupe]
  split
  · exact hput _
  · split_ifs
    all_goals exact hput _

theorem State.addEntry_intakeLeaves (s : State) (src : CueSource) (r : CueRec) (script : Option Nat) (after : Option CueId) :
    s.Spares IntakeLeaves (s.addEntry src r script after).2 := by
  have hseq (b : Bool) (v : W32) : s.Spares IntakeLeaves (if b then s else s.wr CUE_SEQ v) := by
    cases b with
    | false => exact (State.Spares.refl s).wr (by decide) v
    | true => exact .refl s
  have hcounted (t : State) (h : s.Spares IntakeLeaves t) (q : CueSt) (n : Nat) : s.Spares IntakeLeaves
      ((({ t with cue := q } : State).incWrap (word (sourceCnt src))).raise ⟨CUE_PEAK, 12, 0⟩ n) :=
    ((h.cue q).incWrap (f := word (sourceCnt src))
      (not_intakeLeaves_sourceCnt src)).p (f := ⟨CUE_PEAK, 12, 0⟩) (by decide) _
  have hplaced (t : State) (h : s.Spares IntakeLeaves t) (armed queued : Bool) (e : Entry) (id : CueId) (n : Nat) :
      s.Spares IntakeLeaves (if armed then t.wakeCue e else if queued then t.goQueued id n else t) := by
    split
    · exact h.trans (t.wakeCue_spares e (by decide))
    · split
      · exact h.trans (t.goQueued_intakeLeaves id n)
      · exact h
  exact hplaced _ (hcounted _ (hseq _ _) _ _) _ _ _ _ _

/-! ### What frames spare -/

section

variable {P : Nat → Prop} {p : Nat} (hcnt : ¬ P (AX_TX_FRAME_CNT p))

include hcnt

/-- A frame on the wire is counted at its port (R366). -/
theorem State.putOnWire_spares (s : State) (f : AxFrame) : s.Spares P (s.putOnWire p f) := by
  have hsent (x y : PortSt) (w : List (Nat × AxFrame)) : s.Spares P ((({ s.setPort p x with
      ax := { (s.setPort p x).ax with wire := w } } : State).setPort p y).incWrap (word (AX_TX_FRAME_CNT p))) :=
    ((State.Spares.refl s).of_cells (u := ({ s.setPort p x with
      ax := { (s.setPort p x).ax with wire := w } } : State).setPort p y) rfl rfl).incWrap (f := word (AX_TX_FRAME_CNT p)) hcnt
  exact hsent _ _ _

/-- A frame that is sent takes credit, or waits for it (R372). -/
theorem State.sendFrame_spares (s : State) (f : AxFrame) (hcredit : ¬ P (AX_CREDIT p)) : s.Spares P (s.sendFrame p f) := by
  have hpaid : s.Spares P (match creditOf p f.cls with | some c => s.p c (s.g c - f.cost) | none => s) := by
    unfold creditOf
    split_ifs
    · exact (State.Spares.refl s).p (f := AX_CREDIT_cue p) hcredit _
    · exact (State.Spares.refl s).p (f := AX_CREDIT_mgmt p) hcredit _
    · exact (State.Spares.refl s).p (f := AX_CREDIT_bulk p) hcredit _
    · exact .refl s
  simp only [State.sendFrame]
  split_ifs
  · exact .refl s
  · exact hpaid.trans (State.putOnWire_spares hcnt _ _)
  · exact (State.Spares.refl s).of_cells rfl rfl

end

theorem State.Spares.each_mem {α : Type} {P : Nat → Prop} {s t : State} {f : State → α → State} {l : List α}
    (h : s.Spares P t) (hf : ∀ x ∈ l, ∀ s : State, s.Spares P (f s x)) : s.Spares P (t.each l f) := by
  induction l generalizing t with
  | nil => exact h
  | cons x l ih => exact ih (h.trans (hf x (by simp) t)) fun y hy => hf y (by simp [hy])

/-- A broadcast cue goes out on the four ports alone (R389). -/
theorem State.floodCue_spares {P : Nat → Prop} (hP : ∀ p < 4, ¬ P (AX_TX_FRAME_CNT p) ∧ ¬ P (AX_CREDIT p)) (s : State)
    (r : CueRec) (but : Option Nat) : s.Spares P (s.floodCue r but) := by
  simp only [State.floodCue]
  split
  · exact .refl s
  · refine ((State.Spares.refl s).each_mem fun p hp s => ?_).of_cells rfl rfl
    obtain ⟨hcnt, hcredit⟩ := hP p (List.mem_range.mp hp)
    split
    · exact s.sendFrame_spares hcnt _ hcredit
    · exact .refl s

/-! ### What the script spares -/

/-- What each step of a fold spares, the fold spares. -/
theorem State.Spares.foldl {α β : Type} {P : Nat → Prop} (F : β → State) (f : β → α → β)
    (h : ∀ b a, (F b).Spares P (F (f b a))) (l : List α) (b : β) : (F b).Spares P (F (l.foldl f b)) := by
  induction l generalizing b with
  | nil => exact .refl _
  | cons a l ih => exact (h b a).trans (ih (f b a))

theorem State.floodCue_intakeLeaves (s : State) (r : CueRec) (but : Option Nat) : s.Spares IntakeLeaves (s.floodCue r but) :=
  State.floodCue_spares (fun _ _ => ⟨not_intakeLeaves_of_ge (by simp only [AX_TX_FRAME_CNT]; omega),
    not_intakeLeaves_of_ge (by simp only [AX_CREDIT]; omega)⟩) s r but

theorem State.acceptChain_intakeLeaves (s : State) (src : CueSource) (recs : List CueRec) (open_ : Bool)
    (script : Option Nat) : s.Spares IntakeLeaves (s.acceptChain src recs open_ script).2 := by
  unfold State.acceptChain
  split
  · exact (State.Spares.refl s).each (fun s _ => s.countReject_intakeLeaves _ _ _) _
  · refine State.Spares.foldl (fun acc : List Taken × Option CueId × State => acc.2.2) _ (fun acc r => ?_) recs
      ([], none, s)
    refine ((State.addEntry_intakeLeaves _ _ _ _ _).when _ fun t => ?_).when _ fun t => t.dedupe_spares _ _
    split
    · exact t.floodCue_intakeLeaves _ _
    · exact t.floodCue_intakeLeaves _ _

theorem State.setScript_ite (s : State) (e : Nat) (b : Bool) (x y : ScriptSt) :
    ∃ z, (if b then s.setScript e x else s.setScript e y) = s.setScript e z := by
  cases b with
  | false => exact ⟨y, rfl⟩
  | true => exact ⟨x, rfl⟩

/-- The script's attempt at an occurrence: nothing, the end of an entry after its last occurrence, or the intake of its
records (R124–R126). -/
theorem State.insertScript_cases (s : State) (e : Nat) :
    s.insertScript e = s ∨
    (∃ x, s.script e = some x ∧ x.count ≠ 0 ∧ x.count ≤ x.inserted ∧
      s.insertScript e = s.setBitOf (CUE_SCRIPT_EN (e / 32)) (e % 32) false) ∨
    ∃ recs open_ y, s.insertScript e = (s.acceptChain .script recs open_ (some e)).2.setScript e y := by
  unfold State.insertScript
  split
  · exact .inl rfl
  case h_2 x hx =>
    split_ifs with hon hlast
    · exact .inl rfl
    · exact .inr (.inl ⟨x, hx, hlast.1, hlast.2, rfl⟩)
    · dsimp only
      split
      · exact .inl rfl
      · obtain ⟨z, hz⟩ := State.setScript_ite (State.acceptChain _ _ _ _ _).2 e _ _ _
        exact .inr (.inr ⟨_, _, z, hz⟩)

/-- The script's enable bits are no counter of the cue engine. -/
theorem scriptEn_ne {e : Nat} : CUE_SCRIPT_EN (e / 32) ≠ CUE_CANCEL_CNT := by
  simp only [CUE_SCRIPT_EN, CUE_CANCEL_CNT]
  omega

theorem State.insertScript_cancelCnt (s : State) (e : Nat) : s.Spares (· = CUE_CANCEL_CNT) (s.insertScript e) := by
  obtain h | ⟨x, -, -, -, h⟩ | ⟨recs, open_, y, h⟩ := s.insertScript_cases e
  · rw [h]
    exact .refl s
  · rw [h]
    exact (State.Spares.refl s).p scriptEn_ne _
  · rw [h]
    exact (State.Spares.cue ((s.acceptChain_intakeLeaves .script recs open_ (some e)).mono fun _ ha => .inl ha) _)

theorem State.nextInstances_cancelCnt (s : State) : s.Spares (· = CUE_CANCEL_CNT) s.nextInstances := by
  refine (((State.Spares.refl s).cue _).each (fun s e => ?_) _)
  split
  · exact s.insertScript_cancelCnt e
  · unfold State.lastInstance
    split
    · exact (State.Spares.refl s).when _ fun s => (State.Spares.refl s).p scriptEn_ne _
    · exact .refl s

end Sys2Proof.Machine
end

section
/-! CANCEL cues. -/

open Sys2Proof Sys2Proof.Machine

namespace Sys2Proof.Machine

theorem State.atTime_g (s : State) (at_ : TT) (f : Fld) : (s.atTime at_).g f = s.g f := State.g_of_rd (s.atTime_rd at_ f.addr)

theorem State.ended_entry (s old : State) (id : CueId) : (s.ended old).entry id = s.entry id := by
  rw [State.entry, State.ended_cue]
  rfl

theorem State.act_cancel (s : State) {e : Entry} (hcode : recAct e.rec_ = 0xE) : s.act e = s.cancelCue e := by
  simp [State.act, hcode, actTargets]

/-- A cue that is refused at its quantum is rejected with the reason of its answer (R92). -/
theorem State.cueEffect_refused {s : State} {id : CueId} {e : Entry} {code : Nat} (he : s.entry id = some e)
    (hcode : recAct e.rec_ = code) (hscene : code ≠ 4) (hmay : s.mayEffect e = true) {why : Why} {t : State}
    (hact : s.act e = (why, t)) (hwhy : why ≠ .ok) : s.cueEffect code id = t.rejectCue e why.reason := by
  simp only [State.cueEffect, he]
  rw [if_pos (by simp [hcode, hscene, hmay]), State.takeEffect, hact]
  cases why with
  | ok => exact absurd rfl hwhy
  | _ => rfl

/-- A CANCEL that names no cue is missed (R110). -/
theorem State.act_cancel_of_none {s : State} {e : Entry} (hcode : recAct e.rec_ = 0xE) (hx : s.entry e.names = none) :
    s.act e = (.ok, (s.inc (cnt16 CUE_CANCEL_MISS_CNT)).eventNow 0x12 (recSvc e.rec_) e.rec_.a) := by
  simp only [s.act_cancel hcode, State.cancelCue, hx]

/-- The state once a cue is removed by a CANCEL and counted (R108, R109). -/
def State.cancelCounted (s : State) (x : Entry) : State := (s.removeCue x).inc (cnt16 CUE_CANCEL_CNT)

/-- A CANCEL removes a cue of its own service (R108). -/
theorem State.act_cancel_of_own {s : State} {e x : Entry} (hcode : recAct e.rec_ = 0xE) (hx : s.entry e.names = some x)
    (hsvc : recSvc x.rec_ = recSvc e.rec_) : s.act e = (.ok, (s.cancelCounted x).nextInstances) := by
  simp only [s.act_cancel hcode, State.cancelCue, hx, hsvc, ne_eq, not_true_eq_false, if_false]
  rfl

/-- A CANCEL leaves a cue of another service (R108). -/
theorem State.act_cancel_of_foreign {s : State} {e x : Entry} (hcode : recAct e.rec_ = 0xE) (hx : s.entry e.names = some x)
    (hsvc : recSvc x.rec_ ≠ recSvc e.rec_) : s.act e = (.fence, s) := by
  simp only [s.act_cancel hcode, State.cancelCue, hx, ne_eq, hsvc, not_false_eq_true, if_true]

theorem exec_cancel_of_none (at_ : TT) (id : CueId) (e : Entry) (s : State) (he : (s.atTime at_).entry id = some e)
    (hsub : id.sub = 0) (hcode : recAct e.rec_ = 0xE) (hmay : (s.atTime at_).mayEffect e = true)
    (hx : (s.atTime at_).entry e.names = none) :
    ∃ t, exec (.cancel at_ id) s = .next t ∧ t.entry id = none ∧
      t.g (cnt16 CUE_CANCEL_MISS_CNT) = min (s.g (cnt16 CUE_CANCEL_MISS_CNT) + 1) 65535 ∧
      ((s.atTime at_).g EL_CTL_min_sev = 0 → (s.atTime at_).log.stage.length < 1024 →
        ∃ r ∈ t.log.stage, r.code = 0x12 ∧ r.severity = 0 ∧ r.detail = e.rec_.a) ∧
      keepsRegs s t [CUE_CANCEL_MISS_CNT] ∧ keepsMemory s t := by
  have hact := State.act_cancel_of_none hcode hx
  have hexec : exec (.cancel at_ id) s = _ := timed_cueEffect he hsub hcode (by decide) hmay (by rw [hact])
  rw [hact] at hexec
  have hcount : (s.atTime at_).Spares (Outside [CUE_CANCEL_MISS_CNT])
      ((s.atTime at_).inc (cnt16 CUE_CANCEL_MISS_CNT)) := (State.Spares.refl _).inc (not_outside_of_mem (by decide))
  refine ⟨_, hexec, State.ended_finishCue_entry s _ (State.entry_id he), ?_, fun hsev hroom => ?_,
    keeps_of_finishCue (hcount.event (fun _ => not_inLog_of_outside) (by decide) _ _ _) e⟩
  · rw [← s.atTime_g at_, ← State.g_inc_cnt16]
    exact State.g_of_rd ((State.ended_finishCue_rd s _ e (by decide)).trans 
      (State.event_rd _ _ _ _ _ (not_inLog_of_outside (l := []) (by decide)) (by decide)))
  · have hactive : (s.atTime at_).dev.active = true := State.mayEffect_active hmay
    have hrec := State.event_mem_stage (s := (s.atTime at_).inc (cnt16 CUE_CANCEL_MISS_CNT)) (recSvc e.rec_) e.rec_.a
      ((s.atTime at_).inc (cnt16 CUE_CANCEL_MISS_CNT)).now (code := 0x12) (by decide) hactive
      ((State.g_of_rd (State.rd_inc_ne _ (by decide))).trans hsev) hroom
    exact ⟨_, State.ended_stageGrows _ s _ (State.finishCue_stageGrows _ e _ hrec), rfl, rfl, rfl⟩

theorem State.cancelCounted_spares (s : State) (x : Entry) :
    s.Spares (Outside [CUE_CANCEL_CNT, CUE_CHAIN_DROP_CNT]) (s.cancelCounted x) :=
  (s.removeCue_spares (fun _ => not_inLog_of_outside) x (not_outside_of_mem (by decide))).inc (f := cnt16 CUE_CANCEL_CNT)
    (not_outside_of_mem (by decide))

/-- A removal counts no cancel; the CANCEL cue does. -/
theorem State.cancelCounted_count (s : State) (x : Entry) :
    (s.cancelCounted x).g (cnt16 CUE_CANCEL_CNT) = min (s.g (cnt16 CUE_CANCEL_CNT) + 1) 65535 := by
  have hkept := (s.removeCue_spares (P := Outside [CUE_CHAIN_DROP_CNT]) (fun _ => not_inLog_of_outside) x
    (not_outside_of_mem (by decide))).g (f := cnt16 CUE_CANCEL_CNT) (by decide)
  rw [← hkept]
  exact State.g_inc_cnt16 _ _

theorem exec_cancel_of_own (at_ : TT) (id : CueId) (e x : Entry) (s : State) (he : (s.atTime at_).entry id = some e)
    (hsub : id.sub = 0) (hcode : recAct e.rec_ = 0xE) (hmay : (s.atTime at_).mayEffect e = true)
    (hx : (s.atTime at_).entry e.names = some x) (hsvc : recSvc x.rec_ = recSvc e.rec_) :
    ∃ t, exec (.cancel at_ id) s = .next t ∧ t.entry id = none ∧
      t.g (cnt16 CUE_CANCEL_CNT) = min (s.g (cnt16 CUE_CANCEL_CNT) + 1) 65535 ∧
      ((s.atTime at_).scriptsQuiet → t.entry e.names = none ∧ keepsRegs s t [CUE_CANCEL_CNT, CUE_CHAIN_DROP_CNT]) ∧
      keepsMemory s t := by
  have hact := State.act_cancel_of_own hcode hx hsvc
  have hexec : exec (.cancel at_ id) s = _ := timed_cueEffect he hsub hcode (by decide) hmay (by rw [hact])
  rw [hact] at hexec
  have hremoved := (s.atTime at_).cancelCounted_spares x
  have hnext := State.nextInstances_cancelCnt ((s.atTime at_).cancelCounted x)
  refine ⟨_, hexec, State.ended_finishCue_entry s _ (State.entry_id he), ?_, fun hquiet => ?_, ?_⟩
  · rw [← s.atTime_g at_, ← State.cancelCounted_count _ x]
    exact State.g_of_rd ((State.ended_finishCue_rd s _ e (by decide)).trans (hnext.rd _ rfl))
  · obtain ⟨hin, hnone⟩ := hquiet
    have hidle : ((s.atTime at_).cancelCounted x).nextInstances = (s.atTime at_).cancelCounted x :=
      State.nextInstances_of_none (((s.atTime at_).removeCue_scriptIn (hnone x (List.mem_of_find?_eq_some hx))).trans hin)
    have hgone : ((s.atTime at_).cancelCounted x).entry e.names = none := State.entry_id hx ▸ State.removeCue_entry _ x
    rw [hidle]
    refine ⟨?_, (keeps_of_finishCue hremoved e).1⟩
    rw [State.ended_entry]
    exact State.finishCue_entry_none e hgone
  · exact keepsMemory_ended ((State.finishCue_fm _ e).trans (hnext.fm.trans (hremoved.fm.trans (State.atTime_fm s at_))))

/-- A cue of the queue that is rejected is counted, shown with its reason, and leaves the queue with its chain (R92,
R128). -/
theorem State.rejectCue_of_whole (s : State) {e : Entry} {why : Nat} (hsub : e.id.sub = 0) (hquota : why ≠ whyQuota)
    (hwhy : why < 16) :
    s.Spares (Outside [CUE_REJECT_CNT, CUE_LAST_REJECT, CUE_LAST_REJECT_WHY, CUE_CHAIN_DROP_CNT]) (s.rejectCue e why) ∧
      (s.rejectCue e why).g (cnt16 CUE_REJECT_CNT) = min (s.g (cnt16 CUE_REJECT_CNT) + 1) 65535 ∧
      (s.rejectCue e why).rd CUE_LAST_REJECT = e.rec_.seq ∧ (s.rejectCue e why).g CUE_LAST_REJECT_WHY_reason = why ∧
      (s.rejectCue e why).entry e.id = none := by
  obtain ⟨hcount, hlast, hreason⟩ := s.noteReject_shows (recSvc e.rec_) e.rec_.seq hwhy
  have hnoted := s.noteReject_spares (recSvc e.rec_) e.rec_.seq why
  rw [State.rejectCue, if_pos hsub, State.countReject_eq _ _ _ hquota]
  generalize s.noteReject (recSvc e.rec_) e.rec_.seq why = t at hcount hlast hreason hnoted ⊢
  have hdropped : t.Spares (Outside [CUE_CHAIN_DROP_CNT]) ((t.eventNow 0x10 (recSvc e.rec_)
      ((e.rec_.seq <<< 4) ||| BitVec.ofNat 32 why)).removeCue e) :=
    ((State.Spares.refl t).event (fun _ => not_inLog_of_outside) (by decide) _ _ _).trans
      (State.removeCue_spares (fun _ => not_inLog_of_outside) _ e (not_outside_of_mem (by decide)))
  exact ⟨(hnoted.mono fun a ha => ⟨ha.1, fun h => ha.2 (List.mem_append_left [CUE_CHAIN_DROP_CNT] h)⟩).trans
      (hdropped.mono fun a ha => ⟨ha.1, fun h => ha.2 (List.mem_append_right rejectRegs h)⟩),
    (hdropped.g (f := cnt16 CUE_REJECT_CNT) (by decide)).trans hcount, (hdropped.rd _ (by decide)).trans hlast,
    (hdropped.g (f := CUE_LAST_REJECT_WHY_reason) (by decide)).trans hreason, State.removeCue_entry _ e⟩

theorem exec_cancel_of_foreign (at_ : TT) (id : CueId) (e x : Entry) (s : State) (he : (s.atTime at_).entry id = some e)
    (hsub : id.sub = 0) (hcode : recAct e.rec_ = 0xE) (hmay : (s.atTime at_).mayEffect e = true)
    (hx : (s.atTime at_).entry e.names = some x) (hsvc : recSvc x.rec_ ≠ recSvc e.rec_) :
    ∃ t, exec (.cancel at_ id) s = .next t ∧ t.entry id = none ∧
      t.g (cnt16 CUE_REJECT_CNT) = min (s.g (cnt16 CUE_REJECT_CNT) + 1) 65535 ∧
      t.rd CUE_LAST_REJECT = e.rec_.seq ∧ t.g CUE_LAST_REJECT_WHY_reason = 3 ∧
      keepsRegs s t [CUE_REJECT_CNT, CUE_LAST_REJECT, CUE_LAST_REJECT_WHY, CUE_CHAIN_DROP_CNT] ∧ keepsMemory s t := by
  have hcued : (s.atTime at_).cueEffect 0xE id = (s.atTime at_).rejectCue e Why.fence.reason :=
    State.cueEffect_refused he hcode (by decide) hmay (State.act_cancel_of_foreign hcode hx hsvc) (by decide)
  have hexec : exec (.cancel at_ id) s = _ := timed_of_eq (f := fun s => s.cueEffect 0xE id) hcued
  obtain ⟨hkept, hcount, hlast, hwhy, hgone⟩ := (s.atTime at_).rejectCue_of_whole (e := e) (why := Why.fence.reason)
    (by rw [State.entry_id he, hsub]) (by decide) (by decide)
  rw [s.atTime_g at_] at hcount
  rw [State.entry_id he] at hgone
  exact ⟨_, hexec, (State.ended_entry _ s id).trans hgone,
    (State.ended_g _ s (by decide)).trans hcount, (State.ended_rd _ s (by decide)).trans hlast,
    (State.ended_g _ s (by decide)).trans hwhy, keepsRegs_of_spares hkept, keepsMemory_of_spares hkept⟩

end Sys2Proof.Machine

/-! ### The obligation -/

/-- Settles O25: the answer of the CANCEL cue's action in each of the three cases. -/
theorem cancelRemovesOrMisses : Obligations.CancelRemovesOrMisses :=
  fun at_ id e s he hsub hcode hmay =>
    ⟨exec_cancel_of_none at_ id e s he hsub hcode hmay,
      fun x => exec_cancel_of_own at_ id e x s he hsub hcode hmay,
      fun x => exec_cancel_of_foreign at_ id e x s he hsub hcode hmay⟩
end

section
/-! Records taken by the cue engine, and submits of mailbox slots. -/

open Sys2Proof Sys2Proof.Machine

namespace Sys2Proof.Machine

/-! ### An entry for a record -/

/-- A record with the member's ID and the next sequence number (R89). -/
def State.ownRec (s : State) (r : CueRec) : CueRec := { r with origin := s.memberId.zeroExtend 16, seq := s.rd CUE_SEQ }

/-- The name that the next record takes (R89). -/
def State.nextId (s : State) : CueId := ⟨(s.memberId.zeroExtend 16).truncate 12, s.rd CUE_SEQ, 0⟩

theorem State.nextId_eq (s : State) : s.nextId = ⟨s.memberId, s.rd CUE_SEQ, 0⟩ := by
  have horigin : (s.memberId.zeroExtend 16).truncate 12 = s.memberId := by simp
  rw [State.nextId, horigin]

/-- The entry that a record takes, with what becomes of it (R111, R115). -/
def State.newEntry (s : State) (src : CueSource) (r : CueRec) (script : Option Nat) (stage : Stage) : Entry :=
  { id := s.nextId, src := src, rec_ := s.ownRec r, stage := stage, late := false, earliest := r.launch.toNat,
    frameFrom := none, claims := [], script := script, order := s.cue.order, acceptedAt := s.now, lateAt := 0,
    atCycle := false }

/-- A record takes an entry, and the next number is the one after its own. -/
def State.enter (s : State) (e : Entry) : State :=
  let t := s.wr CUE_SEQ (s.rd CUE_SEQ + 1)
  { t with cue := { t.cue with entries := t.cue.entries ++ [e], order := t.cue.order + 1 } }

/-- A record takes an entry and is counted at its source (R89, R97, R127). -/
def State.enterCounted (s : State) (src : CueSource) (e : Entry) : State :=
  ((s.enter e).incWrap (word (sourceCnt src))).raise ⟨CUE_PEAK, 12, 0⟩ ((s.enter e).incWrap (word (sourceCnt src))).queueLen

/-- A record that waits for an event is armed, and what it targets wakes with PREROLL (R111). -/
theorem State.addEntry_armed (s : State) {src : CueSource} {r : CueRec} (script : Option Nat) (hsrc : src ≠ .axlink)
    (hev : recOnEvent r = true) :
    s.addEntry src r script none = (s.nextId,
      let t := s.enterCounted src (s.newEntry src r script .armed)
      if recPreroll r then t.wakeCue (s.newEntry src r script .armed) else t) := by
  have hev' : recOnEvent (s.ownRec r) = true := hev
  have hkept : (src == .axlink) = false := by simpa using hsrc
  simp only [State.ownRec] at hev'
  simp only [State.addEntry, hkept, hev', Bool.false_eq_true, if_false, if_true]
  rfl

/-- A record with a launch time is queued (R102). -/
theorem State.addEntry_queued (s : State) {src : CueSource} {r : CueRec} (script : Option Nat) (hsrc : src ≠ .axlink)
    (hev : recOnEvent r = false) :
    s.addEntry src r script none = (s.nextId,
      (s.enterCounted src (s.newEntry src r script .queued)).goQueued s.nextId r.launch.toNat) := by
  have hev' : recOnEvent (s.ownRec r) = false := hev
  have hkept : (src == .axlink) = false := by simpa using hsrc
  simp only [State.ownRec] at hev'
  simp only [State.addEntry, hkept, hev', Bool.false_eq_true, if_false]
  rfl

section

variable (s : State) (src : CueSource) (e : Entry)

theorem State.enterCounted_cue :
    (s.enterCounted src e).cue = { s.cue with entries := s.cue.entries ++ [e], order := s.cue.order + 1 } := rfl

theorem State.enterCounted_now : (s.enterCounted src e).now = s.now := rfl

theorem State.enterCounted_spares : s.Spares (Outside [CUE_SEQ, sourceCnt src, CUE_PEAK]) (s.enterCounted src e) := by
  have hseq := (State.Spares.refl s (P := Outside [CUE_SEQ, sourceCnt src, CUE_PEAK])).wr
    (not_outside_of_mem List.mem_cons_self) (s.rd CUE_SEQ + 1)
  exact ((hseq.cue (s.enter e).cue).incWrap (f := word (sourceCnt src)) (not_outside_of_mem (by simp [word]))).p
    (f := ⟨CUE_PEAK, 12, 0⟩) (not_outside_of_mem (by simp)) _

theorem State.enterCounted_seq : (s.enterCounted src e).rd CUE_SEQ = s.rd CUE_SEQ + 1 := by
  have hsrc : (word (sourceCnt src)).addr ≠ CUE_SEQ := by cases src <;> decide
  refine (State.rd_p_ne _ (by decide) _).trans ((State.rd_p_ne _ hsrc _).trans ?_)
  exact State.rd_wr_same s _ _

/-- A record is found under its name, unless a cue of that name was in the queue. -/
theorem State.enterCounted_entry (h : s.entry e.id = none) : (s.enterCounted src e).entry e.id = some e := by
  rw [State.entry] at h
  simp only [State.entry, State.enterCounted_cue, List.find?_append, h]
  simp

end

/-! ### Single records -/

/-- A single record that keeps the format rules and finds room in its service's quota is not refused (R88, R99). -/
theorem State.refusal_of_single {s : State} {src : CueSource} {r : CueRec} (hfmt : formatOk (src == .axlink) r = true)
    (hev : recOnEvent r = false) (hroom : s.occupancy (recSvc r) < s.quotaNow (recSvc r)) :
    s.refusal src [r] false = none := by
  have hone : 1 ≤ s.quotaNow (recSvc r) - s.occupancy (recSvc r) := by omega
  simp [State.refusal, hfmt, hev, hone]

/-- A single record of the member's own that is not refused and not for the troupe takes an entry (R88). -/
theorem State.acceptChain_of_single {s : State} {src : CueSource} {r : CueRec} (script : Option Nat)
    (hok : s.refusal src [r] false = none) (hown : recBroadcast r = false) :
    s.acceptChain src [r] false script =
      ([.accepted (s.addEntry src r script none).1.seq], (s.addEntry src r script none).2) := by
  simp only [State.acceptChain, hok, hown, List.foldl_cons, List.foldl_nil, Bool.false_and, State.when, Option.isNone_none,
    if_true, Bool.false_eq_true, if_false, List.nil_append]

/-! ### The mailbox's turn -/

/-- A submitted slot whose turn it is holds a record of its own that may be accepted: the intake is open and has taken
nothing in this cycle, the record keeps the format rules, has neither event nor chain nor pre-roll, is not for the
troupe, finds room in its quota, and lies ahead of its hand-over (R88, R100, R129). -/
structure State.OffersSingle (s : State) (k : Nat) : Prop where
  intake : s.intakeOpen = true
  cycle : s.cue.takenCycle ≤ s.cueCycle
  turn : s.nextSource = some 1
  mailbox : s.cue.mailbox = [[k]]
  slots : s.cue.slotsTaken = []
  format : formatOk false (cueOfSlot s k) = true
  timed : recOnEvent (cueOfSlot s k) = false
  unchained : recChain (cueOfSlot s k) = false
  own : recBroadcast (cueOfSlot s k) = false
  unrolled : recPreroll (cueOfSlot s k) = false
  room : s.occupancy (recSvc (cueOfSlot s k)) < s.quotaNow (recSvc (cueOfSlot s k))
  ahead : s.now + 1000 ≤ (cueOfSlot s k).launch.toNat
  fresh : s.entry s.nextId = none

/-- The mailbox has had its turn, and no submitted slot waits any more (R100). -/
def State.mailboxServed (s : State) : State :=
  { s with cue := { s.cue with turn := 2, takenCycle := s.cueCycle + 1, mailbox := [], slotsTaken := [] } }

/-- The record of a slot as it enters the queue (R102). -/
def State.slotQueued (s : State) (k : Nat) : State :=
  (s.mailboxServed.enterCounted .observer (s.newEntry .observer (cueOfSlot s k) none .queued)).updEntry s.nextId
    (fun x => x.enterQueue (cueOfSlot s k).launch.toNat s.now)

/-- The last submitted slot is taken where it is a record of its own (R100, R129). -/
theorem State.OffersSingle.intake_eq {s : State} {k : Nat} (h : s.OffersSingle k) :
    s.intake .observer =
      (s.mailboxServed.acceptChain .observer [cueOfSlot s k] false none).2.each
        ([k].zip (s.mailboxServed.acceptChain .observer [cueOfSlot s k] false none).1) (fun s x => s.slotTaken x.1 x.2) := by
  have hchain (q : CueSt) : recChain (cueOfSlot { s with cue := q } k) = false := h.unchained
  have hmay : s.mayTake (intakeIndex .observer) = true := by
    simp [State.mayTake, intakeIndex, h.intake, h.cycle, h.turn]
  simp only [State.intake, hmay, State.takeMailbox, h.mailbox, h.slots, hchain, Bool.false_and, Bool.not_true,
    Bool.false_eq_true, if_false, List.isEmpty_nil, if_true, List.nil_append, List.map_cons, List.map_nil]
  rfl

theorem State.OffersSingle.enterCounted_entry {s : State} {k : Nat} (h : s.OffersSingle k) :
    (s.mailboxServed.enterCounted .observer (s.newEntry .observer (cueOfSlot s k) none .queued)).entry s.nextId =
      some (s.newEntry .observer (cueOfSlot s k) none .queued) :=
  State.enterCounted_entry s.mailboxServed _ (s.newEntry .observer (cueOfSlot s k) none .queued) h.fresh

/-- The record is accepted under the next number (R88, R89). -/
theorem State.OffersSingle.acceptChain_eq {s : State} {k : Nat} (h : s.OffersSingle k) :
    s.mailboxServed.acceptChain .observer [cueOfSlot s k] false none = ([.accepted (s.rd CUE_SEQ)], s.slotQueued k) := by
  have hok : s.mailboxServed.refusal .observer [cueOfSlot s k] false = none :=
    State.refusal_of_single (src := .observer) h.format h.timed h.room
  have hadd : s.mailboxServed.addEntry .observer (cueOfSlot s k) none none = (s.nextId, s.slotQueued k) := by
    rw [State.addEntry_queued _ none (by decide) h.timed]
    exact congrArg (Prod.mk s.nextId) (State.goQueued_of_ahead h.enterCounted_entry h.unrolled h.ahead)
  rw [State.acceptChain_of_single none hok h.own, hadd]
  rfl

/-- A single record of the mailbox enters the queue, and its slot shows it (R88, R89, R129). -/
theorem State.OffersSingle.taken {s : State} {k : Nat} (h : s.OffersSingle k) :
    s.intake .observer = (s.slotQueued k).slotTaken k (.accepted (s.rd CUE_SEQ)) := by
  rw [h.intake_eq, h.acceptChain_eq]
  rfl

/-- An accepted record's slot shows it with its number (R129). -/
theorem State.slotTaken_shows (s : State) (k : Fin 8) (q : W32) :
    (s.slotTaken k (.accepted q)).g (mbxStat k) = 2 ∧ (s.slotTaken k (.accepted q)).rd (CUE_MBX_SEQ k) = q := by
  have hne : CUE_MBX_SEQ k ≠ (mbxStat k).addr := by
    simp only [mbxStat, CUE_MBX_SEQ, CUE_MBX_STAT]
    omega
  have hwidth : (mbxStat k).hi + 1 - (mbxStat k).lo = 4 := by simp only [mbxStat]; omega
  refine ⟨(State.g_of_rd (State.rd_wr_ne _ hne _)).trans ?_, State.rd_wr_same _ _ _⟩
  rw [State.g_p_same _ _ _ (by simp [mbxStat]) (by simp only [mbxStat]; omega), hwidth]
  rfl

theorem State.slotTaken_spares {P : Nat → Prop} (s : State) (k : Nat) (q : W32) (hstat : ¬ P CUE_MBX_STAT)
    (hseq : ¬ P (CUE_MBX_SEQ k)) : s.Spares P (s.slotTaken k (.accepted q)) :=
  ((State.Spares.refl s).p (f := mbxStat k) hstat _).wr hseq q

theorem endsOn_mbxSeq : ∀ k : Fin 8, endsOn (CUE_MBX_SEQ k) = false := by decide

theorem State.slotQueued_spares (s : State) (k : Nat) :
    s.Spares (Outside [CUE_SEQ, CUE_ACCEPT_CNT 1, CUE_PEAK]) (s.slotQueued k) :=
  (((State.Spares.refl s).cue s.mailboxServed.cue).trans (State.enterCounted_spares s.mailboxServed .observer _)).trans
    (State.updEntry_spares _ _ _)

theorem State.slotQueued_seq (s : State) (k : Nat) : (s.slotQueued k).rd CUE_SEQ = s.rd CUE_SEQ + 1 :=
  State.enterCounted_seq s.mailboxServed .observer _

theorem State.OffersSingle.slotQueued_entry {s : State} {k : Nat} (h : s.OffersSingle k) :
    (s.slotQueued k).entry s.nextId = some ((s.newEntry .observer (cueOfSlot s k) none .queued).enterQueue
      (cueOfSlot s k).launch.toNat s.now) :=
  State.updEntry_entry (fun x => x.enterQueue (cueOfSlot s k).launch.toNat s.now) (fun _ => rfl) h.enterCounted_entry

/-- A record that enters the queue at its own launch time is as it was written, but for its origin and number. -/
theorem State.enterQueue_rec (s : State) (src : CueSource) (r : CueRec) (script : Option Nat) (stage : Stage) (now : Nat) :
    ((s.newEntry src r script stage).enterQueue r.launch.toNat now).rec_ = s.ownRec r := by
  simp [State.newEntry, Entry.enterQueue, State.ownRec]

theorem exec_cueAccept_of_offers (at_ : TT) (k : Fin 8) (s : State) (h : (s.atTime at_).OffersSingle k) :
    ∃ t e, exec (.cueAccept at_ .observer) s = .next t ∧ t.entry (s.atTime at_).nextId = some e ∧ e.stage = .queued ∧
      e.late = false ∧ e.src = .observer ∧ e.rec_ = (s.atTime at_).ownRec (cueOfSlot (s.atTime at_) k) ∧
      t.rd CUE_SEQ = (s.atTime at_).rd CUE_SEQ + 1 ∧ t.g (mbxStat k) = 2 ∧
      t.rd (CUE_MBX_SEQ k) = (s.atTime at_).rd CUE_SEQ ∧ t.cue.mailbox = [] ∧
      keepsRegs s t [CUE_SEQ, CUE_ACCEPT_CNT 1, CUE_PEAK, CUE_MBX_STAT, CUE_MBX_SEQ k] ∧ keepsMemory s t := by
  have hexec : exec (.cueAccept at_ .observer) s = _ := timed_of_eq (f := fun s => s.intake .observer) h.taken
  have hqueued := (s.atTime at_).slotQueued_spares k
  have hentry := h.slotQueued_entry
  have hseq := (s.atTime at_).slotQueued_seq k
  have hbox : ((s.atTime at_).slotQueued k).cue.mailbox = [] := rfl
  obtain ⟨hstat, hnumber⟩ := State.slotTaken_shows ((s.atTime at_).slotQueued k) k ((s.atTime at_).rd CUE_SEQ)
  have hshown := State.slotTaken_spares (P := Outside [CUE_MBX_STAT, CUE_MBX_SEQ k]) ((s.atTime at_).slotQueued k) k
    ((s.atTime at_).rd CUE_SEQ) (not_outside_of_mem (by simp)) (not_outside_of_mem (by simp))
  have hall : (s.atTime at_).Spares (Outside [CUE_SEQ, CUE_ACCEPT_CNT 1, CUE_PEAK, CUE_MBX_STAT, CUE_MBX_SEQ k])
      (((s.atTime at_).slotQueued k).slotTaken k (.accepted ((s.atTime at_).rd CUE_SEQ))) :=
    (hqueued.mono fun a ha => ⟨ha.1, fun h => ha.2 (List.mem_append_left [CUE_MBX_STAT, CUE_MBX_SEQ k] h)⟩).trans
      (hshown.mono fun a ha => ⟨ha.1, fun h => ha.2 (List.mem_append_right [CUE_SEQ, CUE_ACCEPT_CNT 1, CUE_PEAK] h)⟩)
  have hapart : CUE_SEQ ∉ [CUE_MBX_STAT, CUE_MBX_SEQ k] := by
    simp only [List.mem_cons, List.not_mem_nil, or_false, CUE_SEQ, CUE_MBX_STAT, CUE_MBX_SEQ]
    omega
  refine ⟨_, _, hexec, (State.ended_entry _ s _).trans hentry, rfl, rfl, rfl, State.enterQueue_rec _ _ _ _ _ _, ?_,
    (State.ended_g _ s (show endsOn CUE_MBX_STAT = false by decide)).trans hstat,
    (State.ended_rd _ s (endsOn_mbxSeq k)).trans hnumber, ?_, keepsRegs_of_spares hall, keepsMemory_of_spares hall⟩
  · exact (State.ended_rd _ s (by decide)).trans ((hshown.rd _ ⟨by decide, hapart⟩).trans hseq)
  · rw [State.ended_cue]
    exact hbox

/-! ### Submits -/

/-- The fields of CUE_MBX_SUBMIT: count and first (R129). -/
def submitFields : List FieldDesc := [⟨10, 8, .wo, []⟩, ⟨2, 0, .wo, []⟩]

theorem regFields_mbxSubmit : regFields CUE_MBX_SUBMIT = submitFields := by decide

theorem locate_mbxSubmit : locate CUE_MBX_SUBMIT = some (.cue, 0, 0x010) := by decide

/-- The slots of a submit (R129). -/
def submitted (first count : Nat) : List Nat := (List.range (count + 1)).map (fun i => first + i)

theorem mem_submitted {first count k : Nat} : k ∈ submitted first count ↔ first ≤ k ∧ k ≤ first + count := by
  simp only [submitted, List.mem_map, List.mem_range]
  constructor
  · rintro ⟨i, hi, rfl⟩
    omega
  · intro h
    exact ⟨k - first, by omega, by omega⟩

theorem actWord_submit_small : ∀ f c : Fin 8, let act := actWord submitFields (BitVec.ofNat 32 (f + 256 * c)) 0xFFFFFFFF
    act.toNat % 8 = f ∧ bitsOf act 10 8 = c := by decide

/-- What a write of CUE_MBX_SUBMIT names. -/
theorem actWord_submit {first count : Nat} {v : W32} (hlast : first + count ≤ 7) (hv : v.toNat = first + 256 * count) :
    (actWord submitFields v 0xFFFFFFFF).toNat % 8 = first ∧ bitsOf (actWord submitFields v 0xFFFFFFFF) 10 8 = count := by
  have hword : BitVec.ofNat 32 (first + 256 * count) = v := by rw [← hv, BitVec.ofNat_toNat, BitVec.setWidth_eq]
  have h := actWord_submit_small ⟨first, by omega⟩ ⟨count, by omega⟩
  simp only [hword] at h
  exact h

/-- A register of the cue engine is judged by no block before its access codes, and no write of it is an action. -/
theorem State.cue_plain {a i off : Nat} (hl : locate a = some (.cue, i, off)) (s : State) :
    (∀ w old new v m act, s.gate w a old new v m act = (.ok, s)) ∧ (∀ v act, s.actionWrite a v act = none) ∧
      (locate a).any (fun x => x.1 == .wm && x.2.2 == 0x8) = false ∧
      (off ≠ 0 → ∀ old new, s.namesRefuse a old new = false) := by
  refine ⟨fun w old new v m act => ?_, fun v act => ?_, ?_, fun hoff old new => ?_⟩
  · simp [State.gate, hl]
  · simp [State.actionWrite, hl]
  · rw [hl]; rfl
  · simp [State.namesRefuse, State.namesOf, hl, hoff]

/-- A write from the port that is refused in the device's present state changes nothing (R129). -/
theorem State.writeReg_special {s : State} {a : Nat} {v : W32} {why : Why} (fs : List FieldDesc) (hf : regFields a = fs)
    (hg : ∀ new act, s.gate .observer a (s.rd a) new v 0xFFFFFFFF act = (.ok, s))
    (hr : accessRefuses .observer fs (s.rd a) v 0xFFFFFFFF = false) (hx : ∀ v act, s.actionWrite a v act = none)
    (hs : s.special .observer a (actWord fs v 0xFFFFFFFF) = some why) :
    s.writeReg .observer a v 0xFFFFFFFF = (why, s) := by
  have h1 : (Writer.observer == Writer.image) = false := rfl
  simp only [State.writeReg, State.ownWhy, hf, h1, hg, hr, hx, hs]
  rfl

theorem accessRefuses_submit (old v : W32) : accessRefuses .observer submitFields old v 0xFFFFFFFF = false := by
  simp [accessRefuses, submitFields, Acc.fixed, Acc.isL, Writer.isCue]

/-- How a submit meets the state of the device and of its slots (R129). -/
theorem State.special_submit {s : State} {first count : Nat} {act : W32} (hlast : first + count ≤ 7)
    (hfirst : act.toNat % 8 = first) (hcount : bitsOf act 10 8 = count) :
    s.special .observer CUE_MBX_SUBMIT act =
      if s.dev = .standby ∨ s.dev = .inspect then some .access
      else if s.dev = .drain then some .busy
      else if (submitted first count).any (fun k => s.g (mbxStat k) == 1) then some .busy else none := by
  have hin : ¬ 7 < first + count := by omega
  simp only [State.special, locate_mbxSubmit, hfirst, hcount, hin, if_true, if_false, reduceCtorEq]
  rfl

theorem State.writeReg_submit_refused {s : State} {first count : Nat} {v : W32} {why : Why} (hlast : first + count ≤ 7)
    (hv : v.toNat = first + 256 * count)
    (hwhy : (if s.dev = .standby ∨ s.dev = .inspect then some Why.access
      else if s.dev = .drain then some .busy
      else if (submitted first count).any (fun k => s.g (mbxStat k) == 1) then some .busy else none) = some why) :
    s.writeReg .observer CUE_MBX_SUBMIT v 0xFFFFFFFF = (why, s) := by
  obtain ⟨hgate, haction, -, -⟩ := s.cue_plain locate_mbxSubmit
  obtain ⟨hfirst, hcount⟩ := actWord_submit hlast hv
  exact State.writeReg_special submitFields regFields_mbxSubmit (fun _ _ => hgate _ _ _ _ _ _) (accessRefuses_submit _ _)
    haction ((State.special_submit hlast hfirst hcount).trans hwhy)

theorem State.writeReg_submit_taken {s : State} {first count : Nat} {v : W32} (hlast : first + count ≤ 7)
    (hv : v.toNat = first + 256 * count) (hdev : s.dev.active = true) (hdrain : s.dev ≠ .drain)
    (hfree : ∀ k ∈ submitted first count, s.g (mbxStat k) ≠ 1) :
    ∃ w, s.writeReg .observer CUE_MBX_SUBMIT v 0xFFFFFFFF = (.ok, (s.wr CUE_MBX_SUBMIT w).submitSlots first count) := by
  obtain ⟨hgate, haction, hwm, hnames⟩ := s.cue_plain locate_mbxSubmit
  obtain ⟨hfirst, hcount⟩ := actWord_submit hlast hv
  have hawake : ¬ (s.dev = .standby ∨ s.dev = .inspect) := by
    rintro (h | h) <;> simp [h, DevState.active] at hdev
  have hidle : (submitted first count).any (fun k => s.g (mbxStat k) == 1) = false := by simpa using hfree
  refine ⟨newWord false submitFields (s.rd CUE_MBX_SUBMIT) v 0xFFFFFFFF, ?_⟩
  rw [State.writeReg_plain s _ v submitFields _ _ regFields_mbxSubmit rfl rfl (by rw [hgate]) (accessRefuses_submit _ _)
    (haction v _) ?_ ?_ ?_ (hnames (by decide) _ _) hwm]
  · simp only [State.written, locate_mbxSubmit, State.cueWritten, if_true, hfirst, hcount]
  · rw [State.special_submit hlast hfirst hcount, if_neg hawake, if_neg hdrain, hidle]
    rfl
  · simp [encodingRefuses, submitFields, FieldDesc.lists]
  · have hin : ¬ 7 < first + count := by omega
    simp only [State.ruleRefuses, locate_mbxSubmit, hfirst, hcount, hin, decide_false]

/-- A submitted slot reads PENDING, and the others keep their status. -/
theorem State.g_p_mbxStat (s : State) {j k : Nat} (hk : k < 8) :
    (s.p (mbxStat j) 1).g (mbxStat k) = if k = j then 1 else s.g (mbxStat k) := by
  split
  next h =>
    subst h
    have hwidth : (mbxStat k).hi + 1 - (mbxStat k).lo = 4 := by simp only [mbxStat]; omega
    rw [State.g_p_same _ _ _ (by simp [mbxStat]) (by simp only [mbxStat]; omega), hwidth]
    rfl
  next h => exact State.g_p_ne _ _ _ _ (by simp [mbxStat]) (by simp only [mbxStat]; omega) (by simp only [mbxStat]; omega)

theorem State.each_pending_stat (l : List Nat) (s : State) {k : Nat} (hk : k < 8) (h : k ∈ l ∨ s.g (mbxStat k) = 1) :
    (s.each l (fun s k => s.p (mbxStat k) 1)).g (mbxStat k) = 1 := by
  induction l generalizing s with
  | nil => exact h.resolve_left List.not_mem_nil
  | cons j l ih =>
    refine ih (s.p (mbxStat j) 1) ?_
    rw [s.g_p_mbxStat hk]
    simp only [List.mem_cons] at h
    split
    · exact .inr rfl
    next hne => exact h.imp_left fun h => h.resolve_left hne

/-- Submitted slots read PENDING and wait behind those of the submits before (R127, R129). -/
theorem State.submitSlots_keeps (s : State) (first count : Nat) :
    s.Spares (Outside [CUE_MBX_STAT]) (s.submitSlots first count) ∧
      (s.submitSlots first count).cue = { s.cue with mailbox := s.cue.mailbox ++ [submitted first count] } ∧
      (s.submitSlots first count).ax = s.ax := by
  have hcue : (s.each (submitted first count) (fun s k => s.p (mbxStat k) 1)).cue = s.cue :=
    State.each_keeps State.cue (fun s k => s.p (mbxStat k) 1) _ (fun _ _ _ => rfl) s
  have hax : (s.each (submitted first count) (fun s k => s.p (mbxStat k) 1)).ax = s.ax :=
    State.each_keeps State.ax (fun s k => s.p (mbxStat k) 1) _ (fun _ _ _ => rfl) s
  have hput (t : State) (k : Nat) : t.Spares (Outside [CUE_MBX_STAT]) (t.p (mbxStat k) 1) :=
    (State.Spares.refl t).p (f := mbxStat k) (not_outside_of_mem List.mem_cons_self) 1
  exact ⟨((State.Spares.refl s).each hput (submitted first count)).cue _,
    congrArg (fun q : CueSt => { q with mailbox := q.mailbox ++ [submitted first count] }) hcue, hax⟩

/-- A command that writes one register from the port: the answer, and what the write leaves of the state. -/
theorem timedWrite_ends (at_ : TT) (s : State) (a : Nat) (v : W32) (hreach : (s.atTime at_).reachable a) {w : Why} {u : State}
    (hwrite : (s.atTime at_).writeReg .observer a v 0xFFFFFFFF = (w, u)) (hrmt : u.ax.rmt = none) :
    ∃ t, timed at_ (fun s => s.portWrite a v) s = .next t ∧ t.obs.answer = [BitVec.ofNat 8 w.status, 0] ∧ t.cue = u.cue ∧
      (∀ b, endsOn b = false → t.rd b = u.rd b) ∧ (∀ l, (s.atTime at_).Spares (Outside l) u → keepsRegs s t l) ∧
      (u.fm = (s.atTime at_).fm → keepsMemory s t) := by
  obtain ⟨o, hexec, hanswer⟩ := State.timedWrite at_ s a v hreach w u hwrite hrmt
  refine ⟨_, hexec, ?_, State.ended_cue _ s, fun b hb => State.ended_rd _ s hb, fun l h => ?_, fun h => ?_⟩
  · rw [State.ended_obs]
    exact hanswer
  · exact keepsRegs_of_spares (at_ := at_) (h.of_cells (u := { u with obs := o }) rfl rfl)
  · exact keepsMemory_ended (u := { u with obs := o }) (h.trans (s.atTime_fm at_))

theorem exec_mailboxSubmit_taken (at_ : TT) (first count : Nat) (v : W32) (s : State)
    (hreach : (s.atTime at_).reachable CUE_MBX_SUBMIT) (hlast : first + count ≤ 7) (hv : v.toNat = first + 256 * count)
    (hdev : (s.atTime at_).dev.active = true) (hdrain : (s.atTime at_).dev ≠ .drain)
    (hfree : ∀ k ∈ submitted first count, (s.atTime at_).g (mbxStat k) ≠ 1) :
    ∃ t, exec (.mailboxSubmit at_ v) s = .next t ∧ t.obs.answer = [0, 0] ∧
      (∀ k ∈ submitted first count, t.g (mbxStat k) = 1) ∧
      t.cue = { (s.atTime at_).cue with mailbox := (s.atTime at_).cue.mailbox ++ [submitted first count] } ∧
      keepsRegs s t [CUE_MBX_STAT, CUE_MBX_SUBMIT] ∧ keepsMemory s t := by
  obtain ⟨-, -, -, -, -, -, hrmt⟩ := id hreach
  obtain ⟨w, hwrite⟩ := State.writeReg_submit_taken hlast hv hdev hdrain hfree
  obtain ⟨hkept, hcue, hax⟩ := ((s.atTime at_).wr CUE_MBX_SUBMIT w).submitSlots_keeps first count
  obtain ⟨t, hexec, hanswer, htcue, hrd, hregs, hmem⟩ := timedWrite_ends at_ s CUE_MBX_SUBMIT v hreach hwrite (hax ▸ hrmt)
  have hspares : (s.atTime at_).Spares (Outside [CUE_MBX_STAT, CUE_MBX_SUBMIT])
      (((s.atTime at_).wr CUE_MBX_SUBMIT w).submitSlots first count) :=
    ((State.Spares.refl _).wr (not_outside_of_mem (by simp)) w).trans
      (hkept.mono fun a ha => ⟨ha.1, fun h => ha.2 (List.mem_append_left [CUE_MBX_SUBMIT] h)⟩)
  refine ⟨t, hexec, hanswer, fun k hk => ?_, htcue.trans hcue, hregs _ hspares, hmem hspares.fm⟩
  obtain ⟨-, hle⟩ := mem_submitted.mp hk
  exact (State.g_of_rd (hrd _ (show endsOn CUE_MBX_STAT = false by decide))).trans
    (State.each_pending_stat (submitted first count) _ (by omega) (.inl hk))

/-- A refused write changes nothing. -/
theorem timedWrite_refused (at_ : TT) (s : State) (a : Nat) (v : W32) (hreach : (s.atTime at_).reachable a) (w : Why)
    (hwrite : (s.atTime at_).writeReg .observer a v 0xFFFFFFFF = (w, s.atTime at_)) :
    ∃ t, timed at_ (fun s => s.portWrite a v) s = .next t ∧ t.obs.answer = [BitVec.ofNat 8 w.status, 0] ∧
      t.cue = (s.atTime at_).cue ∧ keepsRegs s t [] ∧ keepsMemory s t := by
  obtain ⟨-, -, -, -, -, -, hrmt⟩ := id hreach
  obtain ⟨t, hexec, hanswer, hcue, -, hregs, hmem⟩ := timedWrite_ends at_ s a v hreach hwrite hrmt
  exact ⟨t, hexec, hanswer, hcue, hregs [] (.refl _), hmem rfl⟩

theorem exec_mailboxSubmit_busy (at_ : TT) (first count : Nat) (v : W32) (s : State)
    (hreach : (s.atTime at_).reachable CUE_MBX_SUBMIT) (hlast : first + count ≤ 7) (hv : v.toNat = first + 256 * count)
    (hstandby : (s.atTime at_).dev ≠ .standby) (hinspect : (s.atTime at_).dev ≠ .inspect)
    (hbusy : (s.atTime at_).dev = .drain ∨ ∃ k ∈ submitted first count, (s.atTime at_).g (mbxStat k) = 1) :
    ∃ t, exec (.mailboxSubmit at_ v) s = .next t ∧ t.obs.answer = [1, 0] ∧ t.cue = (s.atTime at_).cue ∧
      keepsRegs s t [] ∧ keepsMemory s t := by
  refine timedWrite_refused at_ s CUE_MBX_SUBMIT v hreach .busy (State.writeReg_submit_refused hlast hv ?_)
  rw [if_neg (by simp [hstandby, hinspect])]
  split
  · rfl
  next hdrain =>
    rw [if_pos]
    simpa using hbusy.resolve_left hdrain

theorem exec_mailboxSubmit_access (at_ : TT) (first count : Nat) (v : W32) (s : State)
    (hreach : (s.atTime at_).reachable CUE_MBX_SUBMIT) (hlast : first + count ≤ 7) (hv : v.toNat = first + 256 * count)
    (hdev : (s.atTime at_).dev = .standby ∨ (s.atTime at_).dev = .inspect) :
    ∃ t, exec (.mailboxSubmit at_ v) s = .next t ∧ t.obs.answer = [5, 0] ∧ t.cue = (s.atTime at_).cue ∧
      keepsRegs s t [] ∧ keepsMemory s t :=
  timedWrite_refused at_ s CUE_MBX_SUBMIT v hreach .access (State.writeReg_submit_refused hlast hv (if_pos hdev))

end Sys2Proof.Machine

/-! ### The obligations -/

/-- Settles O15: what a write of CUE_MBX_SUBMIT meets in each state of the device and of the slots it names. -/
theorem mailboxSubmits : Obligations.MailboxSubmits :=
  fun at_ first count v s hreach hlast hv =>
    ⟨fun hdev => exec_mailboxSubmit_taken at_ first count v s hreach hlast hv hdev.1 hdev.2,
      exec_mailboxSubmit_busy at_ first count v s hreach hlast hv,
      exec_mailboxSubmit_access at_ first count v s hreach hlast hv⟩

/-- Settles O16: the last slot of the mailbox is taken in its turn, its record enters the queue under the next name, and
the slot shows it. -/
theorem recordsAreAccepted : Obligations.RecordsAreAccepted := by
  intro at_ k s u r id hopen hcycle hturn hbox hslots hfmt hev hchain hown hpre hroom hahead hnew
  have hid : u.nextId = id := u.nextId_eq
  rw [← hid] at hnew ⊢
  exact exec_cueAccept_of_offers at_ k s
    ⟨hopen, hcycle, hturn, hbox, hslots, hfmt, hev, hchain, hown, hpre, hroom, hahead, hnew⟩
end

section
/-! The cue script: occurrences of an entry that are tried again, and entries enabled and disabled (R124–R126). -/

open Sys2Proof Sys2Proof.Machine

namespace Sys2Proof.Machine

/-! ### Occurrences -/

/-- An occurrence whose time to be tried again has come is tried (R125, R126). -/
theorem State.retryScript_of_due {s : State} {e due : Nat} {x : ScriptSt} (hx : s.script e = some x)
    (hretry : x.retryAt = some due) (hdue : due ≤ s.elapsed) (hopen : s.intakeOpen = true) :
    s.retryScript e = s.insertScript e := by
  simp only [State.retryScript, hx, hretry, hopen, hdue, decide_true, Bool.and_self, if_true]

/-- An entry that has inserted the last of its occurrences disables itself (R126). -/
theorem State.insertScript_of_spent {s : State} {e : Nat} {x : ScriptSt} (hx : s.script e = some x)
    (hon : s.scriptOn e = true) (hcount : x.count ≠ 0) (hspent : x.count ≤ x.inserted) :
    s.insertScript e = s.setBitOf (CUE_SCRIPT_EN (e / 32)) (e % 32) false := by
  simp only [State.insertScript, hx, hon, Bool.not_true, Bool.false_eq_true, if_false, ne_eq, hcount, not_false_eq_true,
    hspent, and_self, if_true]

/-- The word of an entry's enable bit is not one that the end of a command touches. -/
theorem endsOn_scriptEn : ∀ w : Fin 32, endsOn (CUE_SCRIPT_EN w) = false := by decide

theorem State.ended_scriptOn (s old : State) (e : Fin 1024) : (s.ended old).scriptOn e = s.scriptOn e := by
  rw [State.scriptOn, State.bitOf, State.ended_rd s old (endsOn_scriptEn ⟨e.val / 32, by omega⟩)]
  rfl

theorem exec_scriptInstanceRetry_of_spent (at_ : TT) (e : Fin 1024) (x : ScriptSt) (due : Nat) (s : State)
    (hx : (s.atTime at_).script e = some x) (hretry : x.retryAt = some due) (hdue : due ≤ (s.atTime at_).elapsed)
    (hopen : (s.atTime at_).intakeOpen = true) (hon : (s.atTime at_).scriptOn e = true) (hcount : x.count ≠ 0)
    (hspent : x.count ≤ x.inserted) :
    ∃ t, exec (.scriptInstanceRetry at_ e) s = .next t ∧ t.scriptOn e = false ∧
      keepsRegs s t [CUE_SCRIPT_EN (e.val / 32)] ∧ keepsMemory s t := by
  have hexec : exec (.scriptInstanceRetry at_ e) s = _ := timed_of_eq (f := fun s => s.retryScript e)
    ((State.retryScript_of_due hx hretry hdue hopen).trans (State.insertScript_of_spent hx hon hcount hspent))
  have hspares : (s.atTime at_).Spares (Outside [CUE_SCRIPT_EN (e.val / 32)])
      ((s.atTime at_).setBitOf (CUE_SCRIPT_EN (e.val / 32)) (e.val % 32) false) :=
    (State.Spares.refl _).pb (f := ⟨CUE_SCRIPT_EN (e.val / 32), e.val % 32, e.val % 32⟩)
      (not_outside_of_mem List.mem_cons_self) false
  refine ⟨_, hexec, ?_, keepsRegs_of_spares hspares, keepsMemory_of_spares hspares⟩
  rw [State.ended_scriptOn, State.scriptOn, State.bitOf_setBitOf_same _ _ (by omega)]

/-- What an entry is that has inserted one more occurrence (R126). -/
def ScriptSt.advanced (x : ScriptSt) : ScriptSt := { x with next := x.next + 1, inserted := x.inserted + 1, retryAt := none }

/-- An unchained ON_EVENT entry whose record is accepted goes on to its next occurrence (R126). -/
theorem State.insertScript_of_event {s : State} {e : Nat} {x : ScriptSt} (hx : s.script e = some x)
    (hon : s.scriptOn e = true) (hcount : x.count = 0) (hev : recOnEvent x.template = true)
    (hchain : recChain x.template = false) (hok : s.refusal .script [x.template] false = none)
    (hown : recBroadcast x.template = false) :
    s.insertScript e = (s.addEntry .script x.template (some e) none).2.setScript e x.advanced := by
  have hrecs : s.scriptChain e 17 = [x.template] := by
    simp only [State.scriptChain, hx, hchain, Bool.false_eq_true, if_false]
  have hsame : ({ x.template with launch := BitVec.ofNat 64 x.template.launch.toNat } : CueRec) = x.template := by simp
  have hmore : ¬ (x.count ≠ 0 ∧ x.count ≤ x.inserted) := fun h => h.1 hcount
  have hopen : ([x.template].any fun r => [x.template].getLast? == some r && recChain r) = false := by simp [hchain]
  simp only [State.insertScript, hx, hon, Bool.not_true, Bool.false_eq_true, if_false, hmore, hev, if_true, hrecs, hsame]
  rw [hopen, State.acceptChain_of_single (some e) hok hown]
  rfl

/-- A record that waits for an event is not for the troupe, by the format rules (R88). -/
theorem not_recBroadcast_of_accepted {s : State} {r : CueRec} (hev : recOnEvent r = true)
    (hok : s.refusal .script [r] false = none) : recBroadcast r = false := by
  have hfmt : formatOk false r = true := by
    by_contra h
    have hbad : formatOk (CueSource.script == CueSource.axlink) r = false := Bool.not_eq_true _ ▸ h
    simp [State.refusal, hbad] at hok
  simp only [formatOk, hev, Bool.true_or, Bool.and_true, Bool.and_eq_true, Bool.not_eq_true'] at hfmt
  obtain ⟨⟨-, hown⟩, -⟩ := hfmt
  exact hown

/-- A record that is armed takes the next number and leaves the script and frame memory (R89, R111). -/
theorem State.addEntry_armed_keeps (s : State) {r : CueRec} (script : Option Nat) (hev : recOnEvent r = true) :
    (s.addEntry .script r script none).2.rd CUE_SEQ = s.rd CUE_SEQ + 1 ∧
      (s.addEntry .script r script none).2.cue.scripts = s.cue.scripts ∧
      (s.addEntry .script r script none).2.fm = s.fm := by
  rw [s.addEntry_armed script (by decide) hev]
  have hseq := s.enterCounted_seq .script (s.newEntry .script r script .armed)
  have hfm := (s.enterCounted_spares .script (s.newEntry .script r script .armed)).fm
  have hcue : (s.enterCounted .script (s.newEntry .script r script .armed)).cue.scripts = s.cue.scripts := rfl
  generalize s.enterCounted .script (s.newEntry .script r script .armed) = t at hseq hfm hcue
  generalize s.newEntry .script r script .armed = x
  dsimp only
  split
  · have hwoken := t.eachWake_wakesTo (t.wakeList x.rec_)
    obtain ⟨c, p, n, hframe⟩ := hwoken.frame
    refine ⟨((t.wakeCue_spares (P := (· = CUE_SEQ)) x (by decide)).rd _ rfl).trans hseq, ?_,
      (t.wakeCue_spares (P := (· = CUE_SEQ)) x (by decide)).fm.trans hfm⟩
    rw [← hcue, State.wakeCue, hframe]
    rfl
  · exact ⟨hseq, hcue, hfm⟩

theorem State.setScript_script (s : State) (e : Nat) (y : ScriptSt) {x : ScriptSt} (h : s.script e = some x) :
    (s.setScript e y).script e = some y := by
  simp only [State.script] at h ⊢
  split at h
  next hlt =>
    obtain ⟨hlen, -⟩ := List.getElem?_eq_some_iff.mp h
    rw [if_pos hlt]
    exact List.getElem?_set_self hlen
  next => cases h

theorem State.script_of_scripts {s t : State} (h : t.cue.scripts = s.cue.scripts) (e : Nat) : t.script e = s.script e := by
  rw [State.script, h, State.script]

theorem exec_scriptInstanceRetry_of_event (at_ : TT) (e : Fin 1024) (x : ScriptSt) (due : Nat) (s : State)
    (hx : (s.atTime at_).script e = some x) (hretry : x.retryAt = some due) (hdue : due ≤ (s.atTime at_).elapsed)
    (hopen : (s.atTime at_).intakeOpen = true) (hon : (s.atTime at_).scriptOn e = true) (hcount : x.count = 0)
    (hev : recOnEvent x.template = true) (hchain : recChain x.template = false)
    (hok : (s.atTime at_).refusal .script [x.template] false = none) :
    ∃ t, exec (.scriptInstanceRetry at_ e) s = .next t ∧ t.script e = some x.advanced ∧
      t.rd CUE_SEQ = (s.atTime at_).rd CUE_SEQ + 1 ∧ keepsMemory s t := by
  have hexec : exec (.scriptInstanceRetry at_ e) s = _ := timed_of_eq (f := fun s => s.retryScript e)
    ((State.retryScript_of_due hx hretry hdue hopen).trans (State.insertScript_of_event hx hon hcount hev hchain hok
      (not_recBroadcast_of_accepted hev hok)))
  obtain ⟨hseq, hscripts, hfm⟩ := (s.atTime at_).addEntry_armed_keeps (some e.val) hev
  refine ⟨_, hexec, ?_, (State.ended_rd _ s (by decide)).trans hseq, keepsMemory_ended (hfm.trans (s.atTime_fm at_))⟩
  rw [State.script_of_scripts (congrArg CueSt.scripts (State.ended_cue _ s))]
  exact State.setScript_script _ _ _ ((State.script_of_scripts hscripts e).trans hx)

/-! ### Writes of the enable bits -/

/-- The one field of CUE_SCRIPT_ENw (R125). -/
def scriptEnFields : List FieldDesc := [⟨31, 0, .rw, []⟩]

theorem regFields_scriptEn : ∀ w : Fin 32, regFields (CUE_SCRIPT_EN w) = scriptEnFields := by decide

theorem locate_scriptEn : ∀ w : Fin 32, locate (CUE_SCRIPT_EN w) = some (.cue, 0, 0x080 + 4 * w.val) := by decide

theorem newWord_scriptEn (old v : W32) : newWord false scriptEnFields old v 0xFFFFFFFF = v := by
  have hmask : (⟨31, 0, .rw, []⟩ : FieldDesc).mask &&& 0xFFFFFFFF = BitVec.allOnes 32 := by decide
  simp only [newWord, scriptEnFields, List.foldl_cons, List.foldl_nil, hmask, BitVec.not_allOnes, BitVec.and_zero,
    BitVec.and_allOnes, BitVec.zero_or]

/-- What follows from a change of the enable bits of 32 entries (R125). -/
theorem State.cueWritten_scriptEn (s : State) (w : Fin 32) (old act : W32) :
    s.cueWritten (0x080 + 4 * w.val) old act =
      (s.each (bitList (old &&& ~~~(s.rd (CUE_SCRIPT_EN w)))) (fun s b => s.disableScript (32 * w + b))).each
        (bitList (s.rd (CUE_SCRIPT_EN w) &&& ~~~old))
        (fun s b => s.when s.intakeOpen (fun s => s.enableScript (32 * w + b))) := by
  have hne : 0x080 + 4 * w.val ≠ 0x010 := by omega
  have hin : 0x080 ≤ 0x080 + 4 * w.val ∧ 0x080 + 4 * w.val < 0x100 := by omega
  have hw : (0x080 + 4 * w.val - 0x080) / 4 = w.val := by omega
  simp only [State.cueWritten, if_neg hne, if_pos hin, hw]

theorem State.writeReg_scriptEn (s : State) (w : Fin 32) (v : W32) :
    ∃ act, s.writeReg .observer (CUE_SCRIPT_EN w) v 0xFFFFFFFF =
      (.ok, (s.wr (CUE_SCRIPT_EN w) v).cueWritten (0x080 + 4 * w.val) (s.rd (CUE_SCRIPT_EN w)) act) := by
  have hloc := locate_scriptEn w
  have hoff : 0x080 + 4 * w.val ≠ 0 := by omega
  have hsubmit : 0x080 + 4 * w.val ≠ 0x010 := by omega
  have hslot : ¬ 0x100 ≤ 0x080 + 4 * w.val := by omega
  obtain ⟨hgate, haction, hwm, hnames⟩ := s.cue_plain hloc
  refine ⟨actWord scriptEnFields v 0xFFFFFFFF, ?_⟩
  rw [State.writeReg_plain s _ v scriptEnFields _ _ (regFields_scriptEn w) (newWord_scriptEn _ _) rfl (by rw [hgate]) ?_
    (haction v _) ?_ ?_ ?_ (hnames hoff _ _) hwm]
  · simp only [State.written, hloc]
  · simp [accessRefuses, scriptEnFields, Acc.fixed, Acc.isL, Writer.isCue]
  · simp only [State.special, hloc, hsubmit, hslot, false_and, if_false, reduceCtorEq]
  · simp [encodingRefuses, scriptEnFields, FieldDesc.lists]
  · simp [State.ruleRefuses, hloc, hsubmit]

/-- The word of an entry's enable bit, and its place there. -/
def scriptWord (e : Fin 1024) : Fin 32 := ⟨e.val / 32, by omega⟩

theorem bitList_single_small : ∀ i : Fin 32, (List.range 32).filter (fun j => decide (j = i.val)) = [i.val] := by decide

/-- A word with one bit set. -/
theorem bitList_single {w : W32} {i : Nat} (hi : i < 32) (h : ∀ j < 32, w.getLsbD j = decide (j = i)) : bitList w = [i] := by
  rw [← bitList_single_small ⟨i, hi⟩]
  exact List.filter_congr fun j hj => h j (List.mem_range.mp hj)

theorem bitList_zero {w : W32} (h : ∀ j < 32, w.getLsbD j = false) : bitList w = [] :=
  List.filter_eq_nil_iff.mpr fun j hj => by simp [h j (List.mem_range.mp hj)]

theorem getLsbD_bit {i j : Nat} (hj : j < 32) : (BitVec.ofNat 32 (2 ^ i)).getLsbD j = decide (i = j) := by
  simp only [BitVec.getLsbD_ofNat, Nat.testBit_two_pow, hj, decide_true, Bool.true_and]

/-- A word from which one set bit is cleared. -/
theorem bitList_cleared {old : W32} {i : Nat} (hi : i < 32) (h : old.getLsbD i = true) :
    bitList (old &&& ~~~(old &&& ~~~(BitVec.ofNat 32 (2 ^ i)))) = [i] ∧
      bitList ((old &&& ~~~(BitVec.ofNat 32 (2 ^ i))) &&& ~~~old) = [] := by
  refine ⟨bitList_single hi fun j hj => ?_, bitList_zero fun j hj => ?_⟩
  · simp only [BitVec.getLsbD_and, BitVec.getLsbD_not, getLsbD_bit hj, hj, decide_true, Bool.true_and]
    by_cases hij : j = i
    · subst hij
      simp [h]
    · simp [hij, Ne.symm hij]
  · simp only [BitVec.getLsbD_and, BitVec.getLsbD_not, getLsbD_bit hj, hj, decide_true, Bool.true_and]
    cases old.getLsbD j <;> simp

/-- A word in which one clear bit is set. -/
theorem bitList_set {old : W32} {i : Nat} (hi : i < 32) (h : old.getLsbD i = false) :
    bitList (old &&& ~~~(old ||| BitVec.ofNat 32 (2 ^ i))) = [] ∧
      bitList ((old ||| BitVec.ofNat 32 (2 ^ i)) &&& ~~~old) = [i] := by
  refine ⟨bitList_zero fun j hj => ?_, bitList_single hi fun j hj => ?_⟩
  · simp only [BitVec.getLsbD_and, BitVec.getLsbD_or, BitVec.getLsbD_not, getLsbD_bit hj, hj, decide_true, Bool.true_and]
    cases old.getLsbD j <;> simp
  · simp only [BitVec.getLsbD_and, BitVec.getLsbD_or, BitVec.getLsbD_not, getLsbD_bit hj, hj, decide_true, Bool.true_and]
    by_cases hij : j = i
    · subst hij
      simp [h]
    · simp [hij, Ne.symm hij]

/-- The word that a write which changes the enable bit of one entry writes (R125). -/
def State.switchedWord (s : State) (e : Nat) (on : Bool) : W32 :=
  if on then s.rd (CUE_SCRIPT_EN (e / 32)) ||| BitVec.ofNat 32 (2 ^ (e % 32))
  else s.rd (CUE_SCRIPT_EN (e / 32)) &&& ~~~(BitVec.ofNat 32 (2 ^ (e % 32)))

/-- The state with the enable bit of one entry changed. -/
def State.switched (s : State) (e : Nat) (on : Bool) : State := s.wr (CUE_SCRIPT_EN (e / 32)) (s.switchedWord e on)

theorem State.switched_scriptOn (s : State) (e : Nat) (on : Bool) : (s.switched e on).scriptOn e = on := by
  have hbit : (s.switchedWord e on).getLsbD (e % 32) = on := by
    have hlt : e % 32 < 32 := by omega
    cases on with
    | false =>
      simp only [State.switchedWord, Bool.false_eq_true, if_false, BitVec.getLsbD_and, BitVec.getLsbD_not, getLsbD_bit hlt]
      simp
    | true =>
      simp only [State.switchedWord, if_true, BitVec.getLsbD_or, getLsbD_bit hlt]
      simp
  exact (congrArg (BitVec.getLsbD · (e % 32)) (State.rd_wr_same _ _ _)).trans hbit

theorem State.switched_spares (s : State) (e : Nat) (on : Bool) :
    s.Spares (Outside [CUE_SCRIPT_EN (e / 32)]) (s.switched e on) :=
  (State.Spares.refl s).wr (not_outside_of_mem List.mem_cons_self) _

theorem State.scriptOn_of_rd {s t : State} {e : Nat} (h : t.rd (CUE_SCRIPT_EN (e / 32)) = s.rd (CUE_SCRIPT_EN (e / 32))) :
    t.scriptOn e = s.scriptOn e := by
  rw [State.scriptOn, State.bitOf, h]
  rfl

theorem State.scriptWrite_eq (s : State) (e : Nat) (on : Bool) :
    s.scriptWrite e on = s.portWrite (CUE_SCRIPT_EN (e / 32)) (s.switchedWord e on) := rfl

/-- A command that changes the enable bit of an entry is a write of the word it finds, with that bit changed (R125). -/
theorem timed_scriptWrite (at_ : TT) (s : State) (e : Nat) (on : Bool) :
    timed at_ (fun s => s.scriptWrite e on) s =
      timed at_ (fun u => u.portWrite (CUE_SCRIPT_EN (e / 32)) ((s.atTime at_).switchedWord e on)) s := by
  rw [timed, timed, State.scriptWrite_eq]

/-- A write that clears one enable bit disables its entry (R125). -/
theorem State.writeReg_scriptOff {s : State} {e : Fin 1024} (hon : s.scriptOn e = true) :
    s.writeReg .observer (CUE_SCRIPT_EN (e.val / 32)) (s.switchedWord e false) 0xFFFFFFFF =
      (.ok, (s.switched e false).disableScript e) := by
  obtain ⟨act, hwrite⟩ := s.writeReg_scriptEn (scriptWord e) (s.switchedWord e false)
  obtain ⟨hcleared, hset⟩ := bitList_cleared (i := e.val % 32) (by omega) hon
  have hplace : 32 * (e.val / 32) + e.val % 32 = e.val := Nat.div_add_mod _ _
  rw [State.cueWritten_scriptEn] at hwrite
  simp only [scriptWord, State.rd_wr_same, State.switchedWord, Bool.false_eq_true, if_false, hcleared, hset, State.each,
    List.foldl_cons, List.foldl_nil, hplace] at hwrite
  exact hwrite

/-- A write that sets one enable bit enables its entry where intake is open (R125). -/
theorem State.writeReg_scriptOn {s : State} {e : Fin 1024} (hoff : s.scriptOn e = false) :
    s.writeReg .observer (CUE_SCRIPT_EN (e.val / 32)) (s.switchedWord e true) 0xFFFFFFFF =
      (.ok, (s.switched e true).when s.intakeOpen (fun s => s.enableScript e)) := by
  obtain ⟨act, hwrite⟩ := s.writeReg_scriptEn (scriptWord e) (s.switchedWord e true)
  obtain ⟨hcleared, hset⟩ := bitList_set (i := e.val % 32) (by omega) hoff
  have hplace : 32 * (e.val / 32) + e.val % 32 = e.val := Nat.div_add_mod _ _
  rw [State.cueWritten_scriptEn] at hwrite
  simp only [scriptWord, State.rd_wr_same, State.switchedWord, if_true, hcleared, hset, State.each, List.foldl_cons,
    List.foldl_nil, hplace] at hwrite
  exact hwrite

/-! ### Entries disabled -/

theorem State.disableScript_spares {P : Nat → Prop} (s : State) (e : Nat) : s.Spares P (s.disableScript e) :=
  (State.Spares.refl s).of_cells rfl rfl

/-- No occurrence of a disabled entry stays in the queue (R125). -/
theorem State.disableScript_entries (s : State) (e : Nat) : ∀ y ∈ (s.disableScript e).cue.entries, y.script ≠ some e := by
  intro y hy hmine
  simp only [State.disableScript, State.setEntries, List.mem_filter, Bool.not_eq_true', List.contains_eq_mem,
    List.mem_append, List.mem_map, decide_eq_false_iff_not, not_or] at hy
  obtain ⟨hin, hkept, -⟩ := hy
  exact hkept ⟨y, ⟨hin, by simp [hmine]⟩, rfl⟩

theorem exec_scriptEntryDisable_of_on (at_ : TT) (e : Fin 1024) (s : State)
    (hreach : (s.atTime at_).reachable (CUE_SCRIPT_EN (e.val / 32))) (hon : (s.atTime at_).scriptOn e = true) :
    ∃ t, exec (.scriptEntryDisable at_ e) s = .next t ∧ t.scriptOn e = false ∧
      (∀ y ∈ t.cue.entries, y.script ≠ some e.val) ∧ t.obs.answer = [0, 0] ∧
      keepsRegs s t [CUE_SCRIPT_EN (e.val / 32)] ∧ keepsMemory s t := by
  obtain ⟨-, -, -, -, -, -, hrmt⟩ := id hreach
  obtain ⟨t, hexec, hanswer, hcue, hrd, hregs, hmem⟩ := timedWrite_ends at_ s _ _ hreach (State.writeReg_scriptOff hon) hrmt
  have hspares := ((s.atTime at_).switched_spares e false).trans (State.disableScript_spares _ e)
  exact ⟨t, (timed_scriptWrite at_ s e false).trans hexec,
    (State.scriptOn_of_rd (hrd _ (endsOn_scriptEn (scriptWord e)))).trans (State.switched_scriptOn _ e false),
    hcue ▸ State.disableScript_entries _ e, hanswer, hregs _ hspares, hmem hspares.fm⟩

/-! ### Entries enabled -/

/-- An entry that has inserted no occurrence yet is not disabled by its next (R126). -/
theorem State.insertScript_intakeLeaves {s : State} {e : Nat} {x : ScriptSt} (hx : s.script e = some x)
    (hnew : x.inserted = 0) : s.Spares IntakeLeaves (s.insertScript e) := by
  obtain h | ⟨y, hy, hcount, hspent, -⟩ | ⟨recs, open_, y, h⟩ := s.insertScript_cases e
  · rw [h]
    exact .refl s
  · obtain rfl : x = y := Option.some.inj (hx.symm.trans hy)
    omega
  · rw [h]
    exact (s.acceptChain_intakeLeaves .script recs open_ (some e)).cue _

/-- An entry is enabled with no occurrence inserted, and tries its first (R125). -/
theorem State.enableScript_eq {s : State} {e : Nat} {x : ScriptSt} (hx : s.script e = some x) :
    ∃ y : ScriptSt, y.inserted = 0 ∧ s.enableScript e = (s.setScript e y).insertScript e := by
  unfold State.enableScript
  split
  next h => cases hx.symm.trans h
  next => exact ⟨_, rfl, rfl⟩

/-- An entry that is enabled stays enabled (R125, R126). -/
theorem State.enableScript_keeps (s : State) (e : Nat) :
    s.Spares IntakeLeaves (s.enableScript e) ∧ s.KeepsTime (s.enableScript e) := by
  cases hx : s.script e with
  | none =>
    have hsame : s.enableScript e = s := by simp only [State.enableScript, hx]
    exact hsame.symm ▸ ⟨.refl s, .refl s⟩
  | some x =>
    obtain ⟨y, hnew, h⟩ := State.enableScript_eq hx
    have hset : s.KeepsTime (s.setScript e y) := (State.KeepsTime.refl s).of_parts rfl rfl rfl rfl
    rw [h]
    exact ⟨((State.Spares.refl s).cue _).trans (State.insertScript_intakeLeaves (s.setScript_script e y hx) hnew),
      hset.trans (State.keepsTime_insertScript _ e)⟩

theorem intakeLeaves_scriptEn (e : Fin 1024) : IntakeLeaves (CUE_SCRIPT_EN (e.val / 32)) := by
  simp only [IntakeLeaves, CUE_SCRIPT_EN]
  omega

theorem exec_scriptEntryEnable_of_off (at_ : TT) (e : Fin 1024) (s : State)
    (hreach : (s.atTime at_).reachable (CUE_SCRIPT_EN (e.val / 32))) (hoff : (s.atTime at_).scriptOn e = false) :
    ∃ t, exec (.scriptEntryEnable at_ e) s = .next t ∧ t.scriptOn e = true ∧ t.obs.answer = [0, 0] ∧
      ((s.atTime at_).intakeOpen = false → t.cue = (s.atTime at_).cue ∧ keepsRegs s t [CUE_SCRIPT_EN (e.val / 32)]) ∧
      keepsMemory s t := by
  obtain ⟨-, -, -, -, -, -, hrmt⟩ := id hreach
  have hkept : ((s.atTime at_).switched e true).Spares IntakeLeaves (((s.atTime at_).switched e true).when
      (s.atTime at_).intakeOpen (fun s => s.enableScript e)) :=
    (State.Spares.refl _).when _ fun s => (s.enableScript_keeps e).1
  have htime : ((s.atTime at_).switched e true).KeepsTime (((s.atTime at_).switched e true).when
      (s.atTime at_).intakeOpen (fun s => s.enableScript e)) :=
    (State.KeepsTime.refl _).when _ fun s => (s.enableScript_keeps e).2
  obtain ⟨t, hexec, hanswer, hcue, hrd, hregs, hmem⟩ := timedWrite_ends at_ s _ _ hreach (State.writeReg_scriptOn hoff)
    (htime.rmt.trans hrmt)
  have hon := (State.scriptOn_of_rd (hkept.rd _ (intakeLeaves_scriptEn e))).trans
    (State.switched_scriptOn (s.atTime at_) e true)
  refine ⟨t, (timed_scriptWrite at_ s e true).trans hexec,
    (State.scriptOn_of_rd (hrd _ (endsOn_scriptEn (scriptWord e)))).trans hon, hanswer, fun hclosed => ?_, hmem htime.fm⟩
  simp only [hclosed, State.when, Bool.false_eq_true, if_false] at hcue hregs
  exact ⟨hcue, hregs _ ((s.atTime at_).switched_spares e true)⟩

end Sys2Proof.Machine

/-! ### The obligation -/

/-- Settles O27: a due occurrence is tried again, and a write of an enable bit disables or enables its entry. -/
theorem scriptEntries : Obligations.ScriptEntries :=
  ⟨exec_scriptInstanceRetry_of_spent, exec_scriptInstanceRetry_of_event, exec_scriptEntryDisable_of_on,
    exec_scriptEntryEnable_of_off⟩
end

section
/-! Cues that cross the troupe: CUE frames, replay requests, and the table of cues heard. -/

open Sys2Proof Sys2Proof.Machine

namespace Sys2Proof.Machine

/-! ### Frames on the wire -/

/-- A LINK frame leaves its port as it was, but for the bytes it has sent (R369). -/
theorem State.linkFrame_port (s : State) (p typ : Nat) (body : List W32) :
    ∃ n, (s.linkFrame p typ body).port p = { s.port p with txBytes := n } := by
  have hcls : retransmitted (s.frame clLink typ 0 body).cls = false := rfl
  refine ⟨(s.port p).txBytes + (s.frame clLink typ 0 body).size, ?_⟩
  simp only [State.linkFrame, State.putOnWire, hcls, Bool.false_eq_true, if_false]
  refine (Tab.get_set_same _ _ _ _).trans ?_
  refine congrArg (fun x : PortSt => { x with txBytes := x.txBytes + (s.frame clLink typ 0 body).size }) ?_
  exact Tab.get_set_same _ _ _ _

theorem State.linkFrame_wire (s : State) (p typ : Nat) (body : List W32) :
    (s.linkFrame p typ body).ax.wire = s.ax.wire ++ [(p, s.frame clLink typ 0 body)] := rfl

theorem State.linkFrame_port_keeps (s : State) (p typ : Nat) (body : List W32) :
    ((s.linkFrame p typ body).port p).rxSeq = (s.port p).rxSeq ∧
      ((s.linkFrame p typ body).port p).nakSent = (s.port p).nakSent ∧
      ((s.linkFrame p typ body).port p).held = (s.port p).held ∧
      ((s.linkFrame p typ body).port p).unacked = (s.port p).unacked := by
  obtain ⟨n, hport⟩ := s.linkFrame_port p typ body
  rw [hport]
  exact ⟨rfl, rfl, rfl, rfl⟩

theorem State.setPort_spares {P : Nat → Prop} (s : State) (p : Nat) (x : PortSt) : s.Spares P (s.setPort p x) :=
  (State.Spares.refl s).of_cells rfl rfl

/-- A port that has delivered a CUE frame expects the next number and owes its credit (R370, R372). -/
def PortSt.tookCue (x : PortSt) : PortSt :=
  { x with rxSeq := x.rxSeq.set clCue ((x.rxSeq.get 0 clCue + 1) % 65536), nakSent := x.nakSent.set clCue false,
           owed := x.owed.set clCue (x.owed.get 0 clCue + 1) }

/-- The state once a CUE frame is delivered on a port (R366, R370). -/
def State.delivered (s : State) (p words : Nat) : State :=
  (s.setPort p ((s.port p).hears s.elapsed (frameBytes words)).tookCue).incWrap (word (AX_RX_FRAME_CNT p))

theorem State.inSeq_of_inOrder {s : State} {p : Nat} {h : AxHdr} (hin : s.inOrder p clCue h) (words : Nat) :
    s.inSeq p clCue h.seq.toNat words = (true, (s.delivered p words).sendAck p clCue h.seq.toNat) := by
  obtain ⟨hup, hseq⟩ := hin
  have hwant : h.seq.toNat = ((s.port p).hears s.elapsed (frameBytes words)).rxSeq.get 0 clCue := hseq
  have hcredit (p : Nat) : (creditOf p clCue).isSome = true := rfl
  simp only [State.inSeq, hup, Bool.not_true, Bool.false_eq_true, if_false, hwant, if_true, hcredit]
  rfl

/-- A port that has delivered a CUE frame and acknowledged it: what it expects next, and what has not changed (R370). -/
structure State.DeliversCue (s t : State) (p seq : Nat) : Prop where
  cue : t.cue = s.cue
  clock : t.clock = s.clock
  pwr : t.pwr = s.pwr
  refused : t.ax.refused = s.ax.refused
  replay : t.ax.replay = s.ax.replay
  expects : (t.port p).rxSeq.get 0 clCue = (seq + 1) % 65536
  held : (t.port p).held = (s.port p).held
  unacked : (t.port p).unacked = (s.port p).unacked
  spares : s.Spares (· ∉ [AX_RX_FRAME_CNT p, AX_TX_FRAME_CNT p]) t

theorem State.delivers_of_inOrder {s : State} {p : Nat} {h : AxHdr} (hin : s.inOrder p clCue h) (words : Nat) :
    s.DeliversCue (s.inSeq p clCue h.seq.toNat words).2 p h.seq.toNat := by
  rw [State.inSeq_of_inOrder hin words]
  obtain ⟨hrx, -, hheld, hunacked⟩ := (s.delivered p words).linkFrame_port_keeps p 1
    [BitVec.ofNat 32 clCue, BitVec.ofNat 32 h.seq.toNat]
  obtain ⟨-, hseq⟩ := hin
  have hgot : (s.delivered p words).port p = ((s.port p).hears s.elapsed (frameBytes words)).tookCue := s.setPort_port p _
  have hcounted : s.Spares (· ∉ [AX_RX_FRAME_CNT p, AX_TX_FRAME_CNT p]) (s.delivered p words) :=
    (s.setPort_spares p _).incWrap (f := word (AX_RX_FRAME_CNT p)) (fun h => h List.mem_cons_self)
  refine ⟨rfl, rfl, rfl, rfl, rfl, ?_, hheld.trans (by rw [hgot]; rfl), hunacked.trans (by rw [hgot]; rfl),
    hcounted.trans (State.putOnWire_spares (fun h => h (by simp)) _ _)⟩
  rw [State.sendAck, hrx, hgot, hseq]
  exact Tab.get_set_same _ _ _ _

/-! ### Cues sent on -/

/-- What a frame that is sent leaves: the cue engine, the device state, and what the ports expect. -/
structure State.KeepsIntake (s t : State) : Prop where
  cue : t.cue = s.cue
  pwr : t.pwr = s.pwr
  rxSeq : ∀ i, (t.port i).rxSeq = (s.port i).rxSeq

theorem State.KeepsIntake.refl (s : State) : s.KeepsIntake s := ⟨rfl, rfl, fun _ => rfl⟩

theorem State.KeepsIntake.trans {s t u : State} (h : s.KeepsIntake t) (h' : t.KeepsIntake u) : s.KeepsIntake u :=
  ⟨h'.cue.trans h.cue, h'.pwr.trans h.pwr, fun i => (h'.rxSeq i).trans (h.rxSeq i)⟩

theorem State.KeepsIntake.setPort {s t : State} (h : s.KeepsIntake t) {p : Nat} {x : PortSt}
    (hx : x.rxSeq = (t.port p).rxSeq) : s.KeepsIntake (t.setPort p x) := by
  refine ⟨h.cue, h.pwr, fun i => ?_⟩
  rw [← h.rxSeq i]
  by_cases hi : i = p
  · rw [hi, State.setPort_port, hx]
  · rw [State.setPort_port_ne t hi]

theorem State.KeepsIntake.p {s t : State} (h : s.KeepsIntake t) (f : Fld) (v : Nat) : s.KeepsIntake (t.p f v) :=
  ⟨h.cue, h.pwr, h.rxSeq⟩

theorem State.KeepsIntake.wire {s t : State} (h : s.KeepsIntake t) (w : List (Nat × AxFrame)) :
    s.KeepsIntake { t with ax := { t.ax with wire := w } } := ⟨h.cue, h.pwr, h.rxSeq⟩

theorem State.KeepsIntake.sentBytes {s t : State} (h : s.KeepsIntake t) (p n : Nat) : s.KeepsIntake (t.sentBytes p n) :=
  h.setPort rfl

theorem State.putOnWire_keepsIntake (s : State) (p : Nat) (f : AxFrame) : s.KeepsIntake (s.putOnWire p f) := by
  have hsent (x : PortSt) (hx : x.rxSeq = (s.port p).rxSeq) (w : List (Nat × AxFrame)) (n : Nat) : s.KeepsIntake
      ((({ s.setPort p x with ax := { (s.setPort p x).ax with wire := w } } : State).sentBytes p n).incWrap
        (word (AX_TX_FRAME_CNT p))) :=
    ((((State.KeepsIntake.refl s).setPort hx).wire w).sentBytes p n).p _ _
  refine hsent _ ?_ _ _
  dsimp only
  split_ifs <;> rfl

theorem State.sendFrame_keepsIntake (s : State) (p : Nat) (f : AxFrame) : s.KeepsIntake (s.sendFrame p f) := by
  have hpaid : s.KeepsIntake (match creditOf p f.cls with | some c => s.p c (s.g c - f.cost) | none => s) := by
    split
    · exact (State.KeepsIntake.refl s).p _ _
    · exact .refl s
  simp only [State.sendFrame]
  split_ifs
  · exact .refl s
  · exact hpaid.trans (State.putOnWire_keepsIntake _ _ _)
  · exact (State.KeepsIntake.refl s).setPort rfl

theorem State.floodCue_keepsIntake (s : State) (r : CueRec) (but : Option Nat) : s.KeepsIntake (s.floodCue r but) := by
  simp only [State.floodCue]
  split
  · exact .refl s
  · have hsent := State.each_rel State.KeepsIntake (fun s p => if s.treePort p && but != some p then
      s.sendFrame p { s.frame clCue 0 0 (cueWords r) with bcast := true, source := r.origin.truncate 12 } else s)
      (List.range 4) State.KeepsIntake.refl (fun _ _ _ => .trans) (fun s p => by
        split
        · exact s.sendFrame_keepsIntake p _
        · exact .refl s) s
    exact ⟨hsent.cue, hsent.pwr, hsent.rxSeq⟩

/-! ### The table of cues heard -/

/-- The state with a table of cues heard. -/
def State.marked (s : State) (l : List DedupSt) : State := { s with cue := { s.cue with dedup := l } }

/-- An origin and number that are not in the table are new (R119). -/
theorem State.dedupe_of_new {s : State} {origin : MemberId} {seq : W32}
    (h : s.cue.dedup.find? (fun d => d.origin == origin && d.live s.elapsed) = none) :
    ∃ l, s.dedupe origin seq = (false, s.marked l) := by
  simp only [State.dedupe, h]
  exact ⟨_, rfl⟩

/-- The number heard last of an origin is a duplicate (R119). -/
theorem State.dedupe_of_last {s : State} {origin : MemberId} {seq : W32} {d : DedupSt}
    (h : s.cue.dedup.find? (fun d => d.origin == origin && d.live s.elapsed) = some d) (hseq : seq = d.highest) :
    ∃ l, s.dedupe origin seq = (true, s.marked l) := by
  simp only [State.dedupe, h, hseq, if_true]
  exact ⟨_, rfl⟩

/-! ### A CUE frame arrives -/

/-- A delivered record without BROADCAST has no effect (R101). -/
theorem State.cueIn_of_single {s : State} {p : Nat} {h : AxHdr} {r : CueRec} (hin : s.inOrder p clCue h)
    (hown : recBroadcast r = false) : s.cueIn p h r = (s.inSeq p clCue h.seq.toNat 8).2 := by
  simp only [State.cueIn, State.inSeq_of_inOrder hin, hown, Bool.not_true, Bool.not_false, Bool.or_true, if_true]

/-- What a member does with a record for the troupe that is delivered on the tree (R119, R389). -/
def State.hearRecord (s : State) (p : Nat) (r : CueRec) : State :=
  let (dup, s) := s.dedupe (r.origin.truncate 12) r.seq
  if dup then s.inc (cnt16 CUE_DUP_CNT) else
  if !s.bit CUE_CTL_bcast_rx then s else
  let s := s.floodCue r (some p)
  if s.dev == .drain then s.drainDrop 1
  else { s with cue := { s.cue with axIn := s.cue.axIn ++ [r] } }

theorem State.cueIn_of_broadcast {s : State} {p : Nat} {h : AxHdr} {r : CueRec} (hin : s.inOrder p clCue h)
    (htree : (s.inSeq p clCue h.seq.toNat 8).2.bit (AX_STAT_tree p) = true)
    (hmember : (s.inSeq p clCue h.seq.toNat 8).2.isMember = true) (hown : recBroadcast r = true) :
    s.cueIn p h r = (s.inSeq p clCue h.seq.toNat 8).2.hearRecord p r := by
  rw [State.inSeq_of_inOrder hin] at htree hmember ⊢
  simp only [State.cueIn, State.inSeq_of_inOrder hin, htree, hmember, hown, Bool.not_true, Bool.or_self, Bool.false_eq_true,
    if_false]
  rfl

/-- The registers that a CUE frame may change: its counts, those of the frames it gives rise to, and their credit. -/
def cueFrameRegs (p : Nat) : List Nat :=
  [AX_RX_FRAME_CNT p, CUE_DUP_CNT] ++ (List.range 4).flatMap (fun q => [AX_TX_FRAME_CNT q, AX_CREDIT q])

theorem mem_cueFrameRegs {p a : Nat} : a ∈ cueFrameRegs p ↔ a = AX_RX_FRAME_CNT p ∨ a = CUE_DUP_CNT ∨
    ∃ q < 4, a = AX_TX_FRAME_CNT q ∨ a = AX_CREDIT q := by
  simp [cueFrameRegs]

/-- A register that a CUE frame leaves. -/
abbrev CueFrameLeaves (p a : Nat) : Prop := a ∉ cueFrameRegs p

theorem State.DeliversCue.leaves {s t : State} {p seq : Nat} (h : s.DeliversCue t p seq) (hp : p < 4) :
    s.Spares (CueFrameLeaves p) t := by
  refine h.spares.mono fun a ha hin => ha (mem_cueFrameRegs.mpr ?_)
  simp only [List.mem_cons, List.not_mem_nil, or_false] at hin
  exact hin.imp_right fun htx => .inr ⟨p, hp, .inl htx⟩

/-- A block other than Axlink has no registers that a frame changes, but for the count of duplicates. -/
theorem cueFrameLeaves_of_lt {p a : Nat} (hne : a ≠ CUE_DUP_CNT) (ha : a < 0x700000) : CueFrameLeaves p a := by
  rw [CueFrameLeaves, mem_cueFrameRegs]
  simp only [AX_RX_FRAME_CNT, AX_TX_FRAME_CNT, AX_CREDIT]
  omega

theorem cueFrameLeaves_axStat {p : Nat} (q : Nat) : CueFrameLeaves p (AX_STAT q) := by
  rw [CueFrameLeaves, mem_cueFrameRegs]
  simp only [AX_RX_FRAME_CNT, AX_TX_FRAME_CNT, AX_CREDIT, AX_STAT, CUE_DUP_CNT]
  omega

theorem dupCnt_ne_frameCnt {p : Nat} : CUE_DUP_CNT ∉ [AX_RX_FRAME_CNT p, AX_TX_FRAME_CNT p] := by
  simp only [List.mem_cons, List.not_mem_nil, or_false, CUE_DUP_CNT, AX_RX_FRAME_CNT, AX_TX_FRAME_CNT]
  omega

/-- The sending of a cue counts no duplicate. -/
theorem State.floodCue_dupCnt (s : State) (r : CueRec) (but : Option Nat) : s.Spares (· = CUE_DUP_CNT) (s.floodCue r but) :=
  State.floodCue_spares (fun q _ => by simp only [AX_TX_FRAME_CNT, AX_CREDIT, CUE_DUP_CNT]; omega) s r but

theorem State.floodCue_leaves (s : State) (p : Nat) (r : CueRec) (but : Option Nat) :
    s.Spares (CueFrameLeaves p) (s.floodCue r but) :=
  State.floodCue_spares (fun q hq => ⟨fun h => h (mem_cueFrameRegs.mpr (.inr (.inr ⟨q, hq, .inl rfl⟩))),
    fun h => h (mem_cueFrameRegs.mpr (.inr (.inr ⟨q, hq, .inr rfl⟩)))⟩) s r but

/-- A CUE frame for the troupe that comes on the tree to a member that takes such cues (R101, R389). -/
structure State.HearsCue (s : State) (p : Fin 4) (h : AxHdr) (r : CueRec) : Prop where
  inOrder : s.inOrder p clCue h
  tree : s.bit (AX_STAT_tree p) = true
  member : s.isMember = true
  takes : s.bit CUE_CTL_bcast_rx = true
  open_ : s.dev ≠ .drain
  broadcast : recBroadcast r = true

theorem State.HearsCue.cueIn_eq {s : State} {p : Fin 4} {h : AxHdr} {r : CueRec} (hears : s.HearsCue p h r) :
    s.cueIn p h r = (s.inSeq p clCue h.seq.toNat 8).2.hearRecord p r := by
  have hgot := State.delivers_of_inOrder hears.inOrder 8
  have hleaves := hgot.leaves p.isLt
  refine State.cueIn_of_broadcast hears.inOrder ?_ ?_ hears.broadcast
  · rw [← hears.tree, State.bit, hleaves.g (cueFrameLeaves_axStat p), State.bit]
  · rw [← hears.member, State.isMember, State.bit, hleaves.g (cueFrameLeaves_of_lt (by decide) (by decide)), hgot.refused,
      State.isMember, State.bit]

/-- A record that is new to the member is sent on and waits to be taken (R389). -/
theorem State.HearsCue.cueIn_of_new {s : State} {p : Fin 4} {h : AxHdr} {r : CueRec} (hears : s.HearsCue p h r)
    (hnew : s.cue.dedup.find? (fun d => d.origin == r.origin.truncate 12 && d.live s.elapsed) = none) :
    (s.cueIn p h r).cue.axIn = s.cue.axIn ++ [r] ∧ (s.cueIn p h r).rd CUE_DUP_CNT = s.rd CUE_DUP_CNT ∧
      ((s.cueIn p h r).port p).rxSeq.get 0 clCue = (h.seq.toNat + 1) % 65536 ∧
      s.Spares (CueFrameLeaves p) (s.cueIn p h r) := by
  have hgot := State.delivers_of_inOrder hears.inOrder 8
  have hleaves := hgot.leaves p.isLt
  rw [hears.cueIn_eq]
  generalize (s.inSeq p clCue h.seq.toNat 8).2 = t at hgot hleaves
  have helapsed : t.elapsed = s.elapsed := congrArg Clock.elapsed hgot.clock
  obtain ⟨l, hdedupe⟩ := State.dedupe_of_new (s := t) (origin := r.origin.truncate 12) (seq := r.seq)
    (by rw [hgot.cue, helapsed]; exact hnew)
  have hmarked : t.Spares (CueFrameLeaves p) (t.marked l) := (State.Spares.refl t).cue _
  have haxin : (t.marked l).cue.axIn = s.cue.axIn :=
    Eq.trans (b := t.cue.axIn) rfl (congrArg CueSt.axIn hgot.cue)
  have hdup : (t.marked l).rd CUE_DUP_CNT = s.rd CUE_DUP_CNT :=
    hgot.spares.rd _ dupCnt_ne_frameCnt
  have hport : ((t.marked l).port p).rxSeq.get 0 clCue =
    (h.seq.toNat + 1) % 65536 := hgot.expects
  have hdev : (t.marked l).dev = s.dev := congrArg PowerSt.state hgot.pwr
  have htakes : (t.marked l).bit CUE_CTL_bcast_rx = true := by
    rw [← hears.takes, State.bit, (hleaves.trans hmarked).g (cueFrameLeaves_of_lt (by decide) (by decide)), State.bit]
  rw [State.hearRecord, hdedupe]
  generalize (t.marked l) = v at *
  have hsent := v.floodCue_keepsIntake r (some p)
  have hopen : ((v.floodCue r (some p)).dev == .drain) = false := by
    rw [State.dev, hsent.pwr]
    simpa [hdev] using hears.open_
  simp only [htakes, hopen, Bool.not_true, Bool.false_eq_true, if_false]
  refine ⟨by rw [hsent.cue, haxin], ((v.floodCue_dupCnt r (some p)).rd _ rfl).trans hdup, ?_,
    ((hleaves.trans hmarked).trans (v.floodCue_leaves p r (some p))).cue _⟩
  exact (congrArg (fun x : Tab Nat => x.get 0 clCue) (hsent.rxSeq p)).trans hport

/-- A record that the member has heard last of its origin is counted, and goes no further (R119, R389). -/
theorem State.HearsCue.cueIn_of_last {s : State} {p : Fin 4} {h : AxHdr} {r : CueRec} {d : DedupSt} (hears : s.HearsCue p h r)
    (hlast : s.cue.dedup.find? (fun d => d.origin == r.origin.truncate 12 && d.live s.elapsed) = some d)
    (hseq : r.seq = d.highest) :
    (s.cueIn p h r).cue.axIn = s.cue.axIn ∧
      (s.cueIn p h r).g (cnt16 CUE_DUP_CNT) = min (s.g (cnt16 CUE_DUP_CNT) + 1) 65535 ∧
      s.Spares (CueFrameLeaves p) (s.cueIn p h r) := by
  have hgot := State.delivers_of_inOrder hears.inOrder 8
  have hleaves := hgot.leaves p.isLt
  rw [hears.cueIn_eq]
  generalize (s.inSeq p clCue h.seq.toNat 8).2 = t at hgot hleaves
  have helapsed : t.elapsed = s.elapsed := congrArg Clock.elapsed hgot.clock
  obtain ⟨l, hdedupe⟩ := State.dedupe_of_last (s := t) (origin := r.origin.truncate 12) (seq := r.seq)
    (by rw [hgot.cue, helapsed]; exact hlast) hseq
  have hmarked : t.Spares (CueFrameLeaves p) (t.marked l) := (State.Spares.refl t).cue _
  have hcount : (t.marked l).g (cnt16 CUE_DUP_CNT) = s.g (cnt16 CUE_DUP_CNT) :=
    State.g_of_rd (hgot.spares.rd _ dupCnt_ne_frameCnt)
  rw [State.hearRecord, hdedupe]
  simp only [if_true]
  refine ⟨Eq.trans (b := t.cue.axIn) rfl (congrArg CueSt.axIn hgot.cue), ?_,
    (hleaves.trans hmarked).inc (f := cnt16 CUE_DUP_CNT) fun h => h (mem_cueFrameRegs.mpr (.inr (.inl rfl)))⟩
  rw [State.g_inc_cnt16, hcount]

/-- What leaves the registers that a CUE frame leaves keeps them as a command. -/
theorem keeps_of_cueFrame {s u : State} {at_ : TT} {p : Nat} (h : (s.atTime at_).Spares (CueFrameLeaves p) u) :
    keepsRegs s (u.ended s) (cueFrameRegs p) ∧ keepsMemory s (u.ended s) := by
  have hout : (s.atTime at_).Spares (Outside (cueFrameRegs p)) u := h.mono fun _ ha => ha.2
  exact ⟨keepsRegs_of_spares hout, keepsMemory_of_spares hout⟩

theorem State.ended_port (s old : State) (p : Nat) : (s.ended old).port p = s.port p := by
  rw [State.port, State.ended_ax, State.port]

theorem exec_cueRecord_of_new (at_ : TT) (p : Fin 4) (h : AxHdr) (r : CueRec) (s : State)
    (hears : (s.atTime at_).HearsCue p h r)
    (hnew : (s.atTime at_).cue.dedup.find? (fun d => d.origin == r.origin.truncate 12 && d.live (s.atTime at_).elapsed) = none) :
    ∃ t, exec (.cueRecord at_ p h r) s = .next t ∧ t.cue.axIn = (s.atTime at_).cue.axIn ++ [r] ∧
      t.rd CUE_DUP_CNT = s.rd CUE_DUP_CNT ∧ (t.port p).rxSeq.get 0 clCue = (h.seq.toNat + 1) % 65536 ∧
      keepsRegs s t (cueFrameRegs p) ∧ keepsMemory s t := by
  have hexec : exec (.cueRecord at_ p h r) s = .next (((s.atTime at_).cueIn p h r).ended s) := rfl
  obtain ⟨hin, hdup, hport, hleaves⟩ := hears.cueIn_of_new hnew
  refine ⟨_, hexec, ?_, ?_, ?_, keeps_of_cueFrame hleaves⟩
  · rw [State.ended_cue]
    exact hin
  · exact (State.ended_rd _ s (by decide)).trans (hdup.trans (s.atTime_rd at_ _))
  · rw [State.ended_port]
    exact hport

theorem exec_cueRecord_of_last (at_ : TT) (p : Fin 4) (h : AxHdr) (r : CueRec) (d : DedupSt) (s : State)
    (hears : (s.atTime at_).HearsCue p h r)
    (hlast : (s.atTime at_).cue.dedup.find? (fun d => d.origin == r.origin.truncate 12 && d.live (s.atTime at_).elapsed) = some d)
    (hseq : r.seq = d.highest) :
    ∃ t, exec (.cueRecord at_ p h r) s = .next t ∧ t.cue.axIn = (s.atTime at_).cue.axIn ∧
      t.g (cnt16 CUE_DUP_CNT) = min (s.g (cnt16 CUE_DUP_CNT) + 1) 65535 ∧
      keepsRegs s t (cueFrameRegs p) ∧ keepsMemory s t := by
  have hexec : exec (.cueRecord at_ p h r) s = .next (((s.atTime at_).cueIn p h r).ended s) := rfl
  obtain ⟨hin, hdup, hleaves⟩ := hears.cueIn_of_last hlast hseq
  rw [s.atTime_g at_] at hdup
  refine ⟨_, hexec, ?_, (State.ended_g _ s (by decide)).trans hdup, keeps_of_cueFrame hleaves⟩
  rw [State.ended_cue]
  exact hin

theorem exec_cueRecord_of_single (at_ : TT) (p : Fin 4) (h : AxHdr) (r : CueRec) (s : State)
    (hin : (s.atTime at_).inOrder p clCue h) (hown : recBroadcast r = false) :
    ∃ t, exec (.cueRecord at_ p h r) s = .next t ∧ t.cue = (s.atTime at_).cue ∧
      (t.port p).rxSeq.get 0 clCue = (h.seq.toNat + 1) % 65536 ∧
      keepsRegs s t [AX_RX_FRAME_CNT p, AX_TX_FRAME_CNT p] ∧ keepsMemory s t := by
  have hexec : exec (.cueRecord at_ p h r) s = _ := timed_of_eq (f := fun s => s.cueIn p h r) (State.cueIn_of_single hin hown)
  have hgot := State.delivers_of_inOrder hin 8
  have hout := hgot.spares.mono (Q := Outside [AX_RX_FRAME_CNT p, AX_TX_FRAME_CNT p]) fun _ ha => ha.2
  refine ⟨_, hexec, ?_, ?_, keepsRegs_of_spares hout, keepsMemory_of_spares hout⟩
  · rw [State.ended_cue]
    exact hgot.cue
  · rw [State.ended_port]
    exact hgot.expects

/-! ### A frame out of its sequence -/

/-- A port that has heard a frame out of its sequence asks for the one it expects, once (R370). -/
def State.asksAgain (s : State) (p words : Nat) : State :=
  let x := (s.port p).hears s.elapsed (frameBytes words)
  s.setPort p { x with nakSent := x.nakSent.set clCue true }

theorem State.cueIn_of_gap {s : State} {p : Nat} {h : AxHdr} {r : CueRec} (hup : s.portUp p = true)
    (hgap : h.seq.toNat ≠ (s.port p).rxSeq.get 0 clCue) (hfirst : (s.port p).nakSent.get false clCue = false) :
    s.cueIn p h r = (s.asksAgain p 8).sendNak p clCue ((s.port p).rxSeq.get 0 clCue) := by
  have hgap' : h.seq.toNat ≠ ((s.port p).hears s.elapsed (frameBytes 8)).rxSeq.get 0 clCue := hgap
  have hfirst' : ((s.port p).hears s.elapsed (frameBytes 8)).nakSent.get false clCue = false := hfirst
  simp only [State.cueIn, State.inSeq, hup, hgap', hfirst', Bool.not_true, Bool.not_false, Bool.true_or, Bool.false_eq_true,
    if_false, if_true]
  rfl

theorem exec_cueRecord_of_gap (at_ : TT) (p : Fin 4) (h : AxHdr) (r : CueRec) (s : State)
    (hup : (s.atTime at_).portUp p = true) (hgap : h.seq.toNat ≠ ((s.atTime at_).port p).rxSeq.get 0 clCue)
    (hfirst : ((s.atTime at_).port p).nakSent.get false clCue = false) :
    ∃ t, exec (.cueRecord at_ p h r) s = .next t ∧ t.cue = (s.atTime at_).cue ∧
      t.ax.wire = [(p.val, (s.atTime at_).frame clLink 2 0
        [BitVec.ofNat 32 clCue, BitVec.ofNat 32 (((s.atTime at_).port p).rxSeq.get 0 clCue)])] ∧
      (t.port p).nakSent.get false clCue = true ∧ keepsRegs s t [AX_TX_FRAME_CNT p] ∧ keepsMemory s t := by
  have hexec : exec (.cueRecord at_ p h r) s = _ :=
    timed_of_eq (f := fun s => s.cueIn p h r) (State.cueIn_of_gap hup hgap hfirst)
  have hwire : (s.atTime at_).ax.wire = [] := by
    obtain ⟨c, x, hat⟩ := s.atTime_eq at_
    rw [hat]
  obtain ⟨-, hnak, -, -⟩ := ((s.atTime at_).asksAgain p 8).linkFrame_port_keeps p 2
    [BitVec.ofNat 32 clCue, BitVec.ofNat 32 (((s.atTime at_).port p).rxSeq.get 0 clCue)]
  have hasked : ((s.atTime at_).asksAgain p 8).port p = _ := (s.atTime at_).setPort_port p _
  have hspares : (s.atTime at_).Spares (Outside [AX_TX_FRAME_CNT p]) (((s.atTime at_).asksAgain p 8).sendNak p clCue
      (((s.atTime at_).port p).rxSeq.get 0 clCue)) :=
    ((s.atTime at_).setPort_spares p _).trans (State.putOnWire_spares (not_outside_of_mem List.mem_cons_self) _ _)
  refine ⟨_, hexec, State.ended_cue _ s, ?_, ?_, keepsRegs_of_spares hspares, keepsMemory_of_spares hspares⟩
  · rw [State.ended_ax]
    exact congrArg (· ++ [_]) hwire
  · rw [State.ended_port, State.sendNak, hnak, hasked]
    exact Tab.get_set_same _ _ _ _

/-! ### A replay request -/

theorem State.putOnWire_mem (s : State) (p : Nat) (f : AxFrame) :
    ∃ q, (p, { f with seq := q }) ∈ (s.putOnWire p f).ax.wire := by
  by_cases hcls : retransmitted f.cls = true
  · refine ⟨(s.port p).txSeq.get 0 f.cls, ?_⟩
    simp only [State.putOnWire, hcls, if_true]
    exact List.mem_append_right _ (List.mem_singleton.mpr rfl)
  · refine ⟨f.seq, ?_⟩
    simp only [State.putOnWire, hcls]
    exact List.mem_append_right _ (List.mem_singleton.mpr rfl)

/-- A frame that may go at once is on the wire (R372). -/
theorem State.sendFrame_mem {s : State} {p : Nat} {f : AxFrame} (hgo : s.goesNow p f) :
    ∃ q, (p, { f with seq := q }) ∈ (s.sendFrame p f).ax.wire := by
  obtain ⟨hup, hheld, hmay⟩ := hgo
  simp only [State.sendFrame, hup, hheld, hmay, Bool.not_true, Bool.false_eq_true, if_false, List.isEmpty_nil, Bool.and_self,
    if_true]
  exact State.putOnWire_mem _ p f

/-- A CUE frame takes one credit (R372). -/
theorem State.mayGo_cue (s : State) (p : Nat) {f : AxFrame} (hcls : f.cls = clCue) :
    s.mayGo p f = (decide (1 ≤ s.g (AX_CREDIT_cue p)) && decide (((s.port p).unacked.get [] clCue).length < 64)) := by
  have hcost : f.cost = 1 := if_pos hcls
  simp only [State.mayGo, hcls, hcost]
  rfl

/-- A CUE frame that might go before another was delivered and acknowledged may go after it. -/
theorem State.DeliversCue.goesNow {s t : State} {p : Nat} {seq : Nat} {f f' : AxFrame} (h : s.DeliversCue t p seq)
    (hcls : f.cls = clCue) (hcls' : f'.cls = clCue) (hgo : s.goesNow p f) : t.goesNow p f' := by
  obtain ⟨hup, hheld, hmay⟩ := hgo
  have hstat : AX_STAT p ∉ [AX_RX_FRAME_CNT p, AX_TX_FRAME_CNT p] := by simp
  have hcredit : AX_CREDIT p ∉ [AX_RX_FRAME_CNT p, AX_TX_FRAME_CNT p] := by simp
  refine ⟨?_, ?_, ?_⟩
  · rw [← hup, State.portUp, h.spares.g hstat, State.portUp]
  · rw [h.held, hcls', ← hcls, hheld]
  · rw [t.mayGo_cue p hcls', h.unacked, h.spares.g hcredit, ← s.mayGo_cue p hcls, hmay]

theorem evenWords_cueWords (r : CueRec) : evenWords (cueWords r) = cueWords r := by simp [evenWords, cueWords]

/-- A CUE frame as a replay sends it again (R388). -/
def State.replayFrame (s : State) (r : CueRec) : AxFrame :=
  { s.frame clCue 0 0 (cueWords r) with bcast := true, replay := true, source := r.origin.truncate 12 }

/-- A replay request has the cue of the last 50 µs sent again (R388). -/
theorem State.replayIn_of_one {s t : State} {p : Nat} {h : AxHdr} {from_ : Nat} {r : CueRec} (hin : s.inOrder p clCue h)
    (hreplay : s.ax.replay = [(from_, r)]) (hrecent : s.elapsed - from_ ≤ 50 * usNs)
    (ht : (s.inSeq p clCue h.seq.toNat 0).2 = t) : s.replayIn p h = t.sendFrame p (t.replayFrame r) := by
  have hgot := ht ▸ State.delivers_of_inOrder hin 0
  have helapsed : t.elapsed = s.elapsed := congrArg Clock.elapsed hgot.clock
  have hone : t.ax.replay.filter (fun x => decide (t.elapsed - x.1 ≤ 50 * usNs)) = [(from_, r)] := by
    rw [hgot.replay, hreplay, helapsed, List.filter_cons_of_pos (by simpa using hrecent), List.filter_nil]
  subst ht
  rw [State.inSeq_of_inOrder hin] at hone ⊢
  simp only [State.replayIn, State.inSeq_of_inOrder hin, Bool.not_true, Bool.false_eq_true, if_false, hone]
  rfl

theorem exec_replayReq_of_one (at_ : TT) (p : Fin 4) (h : AxHdr) (from_ : Nat) (r : CueRec) (s : State)
    (hin : (s.atTime at_).inOrder p clCue h) (hreplay : (s.atTime at_).ax.replay = [(from_, r)])
    (hrecent : (s.atTime at_).elapsed - from_ ≤ 50 * usNs)
    (hgo : (s.atTime at_).goesNow p ((s.atTime at_).frame clCue 0 0 (cueWords r))) :
    ∃ t f, exec (.replayReq at_ p h) s = .next t ∧ (p.val, f) ∈ t.ax.wire ∧ f.cls = clCue ∧ f.replay = true ∧
      f.bcast = true ∧ f.source = r.origin.truncate 12 ∧ f.body = cueWords r ∧
      keepsRegs s t [AX_RX_FRAME_CNT p, AX_TX_FRAME_CNT p, AX_CREDIT p] ∧ keepsMemory s t := by
  have hexec : exec (.replayReq at_ p h) s = _ :=
    timed_of_eq (f := fun s => s.replayIn p h) (State.replayIn_of_one hin hreplay hrecent rfl)
  have hgot := State.delivers_of_inOrder hin 0
  generalize ((s.atTime at_).inSeq p clCue h.seq.toNat 0).2 = v at hexec hgot
  obtain ⟨q, hmem⟩ := State.sendFrame_mem (hgot.goesNow (f' := v.replayFrame r) rfl rfl hgo)
  have hspares : (s.atTime at_).Spares (Outside [AX_RX_FRAME_CNT p, AX_TX_FRAME_CNT p, AX_CREDIT p])
      (v.sendFrame p (v.replayFrame r)) :=
    (hgot.spares.mono fun a ha h => ha.2 (List.mem_append_left [AX_CREDIT p] h)).trans
      (State.sendFrame_spares (not_outside_of_mem (by simp)) v _ (not_outside_of_mem (by simp)))
  refine ⟨_, { v.replayFrame r with seq := q }, hexec, ?_, rfl, rfl, rfl, rfl, evenWords_cueWords r,
    keepsRegs_of_spares hspares, keepsMemory_of_spares hspares⟩
  rw [State.ended_ax]
  exact hmem

/-! ### An origin is forgotten -/

theorem exec_dedupEntryExpire (at_ : TT) (origin : MemberId) (s : State) :
    ∃ t, exec (.dedupEntryExpire at_ origin) s = .next t ∧
      (∀ d, d ∈ t.cue.dedup ↔ d ∈ (s.atTime at_).cue.dedup ∧
        (d.origin = origin → (s.atTime at_).elapsed - d.heardAt < 500 * usNs)) ∧
      keepsRegs s t [] ∧ keepsMemory s t := by
  have hexec : exec (.dedupEntryExpire at_ origin) s = .next (((s.atTime at_).dedupExpire origin).ended s) := rfl
  refine ⟨_, hexec, fun d => ?_, keeps_of_cue (at_ := at_) rfl⟩
  rw [State.ended_cue]
  simp only [State.dedupExpire, List.mem_filter, DedupSt.live, Bool.or_eq_true, bne_iff_ne, ne_eq, decide_eq_true_eq,
    imp_iff_not_or]

end Sys2Proof.Machine

/-! ### The obligation -/

/-- Settles O50: what a CUE frame brings about in its sequence and out of it, a replay request, and the end of an entry of
the table. -/
theorem cuesCrossTheTroupe : Obligations.CuesCrossTheTroupe := by
  refine ⟨fun at_ p h r s hin htree hmember htakes hopen hbroadcast => ?_, exec_cueRecord_of_gap, exec_replayReq_of_one,
    exec_cueRecord_of_single, exec_dedupEntryExpire⟩
  have hears : (s.atTime at_).HearsCue p h r := ⟨hin, htree, hmember, htakes, hopen, hbroadcast⟩
  exact ⟨exec_cueRecord_of_new at_ p h r s hears, fun d => exec_cueRecord_of_last at_ p h r d s hears⟩
end

section
/-! The device state that a command ends in, and its supplies: the running states follow the timebase (R137). -/

open Sys2Proof Sys2Proof.Machine

namespace Sys2Proof.Machine

/-! ### What the running state rests on -/

/-- The fields that decide among the running states (R137). -/
def DecidesRun (f : Fld) : Prop := f = TB_STAT_tb_state ∨ f = SYS_STATE_lead ∨ ∃ p < 4, f = AX_STAT_state p

theorem State.runState_congr {s t : State} (h : ∀ f, DecidesRun f → t.g f = s.g f) : t.runState = s.runState := by
  have hport (p : Nat) (hp : p ∈ List.range 4) : t.portUp p = s.portUp p := by
    rw [State.portUp, State.portUp, h _ (.inr (.inr ⟨p, List.mem_range.mp hp, rfl⟩))]
  have hports : (List.range 4).any t.portUp = (List.range 4).any s.portUp := by
    rw [Bool.eq_iff_iff, List.any_eq_true, List.any_eq_true]
    exact exists_congr fun p => and_congr_right fun hp => by rw [hport p hp]
  unfold State.runState State.bit
  rw [h _ (.inl rfl), h _ (.inr (.inl rfl)), hports]

/-- All these fields but the lead role lie in registers that the ending of a command leaves. -/
theorem endsOn_of_decidesRun {f : Fld} (h : DecidesRun f) : f = SYS_STATE_lead ∨ endsOn f.addr = false := by
  have hports : ∀ p < 4, endsOn (AX_STAT p) = false := by decide
  obtain rfl | rfl | ⟨p, hp, rfl⟩ := h
  · exact .inr (by decide)
  · exact .inl rfl
  · exact .inr (hports p hp)

theorem State.running_runState (s : State) : s.runState.running = true := by
  unfold State.runState
  split
  · rfl
  · split <;> rfl

/-! ### The ending of a command -/

/-- A state change recorded in the registers, before its event record (R135). -/
def State.changeNoted (s : State) (d : DevState) : State :=
  ((State.p { s with pwr := { s.pwr with state := d, enteredAt := s.elapsed } } SYS_STATE_prev s.dev.code).wr64
    SYS_STATE_TT_LO s.clock.ns).inc (cnt16 SYS_STATE_CHANGE_CNT)

theorem State.changeState_noted (s : State) (d : DevState) :
    s.changeState d = (s.changeNoted d).eventNow 0x01 0 (BitVec.ofNat 32 (s.dev.code * 16 + d.code)) := rfl

/-- A state change leaves the lead role beside the state that it records (R135). -/
theorem State.changeState_lead (s : State) (d : DevState) :
    (s.changeState d).g SYS_STATE_lead = s.g SYS_STATE_lead := by
  have hword : (s.changeState d).rd SYS_STATE = (s.p SYS_STATE_prev s.dev.code).rd SYS_STATE := by
    rw [State.changeState_noted, State.eventNow, State.event_rd _ _ _ _ _ (by unfold inLog; decide) (by decide),
      State.changeNoted, State.rd_inc_ne _ (by decide), State.wr64, State.rd_wr_ne _ (by decide),
      State.rd_wr_ne _ (by decide)]
    rfl
  exact (State.g_of_rd hword).trans (State.g_p_ne s SYS_STATE_prev SYS_STATE_lead _ (by decide) (by decide) (by decide))

theorem State.changeState_dev (s : State) (d : DevState) : (s.changeState d).dev = d := by
  obtain ⟨c, l, h⟩ := s.changeState_eq d
  rw [h]

theorem State.changeState_runState (s : State) (d : DevState) : (s.changeState d).runState = s.runState :=
  State.runState_congr fun f hf => by
    obtain rfl | hends := endsOn_of_decidesRun hf
    · exact s.changeState_lead d
    · exact State.g_of_rd (s.changeState_rd d hends)

theorem State.pinScan_sysState (s : State) : s.pinScan.rd SYS_STATE = s.rd SYS_STATE := by
  simp only [State.pinScan]
  refine (State.each_keeps (fun s => s.rd SYS_STATE) _ _ (fun s p _ => ?_) _).trans
    ((State.each_keeps (fun s => s.rd SYS_STATE) _ _ (fun s p _ => ?_) _).trans rfl)
  · rw [State.eventNow, State.event_rd _ _ _ _ _ (by unfold inLog; decide) (by decide)]
    exact State.rd_inc_ne _ (by simp only [cnt16, GP_CONFLICT_CNT, SYS_STATE]; omega)
  · exact State.rd_p_ne _ (by simp only [GP_CONFLICT, SYS_STATE]; omega) _

theorem State.settles_runState (s : State) : s.trackIdle.pinScan.tapReturn.runState = s.runState :=
  State.runState_congr fun f hf => State.g_of_rd <| by
    obtain ⟨x, hx⟩ := State.tapReturn_eq s.trackIdle.pinScan
    have htap : s.trackIdle.pinScan.tapReturn.rd f.addr = s.trackIdle.pinScan.rd f.addr := by rw [hx]; rfl
    obtain rfl | hends := endsOn_of_decidesRun hf
    · rw [htap, State.pinScan_sysState, State.trackIdle_rd]
    · rw [htap, State.pinScan_rd _ hends, State.trackIdle_rd]

theorem State.markKeep_runState (s old : State) : (s.markKeep old).runState = s.runState :=
  State.runState_congr fun f hf => State.g_of_rd <| State.markKeep_rd _ _ <| by
    obtain rfl | hends := endsOn_of_decidesRun hf
    · decide
    · obtain ⟨-, -, -, -, h, -⟩ := endsOn_out hends
      exact h

theorem State.follow_runState (s : State) : s.follow.runState = s.runState := by
  unfold State.follow
  split
  · exact s.changeState_runState _
  · rfl

/-- A running state becomes the one that the timebase and the lead role give; every other stays (R137). -/
theorem State.follow_dev (s : State) : s.follow.dev = if s.dev.running then s.runState else s.dev := by
  unfold State.follow
  cases hrun : s.dev.running with
  | false => rfl
  | true =>
    by_cases hsame : s.dev = s.runState
    · simp [hsame]
    · rw [if_pos (by simp [hsame]), State.changeState_dev]
      rfl

theorem State.ended_runState (s old : State) : (s.ended old).runState = s.runState := by
  simp only [State.ended, State.settle, State.settles_runState, State.follow_runState, State.markKeep_runState]

theorem State.ended_dev (s old : State) : (s.ended old).dev = if s.dev.running then s.runState else s.dev := by
  obtain ⟨r, hr⟩ := State.trackIdle_eq (s.markKeep old).follow
  have hdev : (s.ended old).dev = (s.markKeep old).follow.dev := by
    simp only [State.ended, State.settle, State.dev, State.tapReturn_pwr, State.pinScan_pwr]
    rw [hr]
  rw [hdev, State.follow_dev, State.markKeep_runState, State.dev, State.markKeep_pwr]

theorem State.ended_followsTimebase (s old : State) : (s.ended old).followsTimebase := by
  intro hrun
  rw [State.ended_runState]
  rw [State.ended_dev] at hrun ⊢
  split
  · rfl
  next h =>
    rw [if_neg h] at hrun
    exact absurd hrun h

end Sys2Proof.Machine

/-! ### The obligation -/

/-- Settles O2: a step is a command, which ends in the running state of R137, or it idles. -/
theorem followsTheTimebase : Obligations.FollowsTheTimebase := by
  intro s s' hfollows hstep
  unfold step at hstep
  split at hstep
  · exact Host.Outcome.next.inj hstep ▸ hfollows
  next c rest _ =>
    obtain ⟨u, hexec⟩ := exec_ended c { s with pending := rest }
    exact Host.Outcome.next.inj (hexec.symm.trans hstep) ▸ u.ended_followsTimebase _
end

section
/-! Resources that become ready, writes of the battery domain's registers, and its seconds (R138, R150–R157). -/

open Sys2Proof Sys2Proof.Machine

namespace Sys2Proof.Machine

/-! ### Resources that become ready -/

/-- A resource behind the cells that may become ready is marked so, and no more comes of it (R138). -/
theorem State.becomeReady_of_readyNow {s : State} {r : Nat} (h80 : 80 ≤ r) (hnow : s.readyNow r = true) (locked : Bool) :
    s.becomeReady r locked = s.markReady r := by
  have h32 : ¬ r < 32 := by omega
  have hcell : ¬ r < 80 := by omega
  simp only [State.becomeReady, hnow, h32, hcell, decide_false, Bool.not_true, Bool.false_and, Bool.or_self,
    Bool.false_eq_true, if_false]

/-- What a wind-up that completes leaves (R138, R140). -/
theorem State.markReady_of_winding {s : State} {r from_ : Nat} {resumed : Bool}
    (h : (s.res r).power = .winding from_ resumed) : ∃ x, x.power = .ready ∧ s.markReady r =
      ((s.setRes r x).inc (cnt16 SYS_WIND_CNT)).wr SYS_WIND_LAST (BitVec.ofNat 32 (min (s.elapsed - from_) 16383)) := by
  simp only [State.markReady, h]
  exact ⟨_, rfl, rfl⟩

theorem exec_resourceReady_of_readyNow (at_ : TT) (r : Fin 127) (locked : Bool) (from_ : Nat) (resumed : Bool) (s : State)
    (h80 : 80 ≤ r.val) (hwind : ((s.atTime at_).res r).power = .winding from_ resumed)
    (hnow : (s.atTime at_).readyNow r = true) :
    ∃ t, exec (.resourceReady at_ r locked) s = .next t ∧ t.isReady r = true ∧
      t.g (cnt16 SYS_WIND_CNT) = min (s.g (cnt16 SYS_WIND_CNT) + 1) 65535 ∧
      (t.rd SYS_WIND_LAST).toNat = min ((s.atTime at_).elapsed - from_) 16383 ∧
      keepsRegs s t [SYS_WIND_CNT, SYS_WIND_LAST] ∧ keepsMemory s t := by
  obtain ⟨x, hx, hmark⟩ := State.markReady_of_winding hwind
  have hexec : exec (.resourceReady at_ r locked) s = .next (((s.atTime at_).becomeReady r locked).ended s) := rfl
  rw [State.becomeReady_of_readyNow h80 hnow, hmark] at hexec
  have hset : (s.atTime at_).Spares (Outside [SYS_WIND_CNT, SYS_WIND_LAST]) ((s.atTime at_).setRes r x) :=
    (State.Spares.refl _).of_cells rfl rfl
  have hspares := (hset.inc (f := cnt16 SYS_WIND_CNT) (not_outside_of_mem (by decide))).wr (a := SYS_WIND_LAST)
    (not_outside_of_mem (by decide)) (BitVec.ofNat 32 (min ((s.atTime at_).elapsed - from_) 16383))
  refine ⟨_, hexec, ?_, ?_, ?_, keepsRegs_of_spares hspares, keepsMemory_of_spares hspares⟩
  · have hres : (((s.atTime at_).setRes r x).res r).power = .ready := by rw [State.setRes_res, hx]
    rw [State.isReady, State.ended_power]
    exact beq_iff_eq.mpr hres
  · rw [State.ended_g _ _ (by decide), ← s.atTime_g at_]
    exact (State.g_of_rd (State.rd_wr_ne _ (by decide) _)).trans (State.g_inc_cnt16 _ SYS_WIND_CNT)
  · rw [State.ended_rd _ _ (by decide), State.rd_wr_same, BitVec.toNat_ofNat]
    omega

/-! ### Registers of the battery block -/

/-- A write of a register of the battery block is no action with an answer of its own, and breaks no rule of its chapter
beyond those that the block judges first (R153). -/
theorem State.bat_plain {a i off : Nat} (hl : locate a = some (.bat, i, off)) (s : State) :
    (∀ v act, s.actionWrite a v act = none) ∧ (∀ w act, s.special w a act = none) ∧
      (∀ w old new act m, s.ruleRefuses w a old new act m = false) ∧ (∀ old new, s.namesRefuse a old new = false) ∧
      (locate a).any (fun x => x.1 == .wm && x.2.2 == 0x8) = false := by
  refine ⟨fun v act => ?_, fun w act => ?_, fun w old new act m => ?_, fun old new => ?_, ?_⟩
  · simp [State.actionWrite, hl]
  · simp [State.special, hl]
  · simp [State.ruleRefuses, hl]
  · simp [State.namesRefuse, State.namesOf, hl]
  · rw [hl]; rfl

/-- A register whose one field is RW or WO takes every write from the port (R15). -/
theorem accessRefuses_single {f : FieldDesc} (h : f.acc = .rw ∨ f.acc = .wo) (old v m : W32) :
    accessRefuses .observer [f] old v m = false := by
  obtain h | h := h <;> simp [accessRefuses, h, Acc.fixed, Acc.isL, Writer.isCue]

/-- A field that admits every value has no reserved encoding (R18). -/
theorem encodingRefuses_single {f : FieldDesc} (h : f.admits = []) (w : Writer) (old v m : W32) :
    encodingRefuses w [f] old v m = false := by
  simp [encodingRefuses, FieldDesc.lists, h]

/-- A write from the port of a register of the battery block that the block does not refuse (R153). -/
theorem State.writeReg_bat {s : State} {a i off : Nat} {f : FieldDesc} (v : W32) (hl : locate a = some (.bat, i, off))
    (hf : regFields a = [f]) (hacc : f.acc = .rw ∨ f.acc = .wo) (hadmits : f.admits = [])
    (hgate : ∀ new act, s.gate .observer a (s.rd a) new v 0xFFFFFFFF act = (.ok, s)) :
    s.writeReg .observer a v 0xFFFFFFFF = (.ok, (s.wr a (newWord false [f] (s.rd a) v 0xFFFFFFFF)).written .observer a
      (s.rd a) v (actWord [f] v 0xFFFFFFFF) 0xFFFFFFFF) := by
  obtain ⟨haction, hspecial, hrule, hnames, hwm⟩ := s.bat_plain hl
  exact State.writeReg_plain s a v [f] _ _ hf rfl rfl (by rw [hgate]) (accessRefuses_single hacc _ _ _) (haction _ _)
    (hspecial _ _) (encodingRefuses_single hadmits _ _ _ _) (hrule _ _ _ _ _) (hnames _ _) hwm

/-- A write from the port that its block refuses before its access codes (R153, R176). -/
theorem State.writeReg_gated {s t : State} {a : Nat} {v : W32} {why : Why}
    (hgate : ∀ new act, s.gate .observer a (s.rd a) new v 0xFFFFFFFF act = (why, t)) (hwhy : why ≠ .ok) :
    s.writeReg .observer a v 0xFFFFFFFF = (why, t) := by
  have himage : (Writer.observer == Writer.image) = false := rfl
  simp only [State.writeReg, State.ownWhy, himage, hgate]
  simp [hwhy, State.refuseWrite, Writer.isCue]

/-- A register whose one field is RW takes the written word. -/
theorem newWord_word (old v : W32) : newWord false [⟨31, 0, .rw, []⟩] old v 0xFFFFFFFF = v := newWord_scriptEn old v

/-! ### KEEP_USER -/

theorem locate_keepUser : ∀ n : Fin 8, locate (KEEP_USER n) = some (.bat, 0, 0x0E0 + 4 * n.val) := by decide

theorem regFields_keepUser : ∀ n : Fin 8, regFields (KEEP_USER n) = scriptEnFields := by decide

theorem State.gate_keepUser (s : State) (n : Fin 8) (old new v m act : W32) :
    s.gate .observer (KEEP_USER n) old new v m act =
      if s.bitOf BAT_USER_LOCK n = true then (.access, s.inc (cnt16 BAT_WR_REFUSE_CNT)) else (.ok, s) := by
  have hoff : ¬ (0x0E0 + 4 * n.val = 0x080 ∨ 0x0E0 + 4 * n.val = 0x084) := by omega
  have hn : (0x0E0 + 4 * n.val - 0x0E0) / 4 = n.val := by omega
  have hin : 0x0E0 ≤ 0x0E0 + 4 * n.val ∧ 0x0E0 + 4 * n.val < 0x100 := by omega
  simp only [State.gate, locate_keepUser n, hoff, hn, hin, false_and, true_and, if_false, reduceCtorEq]

theorem State.writeReg_keepUser {s : State} (n : Fin 8) (v : W32) (hfree : s.bitOf BAT_USER_LOCK n = false) :
    s.writeReg .observer (KEEP_USER n) v 0xFFFFFFFF = (.ok, (s.wr (KEEP_USER n) v).keepWritten (24 + n)) := by
  have hn : (0x0E0 + 4 * n.val - 0x080) / 4 = 24 + n.val := by omega
  have hne : 0x0E0 + 4 * n.val ≠ 0x014 := by omega
  have hkeep : 0x080 ≤ 0x0E0 + 4 * n.val := by omega
  rw [State.writeReg_bat v (locate_keepUser n) (regFields_keepUser n) (.inl rfl) rfl
    fun _ _ => by rw [State.gate_keepUser, hfree]; rfl]
  simp only [newWord_word, State.written, locate_keepUser n, hn, hne, hkeep, if_true, if_false]

theorem State.keepWritten_ax (s : State) (n : Nat) : (s.keepWritten n).ax = s.ax :=
  State.when_keeps State.ax _ _ _ rfl

theorem endsOn_keepUser : ∀ n : Fin 8, endsOn (KEEP_USER n) = false := by decide

theorem exec_registerWrite_keepUser (at_ : TT) (n : Fin 8) (v : W32) (s : State) :
    exec (.registerWrite at_ (BitVec.ofNat 32 (KEEP_USER n)) v) s = timed at_ (fun s => s.portWrite (KEEP_USER n) v) s := by
  have haddr : (BitVec.ofNat 32 (KEEP_USER n)).toNat = KEEP_USER n := by
    rw [BitVec.toNat_ofNat]
    simp only [KEEP_USER]
    omega
  conv_rhs => rw [← haddr]
  rfl

theorem exec_keepUserWrite_of_free (at_ : TT) (n : Fin 8) (v : W32) (s : State)
    (hreach : (s.atTime at_).reachable (KEEP_USER n)) (hfree : s.bitOf BAT_USER_LOCK n = false) :
    ∃ t, exec (.registerWrite at_ (BitVec.ofNat 32 (KEEP_USER n)) v) s = .next t ∧ t.rd (KEEP_USER n) = v ∧
      t.obs.answer = [0, 0] ∧ keepsRegs s t [KEEP_USER n] ∧ keepsMemory s t := by
  obtain ⟨-, -, -, -, -, -, hrmt⟩ := id hreach
  have hfree' : (s.atTime at_).bitOf BAT_USER_LOCK n = false := by rwa [State.bitOf, State.atTime_rd]
  have hput : (s.atTime at_).Spares (Outside [KEEP_USER n]) ((s.atTime at_).wr (KEEP_USER n) v) :=
    (State.Spares.refl _).wr (not_outside_of_mem (by simp)) v
  obtain ⟨t, hexec, hanswer, -, hrd, hregs, hmem⟩ := timedWrite_ends at_ s _ v hreach (State.writeReg_keepUser n v hfree')
    ((congrArg AxSt.rmt (State.keepWritten_ax _ _)).trans hrmt)
  refine ⟨t, (exec_registerWrite_keepUser at_ n v s).trans hexec, ?_, hanswer, hregs _ (hput.keepWritten _), hmem (hput.keepWritten _).fm⟩
  rw [hrd _ (endsOn_keepUser n), State.keepWritten_rd _ _ (by simp only [KEEP_USER, BAT_KEEP_STAT]; omega),
    State.rd_wr_same]

theorem exec_keepUserWrite_of_locked (at_ : TT) (n : Fin 8) (v : W32) (s : State)
    (hreach : (s.atTime at_).reachable (KEEP_USER n)) (hlock : s.bitOf BAT_USER_LOCK n = true) :
    ∃ t, exec (.registerWrite at_ (BitVec.ofNat 32 (KEEP_USER n)) v) s = .next t ∧
      t.g (cnt16 BAT_WR_REFUSE_CNT) = min (s.g (cnt16 BAT_WR_REFUSE_CNT) + 1) 65535 ∧ t.obs.answer = [5, 0] ∧
      keepsRegs s t [BAT_WR_REFUSE_CNT] ∧ keepsMemory s t := by
  obtain ⟨-, -, -, -, -, -, hrmt⟩ := id hreach
  have hlock' : (s.atTime at_).bitOf BAT_USER_LOCK n = true := by rwa [State.bitOf, State.atTime_rd]
  have hspares : (s.atTime at_).Spares (Outside [BAT_WR_REFUSE_CNT]) ((s.atTime at_).inc (cnt16 BAT_WR_REFUSE_CNT)) :=
    (State.Spares.refl _).inc (not_outside_of_mem (by decide))
  have hwrite : (s.atTime at_).writeReg .observer (KEEP_USER n) v 0xFFFFFFFF = (.access, _) :=
    State.writeReg_gated (fun _ _ => (State.gate_keepUser _ n _ _ _ _ _).trans (if_pos hlock')) (by decide)
  obtain ⟨t, hexec, hanswer, -, hrd, hregs, hmem⟩ := timedWrite_ends at_ s _ v hreach hwrite hrmt
  refine ⟨t, (exec_registerWrite_keepUser at_ n v s).trans hexec, ?_, hanswer, hregs _ hspares, hmem hspares.fm⟩
  rw [State.g_of_rd (hrd _ (by decide)), State.g_inc_cnt16, State.atTime_g]

end Sys2Proof.Machine

/-! ### The obligations -/

/-- Settles O9: a wind-up that completes marks its resource ready, and is counted with its length. -/
theorem resourcesBecomeReady : Obligations.ResourcesBecomeReady := exec_resourceReady_of_readyNow

/-- Settles O5: the lock bit decides at the gate of the battery block. -/
theorem keepUserWrites : Obligations.KeepUserWrites := fun at_ n v s hreach =>
  ⟨exec_keepUserWrite_of_free at_ n v s hreach, exec_keepUserWrite_of_locked at_ n v s hreach⟩
end

section
/-! The battery domain: the switch of its supply, its violation counts and lock bits, and the seconds of AOCLK
(R150–R157). -/

open Sys2Proof Sys2Proof.Machine

namespace Sys2Proof.Machine

/-! ### The switch of the supply -/

theorem State.switchBattery_of_change {s : State} {toVbat : Bool} (hdev : s.dev ≠ .off) (hon : s.pwr.onVbat = !toVbat) :
    s.switchBattery toVbat =
      ({ s with pwr := { s.pwr with onVbat := toVbat } } : State).when toVbat (fun s => s.inc (cnt16 BAT_SWITCH_CNT)) := by
  rw [State.switchBattery, if_neg (by simp [hdev, hon])]

/-- Of the power states the ending of a command may change the device state, its entry and the resources alone. -/
theorem State.ended_pwr (s old : State) :
    ∃ d e r, (s.ended old).pwr = { s.pwr with state := d, enteredAt := e, res := r } := by
  obtain ⟨_, _, _, _, _, _, _, h⟩ := s.ended_eq old
  exact ⟨_, _, _, (congrArg State.pwr h :)⟩

theorem State.ended_onVbat (s old : State) : (s.ended old).pwr.onVbat = s.pwr.onVbat := by
  obtain ⟨_, _, _, h⟩ := s.ended_pwr old
  rw [h]

theorem State.ended_softErrs (s old : State) : (s.ended old).pwr.softErrs = s.pwr.softErrs := by
  obtain ⟨_, _, _, h⟩ := s.ended_pwr old
  rw [h]

theorem exec_batterySwitch_of_change (at_ : TT) (toVbat : Bool) (s : State) (hdev : (s.atTime at_).dev ≠ .off)
    (hon : (s.atTime at_).pwr.onVbat = !toVbat) :
    ∃ t, exec (.batterySwitch at_ toVbat) s = .next t ∧ t.pwr.onVbat = toVbat ∧
      t.g (cnt16 BAT_SWITCH_CNT) =
        (if toVbat then min (s.g (cnt16 BAT_SWITCH_CNT) + 1) 65535 else s.g (cnt16 BAT_SWITCH_CNT)) ∧
      keepsRegs s t [BAT_SWITCH_CNT] ∧ keepsMemory s t := by
  have hexec : exec (.batterySwitch at_ toVbat) s = .next (((s.atTime at_).switchBattery toVbat).ended s) := rfl
  rw [State.switchBattery_of_change hdev hon] at hexec
  have hswitched : (s.atTime at_).Spares (Outside [BAT_SWITCH_CNT])
      { s.atTime at_ with pwr := { (s.atTime at_).pwr with onVbat := toVbat } } := (State.Spares.refl _).of_cells rfl rfl
  have hspares := hswitched.when toVbat fun t =>
    (State.Spares.refl t).inc (f := cnt16 BAT_SWITCH_CNT) (not_outside_of_mem (by decide))
  refine ⟨_, hexec, ?_, ?_, keepsRegs_of_spares hspares, keepsMemory_of_spares hspares⟩
  · rw [State.ended_onVbat]
    cases toVbat <;> rfl
  · rw [State.ended_g _ _ (by decide), ← s.atTime_g at_]
    cases toVbat with
    | false => rfl
    | true => exact State.g_inc_cnt16 _ BAT_SWITCH_CNT

/-! ### Violation counts -/

/-- The field of BAT_VIOL_CLR (R154). -/
def violClrField : FieldDesc := ⟨15, 0, .wo, []⟩

theorem locate_violClr : locate BAT_VIOL_CLR = some (.bat, 0, 0x014) := by decide

theorem State.gate_bat_open {s : State} {a off : Nat} (hl : locate a = some (.bat, 0, off)) (hoff : off < 0x080)
    (old new v m act : W32) : s.gate .observer a old new v m act = (.ok, s) := by
  have hid : ¬ (off = 0x080 ∨ off = 0x084) := by omega
  have huser : ¬ 0x0E0 ≤ off := by omega
  simp only [State.gate, hl, hid, huser, false_and, if_false, reduceCtorEq]

/-- The violation counts of a list of monitors are cleared, each a KEEP word that is written (R154). -/
def State.violsCleared (s : State) (l : List Nat) : State :=
  s.each l (fun s i => (s.wr (KEEP_VIOL i) 0).keepWritten (8 + i))

/-- The monitors that a write of BAT_VIOL_CLR names. -/
def clearedBy (v : W32) : List Nat := (bitList (actWord [violClrField] v 0xFFFFFFFF)).filter (fun i => decide (i < 16))

theorem actWord_violClr (v : W32) : actWord [violClrField] v 0xFFFFFFFF = v &&& 0xFFFF := by
  have hmask : violClrField.mask &&& 0xFFFFFFFF = 0xFFFF := by decide
  have hact : actWord [violClrField] v 0xFFFFFFFF = 0 ||| (v &&& violClrField.mask &&& 0xFFFFFFFF) := rfl
  rw [hact, BitVec.and_assoc, hmask]
  exact BitVec.zero_or

theorem mem_clearedBy {v : W32} {i : Nat} (hi : i < 16) : i ∈ clearedBy v ↔ v.getLsbD i = true := by
  have hlow : ∀ i < 16, (0xFFFF : W32).getLsbD i = true := by decide
  have hi' : i < 32 := by omega
  simp only [clearedBy, bitList, actWord_violClr, List.mem_filter, List.mem_range, BitVec.getLsbD_and, hlow i hi, hi, hi',
    Bool.and_true, true_and, and_true, decide_true]

theorem State.writeReg_violClr (s : State) (v : W32) : s.writeReg .observer BAT_VIOL_CLR v 0xFFFFFFFF =
    (.ok, (s.wr BAT_VIOL_CLR (s.rd BAT_VIOL_CLR)).violsCleared (clearedBy v)) := by
  rw [State.writeReg_bat (f := violClrField) v locate_violClr (by decide) (.inr rfl) rfl
    fun _ _ => State.gate_bat_open locate_violClr (by decide) _ _ _ _ _]
  simp only [State.written, locate_violClr, if_true]
  rfl

/-- A word written as it stands. -/
theorem State.wr_rd_spares {P : Nat → Prop} (s : State) (a : Nat) : s.Spares P (s.wr a (s.rd a)) := by
  refine ⟨fun b _ => ?_, rfl⟩
  by_cases h : a = b
  · rw [h, State.rd_wr_same]
  · exact State.rd_wr_ne s h _

theorem State.violsCleared_rd (l : List Nat) (s : State) (i : Nat) :
    (s.violsCleared l).rd (KEEP_VIOL i) = if i ∈ l then 0 else s.rd (KEEP_VIOL i) := by
  induction l generalizing s with
  | nil => rfl
  | cons j l ih =>
    have hput : ((s.wr (KEEP_VIOL j) 0).keepWritten (8 + j)).rd (KEEP_VIOL i) =
        if i = j then 0 else s.rd (KEEP_VIOL i) := by
      rw [State.keepWritten_rd _ _ (by simp only [KEEP_VIOL, BAT_KEEP_STAT]; omega)]
      split
      next h => rw [h, State.rd_wr_same]
      next h => exact State.rd_wr_ne s (by simp only [KEEP_VIOL]; omega) _
    refine (ih _).trans ?_
    rw [hput]
    by_cases hij : i = j <;> simp [hij]

theorem State.violsCleared_spares {l : List Nat} (hl : ∀ i ∈ l, i < 16) (s : State) :
    s.Spares (Outside ((List.range 16).map KEEP_VIOL)) (s.violsCleared l) :=
  (State.Spares.refl s).each_mem fun i hi s =>
    ((State.Spares.refl s).wr (not_outside_of_mem (List.mem_map_of_mem (List.mem_range.mpr (hl i hi)))) 0).keepWritten _

theorem State.violsCleared_ax (l : List Nat) (s : State) : (s.violsCleared l).ax = s.ax :=
  State.each_keeps State.ax _ l (fun s i _ => State.keepWritten_ax (s.wr (KEEP_VIOL i) 0) _) s

theorem exec_batViolClrWrite (at_ : TT) (v : W32) (s : State) (hreach : (s.atTime at_).reachable BAT_VIOL_CLR) :
    ∃ t, exec (.batViolClrWrite at_ v) s = .next t ∧ t.obs.answer = [0, 0] ∧
      (∀ i < 16, t.rd (KEEP_VIOL i) = if v.getLsbD i then 0 else s.rd (KEEP_VIOL i)) ∧
      keepsRegs s t ((List.range 16).map KEEP_VIOL) ∧ keepsMemory s t := by
  obtain ⟨-, -, -, -, -, -, hrmt⟩ := id hreach
  have hends : ∀ i < 16, endsOn (KEEP_VIOL i) = false := by decide
  have hlist : ∀ i ∈ clearedBy v, i < 16 := fun i hi => of_decide_eq_true (List.mem_filter.mp hi).2
  have hspares := ((s.atTime at_).wr_rd_spares BAT_VIOL_CLR).trans (State.violsCleared_spares hlist _)
  obtain ⟨t, hexec, hanswer, -, hrd, hregs, hmem⟩ := timedWrite_ends at_ s _ v hreach (State.writeReg_violClr _ v)
    ((congrArg AxSt.rmt (State.violsCleared_ax _ _)).trans hrmt)
  refine ⟨t, hexec, hanswer, fun i hi => ?_, hregs _ hspares, hmem hspares.fm⟩
  rw [hrd _ (hends i hi), State.violsCleared_rd, State.rd_wr_ne _ (by simp only [KEEP_VIOL, BAT_VIOL_CLR]; omega),
    State.atTime_rd]
  exact if_congr (mem_clearedBy hi) rfl rfl

/-! ### Lock bits -/

theorem locate_userLock : locate BAT_USER_LOCK = some (.bat, 0, 0x01C) := by decide

theorem State.writeReg_userLock (s : State) (v : W32) : ∃ w, s.writeReg .observer BAT_USER_LOCK v 0xFFFFFFFF =
    (.ok, (s.wr BAT_USER_LOCK w).wr BAT_USER_LOCK (s.rd BAT_USER_LOCK ||| (v &&& 0xFF))) := by
  refine ⟨newWord false [⟨7, 0, .rw, []⟩] (s.rd BAT_USER_LOCK) v 0xFFFFFFFF, ?_⟩
  rw [State.writeReg_bat (f := ⟨7, 0, .rw, []⟩) v locate_userLock (by decide) (.inl rfl) rfl
    fun _ _ => State.gate_bat_open locate_userLock (by decide) _ _ _ _ _]
  simp only [State.written, locate_userLock]
  rfl

theorem exec_batUserLockWrite (at_ : TT) (v : W32) (s : State) (hreach : (s.atTime at_).reachable BAT_USER_LOCK) :
    ∃ t, exec (.batUserLockWrite at_ v) s = .next t ∧ t.obs.answer = [0, 0] ∧
      t.rd BAT_USER_LOCK = s.rd BAT_USER_LOCK ||| (v &&& 0xFF) ∧ keepsRegs s t [BAT_USER_LOCK] ∧ keepsMemory s t := by
  obtain ⟨-, -, -, -, -, -, hrmt⟩ := id hreach
  obtain ⟨w, hwrite⟩ := (s.atTime at_).writeReg_userLock v
  obtain ⟨t, hexec, hanswer, -, hrd, hregs, hmem⟩ := timedWrite_ends at_ s _ v hreach hwrite hrmt
  have hspares := ((State.Spares.refl (s.atTime at_)).wr (P := Outside [BAT_USER_LOCK]) (a := BAT_USER_LOCK)
    (not_outside_of_mem (by decide)) w).wr (a := BAT_USER_LOCK) (not_outside_of_mem (by decide))
    ((s.atTime at_).rd BAT_USER_LOCK ||| (v &&& 0xFF))
  refine ⟨t, hexec, hanswer, ?_, hregs _ hspares, hmem hspares.fm⟩
  rw [hrd _ (by decide), State.rd_wr_same, State.atTime_rd]

/-! ### The scrub of the KEEP words -/

theorem lookup_eq_none {α : Type} {l : Tab α} {n : Nat} : l.lookup n = none ↔ ∀ x ∈ l, x.1 ≠ n := by
  rw [List.lookup_eq_none_iff]
  exact forall₂_congr fun x _ => by rw [bne_iff_ne, ne_comm]

/-- A KEEP word is free of errors. -/
def State.wordCleared (s : State) (n : Nat) : State :=
  { s with pwr := { s.pwr with softErrs := s.pwr.softErrs.filter (fun x => x.1 != n) } }

/-- A check meets no error, one that it cannot correct, or one that it corrects (R152). -/
theorem State.checkKeep_cases (s : State) (n : Nat) :
    (s.pwr.softErrs.lookup n = none ∧ s.checkKeep n = s) ∨
    (s.pwr.softErrs.lookup n = some true ∧ s.checkKeep n =
      ((s.wordCleared n).wr (keepWordAt n) (resetOf (keepWordAt n))).pb BAT_STAT_keep_err true) ∨
    (s.pwr.softErrs.lookup n = some false ∧ s.checkKeep n = (s.wordCleared n).inc (cnt16 BAT_SCRUB_CNT)) := by
  unfold State.checkKeep
  split
  next h => exact .inl ⟨h, rfl⟩
  next bad h =>
    cases bad with
    | true => exact .inr (.inl ⟨h, rfl⟩)
    | false => exact .inr (.inr ⟨h, rfl⟩)

/-- A check takes the errors of its word out of what stands in the KEEP words (R152). -/
theorem State.checkKeep_softErrs (s : State) (n : Nat) :
    (s.checkKeep n).pwr.softErrs = s.pwr.softErrs.filter (fun x => x.1 != n) := by
  obtain ⟨hnone, h⟩ | ⟨-, h⟩ | ⟨-, h⟩ := s.checkKeep_cases n
  · rw [h]
    exact (List.filter_eq_self.mpr fun x hx => bne_iff_ne.mpr (lookup_eq_none.mp hnone x hx)).symm
  · rw [h]
    rfl
  · rw [h]
    rfl

/-- A scrub leaves no error in the KEEP words (R152). -/
theorem State.scrubKeep_softErrs (s : State) : s.scrubKeep.pwr.softErrs = [] := by
  have heach (l : List Nat) (t : State) :
      (t.each l (fun s n => s.checkKeep n)).pwr.softErrs = t.pwr.softErrs.filter (fun x => !l.contains x.1) := by
    induction l generalizing t with
    | nil => simp [State.each]
    | cons n l ih =>
      refine (ih (t.checkKeep n)).trans ?_
      rw [State.checkKeep_softErrs, List.filter_filter]
      refine List.filter_congr fun x _ => ?_
      rw [List.contains_cons, Bool.not_or, Bool.and_comm, bne]
  rw [State.scrubKeep, heach, List.filter_eq_nil_iff]
  intro x hx
  simp only [Bool.not_eq_true', Bool.not_eq_false, List.contains_iff_mem]
  exact List.mem_map_of_mem hx

/-- A KEEP word in which an uncorrectable error stood has taken its reset value, and that is shown (R152). -/
structure State.Scrubbed (s : State) (n : Nat) : Prop where
  word : s.rd (keepWordAt n) = resetOf (keepWordAt n)
  keepErr : s.bit BAT_STAT_keep_err = true
  clean : s.pwr.softErrs.lookup n = none

theorem keepWordAt_inj {m n : Nat} (h : keepWordAt m = keepWordAt n) : m = n := by
  simp only [keepWordAt, KEEP_MEMBER, LP_KEEP_EQ] at h
  split at h <;> split at h <;> omega

/-- The KEEP words are none of the registers that show what a check found. -/
theorem keepWordAt_ne (n : Nat) : keepWordAt n ≠ BAT_STAT ∧ keepWordAt n ≠ BAT_SCRUB_CNT := by
  simp only [keepWordAt, KEEP_MEMBER, LP_KEEP_EQ, BAT_STAT, BAT_SCRUB_CNT]
  split <;> omega

theorem lookup_filter_same {α : Type} (l : Tab α) (n : Nat) : (l.filter (fun x => x.1 != n)).lookup n = none :=
  lookup_eq_none.mpr fun _ hx => bne_iff_ne.mp (List.mem_filter.mp hx).2

theorem State.checkKeep_scrubbed {s : State} {n : Nat} (h : s.pwr.softErrs.lookup n = some true) :
    (s.checkKeep n).Scrubbed n := by
  refine ⟨?_, s.checkKeep_keepErr h, ?_⟩
  · obtain ⟨hc, -⟩ | ⟨-, he⟩ | ⟨hc, -⟩ := s.checkKeep_cases n
    · cases h.symm.trans hc
    · rw [he, State.pb, State.rd_p_ne _ (Ne.symm (keepWordAt_ne n).1), State.rd_wr_same]
    · cases h.symm.trans hc
  · rw [State.checkKeep_softErrs]
    exact lookup_filter_same _ n

/-- The check of another word leaves a scrubbed one. -/
theorem State.Scrubbed.checkKeep {s : State} {n : Nat} (h : s.Scrubbed n) (m : Nat) : (s.checkKeep m).Scrubbed n := by
  obtain ⟨hword, herr, hclean⟩ := h
  obtain ⟨-, h⟩ | ⟨hm, h⟩ | ⟨hm, h⟩ := s.checkKeep_cases m
  · rw [h]
    exact ⟨hword, herr, hclean⟩
  · have hmn : m ≠ n := by
      rintro rfl
      cases hclean.symm.trans hm
    refine ⟨?_, ?_, ?_⟩
    · rw [h, State.pb, State.rd_p_ne _ (Ne.symm (keepWordAt_ne n).1),
        State.rd_wr_ne _ fun he => hmn (keepWordAt_inj he)]
      exact hword
    · rw [h]
      exact State.bit_pb_same _ BAT_STAT_keep_err true (by decide) (by decide)
    · rw [State.checkKeep_softErrs, Tab.lookup_filter_ne _ (Ne.symm hmn)]
      exact hclean
  · have hmn : m ≠ n := by
      rintro rfl
      cases hclean.symm.trans hm
    refine ⟨?_, ?_, ?_⟩
    · rw [h, State.rd_inc_ne _ (Ne.symm (keepWordAt_ne n).2)]
      exact hword
    · rw [h, State.bit, State.g_of_rd (State.rd_inc_ne _ (by decide))]
      exact herr
    · rw [State.checkKeep_softErrs, Tab.lookup_filter_ne _ (Ne.symm hmn)]
      exact hclean

/-- A scrub of the KEEP words takes every word with an uncorrectable error to its reset value (R152). -/
theorem State.scrubKeep_scrubbed {s : State} {n : Nat} (h : s.pwr.softErrs.lookup n = some true) :
    s.scrubKeep.Scrubbed n := by
  have hkept (l : List Nat) (t : State) (ht : t.Scrubbed n) : (t.each l (fun s n => s.checkKeep n)).Scrubbed n := by
    induction l generalizing t with
    | nil => exact ht
    | cons m l ih => exact ih _ (ht.checkKeep m)
  have heach (l : List Nat) (t : State) (ht : t.pwr.softErrs.lookup n = some true) (hl : n ∈ l) :
      (t.each l (fun s n => s.checkKeep n)).Scrubbed n := by
    induction l generalizing t with
    | nil => exact absurd hl List.not_mem_nil
    | cons m l ih =>
      by_cases hmn : m = n
      · subst hmn
        exact hkept l _ (State.checkKeep_scrubbed ht)
      · refine ih (t.checkKeep m) ?_ ((List.mem_cons.mp hl).resolve_left (Ne.symm hmn))
        rw [State.checkKeep_softErrs, Tab.lookup_filter_ne _ (Ne.symm hmn)]
        exact ht
  refine heach _ s h ?_
  obtain ⟨x, hx, hxn⟩ : ∃ x ∈ s.pwr.softErrs, x.1 = n := by
    by_contra hno
    push Not at hno
    exact Option.some_ne_none _ (h.symm.trans (lookup_eq_none.mpr hno))
  exact List.mem_map.mpr ⟨x, hx, hxn⟩

theorem State.scrubKeep_of_clean {s : State} (h : s.pwr.softErrs = []) : s.scrubKeep = s := by
  rw [State.scrubKeep, h]
  rfl

theorem State.checkKeep_frame (s : State) (n : Nat) :
    ∃ c e, s.checkKeep n = { s with cells := c, pwr := { s.pwr with softErrs := e } } := by
  obtain ⟨-, h⟩ | ⟨-, h⟩ | ⟨-, h⟩ := s.checkKeep_cases n
  all_goals exact ⟨_, _, h⟩

theorem State.scrubKeep_frame (s : State) :
    ∃ c e, s.scrubKeep = { s with cells := c, pwr := { s.pwr with softErrs := e } } := by
  refine State.each_rel (fun s t => ∃ c e, t = { s with cells := c, pwr := { s.pwr with softErrs := e } }) _ _
    (fun s => ⟨_, _, rfl⟩) ?_ State.checkKeep_frame s
  rintro s t u ⟨c, e, rfl⟩ ⟨c', e', rfl⟩
  exact ⟨c', e', rfl⟩

/-! ### A second of AOCLK -/

/-- The second is counted while that is enabled (R157). -/
def State.secondCounted (s : State) : State :=
  if !s.bit BAT_CTL_sec_en then s else
    ((s.wr64 KEEP_AO_SEC_LO (BitVec.ofNat 64 (((s.rd64 KEEP_AO_SEC_LO).toNat + 1) % 2 ^ 48))).keepWritten 4).keepWritten 5

/-- A sample between two bounds, written to its register. -/
def State.sampledIn (s : State) (a lo hi : Nat) : State :=
  (s.drawIn lo hi).2.wr a (BitVec.ofNat 32 (s.drawIn lo hi).1)

/-- A deviation, written to its register. -/
def State.measured (s : State) (a : Nat) : State := s.draw.2.wr a (s.draw.1.truncate 32)

/-- The clocks' deviations are measured where the main supply stands (R157). -/
def State.clocksMeasured (s : State) : State :=
  if !s.dev.powered then s else (s.measured VM_AOCLK_PPM).measured VM_REFCLK_PPM

/-- The slow monitors of the battery domain sample: AOCLK, the two supplies, and the clocks (R157). -/
def State.secondSampled (s : State) : State :=
  let s := s.when (s.log.episodes.lookup 13).isNone (fun s => s.pb BAT_STAT_aoclk_ok true)
  let s := s.sampledIn BAT_VBAT_MV (if (s.log.episodes.lookup 14).isSome then 0 else 2000) 4095
  (s.sampledIn BAT_VDDAO_MV 0 4095).clocksMeasured

theorem State.aoSecond_eq {s : State} (h : s.dev ≠ .off) : s.aoSecond = s.scrubKeep.secondCounted.secondSampled := by
  unfold State.aoSecond State.secondCounted State.secondSampled State.clocksMeasured State.sampledIn State.measured
  rw [if_neg h]

theorem State.secondCounted_of_off {s : State} (h : s.bit BAT_CTL_sec_en = false) : s.secondCounted = s := by
  rw [State.secondCounted, h]
  rfl

theorem State.secondCounted_of_on {s : State} (h : s.bit BAT_CTL_sec_en = true) : s.secondCounted =
    ((s.wr64 KEEP_AO_SEC_LO (BitVec.ofNat 64 (((s.rd64 KEEP_AO_SEC_LO).toNat + 1) % 2 ^ 48))).keepWritten 4).keepWritten 5 := by
  rw [State.secondCounted, h]
  rfl

/-- A pair of registers reads as it was written (R12). -/
theorem State.rd64_wr64 (s : State) (lo : Nat) (v : BitVec 64) : (s.wr64 lo v).rd64 lo = v := by
  have hlo : ((s.wr lo (v.truncate 32)).wr (lo + 4) ((v >>> 32).truncate 32)).rd lo = v.truncate 32 := by
    rw [State.rd_wr_ne _ (by omega), State.rd_wr_same]
  rw [State.wr64, State.rd64, hlo, State.rd_wr_same]
  apply BitVec.eq_of_getLsbD_eq
  intro i hi
  simp only [BitVec.getLsbD_append, BitVec.truncate_eq_setWidth, BitVec.getLsbD_setWidth, BitVec.getLsbD_ushiftRight]
  split
  next h => simp [h]
  next h =>
    have hadd : 32 + (i - 32) = i := by omega
    have hhigh : i - 32 < 32 := by omega
    simp [hadd, hhigh]

theorem State.keepWritten_softErrs (s : State) (n : Nat) :
    (s.keepWritten n).pwr.softErrs = s.pwr.softErrs.filter (fun x => x.1 != n) := by
  unfold State.keepWritten State.when
  split <;> rfl

theorem State.secondCounted_softErrs {s : State} (h : s.pwr.softErrs = []) : s.secondCounted.pwr.softErrs = [] := by
  rw [State.secondCounted]
  split
  · exact h
  · rw [State.keepWritten_softErrs, State.keepWritten_softErrs]
    show ((s.pwr.softErrs.filter _).filter _) = []
    rw [h]
    rfl

/-- The registers of the slow monitors. -/
def secondRegs : List Nat := [BAT_STAT, BAT_VBAT_MV, BAT_VDDAO_MV, VM_AOCLK_PPM, VM_REFCLK_PPM]

/-- What a second of AOCLK measures: registers of the slow monitors alone, and of BAT_STAT no sticky error. -/
structure State.Measures (s t : State) : Prop where
  spares : s.Spares (fun a => a ∉ secondRegs) t
  pwr : t.pwr = s.pwr
  keepErr : t.bit BAT_STAT_keep_err = s.bit BAT_STAT_keep_err

namespace State.Measures

variable {s t : State}

theorem refl (s : State) : s.Measures s := ⟨.refl s, rfl, rfl⟩

theorem trans {u : State} (h : s.Measures t) (h' : t.Measures u) : s.Measures u :=
  ⟨h.spares.trans h'.spares, h'.pwr.trans h.pwr, h'.keepErr.trans h.keepErr⟩

theorem wr (h : s.Measures t) {a : Nat} (ha : a ∈ secondRegs) (hb : a ≠ BAT_STAT) (v : W32) : s.Measures (t.wr a v) := by
  refine ⟨h.spares.wr (fun hn => hn ha) v, h.pwr, ?_⟩
  rw [State.bit, State.g_of_rd (State.rd_wr_ne _ hb _)]
  exact h.keepErr

theorem aoclk (s : State) : s.Measures (s.pb BAT_STAT_aoclk_ok true) := by
  refine ⟨(Spares.refl s).pb (fun hn => hn (by decide)) true, rfl, ?_⟩
  rw [State.bit, State.pb, State.g_p_ne _ _ _ _ (by decide) (by decide) (by decide)]
  rfl

theorem sampledIn (h : s.Measures t) {a : Nat} (ha : a ∈ secondRegs) (hb : a ≠ BAT_STAT) (lo hi : Nat) :
    s.Measures (t.sampledIn a lo hi) :=
  h.trans (wr (t := (t.drawIn lo hi).2) ⟨(Spares.refl t).of_cells rfl rfl, rfl, rfl⟩ ha hb _)

theorem measured (h : s.Measures t) {a : Nat} (ha : a ∈ secondRegs) (hb : a ≠ BAT_STAT) : s.Measures (t.measured a) :=
  h.trans (wr (t := t.draw.2) ⟨(Spares.refl t).of_cells rfl rfl, rfl, rfl⟩ ha hb _)

end State.Measures

theorem State.clocksMeasured_measures (s : State) : s.Measures s.clocksMeasured := by
  unfold State.clocksMeasured
  split
  · exact .refl s
  · exact ((Measures.refl s).measured (by decide) (by decide)).measured (by decide) (by decide)

theorem State.secondSampled_measures (s : State) : s.Measures s.secondSampled := by
  have hok : s.Measures (s.when (s.log.episodes.lookup 13).isNone fun s => s.pb BAT_STAT_aoclk_ok true) := by
    unfold State.when
    split
    · exact .aoclk s
    · exact .refl s
  unfold State.secondSampled
  exact ((hok.sampledIn (by decide) (by decide) _ _).sampledIn (by decide) (by decide) 0 4095).trans
    (State.clocksMeasured_measures _)

/-- The seconds' count lies in two KEEP words, and the mark of a KEEP write in a third register (R152). -/
theorem State.secondCounted_spares (s : State) :
    s.Spares (fun a => a ∉ [KEEP_AO_SEC_LO, KEEP_AO_SEC_HI, BAT_KEEP_STAT]) s.secondCounted := by
  rw [State.secondCounted]
  split
  · exact .refl s
  · have hput (v : BitVec 64) : s.Spares (fun a => a ∉ [KEEP_AO_SEC_LO, KEEP_AO_SEC_HI, BAT_KEEP_STAT]) (s.wr64 KEEP_AO_SEC_LO v) :=
      ((Spares.refl s).wr (fun hn => hn (by decide)) _).wr (fun hn => hn (by decide)) _
    refine ⟨fun a ha => ?_, ?_⟩
    · have hmark : a ≠ BAT_KEEP_STAT := by
        rintro rfl
        exact ha (by decide)
      rw [State.keepWritten_rd _ _ hmark, State.keepWritten_rd _ _ hmark]
      exact (hput _).rd a ha
    · have hfm (t : State) (n : Nat) : (t.keepWritten n).fm = t.fm := State.when_keeps State.fm _ _ _ rfl
      rw [hfm, hfm]
      exact (hput _).fm

/-- The count of seconds after a second (R157). -/
theorem State.secondCounted_count (s : State) : (s.secondCounted.rd64 KEEP_AO_SEC_LO) =
    if s.bit BAT_CTL_sec_en then BitVec.ofNat 64 (((s.rd64 KEEP_AO_SEC_LO).toNat + 1) % 2 ^ 48)
    else s.rd64 KEEP_AO_SEC_LO := by
  have hlo (t : State) (n : Nat) : (t.keepWritten n).rd64 KEEP_AO_SEC_LO = t.rd64 KEEP_AO_SEC_LO := by
    rw [State.rd64, State.rd64, State.keepWritten_rd _ _ (by decide), State.keepWritten_rd _ _ (by decide)]
  cases h : s.bit BAT_CTL_sec_en with
  | false => rw [State.secondCounted_of_off h]; rfl
  | true =>
    rw [State.secondCounted_of_on h, hlo, hlo, State.rd64_wr64]
    rfl

theorem State.rd64_congr {s t : State} {a : Nat} (h : t.rd a = s.rd a) (h' : t.rd (a + 4) = s.rd (a + 4)) :
    t.rd64 a = s.rd64 a := by
  rw [State.rd64, State.rd64, h, h']

/-- The scrub corrects what it met before the second is counted and the monitors sample (R152, R157). -/
theorem State.aoSecond_scrubbed {s : State} (hdev : s.dev ≠ .off) {n : Nat} (hn : n < 32) (hlo : n ≠ 4) (hhi : n ≠ 5)
    (h : s.pwr.softErrs.lookup n = some true) :
    s.aoSecond.rd (keepWordAt n) = resetOf (keepWordAt n) ∧ s.aoSecond.bit BAT_STAT_keep_err = true := by
  have hwords : ∀ n < 32, n = 4 ∨ n = 5 ∨
      keepWordAt n ∉ [KEEP_AO_SEC_LO, KEEP_AO_SEC_HI, BAT_KEEP_STAT] ∧ keepWordAt n ∉ secondRegs := by decide
  obtain ⟨hcount, hsample⟩ := ((hwords n hn).resolve_left hlo).resolve_left hhi
  have hscrubbed := State.scrubKeep_scrubbed h
  have hmeasures := s.scrubKeep.secondCounted.secondSampled_measures
  have hspares := s.scrubKeep.secondCounted_spares
  rw [State.aoSecond_eq hdev]
  refine ⟨?_, ?_⟩
  · rw [hmeasures.spares.rd _ hsample, hspares.rd _ hcount]
    exact hscrubbed.word
  · rw [hmeasures.keepErr, State.bit, State.g_of_rd (hspares.rd _ (by decide))]
    exact hscrubbed.keepErr

theorem State.aoSecond_fm {s : State} (hdev : s.dev ≠ .off) : s.aoSecond.fm = s.fm := by
  obtain ⟨_, _, hscrub⟩ := s.scrubKeep_frame
  rw [State.aoSecond_eq hdev, (State.secondSampled_measures _).spares.fm, (State.secondCounted_spares _).fm, hscrub]

/-- The seconds of a battery domain without errors (R157). -/
theorem State.aoSecond_of_clean {s : State} (hdev : s.dev ≠ .off) (hclean : s.pwr.softErrs = []) :
    s.aoSecond.rd64 KEEP_AO_SEC_LO = s.secondCounted.rd64 KEEP_AO_SEC_LO ∧
      s.Spares (Outside ([KEEP_AO_SEC_LO, KEEP_AO_SEC_HI] ++ secondRegs)) s.aoSecond := by
  have hmeasures := s.secondCounted.secondSampled_measures
  have hends : endsOn BAT_KEEP_STAT = true := by decide
  rw [State.aoSecond_eq hdev, State.scrubKeep_of_clean hclean]
  refine ⟨State.rd64_congr (hmeasures.spares.rd _ (by decide)) (hmeasures.spares.rd _ (by decide)), ?_⟩
  refine (s.secondCounted_spares.mono fun a ha hm => ?_).trans
    (hmeasures.spares.mono fun a ha hm => ha.2 (List.mem_append_right _ hm))
  rw [List.mem_cons, List.mem_cons, List.mem_singleton] at hm
  obtain rfl | rfl | rfl := hm
  · exact ha.2 (by decide)
  · exact ha.2 (by decide)
  · exact Bool.noConfusion (ha.1.symm.trans hends)

theorem exec_aoclkSecond_of_on (at_ : TT) (s : State) (hdev : (s.atTime at_).dev ≠ .off) :
    ∃ t, exec (.aoclkSecond at_) s = .next t ∧ t.pwr.softErrs = [] ∧
      (∀ n < 32, n ≠ 4 → n ≠ 5 → (s.atTime at_).pwr.softErrs.lookup n = some true →
        t.rd (keepWordAt n) = resetOf (keepWordAt n) ∧ t.bit BAT_STAT_keep_err = true) ∧
      ((s.atTime at_).pwr.softErrs = [] →
        ((s.atTime at_).bit BAT_CTL_sec_en = true →
          (t.rd64 KEEP_AO_SEC_LO).toNat = ((s.rd64 KEEP_AO_SEC_LO).toNat + 1) % 2 ^ 48) ∧
        ((s.atTime at_).bit BAT_CTL_sec_en = false → t.rd64 KEEP_AO_SEC_LO = s.rd64 KEEP_AO_SEC_LO) ∧
        keepsRegs s t ([KEEP_AO_SEC_LO, KEEP_AO_SEC_HI] ++ secondRegs)) ∧
      keepsMemory s t := by
  have hexec : exec (.aoclkSecond at_) s = .next ((s.atTime at_).aoSecond.ended s) := rfl
  have hends : ∀ n < 32, endsOn (keepWordAt n) = false := by decide
  refine ⟨_, hexec, ?_, fun n hn hlo hhi herr => ?_, fun hclean => ?_,
    keepsMemory_ended ((State.aoSecond_fm hdev).trans (s.atTime_fm at_))⟩
  · rw [State.ended_softErrs, State.aoSecond_eq hdev, (State.secondSampled_measures _).pwr]
    exact State.secondCounted_softErrs (State.scrubKeep_softErrs _)
  · obtain ⟨hword, hbit⟩ := State.aoSecond_scrubbed hdev hn hlo hhi herr
    rw [State.ended_rd _ _ (hends n hn), State.bit, State.ended_g _ _ (by decide)]
    exact ⟨hword, hbit⟩
  · obtain ⟨hcount, hspares⟩ := State.aoSecond_of_clean hdev hclean
    have hended := State.rd64_congr (a := KEEP_AO_SEC_LO)
      ((s.atTime at_).aoSecond.ended_rd s (by decide)) ((s.atTime at_).aoSecond.ended_rd s (by decide))
    have hnow : (s.atTime at_).rd64 KEEP_AO_SEC_LO = s.rd64 KEEP_AO_SEC_LO :=
      State.rd64_congr (s.atTime_rd at_ _) (s.atTime_rd at_ _)
    rw [hended, hcount, State.secondCounted_count, hnow]
    refine ⟨fun h => ?_, fun h => ?_, keepsRegs_of_spares hspares⟩
    · rw [h, if_pos rfl, BitVec.toNat_ofNat]
      omega
    · rw [h]
      rfl

end Sys2Proof.Machine

/-! ### The obligation -/

/-- Settles O33: the switch of the supply, the two registers with writes of their own, and a second of AOCLK. -/
theorem batteryDomainWorks : Obligations.BatteryDomainWorks :=
  ⟨exec_batterySwitch_of_change, exec_batViolClrWrite, exec_batUserLockWrite, exec_aoclkSecond_of_on⟩
end

section
/-! Requests of a device state, and the entry to DRAIN (R134, R146). -/

open Sys2Proof Sys2Proof.Machine

namespace Sys2Proof.Machine

/-! ### The request port -/

/-- A write from the port that its register answers itself (R134, R176, R178). -/
theorem State.writeReg_action {s : State} {a : Nat} {v : W32} {r : Why × State}
    (hgate : ∀ new act, s.gate .observer a (s.rd a) new v 0xFFFFFFFF act = (.ok, s))
    (haccess : accessRefuses .observer (regFields a) (s.rd a) v 0xFFFFFFFF = false)
    (haction : s.actionWrite a v (actWord (regFields a) v 0xFFFFFFFF) = some r) :
    s.writeReg .observer a v 0xFFFFFFFF = r := by
  have himage : (Writer.observer == Writer.image) = false := rfl
  have hv : v &&& 0xFFFFFFFF = v := BitVec.and_allOnes
  simp only [State.writeReg, State.ownWhy, himage, hgate, haccess, hv, haction]
  rfl

/-- The block of the system registers judges no write before its access codes. -/
theorem State.gate_sys_open {a i off : Nat} (hl : locate a = some (.sys, i, off)) (s : State) (old new v m act : W32) :
    s.gate .observer a old new v m act = (.ok, s) := by
  simp only [State.gate, hl, if_false, reduceCtorEq]

theorem locate_stateReq : locate SYS_STATE_REQ = some (.sys, 0, 0x00C) := by decide

theorem regFields_stateReq : regFields SYS_STATE_REQ = [⟨2, 0, .wo, [(1, 5)]⟩] := by decide

/-- How a request is answered (R134). -/
def State.requestWhy (s : State) (code : Nat) : Why :=
  if (s.request code).1 then .ok else if code = 4 ∧ s.sealed then .sealed else .access

theorem State.writeReg_stateReq (s : State) {code : Nat} (hpos : 0 < code) (hcode : code < 6) :
    s.writeReg .observer SYS_STATE_REQ (BitVec.ofNat 32 code) 0xFFFFFFFF = (s.requestWhy code, (s.request code).2) := by
  have hact : ∀ code < 6, (actWord [⟨2, 0, .wo, [(1, 5)]⟩] (BitVec.ofNat 32 code) 0xFFFFFFFF).toNat % 8 = code := by decide
  have hlisted : ¬ (code = 0 ∨ 5 < code) := by omega
  refine State.writeReg_action (fun _ _ => State.gate_sys_open locate_stateReq s _ _ _ _ _) ?_ ?_
  · rw [regFields_stateReq]
    exact accessRefuses_single (.inr rfl) _ _ _
  · simp only [State.actionWrite, locate_stateReq, regFields_stateReq, hact code hcode, hlisted, if_false]
    rfl

/-- The requests are writes of SYS_STATE_REQ (R134). -/
theorem exec_requestCommand {at_ : TT} {code : Nat} {cmd : Instr} (h : requestCommand at_ code = some cmd) (s : State) :
    0 < code ∧ code < 6 ∧
      exec cmd s = timed at_ (fun s => s.portWrite SYS_STATE_REQ (BitVec.ofNat 32 code)) s := by
  unfold requestCommand at h
  split at h
  case h_6 => cases h
  all_goals
    cases h
    exact ⟨by decide, by decide, rfl⟩

/-- What SYS_REQ_STAT shows of a request (R134). -/
def State.requestNoted (s : State) (code : Nat) : State :=
  (s.p SYS_REQ_STAT_req code).p SYS_REQ_STAT_outcome (if s.mayRequest code then 1 else 2)

theorem State.requestNoted_req (s : State) {code : Nat} (hcode : code < 6) :
    (s.requestNoted code).g SYS_REQ_STAT_req = code := by
  have hfits : ∀ code < 6, code % 2 ^ (SYS_REQ_STAT_req.hi + 1 - SYS_REQ_STAT_req.lo) = code := by decide
  rw [State.requestNoted, State.g_p_ne _ _ _ _ (by decide) (by decide) (by decide), State.g_p_same _ _ _ (by decide) (by decide)]
  exact hfits code hcode

theorem State.requestNoted_outcome (s : State) (code : Nat) :
    (s.requestNoted code).g SYS_REQ_STAT_outcome = if s.mayRequest code then 1 else 2 := by
  rw [State.requestNoted, State.g_p_same _ _ _ (by decide) (by decide)]
  split <;> rfl

theorem State.requestNoted_spares {l : List Nat} (h : SYS_REQ_STAT ∈ l) (s : State) (code : Nat) :
    s.Spares (Outside l) (s.requestNoted code) :=
  ((Spares.refl s).p (f := SYS_REQ_STAT_req) (not_outside_of_mem h) _).p (f := SYS_REQ_STAT_outcome) (not_outside_of_mem h) _

/-- A request is refused as the device state gives it, a RESET request never in a state in which the port answers. -/
theorem State.mayRequest_eq {s : State} {code : Nat} (hpos : 0 < code) (hcode : code < 6) (hpowered : s.dev.powered = true) :
    s.mayRequest code = requestServed s.dev s.sealed code := by
  obtain rfl | rfl | rfl | rfl | rfl : code = 1 ∨ code = 2 ∨ code = 3 ∨ code = 4 ∨ code = 5 := by omega
  case inr.inr.inr.inr => exact hpowered
  all_goals rfl

/-! ### Refusal -/

/-- A request leaves the seal of the image as it stands. -/
theorem State.requestNoted_sealed (s : State) (code : Nat) : (s.requestNoted code).sealed = s.sealed := by
  rw [State.sealed, State.bit, State.g_of_rd ((State.requestNoted_spares (l := [SYS_REQ_STAT]) (by decide) s code).rd _
    (by decide))]
  rfl

/-- A refused request is counted (R134); one for INSPECT of a sealed image in a second count (R177). -/
theorem State.request_of_refused {s : State} {code : Nat} (h : s.mayRequest code = false) : s.request code =
    (false, ((s.requestNoted code).inc (cnt16 SYS_REQ_REFUSE_CNT)).when (code == 4 && s.sealed)
      fun s => s.inc (cnt16 CFG_CHAN_REFUSE_CNT)) := by
  have hsealed : ((s.requestNoted code).inc (cnt16 SYS_REQ_REFUSE_CNT)).sealed = s.sealed := by
    rw [← s.requestNoted_sealed code, State.sealed, State.bit, State.g_of_rd (State.rd_inc_ne _ (by decide))]
    rfl
  have hrequest : s.request code = (false,
      let t := (s.requestNoted code).inc (cnt16 SYS_REQ_REFUSE_CNT)
      if code = 4 ∧ t.sealed = true then t.inc (cnt16 CFG_CHAN_REFUSE_CNT) else t) := by
    simp only [State.request, State.requestNoted, h]
    rfl
  rw [hrequest, State.when]
  simp only [hsealed, Bool.and_eq_true, beq_iff_eq]

theorem State.request_refused_spares {l : List Nat} (hl : ∀ a ∈ [SYS_REQ_STAT, SYS_REQ_REFUSE_CNT, CFG_CHAN_REFUSE_CNT], a ∈ l)
    {s : State} {code : Nat} (h : s.mayRequest code = false) : s.Spares (Outside l) (s.request code).2 := by
  rw [State.request_of_refused h]
  exact ((State.requestNoted_spares (hl _ (by decide)) s code).inc (f := cnt16 SYS_REQ_REFUSE_CNT)
    (not_outside_of_mem (hl _ (by decide)))).when _ fun t =>
      (Spares.refl t).inc (f := cnt16 CFG_CHAN_REFUSE_CNT) (not_outside_of_mem (hl _ (by decide)))

/-- What a refused request shows (R134). -/
theorem State.request_refused_shows {s : State} {code : Nat} (hcode : code < 6) (h : s.mayRequest code = false) :
    (s.request code).2.g SYS_REQ_STAT_req = code ∧ (s.request code).2.g SYS_REQ_STAT_outcome = 2 ∧
      (s.request code).2.g (cnt16 SYS_REQ_REFUSE_CNT) = min (s.g (cnt16 SYS_REQ_REFUSE_CNT) + 1) 65535 := by
  have hchan (t : State) : t.Spares (fun a => a ≠ CFG_CHAN_REFUSE_CNT)
      (t.when (code == 4 && s.sealed) fun s => s.inc (cnt16 CFG_CHAN_REFUSE_CNT)) :=
    (Spares.refl t).when _ fun t => (Spares.refl t).inc (f := cnt16 CFG_CHAN_REFUSE_CNT) (fun h => h rfl)
  have hcount : (s.requestNoted code).g (cnt16 SYS_REQ_REFUSE_CNT) = s.g (cnt16 SYS_REQ_REFUSE_CNT) :=
    State.g_of_rd ((State.requestNoted_spares (l := [SYS_REQ_STAT]) (by decide) s code).rd _ (by decide))
  rw [State.request_of_refused h]
  refine ⟨?_, ?_, ?_⟩
  · rw [State.g_of_rd ((hchan _).rd _ (by decide)), State.g_of_rd (State.rd_inc_ne _ (by decide))]
    exact s.requestNoted_req hcode
  · rw [State.g_of_rd ((hchan _).rd _ (by decide)), State.g_of_rd (State.rd_inc_ne _ (by decide)),
      State.requestNoted_outcome, h]
    rfl
  · rw [State.g_of_rd ((hchan _).rd _ (by decide)), State.g_inc_cnt16, hcount]

/-- A refused request changes registers alone. -/
theorem State.request_refused_frame {s : State} {code : Nat} (h : s.mayRequest code = false) :
    (s.request code).2.pwr = s.pwr ∧ (s.request code).2.ax = s.ax := by
  rw [State.request_of_refused h]
  exact ⟨State.when_keeps State.pwr _ _ _ rfl, State.when_keeps State.ax _ _ _ rfl⟩

/-- The ending of a command leaves a drain as it stands. -/
theorem State.ended_drain (s old : State) : (s.ended old).pwr.drain = s.pwr.drain := by
  obtain ⟨_, _, _, h⟩ := s.ended_pwr old
  rw [h]

theorem exec_request_of_refused {at_ : TT} {code : Nat} {cmd : Instr} (hcmd : requestCommand at_ code = some cmd)
    (s : State) (hreach : (s.atTime at_).reachable SYS_STATE_REQ)
    (hserved : requestServed (s.atTime at_).dev (s.atTime at_).sealed code = false) :
    ∃ t, exec cmd s = .next t ∧ t.g SYS_REQ_STAT_req = code ∧ t.g SYS_REQ_STAT_outcome = 2 ∧
      t.g (cnt16 SYS_REQ_REFUSE_CNT) = min (s.g (cnt16 SYS_REQ_REFUSE_CNT) + 1) 65535 ∧
      t.obs.answer = [if code = 4 ∧ (s.atTime at_).sealed = true then 7 else 5, 0] ∧
      t.pwr.drain = (s.atTime at_).pwr.drain ∧
      keepsRegs s t [SYS_REQ_STAT, SYS_REQ_REFUSE_CNT, CFG_CHAN_REFUSE_CNT] ∧ keepsMemory s t := by
  obtain ⟨hpos, hcode, hexec⟩ := exec_requestCommand hcmd s
  obtain ⟨hpowered, -, -, -, -, -, hrmt⟩ := id hreach
  have hmay : (s.atTime at_).mayRequest code = false := (State.mayRequest_eq hpos hcode hpowered).trans hserved
  obtain ⟨hreq, houtcome, hcount⟩ := State.request_refused_shows hcode hmay
  obtain ⟨hpwr, hax⟩ := State.request_refused_frame hmay
  obtain ⟨o, hnext, hanswer⟩ := State.timedWrite at_ s _ _ hreach _ _ ((s.atTime at_).writeReg_stateReq hpos hcode)
    ((congrArg AxSt.rmt hax).trans hrmt)
  have hspares := (State.request_refused_spares (fun _ h => h) hmay).of_cells
    (u := { ((s.atTime at_).request code).2 with obs := o }) rfl rfl
  refine ⟨_, hexec.trans hnext, ?_, ?_, ?_, ?_, ?_, keepsRegs_of_spares hspares, keepsMemory_of_spares hspares⟩
  · rw [State.ended_g _ _ (by decide)]
    exact hreq
  · rw [State.ended_g _ _ (by decide)]
    exact houtcome
  · rw [State.ended_g _ _ (by decide), ← s.atTime_g at_]
    exact hcount
  · rw [State.ended_obs]
    refine hanswer.trans ?_
    rw [State.requestWhy, State.request_of_refused hmay]
    split
    next h => cases h
    next => split <;> rfl
  · rw [State.ended_drain]
    exact congrArg (fun p => p.drain) hpwr

/-! ### Entry to DRAIN -/

/-- DRAIN begins: the device state, the drain in progress, and what SYS_DRAIN_STAT shows of it (R146). -/
def State.drainBegun (s : State) (req : Nat) : State :=
  let s := s.changeState .drain
  ({ s with pwr := { s.pwr with drain := some ⟨req, s.now, 0, none, 0, false⟩ } } : State)
    |>.p SYS_DRAIN_STAT_busy 1 |>.p SYS_DRAIN_STAT_target req

/-- The mailbox slots that are pending, taken in or not (R129). -/
def State.pendingSlots (s : State) : List Nat := s.cue.slotsTaken ++ s.cue.mailbox.flatten

/-- Pending slots read DRAINED (R129, R146). -/
def State.slotsDrained (s : State) : State := s.each s.pendingSlots (fun s k => s.p (mbxStat k) 7)

/-- The armed cues. -/
def State.armedCues (s : State) : List Entry := s.cue.entries.filter (fun e => e.stage == .armed)

/-- The cues that a drain removes: the armed ones and their successors (R146). -/
def State.drainedIds (s : State) : List CueId :=
  s.armedCues.map (·.id) ++ s.armedCues.flatMap (fun e => (s.behind e.id 16).map (·.id))

/-- The cues that wait in the intake beside the mailbox. -/
def State.intakeWaiting (s : State) : Nat :=
  s.cue.axIn.length + s.cue.engTaken.length + (s.cue.engIn.flatMap (fun b => b.2)).length

/-- The intake is emptied, and the armed cues leave the queue (R146). -/
def State.queueDrained (s : State) : State := { s with cue := { s.cue with
  mailbox := [], axIn := [], engIn := [], scriptIn := [], slotsTaken := [], engTaken := [], scriptTaken := (0, 0),
  entries := s.cue.entries.filter (fun e => !s.drainedIds.contains e.id) } }

theorem State.enterDrain_eq (s : State) (req : Nat) : s.enterDrain req =
    let t := (s.drainBegun req).slotsDrained
    (t.queueDrained.each (t.armedCues.filterMap (·.script)) fun s i => s.lastInstance i).drainDrop
      ((s.drainBegun req).pendingSlots.length + t.drainedIds.length + t.intakeWaiting) := rfl

/-- What stands of a drain as it begins (R146). -/
theorem State.drainBegun_shows (s : State) {req : Nat} (hreq : req < 6) :
    (s.drainBegun req).bit SYS_DRAIN_STAT_busy = true ∧ (s.drainBegun req).g SYS_DRAIN_STAT_target = req := by
  have hfits : ∀ req < 6, req % 2 ^ (SYS_DRAIN_STAT_target.hi + 1 - SYS_DRAIN_STAT_target.lo) = req := by decide
  unfold State.drainBegun
  refine ⟨?_, ?_⟩
  · rw [State.bit, State.g_p_ne _ _ _ _ (by decide) (by decide) (by decide), State.g_p_same _ _ _ (by decide) (by decide)]
    rfl
  · rw [State.g_p_same _ _ _ (by decide) (by decide)]
    exact hfits req hreq

theorem State.changeState_spares {l : List Nat} (s : State) (d : DevState) : s.Spares (Outside l) (s.changeState d) := by
  refine ⟨fun a ha => s.changeState_rd d ha.1, ?_⟩
  obtain ⟨_, _, h⟩ := s.changeState_eq d
  rw [h]

theorem State.drainBegun_spares {l : List Nat} (h : SYS_DRAIN_STAT ∈ l) (s : State) (req : Nat) :
    s.Spares (Outside l) (s.drainBegun req) :=
  (((s.changeState_spares .drain).of_cells (u := { s.changeState .drain with pwr := { (s.changeState .drain).pwr with
    drain := some ⟨req, (s.changeState .drain).now, 0, none, 0, false⟩ } }) rfl rfl).p (f := SYS_DRAIN_STAT_busy) (not_outside_of_mem h) 1).p
    (f := SYS_DRAIN_STAT_target) (not_outside_of_mem h) req

/-- Beside registers and the event log, the beginning of a drain changes the device state and notes the drain. -/
theorem State.drainBegun_frame (s : State) (req : Nat) :
    (s.drainBegun req).cue = s.cue ∧ (s.drainBegun req).ax = s.ax ∧ (s.drainBegun req).dev = .drain ∧
      (s.drainBegun req).pwr.drain = some ⟨req, s.now, 0, none, 0, false⟩ := by
  obtain ⟨_, _, h⟩ := s.changeState_eq .drain
  refine ⟨(congrArg State.cue h :), (congrArg State.ax h :), s.changeState_dev .drain, ?_⟩
  have hnow : (s.changeState .drain).now = s.now := by rw [h]; rfl
  rw [← hnow]
  rfl

/-- A drained slot reads DRAINED, and the others keep their status. -/
theorem State.g_p_mbxStat_drained (s : State) {j k : Nat} (hk : k < 8) :
    (s.p (mbxStat j) 7).g (mbxStat k) = if k = j then 7 else s.g (mbxStat k) := by
  split
  next h =>
    subst h
    have hwidth : (mbxStat k).hi + 1 - (mbxStat k).lo = 4 := by simp only [mbxStat]; omega
    rw [State.g_p_same _ _ _ (by simp [mbxStat]) (by simp only [mbxStat]; omega), hwidth]
    rfl
  next h => exact State.g_p_ne _ _ _ _ (by simp [mbxStat]) (by simp only [mbxStat]; omega) (by simp only [mbxStat]; omega)

theorem State.each_drained_stat (l : List Nat) (s : State) {k : Nat} (hk : k < 8) (h : k ∈ l ∨ s.g (mbxStat k) = 7) :
    (s.each l (fun s k => s.p (mbxStat k) 7)).g (mbxStat k) = 7 := by
  induction l generalizing s with
  | nil => exact h.resolve_left List.not_mem_nil
  | cons j l ih =>
    refine ih (s.p (mbxStat j) 7) ?_
    rw [s.g_p_mbxStat_drained hk]
    rw [List.mem_cons] at h
    split
    · exact .inr rfl
    next hne => exact h.imp_left fun h => h.resolve_left hne

theorem State.slotsDrained_spares {l : List Nat} (h : CUE_MBX_STAT ∈ l) (s : State) : s.Spares (Outside l) s.slotsDrained :=
  (Spares.refl s).each (fun t k => (Spares.refl t).p (f := mbxStat k) (not_outside_of_mem h) 7) _

/-- A change of registers alone. -/
def State.CellsOnly (s t : State) : Prop := ∃ c, t = { s with cells := c }

theorem State.CellsOnly.refl (s : State) : s.CellsOnly s := ⟨_, rfl⟩

theorem State.CellsOnly.trans {s t u : State} (h : s.CellsOnly t) (h' : t.CellsOnly u) : s.CellsOnly u := by
  obtain ⟨_, rfl⟩ := h
  obtain ⟨_, rfl⟩ := h'
  exact ⟨_, rfl⟩

theorem State.slotsDrained_frame (s : State) : s.CellsOnly s.slotsDrained :=
  State.each_rel State.CellsOnly _ _ .refl (fun _ _ _ => .trans) (fun _ _ => ⟨_, rfl⟩) s

theorem State.lastInstance_frame (s : State) (e : Nat) : s.CellsOnly (s.lastInstance e) := by
  unfold State.lastInstance
  split
  · unfold State.when
    split
    · exact ⟨_, rfl⟩
    · exact .refl s
  · exact .refl s

theorem State.lastInstance_spares {l : List Nat} (hl : ∀ a ∈ (List.range 32).map CUE_SCRIPT_EN, a ∈ l) (s : State)
    (e : Nat) : s.Spares (Outside l) (s.lastInstance e) := by
  unfold State.lastInstance
  split
  next x hx =>
    have he : e < 1024 := by
      by_contra h
      rw [State.script, if_neg h] at hx
      cases hx
    exact (Spares.refl s).when _ fun t => (Spares.refl t).wr (not_outside_of_mem (hl _
      (List.mem_map_of_mem (List.mem_range.mpr (by omega))))) _
  next => exact .refl s

theorem State.drainDrop_spares {l : List Nat} (h : SYS_DRAIN_DROP_CNT ∈ l) (s : State) (n : Nat) :
    s.Spares (Outside l) (s.drainDrop n) := by
  have hcount : s.Spares (Outside l) (s.addSat (cnt16 SYS_DRAIN_DROP_CNT) n) :=
    (Spares.refl s).p (f := cnt16 SYS_DRAIN_DROP_CNT) (not_outside_of_mem h) _
  unfold State.drainDrop
  extract_lets t
  split
  · exact hcount.of_cells rfl rfl
  · exact hcount

/-- Dropped cues are counted, and noted in the drain (R146). -/
theorem State.drainDrop_frame {s : State} {d : DrainSt} (h : s.pwr.drain = some d) (n : Nat) :
    ∃ c, s.drainDrop n = { s with cells := c, pwr := { s.pwr with drain := some { d with dropped := d.dropped + n } } } := by
  unfold State.drainDrop
  extract_lets t
  have ht : t.pwr.drain = some d := h
  rw [ht]
  exact ⟨_, rfl⟩

/-! ### Saved equalizers -/

theorem State.saveEq_spares {l : List Nat} {p : Nat} (h : LP_KEEP_EQ p ∈ l) (s : State) :
    s.Spares (Outside l) (s.saveEq p) := by
  unfold State.saveEq State.saveWord
  split
  · split
    · exact .refl s
    · exact ((Spares.refl s).wr (not_outside_of_mem h) _).keepWritten _
  · exact .refl s

theorem State.saveAllEq_spares {l : List Nat} (h : ∀ a ∈ (List.range 32).map LP_KEEP_EQ, a ∈ l) (s : State) :
    s.Spares (Outside l) s.saveAllEq :=
  (Spares.refl s).each_mem fun _ hp t => t.saveEq_spares (h _ (List.mem_map_of_mem hp))

/-- A change of registers, and of the errors in KEEP words. -/
def State.KeepOnly (s t : State) : Prop := ∃ c e, t = { s with cells := c, pwr := { s.pwr with softErrs := e } }

theorem State.KeepOnly.refl (s : State) : s.KeepOnly s := ⟨_, _, rfl⟩

theorem State.KeepOnly.trans {s t u : State} (h : s.KeepOnly t) (h' : t.KeepOnly u) : s.KeepOnly u := by
  obtain ⟨_, _, rfl⟩ := h
  obtain ⟨_, _, rfl⟩ := h'
  exact ⟨_, _, rfl⟩

theorem State.keepWritten_frame (s : State) (n : Nat) : s.KeepOnly (s.keepWritten n) := by
  unfold State.keepWritten State.when
  split
  · exact ⟨_, _, rfl⟩
  · exact ⟨_, _, rfl⟩

theorem State.saveWord_frame (s : State) (p : Nat) (w : W32) : s.KeepOnly (s.saveWord p w) := by
  unfold State.saveWord
  split
  · exact .refl s
  · exact KeepOnly.trans ⟨_, _, rfl⟩ (State.keepWritten_frame _ _)

theorem State.saveEq_frame (s : State) (p : Nat) : s.KeepOnly (s.saveEq p) := by
  unfold State.saveEq
  split
  · exact s.saveWord_frame p _
  · exact .refl s

theorem State.saveAllEq_frame (s : State) : s.KeepOnly s.saveAllEq :=
  State.each_rel State.KeepOnly _ _ .refl (fun _ _ _ => .trans) State.saveEq_frame s

/-! ### What DRAIN leaves -/

/-- The removal of the armed cues, with what it counts (R126, R146). -/
theorem State.armedRemoved_frame {s : State} {d : DrainSt} (h : s.pwr.drain = some d) (l : List Nat) (n : Nat) :
    ∃ c, ((s.queueDrained.each l fun s i => s.lastInstance i).drainDrop n) = { s.queueDrained with
      cells := c, pwr := { s.pwr with drain := some { d with dropped := d.dropped + n } } } := by
  obtain ⟨c, he⟩ : s.queueDrained.CellsOnly (s.queueDrained.each l fun s i => s.lastInstance i) :=
    State.each_rel State.CellsOnly _ _ .refl (fun _ _ _ => .trans) State.lastInstance_frame _
  rw [he]
  exact State.drainDrop_frame (s := { s.queueDrained with cells := c }) h n

theorem State.armedRemoved_spares {l : List Nat} (hl : ∀ a ∈ (List.range 32).map CUE_SCRIPT_EN, a ∈ l)
    (hdrop : SYS_DRAIN_DROP_CNT ∈ l) (s : State) (es : List Nat) (n : Nat) :
    s.Spares (Outside l) ((s.queueDrained.each es fun s i => s.lastInstance i).drainDrop n) :=
  ((((Spares.refl s).of_cells (u := s.queueDrained) rfl rfl).each (fun t e => t.lastInstance_spares hl e) es)).trans
    (State.drainDrop_spares hdrop _ n)

/-- A cue that a drain leaves in the queue was not armed (R146). -/
theorem State.queueDrained_entries (s : State) {e : Entry} (h : e ∈ s.queueDrained.cue.entries) :
    e ∈ s.cue.entries ∧ e.stage ≠ .armed := by
  obtain ⟨hin, hkept⟩ := List.mem_filter.mp h
  refine ⟨hin, fun harmed => ?_⟩
  have hid : e.id ∈ s.drainedIds :=
    List.mem_append_left _ (List.mem_map_of_mem (List.mem_filter.mpr ⟨hin, by rw [harmed]; rfl⟩))
  rw [Bool.not_eq_true', List.contains_iff_mem.mpr hid] at hkept
  cases hkept

/-- The device in DRAIN, just entered: what stands beside its registers (R146). -/
structure State.Draining (s t : State) (req : Nat) : Prop where
  dev : t.dev = .drain
  drain : ∃ n, t.pwr.drain = some ⟨req, s.now, 0, none, n, false⟩
  mailbox : t.cue.mailbox = []
  entries : ∀ e ∈ t.cue.entries, e ∈ s.cue.entries ∧ e.stage ≠ .armed
  ax : t.ax = s.ax

theorem State.enterDrain_draining (s : State) (req : Nat) : s.Draining (s.enterDrain req) req := by
  obtain ⟨hcue, hax, hdev, hdrain⟩ := s.drainBegun_frame req
  obtain ⟨c, hslots⟩ := (s.drainBegun req).slotsDrained_frame
  rw [State.enterDrain_eq]
  extract_lets t
  have hcue' : t.cue = s.cue := (congrArg State.cue hslots :).trans hcue
  have hpwr : t.pwr = (s.drainBegun req).pwr := (congrArg State.pwr hslots :)
  obtain ⟨c', hremoved⟩ := t.armedRemoved_frame ((congrArg (fun p => p.drain) hpwr).trans hdrain)
    (t.armedCues.filterMap (·.script)) ((s.drainBegun req).pendingSlots.length + t.drainedIds.length + t.intakeWaiting)
  rw [hremoved]
  refine ⟨(congrArg (fun p => p.state) hpwr).trans hdev, ⟨_, rfl⟩, rfl, fun e he => ?_,
    (congrArg State.ax hslots :).trans hax⟩
  rw [← hcue']
  exact t.queueDrained_entries he

theorem State.enterDrain_spares {l : List Nat} (hstat : SYS_DRAIN_STAT ∈ l) (hdrop : SYS_DRAIN_DROP_CNT ∈ l)
    (hslots : CUE_MBX_STAT ∈ l) (hscript : ∀ a ∈ (List.range 32).map CUE_SCRIPT_EN, a ∈ l) (s : State) (req : Nat) :
    s.Spares (Outside l) (s.enterDrain req) := by
  rw [State.enterDrain_eq]
  exact ((State.drainBegun_spares hstat s req).trans (State.slotsDrained_spares hslots _)).trans
    (State.armedRemoved_spares hscript hdrop _ _ _)

theorem State.enterDrain_shows (s : State) {req : Nat} (hreq : req < 6) :
    (s.enterDrain req).bit SYS_DRAIN_STAT_busy = true ∧ (s.enterDrain req).g SYS_DRAIN_STAT_target = req := by
  obtain ⟨hbusy, htarget⟩ := s.drainBegun_shows hreq
  have hspares : (s.drainBegun req).Spares (Outside ([CUE_MBX_STAT, SYS_DRAIN_DROP_CNT] ++ (List.range 32).map CUE_SCRIPT_EN))
      (s.enterDrain req) := by
    rw [State.enterDrain_eq]
    exact (State.slotsDrained_spares (by simp) _).trans
      (State.armedRemoved_spares (fun a ha => List.mem_append_right _ ha) (by simp) _ _ _)
  have hword := hspares.rd SYS_DRAIN_STAT ⟨by decide, by decide⟩
  refine ⟨?_, (State.g_of_rd hword).trans htarget⟩
  rw [State.bit, State.g_of_rd hword]
  exact hbusy

/-- The slots that were pending read DRAINED (R129, R146). -/
theorem State.enterDrain_slots (s : State) (req : Nat) {k : Nat} (hk : k < 8) (h : k ∈ s.pendingSlots) :
    (s.enterDrain req).g (mbxStat k) = 7 := by
  have hpending : (s.drainBegun req).pendingSlots = s.pendingSlots := by
    obtain ⟨hcue, -⟩ := s.drainBegun_frame req
    rw [State.pendingSlots, State.pendingSlots, hcue]
  have hword : (s.enterDrain req).rd CUE_MBX_STAT = (s.drainBegun req).slotsDrained.rd CUE_MBX_STAT := by
    rw [State.enterDrain_eq]
    exact (State.armedRemoved_spares (l := [SYS_DRAIN_DROP_CNT] ++ (List.range 32).map CUE_SCRIPT_EN)
      (fun a ha => List.mem_append_right _ ha) (by simp) _ _ _).rd _ ⟨by decide, by decide⟩
  refine (State.g_of_rd (f := mbxStat k) hword).trans (State.each_drained_stat _ _ hk (.inl ?_))
  rw [hpending]
  exact h

/-- The registers that an accepted STANDBY, RELOAD or INSPECT request changes in a running state. -/
def drainRegs : List Nat := [SYS_REQ_STAT, SYS_DRAIN_STAT, SYS_DRAIN_DROP_CNT, CUE_MBX_STAT] ++
  (List.range 32).map LP_KEEP_EQ ++ (List.range 32).map CUE_SCRIPT_EN

/-- An accepted request takes its transition (R134). -/
theorem State.request_of_accepted {s : State} {code : Nat} (hmay : s.mayRequest code = true) : s.request code = (true,
    if code = 5 then (s.requestNoted code).enterReset (some 3) 2
    else if code = 2 then (s.requestNoted code).wakeUp 1
    else if s.dev.running = true then (s.requestNoted code).saveAllEq.enterDrain code
    else (s.requestNoted code).enterReset (some 3) 3) := by
  simp only [State.request, State.requestNoted, hmay]
  rfl

theorem State.request_of_drain {s : State} {code : Nat} (hmay : s.mayRequest code = true) (hrun : s.dev.running = true)
    (hreset : code ≠ 5) : s.request code = (true, (s.requestNoted code).saveAllEq.enterDrain code) := by
  have hwake : code ≠ 2 := by
    rintro rfl
    rw [beq_iff_eq.mp hmay] at hrun
    cases hrun
  rw [State.request_of_accepted hmay, if_neg hreset, if_neg hwake, if_pos hrun]

/-- What an accepted STANDBY, RELOAD or INSPECT request leaves in a running state (R134, R146). -/
structure State.DrainRequested (s t : State) (code : Nat) : Prop where
  draining : s.Draining t code
  req : t.g SYS_REQ_STAT_req = code
  outcome : t.g SYS_REQ_STAT_outcome = 1
  busy : t.bit SYS_DRAIN_STAT_busy = true
  target : t.g SYS_DRAIN_STAT_target = code
  slots : ∀ k ∈ s.pendingSlots, k < 8 → t.g (mbxStat k) = 7
  spares : s.Spares (Outside drainRegs) t

theorem State.requestNoted_drained {s : State} {code : Nat} (hcode : code < 6) (hmay : s.mayRequest code = true) :
    s.DrainRequested ((s.requestNoted code).saveAllEq.enterDrain code) code := by
  obtain ⟨c, e, hsaved⟩ := (s.requestNoted code).saveAllEq_frame
  have hcue : (s.requestNoted code).saveAllEq.cue = s.cue := (congrArg State.cue hsaved :)
  have hnow : (s.requestNoted code).saveAllEq.now = s.now := (congrArg State.now hsaved :)
  have hax : (s.requestNoted code).saveAllEq.ax = s.ax := (congrArg State.ax hsaved :)
  obtain ⟨hdev, hdrain, hmailbox, hentries, hax'⟩ := (s.requestNoted code).saveAllEq.enterDrain_draining code
  obtain ⟨hbusy, htarget⟩ := (s.requestNoted code).saveAllEq.enterDrain_shows hcode
  have hdrained : (s.requestNoted code).Spares (Outside (drainRegs.drop 1))
      ((s.requestNoted code).saveAllEq.enterDrain code) := by
    refine ((s.requestNoted code).saveAllEq_spares ?_).trans (State.enterDrain_spares ?_ ?_ ?_ ?_ _ _)
    all_goals decide
  have hword := hdrained.rd SYS_REQ_STAT (by decide)
  refine ⟨⟨hdev, hnow ▸ hdrain, hmailbox, hcue ▸ hentries, hax'.trans hax⟩, ?_, ?_, hbusy, htarget, fun k hk hlt => ?_,
    (State.requestNoted_spares (l := drainRegs) (by decide) s code).trans
      (hdrained.mono fun a ha => ⟨ha.1, fun hm => ha.2 (List.mem_of_mem_drop hm)⟩)⟩
  · rw [State.g_of_rd hword, State.requestNoted_req _ hcode]
  · rw [State.g_of_rd hword, State.requestNoted_outcome, hmay]
    rfl
  · refine State.enterDrain_slots _ code hlt ?_
    rw [State.pendingSlots, hcue]
    exact hk

theorem exec_request_of_drain {at_ : TT} {code : Nat} {cmd : Instr} (hcmd : requestCommand at_ code = some cmd)
    (s : State) (hreach : (s.atTime at_).reachable SYS_STATE_REQ)
    (hserved : requestServed (s.atTime at_).dev (s.atTime at_).sealed code = true)
    (hrun : (s.atTime at_).dev.running = true) (hreset : code ≠ 5)
    (hslots : ∀ k ∈ (s.atTime at_).pendingSlots, k < 8) :
    ∃ t d, exec cmd s = .next t ∧ t.dev = .drain ∧ t.pwr.drain = some d ∧ d.req = code ∧ d.from_ = (s.atTime at_).now ∧
      d.cut = false ∧ t.g SYS_REQ_STAT_req = code ∧ t.g SYS_REQ_STAT_outcome = 1 ∧ t.bit SYS_DRAIN_STAT_busy = true ∧
      t.g SYS_DRAIN_STAT_target = code ∧ t.cue.mailbox = [] ∧
      (∀ k ∈ (s.atTime at_).pendingSlots, t.g (mbxStat k) = 7) ∧
      (∀ e ∈ t.cue.entries, e ∈ (s.atTime at_).cue.entries ∧ e.stage ≠ .armed) ∧ t.obs.answer = [0, 0] ∧
      keepsRegs s t drainRegs ∧ keepsMemory s t := by
  obtain ⟨hpos, hcode, hexec⟩ := exec_requestCommand hcmd s
  obtain ⟨hpowered, -, -, -, -, -, hrmt⟩ := id hreach
  have hmay : (s.atTime at_).mayRequest code = true := (State.mayRequest_eq hpos hcode hpowered).trans hserved
  obtain ⟨⟨hdev, ⟨n, hdrain⟩, hmailbox, hentries, hax⟩, hreq, houtcome, hbusy, htarget, hdrained, hspares⟩ :=
    State.requestNoted_drained hcode hmay
  have hrequest := State.request_of_drain hmay hrun hreset
  generalize ((s.atTime at_).requestNoted code).saveAllEq.enterDrain code = v at *
  obtain ⟨o, hnext, hanswer⟩ := State.timedWrite at_ s _ _ hreach _ v
    (((s.atTime at_).writeReg_stateReq hpos hcode).trans (by rw [hrequest])) ((congrArg AxSt.rmt hax).trans hrmt)
  have hg (f : Fld) (hf : endsOn f.addr = false) : (State.ended { v with obs := o } s).g f = v.g f := State.ended_g _ _ hf
  have hends : endsOn CUE_MBX_STAT = false := by decide
  have hspares' := hspares.of_cells (u := { v with obs := o }) rfl rfl
  refine ⟨_, _, hexec.trans hnext, ?_, (State.ended_drain _ s).trans hdrain, rfl, rfl, rfl, (hg _ (by decide)).trans hreq,
    (hg _ (by decide)).trans houtcome, ?_, (hg _ (by decide)).trans htarget, ?_,
    fun k hk => (hg _ hends).trans (hdrained k hk (hslots k hk)), ?_, ?_, keepsRegs_of_spares hspares',
    keepsMemory_of_spares hspares'⟩
  · have hdev' : ({ v with obs := o } : State).dev = .drain := hdev
    rw [State.ended_dev, hdev']
    rfl
  · rw [State.bit, hg _ (by decide)]
    exact hbusy
  · rw [State.ended_cue]
    exact hmailbox
  · rw [State.ended_cue]
    exact hentries
  · rw [State.ended_obs]
    refine hanswer.trans ?_
    rw [State.requestWhy, hrequest]
    rfl

end Sys2Proof.Machine

/-! ### The obligation -/

/-- Settles O28: an accepted request drains the queue, and a refused one is counted. -/
theorem requestsEnterDrainOrAreRefused : Obligations.RequestsEnterDrainOrAreRefused := fun _ _ _ s hcmd hreach =>
  ⟨exec_request_of_drain hcmd s hreach, exec_request_of_refused hcmd s hreach⟩
end

section
/-! Entries to RESET, to KEEP and to OFF, and the end of RESET (R19, R132, R133, R460). -/

open Sys2Proof Sys2Proof.Machine

namespace Sys2Proof.Machine

/-! ### The words of the battery domain -/

/-- Words of code K outlast what takes every other register to its reset value (R19). -/
theorem cellGet_filter_keepAddr (c : List (Nat × W32)) (a : Nat) :
    cellGet (c.filter fun x => keepAddr x.1) a = if keepAddr a then cellGet c a else resetOf a := by
  induction c with
  | nil => simp [cellGet]
  | cons x c ih =>
    obtain ⟨k, v⟩ := x
    by_cases hk : keepAddr k
    · rw [List.filter_cons_of_pos (p := fun x : Nat × W32 => keepAddr x.1) hk, cellGet, cellGet, ih]
      split
      next h => rw [if_pos (h ▸ hk)]
      · rfl
    · rw [List.filter_cons_of_neg (p := fun x : Nat × W32 => keepAddr x.1) hk, cellGet, ih]
      by_cases ha : keepAddr a
      · have hne : k ≠ a := by
          rintro rfl
          exact hk ha
        rw [if_neg hne]
      · rw [if_neg ha, if_neg ha]

/-- The last state and the cause of its end are noted in a KEEP word (R133). -/
def State.lastStateNoted (s : State) (cause : Nat) (old : DevState) : State :=
  ((s.p KEEP_LAST_STATE_cause cause).p KEEP_LAST_STATE_state old.code).keepWritten 6

theorem State.lastStateNoted_rd (s : State) (cause : Nat) (old : DevState) {a : Nat} (ha : a ≠ KEEP_LAST_STATE)
    (hmark : a ≠ BAT_KEEP_STAT) : (s.lastStateNoted cause old).rd a = s.rd a := by
  rw [State.lastStateNoted, State.keepWritten_rd _ _ hmark, State.rd_p_ne _ (Ne.symm ha), State.rd_p_ne _ (Ne.symm ha)]

theorem State.lastStateNoted_shows (s : State) {cause : Nat} (hcause : cause < 16) (old : DevState) :
    (s.lastStateNoted cause old).g KEEP_LAST_STATE_cause = cause ∧
      (s.lastStateNoted cause old).g KEEP_LAST_STATE_state = old.code := by
  have hword : (s.lastStateNoted cause old).rd KEEP_LAST_STATE =
      ((s.p KEEP_LAST_STATE_cause cause).p KEEP_LAST_STATE_state old.code).rd KEEP_LAST_STATE :=
    State.keepWritten_rd _ _ (by decide)
  have hcode : old.code < 16 := by cases old <;> decide
  rw [State.g_of_rd (f := KEEP_LAST_STATE_cause) hword, State.g_of_rd (f := KEEP_LAST_STATE_state) hword]
  refine ⟨?_, ?_⟩
  · rw [State.g_p_ne _ _ _ _ (by decide) (by decide) (by decide), State.g_p_same _ _ _ (by decide) (by decide)]
    exact Nat.mod_eq_of_lt hcause
  · rw [State.g_p_same _ _ _ (by decide) (by decide)]
    exact Nat.mod_eq_of_lt hcode

theorem State.lastStateNoted_frame (s : State) (cause : Nat) (old : DevState) : s.KeepOnly (s.lastStateNoted cause old) :=
  KeepOnly.trans ⟨_, _, rfl⟩ (State.keepWritten_frame _ _)

/-! ### Entry to RESET -/

/-- Entry to RESET without what is noted of it. -/
def State.resetKept (s : State) (bit : Nat) : State :=
  let b := State.reset
  { b with
    pending := s.pending, cells := s.cells.filter (fun c => keepAddr c.1), free := s.free,
    cfg := { b.cfg with fuses := s.cfg.fuses },
    obs := { b.obs with i2c := s.obs.i2c, addrLow := s.obs.addrLow },
    tap := s.tap,
    log := { b.log with episodes := s.log.episodes },
    pin := { b.pin with outside := s.pin.outside, supply := s.pin.supply },
    pwr := { b.pwr with softErrs := s.pwr.softErrs, resetN := s.pwr.resetN, railsUp := s.pwr.railsUp, onVbat := s.pwr.onVbat,
                        causes := (if s.dev = .reset then s.pwr.causes else 0) ||| BitVec.ofNat 4 (2 ^ bit) } }

/-- The change to RESET is the first record of the emptied log (R447). -/
def State.resetChangeNoted (s : State) (old : DevState) : State :=
  ((s.p SYS_STATE_prev old.code).inc (cnt16 SYS_STATE_CHANGE_CNT)).eventNow 0x01 0 (BitVec.ofNat 32 (old.code * 16 + 2))

theorem State.enterReset_eq (s : State) (cause bit : Nat) : s.enterReset (some cause) bit =
    if s.dev = .reset then (s.resetKept bit).lastStateNoted cause s.dev
    else ((s.resetKept bit).lastStateNoted cause s.dev).resetChangeNoted s.dev := rfl

theorem State.resetChangeNoted_rd (s : State) (old : DevState) {a : Nat} (h : endsOn a = false) :
    (s.resetChangeNoted old).rd a = s.rd a := by
  obtain ⟨hstate, -, -, hcount, -, -, hlog⟩ := endsOn_out h
  rw [State.resetChangeNoted, State.eventNow, State.event_rd _ _ _ _ _ hlog (by decide), State.rd_inc_ne _ (Ne.symm hcount),
    State.rd_p_ne _ (Ne.symm hstate)]

/-- What an entry to RESET leaves before the command ends: the words of code K, the device state, its cause, no remote
access and no drain, and the fuses (R19, R132). -/
structure State.ResetBy (s t : State) (cause bit : Nat) : Prop where
  dev : t.dev = .reset
  cause : t.g KEEP_LAST_STATE_cause = cause
  state : t.g KEEP_LAST_STATE_state = s.dev.code
  rd : ∀ a, endsOn a = false → a ≠ KEEP_LAST_STATE → t.rd a = if keepAddr a then s.rd a else resetOf a
  fuses : t.cfg.fuses = s.cfg.fuses
  causes : t.pwr.causes.getLsbD bit = true
  rmt : t.ax.rmt = none
  drain : t.pwr.drain = none

theorem State.resetKept_rd (s : State) (bit a : Nat) :
    (s.resetKept bit).rd a = if keepAddr a then s.rd a else resetOf a := cellGet_filter_keepAddr s.cells a

theorem State.resetKept_causes (s : State) {bit : Nat} (h : bit < 4) : (s.resetKept bit).pwr.causes.getLsbD bit = true := by
  have hbit : ∀ bit < 4, (BitVec.ofNat 4 (2 ^ bit)).getLsbD bit = true := by decide
  show ((if s.dev = .reset then s.pwr.causes else 0) ||| BitVec.ofNat 4 (2 ^ bit)).getLsbD bit = true
  rw [BitVec.getLsbD_or, hbit bit h, Bool.or_true]

theorem State.enterReset_resetBy (s : State) {cause bit : Nat} (hcause : cause < 16) (hbit : bit < 4) :
    s.ResetBy (s.enterReset (some cause) bit) cause bit := by
  have hnoted : s.ResetBy ((s.resetKept bit).lastStateNoted cause s.dev) cause bit := by
    obtain ⟨hcause', hstate⟩ := (s.resetKept bit).lastStateNoted_shows hcause s.dev
    obtain ⟨_, _, hframe⟩ := (s.resetKept bit).lastStateNoted_frame cause s.dev
    refine ⟨?_, hcause', hstate, fun a ha hlast => ?_, ?_, ?_, ?_, ?_⟩
    · rw [hframe]
      rfl
    · obtain ⟨-, -, -, -, hmark, -⟩ := endsOn_out ha
      rw [State.lastStateNoted_rd _ _ _ hlast hmark, State.resetKept_rd]
    · rw [hframe]
      rfl
    · rw [hframe]
      exact s.resetKept_causes hbit
    · rw [hframe]
      rfl
    · rw [hframe]
      rfl
  rw [State.enterReset_eq]
  split
  · exact hnoted
  · obtain ⟨hdev, hcause', hstate, hrd, hfuses, hcauses, hrmt, hdrain⟩ := hnoted
    obtain ⟨_, _, hevent⟩ := State.event_eq
      ((((s.resetKept bit).lastStateNoted cause s.dev).p SYS_STATE_prev s.dev.code).inc (cnt16 SYS_STATE_CHANGE_CNT)) 0x01 0
      (BitVec.ofNat 32 (s.dev.code * 16 + 2)) ((s.resetKept bit).lastStateNoted cause s.dev).now
    have hword := ((s.resetKept bit).lastStateNoted cause s.dev).resetChangeNoted_rd s.dev (a := KEEP_LAST_STATE) (by decide)
    refine ⟨?_, (State.g_of_rd hword).trans hcause', (State.g_of_rd hword).trans hstate,
      fun a ha hlast => (State.resetChangeNoted_rd _ _ ha).trans (hrd a ha hlast), ?_, ?_, ?_, ?_⟩
    · exact (congrArg State.dev hevent :).trans hdev
    · exact (congrArg (fun t : State => t.cfg.fuses) hevent :).trans hfuses
    · exact (congrArg (fun t : State => t.pwr.causes.getLsbD bit) hevent :).trans hcauses
    · exact (congrArg (fun t : State => t.ax.rmt) hevent :).trans hrmt
    · exact (congrArg (fun t : State => t.pwr.drain) hevent :).trans hdrain

/-- A command that ends in RESET. -/
theorem State.ended_resetFrom {u v : State} {cause bit : Nat} (h : u.ResetBy v cause bit) (o : ObsSt) (r : Bool) (s : State) :
    let t := State.ended { v with obs := o, pwr := { v.pwr with resetN := r } } s
    resetFrom u t cause ∧ t.pwr.causes.getLsbD bit = true ∧ t.pwr.resetN = r := by
  obtain ⟨hdev, hcause, hstate, hrd, hfuses, hcauses, -, -⟩ := h
  extract_lets t
  obtain ⟨_, _, _, _, _, _, _, hended⟩ := State.ended_eq { v with obs := o, pwr := { v.pwr with resetN := r } } s
  have hreset : ({ v with obs := o, pwr := { v.pwr with resetN := r } } : State).dev = .reset := hdev
  refine ⟨⟨?_, ?_, ?_, fun a ha hlast => ?_, ?_⟩, ?_, ?_⟩
  · rw [State.ended_dev, hreset]
    rfl
  · exact (State.ended_g _ _ (by decide)).trans hcause
  · exact (State.ended_g _ _ (by decide)).trans hstate
  · exact (State.ended_rd _ _ ha).trans (hrd a ha hlast)
  · exact (congrArg (fun t : State => t.cfg.fuses) hended :).trans hfuses
  · exact (congrArg (fun t : State => t.pwr.causes.getLsbD bit) hended :).trans hcauses
  · exact (congrArg (fun t : State => t.pwr.resetN) hended :)

/-- A request that is shown before the entry to RESET leaves nothing of it behind. -/
theorem State.ResetBy.of_requestNoted {s t : State} {code cause bit : Nat} (h : (s.requestNoted code).ResetBy t cause bit) :
    s.ResetBy t cause bit := by
  obtain ⟨hdev, hcause, hstate, hrd, hfuses, hcauses, hrmt, hdrain⟩ := h
  refine ⟨hdev, hcause, hstate, fun a ha hlast => ?_, hfuses, hcauses, hrmt, hdrain⟩
  have hreq : keepAddr SYS_REQ_STAT = false := by decide
  rw [hrd a ha hlast]
  by_cases hstat : a = SYS_REQ_STAT
  · rw [hstat, hreq]
    rfl
  · rw [(State.requestNoted_spares (l := [SYS_REQ_STAT]) (by decide) s code).rd a ⟨ha, by simp [hstat]⟩]

/-- A RESET request, or a RELOAD request outside the running states, puts the device into RESET (R132, R134). -/
theorem State.request_of_reset {s : State} (hpowered : s.dev.powered = true) :
    s.request 5 = (true, (s.requestNoted 5).enterReset (some 3) 2) := by
  have hmay : s.mayRequest 5 = true := hpowered
  rw [State.request_of_accepted hmay, if_pos rfl]

theorem State.request_of_reload {s : State} (hstate : s.dev = .inert ∨ s.dev = .standby ∨ s.dev = .inspect) :
    s.request 3 = (true, (s.requestNoted 3).enterReset (some 3) 3) := by
  have hrun : ¬ s.dev.running = true := by
    obtain h | h | h := hstate
    all_goals simp [h, DevState.running]
  have hmay : s.mayRequest 3 = true := by
    obtain h | h | h := hstate
    all_goals simp [State.mayRequest, h]
  rw [State.request_of_accepted hmay, if_neg (by decide), if_neg (by decide), if_neg hrun]

theorem exec_request_of_reset {at_ : TT} {code bit : Nat} {cmd : Instr} (hcmd : requestCommand at_ code = some cmd)
    (s : State) (hreach : (s.atTime at_).reachable SYS_STATE_REQ) (hbit : bit < 4)
    (hrequest : (s.atTime at_).request code = (true, ((s.atTime at_).requestNoted code).enterReset (some 3) bit)) :
    ∃ t, exec cmd s = .next t ∧ resetFrom (s.atTime at_) t 3 ∧ t.pwr.causes.getLsbD bit = true ∧ t.obs.answer = [0, 0] := by
  obtain ⟨hpos, hcode, hexec⟩ := exec_requestCommand hcmd s
  have hreset := (((s.atTime at_).requestNoted code).enterReset_resetBy (cause := 3) (by decide) hbit).of_requestNoted
  obtain ⟨o, hnext, hanswer⟩ := State.timedWrite at_ s _ _ hreach _ _
    (((s.atTime at_).writeReg_stateReq hpos hcode).trans (by rw [hrequest])) hreset.rmt
  obtain ⟨hfrom, hcauses, -⟩ := State.ended_resetFrom hreset o _ s
  refine ⟨_, hexec.trans hnext, hfrom, hcauses, ?_⟩
  rw [State.ended_obs]
  refine hanswer.trans ?_
  rw [State.requestWhy, hrequest]
  rfl

theorem exec_resetNAssert_of_powered (at_ : TT) (s : State) (hpowered : (s.atTime at_).dev.powered = true) :
    ∃ t, exec (.resetNAssert at_) s = .next t ∧ resetFrom (s.atTime at_) t 2 ∧ t.pwr.causes.getLsbD 1 = true ∧
      t.pwr.resetN = false := by
  have hexec : exec (.resetNAssert at_) s = .next ((s.atTime at_).pinReset.ended s) := rfl
  have hpin : (s.atTime at_).pinReset = { (s.atTime at_).enterReset (some 2) 1 with
      pwr := { ((s.atTime at_).enterReset (some 2) 1).pwr with resetN := false } } := by
    rw [State.pinReset, hpowered]
    rfl
  rw [hpin] at hexec
  exact ⟨_, hexec, State.ended_resetFrom ((s.atTime at_).enterReset_resetBy (by decide) (by decide)) _ false s⟩

/-! ### KEEP -/

/-- Entry to KEEP without what is noted of it. -/
def State.keepKept (s : State) : State :=
  let b := State.reset
  { b with
    pending := s.pending, cells := s.cells.filter (fun c => keepAddr c.1), free := s.free,
    cfg := { b.cfg with fuses := s.cfg.fuses },
    log := { b.log with episodes := s.log.episodes.filter (fun e => e.1 == 13 || e.1 == 14) },
    pin := { b.pin with outside := s.pin.outside, supply := s.pin.supply },
    pwr := { b.pwr with state := .keep, onVbat := s.pwr.onVbat, causes := 0, mainLost := true, railsUp := false,
                        softErrs := s.pwr.softErrs } }

/-- An entry to KEEP is counted and shown (R133). -/
def State.keepEntryNoted (s : State) : State :=
  ((s.inc (cnt16 KEEP_ENTRY_CNT)).keepWritten 7).pb BAT_STAT_keep_seen true

theorem State.enterKeep_eq (s : State) : s.enterKeep = (s.keepKept.lastStateNoted 1 s.dev).keepEntryNoted := rfl

theorem State.keepEntryNoted_rd (s : State) {a : Nat} (hcount : a ≠ KEEP_ENTRY_CNT) (hmark : a ≠ BAT_KEEP_STAT)
    (hseen : a ≠ BAT_STAT) : s.keepEntryNoted.rd a = s.rd a := by
  rw [State.keepEntryNoted, State.pb, State.rd_p_ne _ (Ne.symm hseen), State.keepWritten_rd _ _ hmark,
    State.rd_inc_ne _ (Ne.symm hcount)]

theorem State.keepEntryNoted_count (s : State) :
    s.keepEntryNoted.g (cnt16 KEEP_ENTRY_CNT) = min (s.g (cnt16 KEEP_ENTRY_CNT) + 1) 65535 := by
  have hword : s.keepEntryNoted.rd KEEP_ENTRY_CNT = (s.inc (cnt16 KEEP_ENTRY_CNT)).rd KEEP_ENTRY_CNT := by
    rw [State.keepEntryNoted, State.pb, State.rd_p_ne _ (by decide), State.keepWritten_rd _ _ (by decide)]
  rw [State.g_of_rd (f := cnt16 KEEP_ENTRY_CNT) hword, State.g_inc_cnt16]

theorem State.keepEntryNoted_frame (s : State) : s.KeepOnly s.keepEntryNoted :=
  (KeepOnly.trans ⟨_, _, rfl⟩ (State.keepWritten_frame _ _)).trans ⟨_, _, rfl⟩

theorem State.enterKeep_frame (s : State) : s.keepKept.KeepOnly s.enterKeep :=
  (State.lastStateNoted_frame _ _ _).trans (State.keepEntryNoted_frame _)

theorem State.enterKeep_rd (s : State) {a : Nat} (ha : endsOn a = false)
    (hout : a ∉ [KEEP_LAST_STATE, KEEP_ENTRY_CNT, BAT_STAT]) :
    s.enterKeep.rd a = if keepAddr a then s.rd a else resetOf a := by
  obtain ⟨-, -, -, -, hmark, -⟩ := endsOn_out ha
  simp only [List.mem_cons, List.not_mem_nil, or_false, not_or] at hout
  obtain ⟨hlast, hcount, hseen⟩ := hout
  rw [State.enterKeep_eq, State.keepEntryNoted_rd _ hcount hmark hseen, State.lastStateNoted_rd _ _ _ hlast hmark]
  exact cellGet_filter_keepAddr s.cells a

/-- What an entry to KEEP notes (R133). -/
theorem State.enterKeep_shows (s : State) :
    s.enterKeep.g KEEP_LAST_STATE_cause = 1 ∧ s.enterKeep.g KEEP_LAST_STATE_state = s.dev.code ∧
      s.enterKeep.g (cnt16 KEEP_ENTRY_CNT) = min (s.g (cnt16 KEEP_ENTRY_CNT) + 1) 65535 := by
  have hheld : keepAddr KEEP_ENTRY_CNT = true := by decide
  obtain ⟨hcause, hstate⟩ := s.keepKept.lastStateNoted_shows (cause := 1) (by decide) s.dev
  have hlast := (s.keepKept.lastStateNoted 1 s.dev).keepEntryNoted_rd (a := KEEP_LAST_STATE) (by decide) (by decide)
    (by decide)
  have hcount : (s.keepKept.lastStateNoted 1 s.dev).rd KEEP_ENTRY_CNT = s.rd KEEP_ENTRY_CNT := by
    rw [State.lastStateNoted_rd _ _ _ (by decide) (by decide)]
    refine (cellGet_filter_keepAddr s.cells KEEP_ENTRY_CNT).trans ?_
    rw [hheld]
    rfl
  rw [State.enterKeep_eq]
  refine ⟨(State.g_of_rd hlast).trans hcause, (State.g_of_rd hlast).trans hstate, ?_⟩
  rw [State.keepEntryNoted_count, State.g_of_rd (f := cnt16 KEEP_ENTRY_CNT) hcount]

theorem exec_mainSupplyLost_of_powered (at_ : TT) (s : State) (hpowered : (s.atTime at_).dev.powered = true) :
    ∃ t, exec (.mainSupplyLost at_) s = .next t ∧ t.dev = .keep ∧ t.g KEEP_LAST_STATE_cause = 1 ∧
      t.g KEEP_LAST_STATE_state = (s.atTime at_).dev.code ∧
      t.g (cnt16 KEEP_ENTRY_CNT) = min (s.g (cnt16 KEEP_ENTRY_CNT) + 1) 65535 ∧
      (∀ a, endsOn a = false → a ∉ [KEEP_LAST_STATE, KEEP_ENTRY_CNT, BAT_STAT] →
        t.rd a = if keepAddr a then s.rd a else resetOf a) ∧ t.cfg.fuses = (s.atTime at_).cfg.fuses := by
  have hexec : exec (.mainSupplyLost at_) s = .next ((s.atTime at_).enterKeep.ended s) := by
    show Host.Outcome.next (State.ended (if (s.atTime at_).dev.powered then _ else _) s) = _
    rw [hpowered]
    rfl
  obtain ⟨_, _, hframe⟩ := (s.atTime at_).enterKeep_frame
  obtain ⟨hcause, hstate, hcount⟩ := (s.atTime at_).enterKeep_shows
  have hdev : (s.atTime at_).enterKeep.dev = .keep := (congrArg State.dev hframe :)
  refine ⟨_, hexec, ?_, (State.ended_g _ _ (by decide)).trans hcause, (State.ended_g _ _ (by decide)).trans hstate, ?_,
    fun a ha hout => ?_, ?_⟩
  · rw [State.ended_dev, hdev]
    rfl
  · rw [State.ended_g _ _ (by decide), hcount, State.atTime_g]
  · rw [State.ended_rd _ _ ha, State.enterKeep_rd _ ha hout, State.atTime_rd]
  · rw [State.ended_cfg]
    exact (congrArg (fun t : State => t.cfg.fuses) hframe :)

/-! ### OFF -/

/-- A device without pins that it drives meets no conflict (R425). -/
theorem State.pinScan_rd_of_inactive {s : State} (h : s.dev.active = false) (a : Nat) : s.pinScan.rd a = s.rd a := by
  have hnone : (List.range 64).filter s.inConflict = [] :=
    List.filter_eq_nil_iff.mpr fun p _ => by simp [State.inConflict, h]
  unfold State.pinScan
  rw [hnone]
  rfl

/-- In OFF no command ends with a change of a register. -/
theorem State.ended_rd_of_off {s : State} (h : s.dev = .off) (old : State) (a : Nat) : (s.ended old).rd a = s.rd a := by
  have hmark : s.markKeep old = s := by
    rw [State.markKeep, if_pos (.inl h)]
  have hfollow : s.follow = s := by
    rw [State.follow, h]
    rfl
  have hidle : s.trackIdle = s := by
    rw [State.trackIdle, h]
    rfl
  obtain ⟨_, htap⟩ := s.pinScan.tapReturn_eq
  rw [State.ended, State.settle, hmark, hfollow, hidle, htap]
  exact State.pinScan_rd_of_inactive (by rw [h]; rfl) a

theorem exec_powerOff_leaves_fuses (at_ : TT) (s : State) :
    ∃ t, exec (.powerOff at_) s = .next t ∧ t.dev = .off ∧ (∀ a, t.rd a = resetOf a) ∧
      t.cfg.fuses = (s.atTime at_).cfg.fuses := by
  have hexec : exec (.powerOff at_) s = .next ((s.atTime at_).enterOff.ended s) := rfl
  have hdev : (s.atTime at_).enterOff.dev = .off := rfl
  refine ⟨_, hexec, ?_, fun a => State.ended_rd_of_off hdev s a, ?_⟩
  · rw [State.ended_dev, hdev]
    rfl
  · rw [State.ended_cfg]
    rfl

/-! ### The rails come up, and RESET is left -/

theorem exec_mainRailsUp_of_unpowered (at_ : TT) (mode a1 a0 : Bool) (s : State)
    (hunpowered : (s.atTime at_).dev.powered = false) :
    ∃ t, exec (.mainRailsUp at_ mode a1 a0) s = .next t ∧ t.dev = .reset ∧ t.obs.i2c = mode ∧
      t.obs.addrLow.getLsbD 1 = a1 ∧ t.obs.addrLow.getLsbD 0 = a0 ∧
      ((s.atTime at_).pwr.softErrs = [] → ∀ a, endsOn a = false → t.rd a = if keepAddr a then s.rd a else resetOf a) ∧
      t.cfg.fuses = (s.atTime at_).cfg.fuses := by
  have hexec : exec (.mainRailsUp at_ mode a1 a0) s = .next (((s.atTime at_).powerUp mode a1 a0).ended s) := by
    show Host.Outcome.next (State.ended (if (s.atTime at_).dev.powered then _ else _) s) = _
    rw [hunpowered]
    rfl
  have hstraps : ∀ a1 a0 : Bool, ((if a1 then 2 else 0) + (if a0 then 1 else 0) : BitVec 2).getLsbD 1 = a1 ∧
      ((if a1 then 2 else 0) + (if a0 then 1 else 0) : BitVec 2).getLsbD 0 = a0 := by decide
  obtain ⟨hhigh, hlow⟩ := hstraps a1 a0
  obtain ⟨_, _, hscrub⟩ := ((s.atTime at_).enterReset none 0).scrubKeep_frame
  have hdev : ((s.atTime at_).powerUp mode a1 a0).dev = .reset := (congrArg State.dev hscrub :)
  refine ⟨_, hexec, ?_, ?_, ?_, ?_, fun hclean a ha => ?_, ?_⟩
  · rw [State.ended_dev, hdev]
    rfl
  · rw [State.ended_obs]
    rfl
  · rw [State.ended_obs]
    exact hhigh
  · rw [State.ended_obs]
    exact hlow
  · have hkept : ((s.atTime at_).enterReset none 0).scrubKeep = (s.atTime at_).resetKept 0 := State.scrubKeep_of_clean hclean
    rw [State.ended_rd _ _ ha, State.powerUp, hkept]
    refine ((s.atTime at_).resetKept_rd 0 a).trans ?_
    rw [State.atTime_rd]
  · rw [State.ended_cfg]
    exact (congrArg (fun t : State => t.cfg.fuses) hscrub :)

/-- The registers that the end of RESET changes (R132). -/
def releaseRegs : List Nat := [SYS_RESET_CAUSE, CFG_STAT, CFG_AO_SEC_AT_LOAD]

/-- The device in LOAD, its causes of RESET shown (R132). -/
def State.causesShown (s : State) : State :=
  let s := (s.wr SYS_RESET_CAUSE (s.pwr.causes.zeroExtend 32)).changeState .load
  { s with pwr := { s.pwr with resetN := true, causes := 0 } }

/-- The loader starts (R132). -/
def State.loadStarted (s : State) : State :=
  ((s.pb CFG_STAT_loading true).p CFG_STAT_slot 3).wr CFG_AO_SEC_AT_LOAD (s.keepRd 4)

theorem State.leaveReset_eq (s : State) : s.leaveReset = s.causesShown.loadStarted := rfl

theorem State.causesShown_spares {l : List Nat} (h : SYS_RESET_CAUSE ∈ l) (s : State) : s.Spares (Outside l) s.causesShown :=
  ((((Spares.refl s).wr (not_outside_of_mem h) (s.pwr.causes.zeroExtend 32)).trans
    (State.changeState_spares _ .load))).of_cells rfl rfl

theorem State.loadStarted_spares {l : List Nat} (hstat : CFG_STAT ∈ l) (hsec : CFG_AO_SEC_AT_LOAD ∈ l) (s : State) :
    s.Spares (Outside l) s.loadStarted :=
  (((Spares.refl s).pb (f := CFG_STAT_loading) (not_outside_of_mem hstat) true).p (f := CFG_STAT_slot)
    (not_outside_of_mem hstat) 3).wr (not_outside_of_mem hsec) _

theorem State.loadStarted_shows (s : State) :
    s.loadStarted.bit CFG_STAT_loading = true ∧ s.loadStarted.g CFG_STAT_slot = 3 ∧
      s.loadStarted.rd CFG_AO_SEC_AT_LOAD = s.keepRd 4 := by
  have hword : s.loadStarted.rd CFG_STAT = ((s.pb CFG_STAT_loading true).p CFG_STAT_slot 3).rd CFG_STAT :=
    State.rd_wr_ne _ (by decide) _
  refine ⟨?_, ?_, State.rd_wr_same _ _ _⟩
  · rw [State.bit, State.g_of_rd (f := CFG_STAT_loading) hword, State.g_p_ne _ _ _ _ (by decide) (by decide) (by decide)]
    exact State.bit_pb_same s CFG_STAT_loading true (by decide) (by decide)
  · rw [State.g_of_rd (f := CFG_STAT_slot) hword, State.g_p_same _ _ _ (by decide) (by decide)]
    rfl

theorem State.causesShown_keepRd (s : State) (n : Nat) (hn : endsOn (keepWordAt n) = false)
    (hne : keepWordAt n ≠ SYS_RESET_CAUSE) : s.causesShown.keepRd n = s.keepRd n := by
  obtain ⟨_, _, hchange⟩ := (s.wr SYS_RESET_CAUSE (s.pwr.causes.zeroExtend 32)).changeState_eq .load
  have herrs : s.causesShown.pwr.softErrs = s.pwr.softErrs := (congrArg (fun t : State => t.pwr.softErrs) hchange :)
  have hword := (State.causesShown_spares (l := [SYS_RESET_CAUSE]) (by decide) s).rd (keepWordAt n) ⟨hn, by simpa using hne⟩
  rw [State.keepRd, State.keepRd, State.keepValue, State.keepValue, herrs, hword]

theorem State.leaveReset_spares (s : State) : s.Spares (Outside releaseRegs) s.leaveReset :=
  (State.causesShown_spares (by decide) s).trans (State.loadStarted_spares (by decide) (by decide) _)

/-- What the end of RESET shows (R132). -/
theorem State.leaveReset_shows (s : State) :
    s.leaveReset.rd SYS_RESET_CAUSE = s.pwr.causes.zeroExtend 32 ∧ s.leaveReset.bit CFG_STAT_loading = true ∧
      s.leaveReset.g CFG_STAT_slot = 3 ∧ s.leaveReset.rd CFG_AO_SEC_AT_LOAD = s.keepRd 4 := by
  obtain ⟨hloading, hslot, hsec⟩ := s.causesShown.loadStarted_shows
  refine ⟨?_, hloading, hslot, hsec.trans (s.causesShown_keepRd 4 (by decide) (by decide))⟩
  rw [State.leaveReset_eq, (State.loadStarted_spares (l := [CFG_STAT, CFG_AO_SEC_AT_LOAD]) (by decide) (by decide) _).rd _
    (by decide)]
  exact (State.changeState_rd _ .load (by decide)).trans (State.rd_wr_same _ _ _)

theorem exec_resetRelease_of_reset (at_ : TT) (s : State) (hreset : (s.atTime at_).dev = .reset) :
    ∃ t, exec (.resetRelease at_) s = .next t ∧ t.dev = .load ∧
      t.rd SYS_RESET_CAUSE = (s.atTime at_).pwr.causes.zeroExtend 32 ∧ t.bit CFG_STAT_loading = true ∧
      t.g CFG_STAT_slot = 3 ∧ t.rd CFG_AO_SEC_AT_LOAD = (s.atTime at_).keepRd 4 ∧ t.pwr.resetN = true ∧
      keepsRegs s t releaseRegs ∧ keepsMemory s t := by
  have hexec : exec (.resetRelease at_) s = .next ((s.atTime at_).leaveReset.ended s) := by
    show Host.Outcome.next (State.ended (if (s.atTime at_).dev == .reset then _ else _) s) = _
    rw [hreset]
    rfl
  obtain ⟨hcause, hloading, hslot, hsec⟩ := (s.atTime at_).leaveReset_shows
  have hspares := (s.atTime at_).leaveReset_spares
  have hdev : (s.atTime at_).leaveReset.dev = .load := State.changeState_dev _ .load
  obtain ⟨_, _, _, hended⟩ := (s.atTime at_).leaveReset.ended_pwr s
  refine ⟨_, hexec, ?_, (State.ended_rd _ _ (by decide)).trans hcause, ?_, (State.ended_g _ _ (by decide)).trans hslot,
    (State.ended_rd _ _ (by decide)).trans hsec, ?_, keepsRegs_of_spares hspares, keepsMemory_of_spares hspares⟩
  · rw [State.ended_dev, hdev]
    rfl
  · rw [State.bit, State.ended_g _ _ (by decide)]
    exact hloading
  · exact (congrArg (fun p => p.resetN) hended :)

end Sys2Proof.Machine

/-! ### The obligation -/

/-- Settles O30: the loss of the main supply, of both supplies, and the way back through RESET to LOAD. -/
theorem suppliesComeAndGo : Obligations.SuppliesComeAndGo :=
  ⟨exec_mainSupplyLost_of_powered, exec_powerOff_leaves_fuses, exec_mainRailsUp_of_unpowered, exec_resetRelease_of_reset⟩
end

section
/-! What the cue engine, the cue script and the monitors leave of the power states (R138, R143). -/

open Sys2Proof Sys2Proof.Machine

namespace Sys2Proof.Machine

/-! ### What leaves the power states -/

/-- A register of the system block or of the battery block, but the count of naps. -/
abbrev InSys (a : Nat) : Prop := a < 0x10000 ∧ a ≠ SYS_NAP_CNT

theorem not_inSys_add (b n : Nat) (h : 0x10000 ≤ b) : ¬ InSys (b + n) := by omega

/-- Of the device state, the supplies and the sleeping resources nothing changes but that resources wake, with their naps;
nor do the clock, the registers of the system, and frame memory. -/
structure State.KeepsPower (s t : State) : Prop extends State.Spares InSys s t where
  pwr : ∃ r n, t.pwr = { s.pwr with res := r, naps := n }
  clock : t.clock = s.clock

namespace State.KeepsPower

variable {s t u : State}

theorem refl (s : State) : s.KeepsPower s := ⟨.refl s, ⟨_, _, rfl⟩, rfl⟩

theorem trans (h : s.KeepsPower t) (h' : t.KeepsPower u) : s.KeepsPower u := by
  refine ⟨h.toSpares.trans h'.toSpares, ?_, h'.clock.trans h.clock⟩
  obtain ⟨r, n, hst⟩ := h.pwr
  obtain ⟨r', n', htu⟩ := h'.pwr
  exact ⟨r', n', by rw [htu, hst]⟩

/-- An update of parts of the state that the power states do not rest on. -/
theorem of_parts (h : s.KeepsPower t) (hc : u.cells = t.cells) (hf : u.fm = t.fm) (hp : u.pwr = t.pwr)
    (hk : u.clock = t.clock) : s.KeepsPower u :=
  ⟨h.toSpares.of_cells hc hf, by rw [hp]; exact h.pwr, hk.trans h.clock⟩

theorem wr (h : s.KeepsPower t) {a : Nat} (ha : ¬ InSys a) (v : W32) : s.KeepsPower (t.wr a v) :=
  ⟨h.toSpares.wr ha v, h.pwr, h.clock⟩

theorem p (h : s.KeepsPower t) {f : Fld} (hf : ¬ InSys f.addr) (v : Nat) : s.KeepsPower (t.p f v) := h.wr hf _

theorem pb (h : s.KeepsPower t) {f : Fld} (hf : ¬ InSys f.addr) (b : Bool) : s.KeepsPower (t.pb f b) := h.p hf _

theorem inc (h : s.KeepsPower t) {f : Fld} (hf : ¬ InSys f.addr) : s.KeepsPower (t.inc f) := h.p hf _

theorem incWrap (h : s.KeepsPower t) {f : Fld} (hf : ¬ InSys f.addr) : s.KeepsPower (t.incWrap f) := h.p hf _

theorem raise (h : s.KeepsPower t) {f : Fld} (hf : ¬ InSys f.addr) (v : Nat) : s.KeepsPower (t.raise f v) := h.p hf _

theorem setBitOf (h : s.KeepsPower t) {a : Nat} (ha : ¬ InSys a) (i : Nat) (b : Bool) : s.KeepsPower (t.setBitOf a i b) :=
  h.pb (f := ⟨a, i, i⟩) ha b

theorem event (h : s.KeepsPower t) {code : Nat} (hc : code < 64) (svc : Nat) (d : W32) (cause : Nat) :
    s.KeepsPower (t.event code svc d cause) := by
  have hspares := h.toSpares.event (fun a (ha : InSys a) => by unfold inLog; omega) hc svc d cause
  obtain ⟨c, l, he⟩ := State.event_eq t code svc d cause
  rw [he] at hspares ⊢
  exact ⟨hspares, h.pwr, h.clock⟩

theorem each {α : Type} (h : s.KeepsPower t) {f : State → α → State} (hf : ∀ s x, State.KeepsPower s (f s x)) (l : List α) :
    s.KeepsPower (t.each l f) :=
  h.trans (State.each_rel State.KeepsPower f l refl (fun _ _ _ => trans) hf t)

theorem when (h : s.KeepsPower t) (b : Bool) {f : State → State} (hf : ∀ s, State.KeepsPower s (f s)) :
    s.KeepsPower (t.when b f) := by
  cases b with
  | false => exact h
  | true => exact h.trans (hf t)

/-- What each step of a fold leaves, the fold leaves. -/
theorem foldl {α β : Type} (F : β → State) (f : β → α → β) (h : ∀ b a, (F b).KeepsPower (F (f b a))) (l : List α) (b : β) :
    (F b).KeepsPower (F (l.foldl f b)) := by
  induction l generalizing b with
  | nil => exact .refl _
  | cons a l ih => exact (h b a).trans (ih (f b a))

theorem of_wakesTo (h : s.WakesTo t) : s.KeepsPower t := by
  obtain ⟨c, r, n, hframe⟩ := h.frame
  exact ⟨⟨fun a ha => h.rd a ha.2, h.fm⟩, ⟨r, n, by rw [hframe]⟩, h.clock⟩

theorem setEntries (h : s.KeepsPower t) (l : List Entry) : s.KeepsPower (t.setEntries l) := h.of_parts rfl rfl rfl rfl

theorem updEntry (h : s.KeepsPower t) (id : CueId) (f : Entry → Entry) : s.KeepsPower (t.updEntry id f) := h.setEntries _

theorem setScript (h : s.KeepsPower t) (e : Nat) (x : ScriptSt) : s.KeepsPower (t.setScript e x) := h.of_parts rfl rfl rfl rfl

theorem setPort (h : s.KeepsPower t) (p : Nat) (x : PortSt) : s.KeepsPower (t.setPort p x) := h.of_parts rfl rfl rfl rfl

theorem setMon (h : s.KeepsPower t) (m : Nat) (x : MonSt) : s.KeepsPower (t.setMon m x) := h.of_parts rfl rfl rfl rfl

theorem dev (h : s.KeepsPower t) : t.dev = s.dev := by
  obtain ⟨r, n, hpwr⟩ := h.pwr
  rw [State.dev, hpwr]

theorem elapsed (h : s.KeepsPower t) : t.elapsed = s.elapsed := congrArg (fun c => c.elapsed) h.clock

end State.KeepsPower

/-! ### Cues -/

theorem State.keepsPower_countReject (s : State) (svc : Nat) (seq : W32) (why : Nat) :
    s.KeepsPower (s.countReject svc seq why) := by
  have hcount : s.KeepsPower (if why = whyQuota then (s.inc (cnt16 CUE_QUOTA_CNT)).inc (SV_CUE_CNT_quota svc)
      else s.inc (cnt16 CUE_REJECT_CNT)) := by
    split
    · exact ((KeepsPower.refl s).inc (by decide)).inc (not_inSys_add _ _ (by decide))
    · exact (KeepsPower.refl s).inc (by decide)
  exact (((hcount.wr (by decide) _).p (by decide) _).p (by decide) _).event (by decide) _ _ _

theorem State.keepsPower_dropChain (s : State) (id : CueId) : s.KeepsPower (s.dropChain id) := by
  unfold State.dropChain
  split
  · exact .refl s
  · exact (((KeepsPower.refl s).setEntries _).inc (by decide)).event (by decide) _ _ _

theorem State.keepsPower_lastInstance (s : State) (e : Nat) : s.KeepsPower (s.lastInstance e) := by
  unfold State.lastInstance
  split
  · exact (KeepsPower.refl s).when _ fun s => (KeepsPower.refl s).setBitOf (not_inSys_add _ _ (by decide)) _ _
  · exact .refl s

theorem State.keepsPower_askNext (s : State) (e : Entry) : s.KeepsPower (s.askNext e) := by
  unfold State.askNext
  split
  · exact (KeepsPower.refl s).of_parts rfl rfl rfl rfl
  · exact .refl s

theorem State.keepsPower_removeEntry (s : State) (e : Entry) : s.KeepsPower (s.removeEntry e) :=
  ((KeepsPower.refl s).setEntries _).trans (State.keepsPower_askNext _ e)

theorem State.keepsPower_removeCue (s : State) (e : Entry) : s.KeepsPower (s.removeCue e) :=
  (s.keepsPower_removeEntry e).trans (State.keepsPower_dropChain _ e.id)

theorem State.keepsPower_finishCue (s : State) (e : Entry) : s.KeepsPower (s.finishCue e) :=
  (((KeepsPower.refl s).when _ fun s => (KeepsPower.refl s).event (by decide) _ _ _).trans
    (State.keepsPower_removeEntry _ e)).setEntries _

theorem State.keepsPower_sceneDone (s : State) (e : Entry) : s.KeepsPower (s.sceneDone e) := by
  unfold State.sceneDone
  split_ifs
  · exact .refl s
  · exact .refl s
  · split
    · exact s.keepsPower_finishCue _
    · exact .refl s

theorem State.keepsPower_wake (s : State) (r : Nat) : s.KeepsPower (s.wake r) := .of_wakesTo (s.wake_wakesTo r)

theorem State.keepsPower_wakeCue (s : State) (e : Entry) : s.KeepsPower (s.wakeCue e) :=
  ((KeepsPower.refl s).each State.keepsPower_wake _).updEntry _ _

theorem State.keepsPower_becomeLate (s : State) (e : Entry) : s.KeepsPower (s.becomeLate e) := by
  have hlogged : s.KeepsPower (((s.eventNow 0x11 (recSvc e.rec_) ((e.rec_.seq <<< 2) ||| BitVec.ofNat 32
      (recPolicy e.rec_))).inc (cnt16 CUE_LATE_CNT)).inc (SV_CUE_CNT_late (recSvc e.rec_))) :=
    (((KeepsPower.refl s).event (by decide) _ _ _).inc (by decide)).inc (not_inSys_add _ _ (by decide))
  simp only [State.becomeLate]
  split_ifs
  · exact .refl s
  · exact (hlogged.inc (by decide)).trans (State.keepsPower_removeCue _ e)
  · exact ((hlogged.inc (by decide)).setEntries _).trans (State.keepsPower_sceneDone _ e)
  · exact (hlogged.trans (State.keepsPower_wakeCue _ e)).updEntry _ _

theorem State.keepsPower_goQueued (s : State) (id : CueId) (launch : Nat) : s.KeepsPower (s.goQueued id launch) := by
  simp only [State.goQueued]
  split
  · exact (KeepsPower.refl s).updEntry id _
  · split_ifs
    · exact ((KeepsPower.refl s).updEntry id _).trans (State.keepsPower_becomeLate _ _)
    · exact ((KeepsPower.refl s).updEntry id _).trans (State.keepsPower_wakeCue _ _)
    · exact (KeepsPower.refl s).updEntry id _

theorem State.keepsPower_dedupe (s : State) (origin : MemberId) (seq : W32) : s.KeepsPower (s.dedupe origin seq).2 := by
  have hput (l : List DedupSt) : s.KeepsPower { s with cue := { s.cue with dedup := l } } :=
    (KeepsPower.refl s).of_parts rfl rfl rfl rfl
  simp only [State.dedupe]
  split
  · exact hput _
  · split_ifs
    all_goals exact hput _

theorem not_inSys_sourceCnt (src : CueSource) : ¬ InSys (sourceCnt src) := by
  cases src <;> exact not_inSys_add _ _ (by decide)

/-- An accepted cue takes its place in the queue, armed with its preroll or queued. -/
theorem State.keepsPower_addEntry (s : State) (src : CueSource) (r : CueRec) (script : Option Nat) (after : Option CueId) :
    s.KeepsPower (s.addEntry src r script after).2 := by
  have hseq (b : Bool) (v : W32) : s.KeepsPower (if b then s else s.wr CUE_SEQ v) := by
    cases b with
    | false => exact (KeepsPower.refl s).wr (by decide) v
    | true => exact .refl s
  have hcounted (t : State) (h : s.KeepsPower t) (q : CueSt) (n : Nat) : s.KeepsPower
      ((({ t with cue := q } : State).incWrap (word (sourceCnt src))).raise ⟨CUE_PEAK, 12, 0⟩ n) :=
    ((h.of_parts (u := { t with cue := q }) rfl rfl rfl rfl).incWrap (not_inSys_sourceCnt src)).raise (by decide) n
  have hplaced (t : State) (h : s.KeepsPower t) (armed queued : Bool) (e : Entry) (id : CueId) (n : Nat) :
      s.KeepsPower (if armed then t.wakeCue e else if queued then t.goQueued id n else t) := by
    split
    · exact h.trans (t.keepsPower_wakeCue e)
    · split
      · exact h.trans (t.keepsPower_goQueued id n)
      · exact h
  exact hplaced _ (hcounted _ (hseq _ _) _ _) _ _ _ _ _

/-! ### Frames -/

theorem State.keepsPower_putOnWire (s : State) (p : Nat) (f : AxFrame) : s.KeepsPower (s.putOnWire p f) := by
  have hsent (x y : PortSt) (w : List (Nat × AxFrame)) : s.KeepsPower ((({ s.setPort p x with
      ax := { (s.setPort p x).ax with wire := w } } : State).setPort p y).incWrap (word (AX_TX_FRAME_CNT p))) :=
    ((((KeepsPower.refl s).setPort p x).of_parts (u := { s.setPort p x with
      ax := { (s.setPort p x).ax with wire := w } }) rfl rfl rfl rfl).setPort p y).incWrap (not_inSys_add _ _ (by decide))
  exact hsent _ _ _

theorem State.keepsPower_sendFrame (s : State) (p : Nat) (f : AxFrame) : s.KeepsPower (s.sendFrame p f) := by
  have hcredit : s.KeepsPower (match creditOf p f.cls with | some c => s.p c (s.g c - f.cost) | none => s) := by
    unfold creditOf
    split_ifs
    · exact (KeepsPower.refl s).p (not_inSys_add _ _ (by decide)) _
    · exact (KeepsPower.refl s).p (not_inSys_add _ _ (by decide)) _
    · exact (KeepsPower.refl s).p (not_inSys_add _ _ (by decide)) _
    · exact .refl s
  simp only [State.sendFrame]
  split_ifs
  · exact .refl s
  · exact hcredit.trans (State.keepsPower_putOnWire _ _ _)
  · exact (KeepsPower.refl s).setPort _ _

theorem State.keepsPower_floodCue (s : State) (r : CueRec) (but : Option Nat) : s.KeepsPower (s.floodCue r but) := by
  have hport (s : State) (p : Nat) : s.KeepsPower (if s.treePort p && but != some p then
      s.sendFrame p { s.frame clCue 0 0 (cueWords r) with bcast := true, source := r.origin.truncate 12 } else s) := by
    split
    · exact s.keepsPower_sendFrame p _
    · exact .refl s
  simp only [State.floodCue]
  split
  · exact .refl s
  · exact ((KeepsPower.refl s).each hport _).of_parts rfl rfl rfl rfl

/-! ### Scripts and events -/

theorem State.keepsPower_acceptChain (s : State) (src : CueSource) (recs : List CueRec) (open_ : Bool)
    (script : Option Nat) : s.KeepsPower (s.acceptChain src recs open_ script).2 := by
  unfold State.acceptChain
  split
  · exact (KeepsPower.refl s).each (fun s _ => s.keepsPower_countReject _ _ _) _
  · refine KeepsPower.foldl (fun acc : List Taken × Option CueId × State => acc.2.2) _ (fun acc r => ?_) recs ([], none, s)
    refine ((State.keepsPower_addEntry _ _ _ _ _).when _ fun t => ?_).when _ fun t => t.keepsPower_dedupe _ _
    split
    · exact t.keepsPower_floodCue _ _
    · exact t.keepsPower_floodCue _ _

theorem State.keepsPower_insertScript (s : State) (e : Nat) : s.KeepsPower (s.insertScript e) := by
  have hnoted (recs : List CueRec) (open_ ok : Bool) (x y : ScriptSt) : s.KeepsPower
      (if ok then (s.acceptChain .script recs open_ (some e)).2.setScript e x
        else (s.acceptChain .script recs open_ (some e)).2.setScript e y) := by
    split
    · exact (s.keepsPower_acceptChain _ _ _ _).setScript e x
    · exact (s.keepsPower_acceptChain _ _ _ _).setScript e y
  unfold State.insertScript
  split
  · exact .refl s
  · split_ifs
    · exact .refl s
    · exact (KeepsPower.refl s).setBitOf (not_inSys_add _ _ (by decide)) _ _
    · dsimp only
      split
      · exact .refl s
      · exact hnoted _ _ _ _ _

theorem State.keepsPower_enableScript (s : State) (e : Nat) : s.KeepsPower (s.enableScript e) := by
  unfold State.enableScript
  split
  · exact .refl s
  · exact ((KeepsPower.refl s).setScript e _).trans (State.keepsPower_insertScript _ e)

theorem State.keepsPower_disableScript (s : State) (e : Nat) : s.KeepsPower (s.disableScript e) :=
  (KeepsPower.refl s).of_parts rfl rfl rfl rfl

theorem State.keepsPower_dropInstances (s : State) : s.KeepsPower s.dropInstances :=
  (KeepsPower.refl s).each State.keepsPower_disableScript _

theorem State.keepsPower_enableScripts (s : State) : s.KeepsPower s.enableScripts := by
  unfold State.enableScripts
  split
  · exact (KeepsPower.refl s).each State.keepsPower_enableScript _
  · exact .refl s

theorem State.keepsPower_nextInstances (s : State) : s.KeepsPower s.nextInstances := by
  have hstart (q : CueSt) : s.KeepsPower { s with cue := q } := (KeepsPower.refl s).of_parts rfl rfl rfl rfl
  refine (hstart _).each (fun s e => ?_) _
  split
  · exact s.keepsPower_insertScript e
  · exact s.keepsPower_lastInstance e

theorem State.keepsPower_fire (s : State) (src cause : Nat) : s.KeepsPower (s.fire src cause) :=
  (((KeepsPower.refl s).setEntries _).each (fun s e => (s.keepsPower_askNext e).updEntry _ _) _).trans
    (State.keepsPower_nextInstances _)

/-! ### Monitors -/

theorem State.keepsPower_monReport (s : State) (m : Nat) (before : Bool) (cause : Nat) :
    s.KeepsPower (s.monReport m before cause) := by
  simp only [State.monReport]
  split_ifs
  · exact .refl s
  · exact ((KeepsPower.refl s).inc (not_inSys_add _ _ (by decide))).trans (State.keepsPower_fire _ _ _)
  · exact s.keepsPower_fire _ _

theorem not_inSys_wmStat (m : Nat) : ¬ InSys (WM_STAT m) := not_inSys_add _ _ (by decide)

theorem State.keepsPower_setLive (s : State) (m : Nat) (v side : Bool) (cause : Nat) :
    s.KeepsPower (s.setLive m v side cause) := by
  have hstat := not_inSys_wmStat m
  have hflags (t : State) (h : s.KeepsPower t) : s.KeepsPower (if t.bit (WM_CTL_mode m) then
      (if v then t.pb (WM_STAT_rise m) true else t.pb (WM_STAT_fall m) true)
      else t.when v (fun s => s.pb (WM_STAT_latched m) true)) := by
    split
    · split
      · exact h.pb (f := WM_STAT_rise m) hstat true
      · exact h.pb (f := WM_STAT_fall m) hstat true
    · exact h.when v fun s => (KeepsPower.refl s).pb (f := WM_STAT_latched m) hstat true
  simp only [State.setLive]
  split
  · exact .refl s
  · refine (hflags _ ?_).trans (State.keepsPower_monReport _ _ _ _)
    exact (((KeepsPower.refl s).pb (f := WM_STAT_live m) hstat v).setMon m _).when v fun s =>
      (KeepsPower.refl s).pb (f := WM_STAT_side m) hstat side

theorem State.keepsPower_monBlank (s : State) (m : Nat) : s.KeepsPower (s.monBlank m) := by
  have hput (b : Bool) := (KeepsPower.refl s).pb (f := WM_STAT_blanked m) (not_inSys_wmStat m) b
  simp only [State.monBlank]
  split
  · exact .refl s
  · split
    · exact hput _
    · exact (hput _).trans (State.keepsPower_setLive _ _ _ _ _)

theorem State.keepsPower_monStop (s : State) (m : Nat) : s.KeepsPower (s.monStop m) := by
  have hstat := not_inSys_wmStat m
  exact ((((((KeepsPower.refl s).pb (f := WM_STAT_live m) hstat false).pb (f := WM_STAT_latched m) hstat false).trans
    (State.keepsPower_monReport _ m (s.reported m) s.now)).pb (f := WM_STAT_ready m) hstat false).pb
      (f := WM_STAT_blanked m) hstat false).setMon m _

theorem State.keepsPower_monsRestart (s : State) : s.KeepsPower s.monsRestart := by
  refine (KeepsPower.refl s).each (fun s m => ?_) _
  dsimp only
  split
  · exact ((s.keepsPower_monStop m).setMon m _).trans (State.keepsPower_monBlank _ m)
  · exact s.keepsPower_monStop m

/-! ### Resources in use -/

theorem State.keepsPower_wakeUsed (s : State) (r : Nat) : s.KeepsPower (s.wakeUsed r) := by
  unfold State.wakeUsed
  split
  · exact s.keepsPower_wake r
  · exact .refl s

theorem State.keepsPower_wakeAllUsed (s : State) : s.KeepsPower s.wakeAllUsed :=
  (KeepsPower.refl s).each State.keepsPower_wakeUsed _

end Sys2Proof.Machine
end

section
/-! Wakes from STANDBY (R149), and the resets and requests of the device states. -/

open Sys2Proof Sys2Proof.Machine

namespace Sys2Proof.Machine

/-! ### A remote access under way outlasts a wake -/

theorem State.keepsTime_monStop (s : State) (m : Nat) : s.KeepsTime (s.monStop m) := by
  have hstat := not_inTb_wmStat m
  exact ((((((KeepsTime.refl s).pb (f := WM_STAT_live m) hstat false).pb (f := WM_STAT_latched m) hstat false).trans
    (State.keepsTime_monReport _ m (s.reported m) s.now)).pb (f := WM_STAT_ready m) hstat false).pb
      (f := WM_STAT_blanked m) hstat false).setMon m _

theorem State.keepsTime_monsRestart (s : State) : s.KeepsTime s.monsRestart := by
  refine (KeepsTime.refl s).each (fun s m => ?_) _
  dsimp only
  split
  · exact ((s.keepsTime_monStop m).setMon m _).trans (State.keepsTime_monBlank _ m)
  · exact s.keepsTime_monStop m

theorem State.keepsTime_disableScript (s : State) (e : Nat) : s.KeepsTime (s.disableScript e) :=
  (KeepsTime.refl s).of_parts rfl rfl rfl rfl

theorem State.keepsTime_dropInstances (s : State) : s.KeepsTime s.dropInstances :=
  (KeepsTime.refl s).each State.keepsTime_disableScript _

theorem State.keepsTime_enableScripts (s : State) : s.KeepsTime s.enableScripts := by
  unfold State.enableScripts
  split
  · exact (KeepsTime.refl s).each (fun s e => (s.enableScript_keeps e).2) _
  · exact .refl s

theorem State.keepsTime_wakeAllUsed (s : State) : s.KeepsTime s.wakeAllUsed := by
  refine (KeepsTime.refl s).each (fun s r => ?_) _
  unfold State.wakeUsed
  split
  · exact s.keepsTime_wake r
  · exact .refl s

/-! ### Entry to WIND -/

/-- Entry to WIND before what starts with it. -/
def State.windNoted (s : State) : State :=
  let s := s.changeState .wind
  { s with
    pwr := { s.pwr with sinceNap := [], windAt := s.elapsed, kclkAt := s.elapsed, releaseAt := s.elapsed }
    tb := { s.tb with driftFrom := s.elapsed }
    pin := { s.pin with time := timeLevels s.now } }

theorem State.enterWind_eq (s : State) : s.enterWind =
    s.windNoted.monsRestart.dropInstances.enableScripts.wakeAllUsed := rfl

/-- What starts with WIND, after frame memory has been woken too. -/
theorem State.windStarts_keepsPower (s : State) :
    s.KeepsPower (s.monsRestart.dropInstances.enableScripts.wakeAllUsed.wake rFm) :=
  ((((s.keepsPower_monsRestart.trans (State.keepsPower_dropInstances _)).trans (State.keepsPower_enableScripts _)).trans
    (State.keepsPower_wakeAllUsed _))).trans (State.keepsPower_wake _ rFm)

theorem State.windStarts_rmt (s : State) :
    (s.monsRestart.dropInstances.enableScripts.wakeAllUsed.wake rFm).ax.rmt = s.ax.rmt :=
  (((((s.keepsTime_monsRestart.trans (State.keepsTime_dropInstances _)).trans (State.keepsTime_enableScripts _)).trans
    (State.keepsTime_wakeAllUsed _))).trans (State.keepsTime_wake _ rFm)).rmt

/-- What stands as WIND begins (R136). -/
theorem State.windNoted_frame (s : State) :
    s.windNoted.dev = .wind ∧ s.windNoted.pwr.latch = s.pwr.latch ∧ s.windNoted.pwr.windAt = s.elapsed ∧
      s.windNoted.elapsed = s.elapsed ∧ s.windNoted.fm = s.fm ∧ s.windNoted.ax = s.ax ∧
      s.windNoted.pwr.drain = s.pwr.drain := by
  obtain ⟨_, _, h⟩ := s.changeState_eq .wind
  unfold State.windNoted
  rw [h]
  exact ⟨rfl, rfl, rfl, rfl, rfl, rfl, rfl⟩

/-- The wake begins: its cause is shown, and WIND is entered with all that starts with it (R149). -/
def State.wakeBegun (s : State) (cause : W32) : State :=
  let s := s.wr SYS_WAKE_CAUSE cause
  ({ s with pwr := { s.pwr with wakeLatched := none } } : State).windNoted

/-- The control domain winds up within 12 µs, at a free instant (R147). -/
def State.domainWinds (s : State) : State :=
  let t := (s.drawIn 0 12000).2
  { t with pwr := { t.pwr with
      kclkAt := t.elapsed + (s.drawIn 0 12000).1, releaseAt := t.elapsed + (s.drawIn 0 12000).1 } }

theorem State.wakeUp_eq (s : State) (cause : W32) : s.wakeUp cause =
    ((s.wakeBegun cause).monsRestart.dropInstances.enableScripts.wakeAllUsed.wake rFm).domainWinds := by
  unfold State.wakeUp
  extract_lets shown old taken begun
  have hbegun : begun = (s.wakeBegun cause).monsRestart.dropInstances.enableScripts.wakeAllUsed.wake rFm :=
    congrArg (fun t : State => t.wake rFm) (State.enterWind_eq taken)
  rw [← hbegun]
  clear_value begun
  unfold State.domainWinds
  generalize begun.drawIn 0 12000 = x
  rfl

theorem State.drawIn_le (s : State) (hi : Nat) : (s.drawIn 0 hi).1 ≤ hi := by
  have hlt : s.draw.1.toNat % (hi + 1 - 0) < hi + 1 - 0 := Nat.mod_lt _ (by omega)
  show 0 + s.draw.1.toNat % (hi + 1 - 0) ≤ hi
  omega

theorem State.wakeBegun_rd (s : State) (cause : W32) {a : Nat} (ha : endsOn a = false) :
    (s.wakeBegun cause).rd a = if a = SYS_WAKE_CAUSE then cause else s.rd a := by
  have hword : (s.wakeBegun cause).rd a = (s.wr SYS_WAKE_CAUSE cause).rd a := State.changeState_rd _ .wind ha
  rw [hword]
  split
  next h => rw [h, State.rd_wr_same]
  next h => exact State.rd_wr_ne s (Ne.symm h) cause

/-- A wake from STANDBY, its cause shown: frame memory winds up, the control domain winds up within 12 µs, and until then
the pads stay latched (R138, R147, R149). -/
structure State.WokenBy (s t : State) (cause : W32) : Prop where
  dev : t.dev = .wind
  cause : t.rd SYS_WAKE_CAUSE = cause
  woken : woken s t
  rd : ∀ a, InSys a → endsOn a = false → a ≠ SYS_WAKE_CAUSE → t.rd a = s.rd a
  fm : t.fm = s.fm
  rmt : t.ax.rmt = s.ax.rmt
  drain : t.pwr.drain = s.pwr.drain

theorem State.wakeUp_wokenBy (s : State) (cause : W32) : s.WokenBy (s.wakeUp cause) cause := by
  obtain ⟨hdev, hlatch, hwind, helapsed, hfm, hax, hdrain⟩ :=
    ({ s.wr SYS_WAKE_CAUSE cause with pwr := { s.pwr with wakeLatched := none } } : State).windNoted_frame
  change (s.wakeBegun cause).dev = .wind at hdev
  change (s.wakeBegun cause).pwr.latch = s.pwr.latch at hlatch
  change (s.wakeBegun cause).pwr.windAt = s.elapsed at hwind
  change (s.wakeBegun cause).elapsed = s.elapsed at helapsed
  have hrd (a : Nat) (ha : endsOn a = false) := s.wakeBegun_rd cause ha
  have hstarts := (s.wakeBegun cause).windStarts_keepsPower
  have hrmt := (s.wakeBegun cause).windStarts_rmt
  have hactive : ((s.wakeBegun cause).monsRestart.dropInstances.enableScripts.wakeAllUsed).dev.active = true := by
    have hbefore := (((s.wakeBegun cause).keepsPower_monsRestart.trans (State.keepsPower_dropInstances _)).trans
      (State.keepsPower_enableScripts _)).trans (State.keepsPower_wakeAllUsed _)
    rw [hbefore.dev, hdev]
    rfl
  have hawake := State.wake_isAwake _ rFm hactive
  rw [State.wakeUp_eq]
  generalize (s.wakeBegun cause).monsRestart.dropInstances.enableScripts.wakeAllUsed.wake rFm = t at hstarts hrmt hawake ⊢
  obtain ⟨_, _, hpwr⟩ := hstarts.pwr
  have ht : t.elapsed = s.elapsed := hstarts.elapsed.trans helapsed
  have hdraw := t.drawIn_le 12000
  refine ⟨hstarts.dev.trans hdev, ?_, ⟨hawake, ?_, ?_, rfl, ?_, ?_⟩, fun a hsys ha hcause => ?_, hstarts.fm.trans hfm,
    hrmt.trans (congrArg AxSt.rmt hax), (congrArg (fun p => p.drain) hpwr :).trans hdrain⟩
  · exact (hstarts.rd SYS_WAKE_CAUSE (by decide)).trans (hrd _ (by decide))
  · exact (congrArg (fun p => p.latch) hpwr :).trans hlatch
  · exact (congrArg (fun p => p.windAt) hpwr :).trans hwind
  · show s.elapsed ≤ t.elapsed + (t.drawIn 0 12000).1
    omega
  · show t.elapsed + (t.drawIn 0 12000).1 ≤ s.elapsed + 12000
    omega
  · refine (hstarts.rd a hsys).trans ((hrd a ha).trans ?_)
    rw [if_neg hcause]

/-- A command that ends with a wake. -/
theorem State.ended_woken {s t : State} {cause : W32} (h : s.WokenBy t cause) (old : State) :
    (t.ended old).dev = .wind ∧ (t.ended old).rd SYS_WAKE_CAUSE = cause ∧ woken s (t.ended old) := by
  obtain ⟨hdev, hcause, ⟨hawake, hlatch, hwind, hkclk, hlow, hhigh⟩, -, -, -, -⟩ := h
  obtain ⟨_, _, _, hended⟩ := t.ended_pwr old
  refine ⟨?_, (State.ended_rd _ _ (by decide)).trans hcause, (State.ended_isAwake _ _ _).trans hawake, ?_⟩
  · rw [State.ended_dev, hdev]
    rfl
  · rw [hended]
    exact ⟨hlatch, hwind, hkclk, hlow, hhigh⟩

/-! ### Wakes by a request and by the alarm -/

/-- A RUN request that the device takes wakes it (R134, R149). -/
theorem exec_reqRun_wakes {at_ : TT} {s v : State} (hreach : (s.atTime at_).reachable SYS_STATE_REQ)
    (hmay : (s.atTime at_).mayRequest 2 = true) (hrequest : (s.atTime at_).request 2 = (true, v))
    (hwoken : ((s.atTime at_).requestNoted 2).WokenBy v 1) :
    ∃ t, exec (.reqRun at_) s = .next t ∧ t.dev = .wind ∧ t.rd SYS_WAKE_CAUSE = 1 ∧ woken (s.atTime at_) t ∧
      t.g SYS_REQ_STAT_outcome = 1 ∧ t.obs.answer = [0, 0] ∧ keepsMemory s t := by
  obtain ⟨-, -, -, -, -, -, hrmt⟩ := id hreach
  obtain ⟨o, hnext, hanswer⟩ := State.timedWrite at_ s _ _ hreach _ v
    (((s.atTime at_).writeReg_stateReq (code := 2) (by decide) (by decide)).trans (by rw [hrequest])) (hwoken.rmt.trans hrmt)
  have houtcome : v.g SYS_REQ_STAT_outcome = 1 := by
    rw [State.g_of_rd (hwoken.rd SYS_REQ_STAT (by decide) (by decide) (by decide)), State.requestNoted_outcome, hmay]
    rfl
  have hfm : v.fm = s.fm := hwoken.fm.trans (s.atTime_fm at_)
  have hanswered : ((s.atTime at_).requestNoted 2).WokenBy { v with obs := o } 1 :=
    ⟨hwoken.dev, hwoken.cause, hwoken.woken, hwoken.rd, hwoken.fm, hwoken.rmt, hwoken.drain⟩
  obtain ⟨hdev, hcause, hwound⟩ := State.ended_woken hanswered s
  refine ⟨_, hnext, hdev, hcause, hwound, (State.ended_g _ _ (by decide)).trans houtcome, ?_,
    keepsMemory_ended (u := { v with obs := o }) hfm⟩
  rw [State.ended_obs]
  refine hanswer.trans ?_
  rw [State.requestWhy, hrequest]
  rfl

theorem exec_reqRun_of_standby (at_ : TT) (s : State) (hstandby : (s.atTime at_).dev = .standby)
    (hreach : (s.atTime at_).reachable SYS_STATE_REQ) :
    ∃ t, exec (.reqRun at_) s = .next t ∧ t.dev = .wind ∧ t.rd SYS_WAKE_CAUSE = 1 ∧ woken (s.atTime at_) t ∧
      t.g SYS_REQ_STAT_outcome = 1 ∧ t.obs.answer = [0, 0] ∧ keepsMemory s t := by
  have hmay : (s.atTime at_).mayRequest 2 = true := by
    rw [State.mayRequest, hstandby]
    rfl
  have hrequest : (s.atTime at_).request 2 = (true, ((s.atTime at_).requestNoted 2).wakeUp 1) := by
    rw [State.request_of_accepted hmay, if_neg (by decide), if_pos rfl]
  exact exec_reqRun_wakes hreach hmay hrequest (State.wakeUp_wokenBy _ 1)

theorem State.wakeSource_of_standby {s : State} (h : s.dev = .standby) (cause : W32) : s.wakeSource cause = s.wakeUp cause := by
  rw [State.wakeSource, if_pos h]

theorem exec_ttAlarm_of_standby (at_ : TT) (s : State) (hstandby : (s.atTime at_).dev = .standby)
    (hsource : (s.atTime at_).bit SYS_WAKE_SRC_tt_alarm = true)
    (hdue : ((s.atTime at_).rd64 SYS_WAKE_AT_LO).toNat ≤ (s.atTime at_).now) :
    ∃ t, exec (.ttAlarm at_) s = .next t ∧ t.dev = .wind ∧ t.rd SYS_WAKE_CAUSE = 2 ∧ woken (s.atTime at_) t ∧
      keepsMemory s t := by
  have halarm : (s.atTime at_).alarmDue = true := by
    rw [State.alarmDue, hsource, decide_eq_true hdue]
    rfl
  have hexec : exec (.ttAlarm at_) s = .next (((s.atTime at_).wakeUp 2).ended s) := by
    show Host.Outcome.next (State.ended (if (s.atTime at_).alarmDue then _ else _) s) = _
    rw [halarm, ← State.wakeSource_of_standby hstandby]
    rfl
  have hwoken := (s.atTime at_).wakeUp_wokenBy 2
  obtain ⟨hdev, hcause, hwound⟩ := State.ended_woken hwoken s
  exact ⟨_, hexec, hdev, hcause, hwound, keepsMemory_ended (hwoken.fm.trans (s.atTime_fm at_))⟩

end Sys2Proof.Machine

/-! ### The obligation -/

/-- Settles O29: the two wakes from STANDBY, and the three ways into RESET. -/
theorem wakesAndResets : Obligations.WakesAndResets :=
  ⟨fun at_ s hstandby => ⟨exec_reqRun_of_standby at_ s hstandby, exec_ttAlarm_of_standby at_ s hstandby⟩,
    fun at_ s => ⟨fun hreach => exec_request_of_reset (code := 5) rfl s hreach (by decide) (State.request_of_reset hreach.1),
      fun hreach hstate => exec_request_of_reset (code := 3) rfl s hreach (by decide) (State.request_of_reload hstate),
      exec_resetNAssert_of_powered at_ s⟩⟩
end

section
/-! The ends of WIND and of DRAIN (R136, R137, R146, R147, R149). -/

open Sys2Proof Sys2Proof.Machine

namespace Sys2Proof.Machine

/-! ### The end of WIND -/

theorem State.windDone_of {s : State} (hwind : s.dev = .wind) (hkclk : s.kclkLocked = true)
    (hfm : (s.pwr.fmReady = true ∧ s.fmWinds = false) ∨ s.pwr.windAt + 5368710 ≤ s.elapsed)
    (hfabric : s.cfg.hasFabric = true → s.fpllLocked = true)
    (htt : s.bit TB_STAT_tt_valid = true ∨
      (s.g SYS_WIND_CTL_free_s ≠ 0 ∧ s.pwr.windAt + s.g SYS_WIND_CTL_free_s * secNs ≤ s.elapsed)) :
    s.windDone = true := by
  have hmemory : ((s.pwr.fmReady && !s.fmWinds) || decide (5368710 ≤ s.elapsed - s.pwr.windAt)) = true := by
    obtain ⟨hready, hwinds⟩ | hlate := hfm
    · rw [hready, hwinds]
      rfl
    · rw [decide_eq_true (by omega), Bool.or_true]
  have htime : (s.ttValid || (s.g SYS_WIND_CTL_free_s != 0 &&
      decide (s.g SYS_WIND_CTL_free_s * secNs ≤ s.elapsed - s.pwr.windAt))) = true := by
    obtain hvalid | ⟨hfree, hover⟩ := htt
    · rw [State.ttValid, hvalid]
      rfl
    · rw [bne_iff_ne.mpr hfree, decide_eq_true (by omega), Bool.and_true, Bool.or_true]
  have hclock : (!s.cfg.hasFabric || s.fpllLocked) = true := by
    cases h : s.cfg.hasFabric with
    | false => rfl
    | true => exact hfabric h
  rw [State.windDone, hwind, hkclk, hmemory, hclock, htime]
  rfl

theorem exec_windExit_of_done (at_ : TT) (s : State) (hdone : (s.atTime at_).windDone = true) :
    ∃ t, exec (.windExit at_) s = .next t ∧ t.dev.running = true ∧ t.dev = (s.atTime at_).runState ∧ keepsRegs s t [] ∧
      keepsMemory s t := by
  have hexec : exec (.windExit at_) s = .next ((s.atTime at_).leaveWind.ended s) := rfl
  have hleave : (s.atTime at_).leaveWind = State.changeState { s.atTime at_ with
      pwr := { (s.atTime at_).pwr with fmReady := true } } (s.atTime at_).runState := by
    rw [State.leaveWind, if_pos hdone]
  have hrunning := State.running_runState (s.atTime at_)
  have hdev : (s.atTime at_).leaveWind.dev = (s.atTime at_).runState := by rw [hleave, State.changeState_dev]
  have hstate : (s.atTime at_).leaveWind.runState = (s.atTime at_).runState := by
    rw [hleave, State.changeState_runState]
    rfl
  have hspares : (s.atTime at_).Spares (Outside []) (s.atTime at_).leaveWind := by
    rw [hleave]
    exact ((State.Spares.refl (s.atTime at_)).of_cells (u := { s.atTime at_ with
      pwr := { (s.atTime at_).pwr with fmReady := true } }) rfl rfl).trans (State.changeState_spares _ _)
  have hended : ((s.atTime at_).leaveWind.ended s).dev = (s.atTime at_).runState := by
    rw [State.ended_dev, hdev, hstate, if_pos hrunning]
  exact ⟨_, hexec, hended ▸ hrunning, hended, keepsRegs_of_spares hspares, keepsMemory_of_spares hspares⟩

/-! ### T_end -/

theorem State.drainEnds_of_due {s : State} {d : DrainSt} {last : Nat} (hdev : s.dev = .drain) (hdrain : s.pwr.drain = some d)
    (hcut : d.cut = false) (hend : s.drainEnd = some last) (hdue : last ≤ s.now) : s.drainEnds =
      (({ s with pwr := { s.pwr with drain := some { d with cut := true } } } : State).drainCut last).sendLeave := by
  have hgo : ¬ (s.dev != .drain || d.cut || decide (s.now < last)) = true := by
    rw [hdev, hcut, decide_eq_false (by omega)]
    decide
  unfold State.drainEnds
  rw [hdrain, hend]
  dsimp only
  rw [if_neg hgo]

/-- After T_end the removal of cues is over (R146). -/
theorem State.drainEnds_of_cut {s : State} {d : DrainSt} (hdrain : s.pwr.drain = some d) (hcut : d.cut = true) :
    s.drainEnds = s := by
  unfold State.drainEnds
  rw [hdrain]
  split
  next d' last hd hend =>
    cases hd
    rw [hcut, Bool.or_true, Bool.true_or, if_pos rfl]
  next => rfl

/-- The cues that leave the queue at T_end (R146). -/
def State.cutIds (s : State) (last : Nat) : List CueId :=
  let out := s.cue.entries.filter (fun e =>
    (e.stage == .queued || e.stage == .handed) && decide (last ≤ e.rec_.launch.toNat) && e.id.sub == 0)
  out.map (·.id) ++ out.flatMap (fun e => (s.behind e.id 16).map (·.id))

theorem State.drainCut_eq (s : State) (last : Nat) : s.drainCut last =
    (s.setEntries (s.cue.entries.filter (fun e => !(s.cutIds last).any (fun i => i.origin == e.id.origin && i.seq == e.id.seq)))).drainDrop
      (s.cutIds last).length := rfl

/-- A cue that T_end leaves in the queue was to launch before it (R146). -/
theorem State.drainCut_entries {s : State} {d : DrainSt} (hdrain : s.pwr.drain = some d) {last : Nat} {e : Entry}
    (he : e ∈ (s.drainCut last).cue.entries) :
    e ∈ s.cue.entries ∧ (e.id.sub = 0 → e.stage = .queued ∨ e.stage = .handed → e.rec_.launch.toNat < last) := by
  obtain ⟨c, hframe⟩ := State.drainDrop_frame (s := s.setEntries (s.cue.entries.filter
    (fun e => !(s.cutIds last).any (fun i => i.origin == e.id.origin && i.seq == e.id.seq)))) hdrain (s.cutIds last).length
  rw [State.drainCut_eq, hframe] at he
  obtain ⟨hin, hkept⟩ := List.mem_filter.mp he
  refine ⟨hin, fun hsub hstage => ?_⟩
  by_contra hlate
  have hout : e.id ∈ s.cutIds last := by
    refine List.mem_append_left _ (List.mem_map_of_mem (List.mem_filter.mpr ⟨hin, ?_⟩))
    simpa [hsub, Nat.not_lt.mp hlate] using hstage
  have hgone : (s.cutIds last).any (fun i => i.origin == e.id.origin && i.seq == e.id.seq) = true :=
    List.any_eq_true.mpr ⟨e.id, hout, by simp⟩
  rw [hgone] at hkept
  cases hkept

theorem State.sendLeave_cue (s : State) : s.sendLeave.cue = s.cue :=
  State.each_keeps State.cue (fun s p => s.linkFrame p 6 []) _ (fun _ _ _ => rfl) s

theorem State.keepsPower_sendLeave (s : State) : s.KeepsPower s.sendLeave :=
  (KeepsPower.refl s).each (fun s p => s.keepsPower_putOnWire p _) _

theorem exec_drainTEnd_of_due (at_ : TT) (d : DrainSt) (last : Nat) (s : State) (hdev : (s.atTime at_).dev = .drain)
    (hdrain : (s.atTime at_).pwr.drain = some d) (hcut : d.cut = false) (hend : (s.atTime at_).drainEnd = some last)
    (hdue : last ≤ (s.atTime at_).now) :
    ∃ t, exec (.drainTEnd at_) s = .next t ∧ t.dev = .drain ∧ (∃ x, t.pwr.drain = some x ∧ x.cut = true) ∧
      (∀ e ∈ t.cue.entries, e ∈ (s.atTime at_).cue.entries ∧
        (e.id.sub = 0 → e.stage = .queued ∨ e.stage = .handed → e.rec_.launch.toNat < last)) := by
  have hexec : exec (.drainTEnd at_) s = .next ((s.atTime at_).drainEnds.ended s) := rfl
  rw [State.drainEnds_of_due hdev hdrain hcut hend hdue] at hexec
  set v : State := { s.atTime at_ with pwr := { (s.atTime at_).pwr with drain := some { d with cut := true } } } with hv
  have hvdrain : v.pwr.drain = some { d with cut := true } := rfl
  obtain ⟨c, hframe⟩ := State.drainDrop_frame (s := v.setEntries (v.cue.entries.filter
    (fun e => !(v.cutIds last).any (fun i => i.origin == e.id.origin && i.seq == e.id.seq)))) hvdrain (v.cutIds last).length
  have hpwr : ∃ x, (v.drainCut last).pwr = { v.pwr with drain := some x } ∧ x.cut = true :=
    ⟨_, (congrArg State.pwr hframe :), rfl⟩
  obtain ⟨x, hpwr, hx⟩ := hpwr
  obtain ⟨r, n, hleave⟩ := (v.drainCut last).keepsPower_sendLeave.pwr
  have hdev' : (v.drainCut last).sendLeave.dev = .drain := by
    rw [State.dev, hleave, hpwr]
    exact hdev
  refine ⟨_, hexec, ?_, ⟨x, ?_, hx⟩, fun e he => ?_⟩
  · rw [State.ended_dev, hdev']
    rfl
  · rw [State.ended_drain, hleave, hpwr]
  · rw [State.ended_cue, State.sendLeave_cue] at he
    exact State.drainCut_entries hvdrain he

/-! ### What stops at the end of a drain -/

/-- What stops leaves the device state, the drain in progress, the count of entries to STANDBY, and the bytes of frame
memory (R146). -/
structure State.Quiets (s t : State) : Prop where
  count : t.rd SYS_STANDBY_CNT = s.rd SYS_STANDBY_CNT
  bytes : t.fm.bytes = s.fm.bytes
  dev : t.dev = s.dev
  drain : t.pwr.drain = s.pwr.drain

namespace State.Quiets

variable {s t u : State}

theorem refl (s : State) : s.Quiets s := ⟨rfl, rfl, rfl, rfl⟩

theorem trans (h : s.Quiets t) (h' : t.Quiets u) : s.Quiets u :=
  ⟨h'.count.trans h.count, h'.bytes.trans h.bytes, h'.dev.trans h.dev, h'.drain.trans h.drain⟩

theorem of_keepsPower (h : s.KeepsPower t) : s.Quiets t := by
  obtain ⟨r, n, hpwr⟩ := h.pwr
  exact ⟨h.rd _ (by decide), by rw [h.fm], h.dev, by rw [hpwr]⟩

/-- An update of parts of the state that a drain does not rest on. -/
theorem of_parts (h : s.Quiets t) (hc : u.cells = t.cells) (hf : u.fm.bytes = t.fm.bytes) (hd : u.dev = t.dev)
    (hp : u.pwr.drain = t.pwr.drain) : s.Quiets u :=
  ⟨by rw [State.rd, hc]; exact h.count, hf.trans h.bytes, hd.trans h.dev, hp.trans h.drain⟩

theorem wr (h : s.Quiets t) {a : Nat} (ha : a ≠ SYS_STANDBY_CNT) (v : W32) : s.Quiets (t.wr a v) :=
  ⟨(State.rd_wr_ne t ha v).trans h.count, h.bytes, h.dev, h.drain⟩

theorem p (h : s.Quiets t) {f : Fld} (hf : f.addr ≠ SYS_STANDBY_CNT) (v : Nat) : s.Quiets (t.p f v) := h.wr hf _

theorem pb (h : s.Quiets t) {f : Fld} (hf : f.addr ≠ SYS_STANDBY_CNT) (b : Bool) : s.Quiets (t.pb f b) := h.p hf _

theorem each {α : Type} (h : s.Quiets t) {f : State → α → State} (hf : ∀ s x, State.Quiets s (f s x)) (l : List α) :
    s.Quiets (t.each l f) := h.trans (State.each_rel State.Quiets f l refl (fun _ _ _ => trans) hf t)

theorem when (h : s.Quiets t) (b : Bool) {f : State → State} (hf : ∀ s, State.Quiets s (f s)) : s.Quiets (t.when b f) := by
  cases b with
  | false => exact h
  | true => exact h.trans (hf t)

end State.Quiets

theorem add_ne_standbyCnt (b n : Nat) (h : 0x10000 ≤ b) : b + n ≠ SYS_STANDBY_CNT := by
  simp only [SYS_STANDBY_CNT]
  omega

theorem State.quiets_saveWord (s : State) (p : Nat) (w : W32) : s.Quiets (s.saveWord p w) := by
  obtain ⟨c, e, hframe⟩ := s.saveWord_frame p w
  refine ⟨?_, by rw [hframe], by rw [hframe], by rw [hframe]⟩
  unfold State.saveWord
  split
  · rfl
  · rw [State.keepWritten_rd _ _ (by decide), State.rd_wr_ne _ (add_ne_standbyCnt _ _ (by decide))]

theorem State.quiets_saveAsleep (s : State) (p : Nat) : s.Quiets (s.saveAsleep p) := by
  have hlocked : s.Quiets (s.saveEq p) := by
    unfold State.saveEq
    split
    · exact s.quiets_saveWord p _
    · exact .refl s
  unfold State.saveAsleep
  extract_lets saved
  split
  · exact (hlocked.trans (State.quiets_saveWord _ p _)).of_parts rfl rfl rfl rfl
  · exact hlocked

/-- A path that sleeps is not locked, and sends and delivers nothing (R143). -/
def State.pathStops (s : State) (p : Nat) : State :=
  let s := s.saveAsleep p
  (((s.pb (LP_STAT_cdr_locked p) false).p (LP_STAT_rx_rate p) 0).pb (LP_STAT_trs_locked p) false).setLp p
    { s.lpSt p with
      sending := false, delivering := false, lastLine := 0, lockSince := none, lineNow := 0, wait := [], sentKind := 0 }

/-- A link that sleeps holds nothing in progress (R143). -/
def State.linkStops (s : State) (p : Nat) : State :=
  let s := s.setPort p { PortSt.initial with lastRx := s.elapsed, alignFrom := s.elapsed }
  let s := (s.p (AX_STAT_state p) (if s.bit (AX_CTL_enable p) then axLane else axDisabled)).wr (AX_CREDIT p) 0
  ((s.pb (AX_STAT_time_ok p) false).pb (AX_STAT_tree p) false).pb (AX_STAT_parent p) false

theorem State.quiets_pathStops (s : State) (p : Nat) : s.Quiets (s.pathStops p) := by
  have hstat : LP_STAT p ≠ SYS_STANDBY_CNT := add_ne_standbyCnt _ _ (by decide)
  have hset (t : State) (x : LpSt) : t.Quiets (t.setLp p x) := (Quiets.refl t).of_parts rfl rfl rfl rfl
  unfold State.pathStops
  extract_lets saved
  have hsaved : s.Quiets saved := s.quiets_saveAsleep p
  clear_value saved
  exact (((hsaved.pb (f := LP_STAT_cdr_locked p) hstat false).p (f := LP_STAT_rx_rate p) hstat 0).pb
    (f := LP_STAT_trs_locked p) hstat false).trans (hset _ _)

theorem State.quiets_linkStops (s : State) (p : Nat) : s.Quiets (s.linkStops p) := by
  have hstat : AX_STAT p ≠ SYS_STANDBY_CNT := add_ne_standbyCnt _ _ (by decide)
  have hcredit : AX_CREDIT p ≠ SYS_STANDBY_CNT := add_ne_standbyCnt _ _ (by decide)
  unfold State.linkStops
  extract_lets oldPort set stat
  have hset : s.Quiets set := (Quiets.refl s).of_parts rfl rfl rfl rfl
  have hcleared : s.Quiets stat := (hset.p (f := AX_STAT_state p) hstat _).wr hcredit 0
  clear_value stat
  exact ((hcleared.pb (f := AX_STAT_time_ok p) hstat false).pb (f := AX_STAT_tree p) hstat false).pb
    (f := AX_STAT_parent p) hstat false

theorem State.quiets_stopAll (s : State) : s.Quiets s.stopAll := by
  unfold State.stopAll
  extract_lets paths oldPort links oldAx troupe streams oldSe oldFm
  have hpaths : s.Quiets paths := (Quiets.refl s).each State.quiets_pathStops _
  clear_value paths
  have hlinks : s.Quiets links := hpaths.each State.quiets_linkStops _
  clear_value links
  have htroupe : s.Quiets troupe := hlinks.of_parts rfl rfl rfl rfl
  clear_value troupe
  have hstreams : s.Quiets streams :=
    htroupe.each (fun s d => (Quiets.refl s).p (f := DS_STAT_state d) (add_ne_standbyCnt _ _ (by decide)) 1) _
  clear_value streams
  exact hstreams.of_parts rfl rfl rfl rfl

theorem State.quiets_modulatorStops (s : State) (c : Nat) : s.Quiets (s.modulatorStops c) := by
  have hset (t : State) (d : Nat) (x : CellSt) : t.Quiets (t.setCell d x) := (Quiets.refl t).of_parts rfl rfl rfl rfl
  have hovr : s.Quiets (s.ovrStops c 0) := by
    unfold State.ovrStops
    split
    · exact .refl s
    · exact (((hset s c _).pb (f := AC_STAT_ovr_now c) (add_ne_standbyCnt _ _ (by decide)) false).wr
        (add_ne_standbyCnt _ _ (by decide)) _).each (fun t d => hset t d _) _
  simp only [State.modulatorStops]
  split
  · exact hovr
  · exact (hovr.when _ fun t => hset t c _).pb (f := AC_STAT_suspect_now c) (add_ne_standbyCnt _ _ (by decide)) false

theorem State.quiets_cellStops (s : State) (c : Nat) : s.Quiets (s.cellStops c) := by
  have hcell : AC_STAT c ≠ SYS_STANDBY_CNT := add_ne_standbyCnt _ _ (by decide)
  have hchain : FC_STAT c ≠ SYS_STANDBY_CNT := add_ne_standbyCnt _ _ (by decide)
  unfold State.cellStops
  extract_lets ready free
  have hready : s.Quiets ready := ((Quiets.refl s).pb (f := AC_STAT_ready c) hcell false).pb (f := FC_STAT_ready c) hchain false
  have hfree : s.Quiets free := (hready.trans (State.quiets_modulatorStops ready c)).pb (f := FC_STAT_grid_free c) hchain false
  clear_value free
  have hset : s.Quiets (free.setChain c { free.chain c with settleLeft := 0 }) := hfree.of_parts rfl rfl rfl rfl
  exact hset.pb (f := FC_STAT_settling c) hchain false

theorem State.quiets_dequalifyAll (s : State) : s.Quiets s.dequalifyAll := by
  have hset (t : State) (c : Nat) (x : SourceSt) : t.Quiets (t.setSrc c x) := (Quiets.refl t).of_parts rfl rfl rfl rfl
  unfold State.dequalifyAll
  extract_lets y set held cleared oldSource sources oldTb timed
  have hfreq : s.Quiets set := by
    have hmean (x : TimebaseSt) : s.Quiets { s with tb := x } := (Quiets.refl s).of_parts rfl rfl rfl rfl
    exact (hmean _).wr (a := TB_FREQ_ADJ) (by decide) _
  clear_value set
  have hcleared : s.Quiets cleared := (hfreq.wr (a := TB_SRC_STAT) (by decide) 0).p (f := TB_STAT_src) (by decide) 0
  clear_value cleared
  have hsources : s.Quiets sources := hcleared.each (fun t c => hset t c _) _
  clear_value sources
  have htimed : s.Quiets timed := hsources.of_parts rfl rfl rfl rfl
  clear_value timed
  split
  · exact htimed.p (f := TB_STAT_tb_state) (by decide) tbHold
  · exact htimed

/-! ### The end of a drain -/

/-- A drain is over: cues that it dropped are reported, and SYS_DRAIN_STAT shows it no more (R146). -/
def State.dropsReported (s : State) (d : DrainSt) : State :=
  (s.when (d.dropped != 0) (fun s => s.eventNow 0x05 0 (BitVec.ofNat 32 (min d.dropped 65535)))).p SYS_DRAIN_STAT_busy 0

/-- No drain is in progress, and no wake is latched. -/
def State.drainClosed (s : State) : State := { s with pwr := { s.pwr with drain := none, wakeLatched := none } }

/-- Every output stops, and every resource sleeps, as the target of the drain has it (R143, R147). -/
def State.drainStops (s : State) (standby : Bool) : State :=
  let s := s.when standby (fun s => s.latchPads)
  let s := s.each (List.range 48) (fun s c => s.cellStops c)
  (s.when standby (fun s => s.stopAll)).sleepAll

/-- The entry to STANDBY (R54, R147). -/
def State.standbyEntered (s : State) : State :=
  ((s.changeState .standby).inc (cnt16 SYS_STANDBY_CNT)).dequalifyAll.monsRestart

/-- What follows the close of a drain (R146, R147, R149). -/
def State.drainTarget (s : State) (req : Nat) (wake : Option W32) : State :=
  if req = 3 then s.enterReset (some 3) 3
  else if req = 1 then
    match wake with
    | some c => (s.drainStops (req == 1)).standbyEntered.wakeUp c
    | none => (s.drainStops (req == 1)).standbyEntered
  else ((s.drainStops (req == 1)).changeState .inspect).monsRestart

theorem State.finishDrain_eq {s : State} {d : DrainSt} (h : s.pwr.drain = some d) :
    s.finishDrain = (s.dropsReported d).drainClosed.drainTarget d.req (s.dropsReported d).pwr.wakeLatched := by
  unfold State.finishDrain
  rw [h]
  rfl

theorem State.dropsReported_quiets (s : State) (d : DrainSt) :
    s.Quiets (s.dropsReported d) ∧ (s.dropsReported d).pwr.wakeLatched = s.pwr.wakeLatched := by
  have hreport : s.KeepsPower (s.when (d.dropped != 0) fun s => s.eventNow 0x05 0 (BitVec.ofNat 32 (min d.dropped 65535))) :=
    (KeepsPower.refl s).when _ fun s => (KeepsPower.refl s).event (by decide) _ _ _
  obtain ⟨_, _, hpwr⟩ := hreport.pwr
  exact ⟨(Quiets.of_keepsPower hreport).p (f := SYS_DRAIN_STAT_busy) (by decide) 0,
    (congrArg (fun p => p.wakeLatched) hpwr :)⟩

theorem State.quiets_drainStops (s : State) (standby : Bool) : s.Quiets (s.drainStops standby) := by
  have hpads (t : State) : t.Quiets t.latchPads := (Quiets.refl t).of_parts rfl rfl rfl rfl
  unfold State.drainStops
  exact ((((Quiets.refl s).when standby hpads).each State.quiets_cellStops _).when standby State.quiets_stopAll).of_parts
    rfl rfl rfl rfl

/-- A change of the device state beside what stops. -/
theorem State.changeState_quiet (s : State) (d : DevState) :
    (s.changeState d).rd SYS_STANDBY_CNT = s.rd SYS_STANDBY_CNT ∧ (s.changeState d).fm = s.fm ∧
      (s.changeState d).pwr.drain = s.pwr.drain := by
  obtain ⟨_, _, h⟩ := s.changeState_eq d
  exact ⟨s.changeState_rd d (by decide), (congrArg State.fm h :), (congrArg (fun t : State => t.pwr.drain) h :)⟩

theorem State.standbyEntered_keeps (s : State) :
    s.standbyEntered.dev = .standby ∧ s.standbyEntered.pwr.drain = s.pwr.drain ∧
      s.standbyEntered.fm.bytes = s.fm.bytes ∧
      s.standbyEntered.g (cnt16 SYS_STANDBY_CNT) = min (s.g (cnt16 SYS_STANDBY_CNT) + 1) 65535 := by
  obtain ⟨hcount, hfm, hdrain⟩ := s.changeState_quiet .standby
  have hquiet : ((s.changeState .standby).inc (cnt16 SYS_STANDBY_CNT)).Quiets s.standbyEntered :=
    (State.quiets_dequalifyAll _).trans (.of_keepsPower (State.keepsPower_monsRestart _))
  refine ⟨hquiet.dev.trans (s.changeState_dev .standby), hquiet.drain.trans hdrain, ?_, ?_⟩
  · exact hquiet.bytes.trans (congrArg (fun m => m.bytes) hfm)
  · rw [State.g_of_rd (f := cnt16 SYS_STANDBY_CNT) hquiet.count, State.g_inc_cnt16,
      State.g_of_rd (f := cnt16 SYS_STANDBY_CNT) hcount]

/-- A command that leaves the bytes of frame memory. -/
theorem keepsMemory_of_bytes {s u : State} (h : u.fm.bytes = s.fm.bytes) : keepsMemory s (u.ended s) := by
  intro a
  simp only [State.fmByte, State.ended_fm, h]

/-- The device has reached the target of its drain (R146, R147, R149). -/
structure State.Drained (s t : State) (req : Nat) (wake : Option W32) : Prop where
  drain : t.pwr.drain = none
  bytes : req ≠ 3 → t.fm.bytes = s.fm.bytes
  standby : req = 1 → wake = none → t.dev = .standby ∧
    t.g (cnt16 SYS_STANDBY_CNT) = min (s.g (cnt16 SYS_STANDBY_CNT) + 1) 65535
  woken : ∀ c, req = 1 → wake = some c → t.dev = .wind ∧ t.rd SYS_WAKE_CAUSE = c
  inspect : req = 4 → t.dev = .inspect
  reset : req = 3 → t.dev = .reset

theorem State.drainTarget_drained {s : State} (hdrain : s.pwr.drain = none) (req : Nat) (wake : Option W32) :
    s.Drained (s.drainTarget req wake) req wake := by
  have hstops := s.quiets_drainStops (req == 1)
  obtain ⟨hdev, hdrain', hbytes, hcount⟩ := (s.drainStops (req == 1)).standbyEntered_keeps
  have hbytes' := hbytes.trans hstops.bytes
  have hdrained := hdrain'.trans (hstops.drain.trans hdrain)
  unfold State.drainTarget
  split_ifs with hreset hstandby
  · have hreset' := s.enterReset_resetBy (cause := 3) (bit := 3) (by decide) (by decide)
    exact ⟨hreset'.drain, fun h => absurd hreset h, fun h => by omega, fun _ h => by omega, fun h => by omega,
      fun _ => hreset'.dev⟩
  · cases wake with
    | none =>
      refine ⟨hdrained, fun _ => hbytes', fun _ _ => ⟨hdev, ?_⟩, fun _ _ h => (nomatch h), fun h => by omega,
        fun h => absurd h hreset⟩
      rw [hcount, State.g_of_rd (f := cnt16 SYS_STANDBY_CNT) hstops.count]
    | some c =>
      have hwoken := (s.drainStops (req == 1)).standbyEntered.wakeUp_wokenBy c
      refine ⟨hwoken.drain.trans hdrained, fun _ => (congrArg (fun m => m.bytes) hwoken.fm).trans hbytes',
        fun _ h => (nomatch h), fun x _ h => ?_, fun h => by omega, fun h => absurd h hreset⟩
      cases h
      exact ⟨hwoken.dev, hwoken.cause⟩
  · obtain ⟨-, hfm, hdrain''⟩ := (s.drainStops (req == 1)).changeState_quiet .inspect
    have hquiet := Quiets.of_keepsPower ((s.drainStops (req == 1)).changeState .inspect).keepsPower_monsRestart
    exact ⟨hquiet.drain.trans (hdrain''.trans (hstops.drain.trans hdrain)),
      fun _ => hquiet.bytes.trans ((congrArg (fun m => m.bytes) hfm).trans hstops.bytes), fun h => absurd h hstandby,
      fun _ h => absurd h hstandby, fun _ => hquiet.dev.trans (State.changeState_dev _ .inspect),
      fun h => absurd h hreset⟩

theorem State.finishDrain_drained {s : State} {d : DrainSt} (h : s.pwr.drain = some d) :
    s.Drained s.finishDrain d.req s.pwr.wakeLatched := by
  obtain ⟨hreport, hlatched⟩ := s.dropsReported_quiets d
  have hcount : (s.dropsReported d).drainClosed.g (cnt16 SYS_STANDBY_CNT) = s.g (cnt16 SYS_STANDBY_CNT) :=
    State.g_of_rd (f := cnt16 SYS_STANDBY_CNT) hreport.count
  have hbytes : (s.dropsReported d).drainClosed.fm.bytes = s.fm.bytes := hreport.bytes
  obtain ⟨hdrain, hmemory, hstandby, hwoken, hinspect, hreset⟩ := State.drainTarget_drained
    (s := (s.dropsReported d).drainClosed) rfl d.req (s.dropsReported d).pwr.wakeLatched
  rw [State.finishDrain_eq h, ← hlatched]
  rw [hbytes] at hmemory
  rw [hcount] at hstandby
  exact ⟨hdrain, hmemory, hstandby, hwoken, hinspect, hreset⟩

theorem exec_drainComplete_of_done (at_ : TT) (d : DrainSt) (s : State)
    (hdrain : (s.atTime at_).pwr.drain = some d) (hcut : d.cut = true) (hdone : (s.atTime at_).drainDone = true) :
    ∃ t, exec (.drainComplete at_) s = .next t ∧ t.pwr.drain = none ∧
      (d.req = 1 → (s.atTime at_).pwr.wakeLatched = none → keepsMemory s t ∧
        t.dev = .standby ∧ t.g (cnt16 SYS_STANDBY_CNT) = min (s.g (cnt16 SYS_STANDBY_CNT) + 1) 65535) ∧
      (∀ c, d.req = 1 → (s.atTime at_).pwr.wakeLatched = some c →
        t.dev = .wind ∧ t.rd SYS_WAKE_CAUSE = c ∧ keepsMemory s t) ∧
      (d.req = 4 → t.dev = .inspect ∧ keepsMemory s t) ∧ (d.req = 3 → t.dev = .reset) := by
  have hexec : exec (.drainComplete at_) s = .next ((s.atTime at_).finishDrain.ended s) := by
    show Host.Outcome.next (State.ended (if (s.atTime at_).drainEnds.drainDone then _ else _) s) = _
    rw [State.drainEnds_of_cut hdrain hcut, hdone]
    rfl
  obtain ⟨hnone, hbytes, hstandby, hwoken, hinspect, hreset⟩ := State.finishDrain_drained hdrain
  have hmemory (h : d.req ≠ 3) : keepsMemory s ((s.atTime at_).finishDrain.ended s) :=
    keepsMemory_of_bytes ((hbytes h).trans (congrArg (fun m => m.bytes) (s.atTime_fm at_)))
  have hdev {x : DevState} (hx : x.running = false) (h : (s.atTime at_).finishDrain.dev = x) :
      ((s.atTime at_).finishDrain.ended s).dev = x := by
    rw [State.ended_dev, h, hx]
    rfl
  refine ⟨_, hexec, (State.ended_drain _ s).trans hnone, fun hreq hlatched => ?_, fun c hreq hlatched => ?_,
    fun hreq => ⟨hdev rfl (hinspect hreq), hmemory (by omega)⟩, fun hreq => hdev rfl (hreset hreq)⟩
  · obtain ⟨hstate, hcount⟩ := hstandby hreq hlatched
    refine ⟨hmemory (by omega), hdev rfl hstate, ?_⟩
    rw [State.ended_g _ _ (by decide), hcount, State.atTime_g]
  · obtain ⟨hstate, hcause⟩ := hwoken c hreq hlatched
    exact ⟨hdev rfl hstate, (State.ended_rd _ _ (by decide)).trans hcause, hmemory (by omega)⟩

end Sys2Proof.Machine

/-! ### The obligation -/

/-- Settles O31: the end of WIND, the cut of a drain at T_end, and its end in each target. -/
theorem windAndDrainEnd : Obligations.WindAndDrainEnd :=
  ⟨fun at_ s hwind hkclk hfm hfabric htt => exec_windExit_of_done at_ s (State.windDone_of hwind hkclk hfm hfabric htt),
    exec_drainTEnd_of_due, fun at_ d s _ hdrain hcut hdone => exec_drainComplete_of_done at_ d s hdrain hcut hdone⟩
end

section
/-! Sleep and wake of single resources: the end of a switch-off, the keep-awake bits, and the 1 ms update (R143–R145, R156). -/

open Sys2Proof Sys2Proof.Machine

namespace Sys2Proof.Machine

/-! ### A domain is switched off -/

theorem exec_domainSwitchedOff_of_due (at_ : TT) (r : Fin 127) (from_ : Nat) (s : State)
    (hpower : ((s.atTime at_).res r).power = .switching from_) (hdue : (s.atTime at_).elapsed ≤ from_ + 2000) :
    ∃ t, exec (.domainSwitchedOff at_ r) s = .next t ∧ (t.res r).power = .asleep ∧ keepsRegs s t [] ∧ keepsMemory s t := by
  have hexec : exec (.domainSwitchedOff at_ r) s = .next (((s.atTime at_).switchedOff r).ended s) := rfl
  have hoff : (s.atTime at_).switchedOff r =
      (s.atTime at_).setRes r { (s.atTime at_).res r with power := .asleep } := by
    simp only [State.switchedOff, hpower]
    rw [if_pos (by omega)]
  have hspares : (s.atTime at_).Spares (Outside []) ((s.atTime at_).switchedOff r) := by
    rw [hoff]
    exact (State.Spares.refl _).of_cells rfl rfl
  refine ⟨_, hexec, ?_, keepsRegs_of_spares hspares, keepsMemory_of_spares hspares⟩
  rw [State.ended_power, hoff, State.setRes_res]

/-! ### Resources that are up -/

/-- A wake of one resource puts it up, and leaves every other as it stands (R138). -/
theorem State.wakeOne_isUp (s : State) (r i : Nat) : (s.wakeOne r).isUp i = (decide (i = r) || s.isUp i) := by
  have hwinds (x : ResSt) (nap : Bool) (from_ : Nat) (resumed : Bool) (hx : x.power = .winding from_ resumed) :
      ((s.setRes r x).when nap fun s => s.countNap (classOf r)).isUp i = (decide (i = r) || s.isUp i) := by
    have hcount : ((s.setRes r x).when nap fun s => s.countNap (classOf r)).isUp i = (s.setRes r x).isUp i :=
      State.when_keeps (fun t => t.isUp i) _ _ _ rfl
    rw [hcount]
    by_cases h : i = r
    · rw [h, State.isUp, State.setRes_res, hx, decide_eq_true rfl]
      rfl
    · rw [State.isUp, State.isUp, State.setRes_res_ne s h, decide_eq_false h, Bool.false_or]
  have hstays (h : s.isUp r = true) : s.isUp i = (decide (i = r) || s.isUp i) := by
    by_cases hi : i = r
    · rw [hi, h, Bool.or_true]
    · rw [decide_eq_false hi, Bool.false_or]
  cases hp : (s.res r).power with
  | asleep =>
    simp only [State.wakeOne, hp]
    exact hwinds _ _ _ _ rfl
  | switching from_ =>
    simp only [State.wakeOne, hp]
    exact hwinds _ _ _ _ rfl
  | winding from_ resumed =>
    simp only [State.wakeOne, hp]
    exact hstays (by rw [State.isUp, hp])
  | ready =>
    simp only [State.wakeOne, hp]
    exact hstays (by rw [State.isUp, hp])

theorem State.wake_isUp_mono (s : State) (r : Nat) {i : Nat} (h : s.isUp i = true) : (s.wake r).isUp i = true := by
  have heach (l : List Nat) (t : State) (ht : t.isUp i = true) : (t.each l fun s x => s.wakeOne x).isUp i = true := by
    induction l generalizing t with
    | nil => exact ht
    | cons x l ih => exact ih (t.wakeOne x) (by rw [t.wakeOne_isUp, ht, Bool.or_true])
  unfold State.wake
  split
  · exact heach _ s h
  · exact h

/-- A target that is woken is up, in the states in which resources run (R24). -/
theorem State.wake_isUp (s : State) (r : Nat) (h : s.dev.active = true) : (s.wake r).isUp r = true := by
  have heach (l : List Nat) (t : State) (ht : t.isUp r = true) : (t.each l fun s x => s.wakeOne x).isUp r = true := by
    induction l generalizing t with
    | nil => exact ht
    | cons x l ih => exact ih (t.wakeOne x) (by rw [t.wakeOne_isUp, ht, Bool.or_true])
  rw [State.wake, if_pos h]
  exact heach (s.dependencies r) (s.wakeOne r) (by rw [s.wakeOne_isUp, decide_eq_true rfl, Bool.true_or])

theorem State.wakeUsed_wakesTo (s : State) (r : Nat) : s.WakesTo (s.wakeUsed r) := by
  unfold State.wakeUsed
  split
  · exact s.wake_wakesTo r
  · exact .refl s

theorem State.wakeUsed_isUp_mono (s : State) (r : Nat) {i : Nat} (h : s.isUp i = true) : (s.wakeUsed r).isUp i = true := by
  unfold State.wakeUsed
  split
  · exact s.wake_isUp_mono r h
  · exact h

/-- A keep-awake bit wakes its resource (R145). -/
theorem State.wakeUsed_isUp {s : State} {r : Nat} (hactive : s.dev.active = true) (hkept : s.keepAwake r = true) :
    (s.wakeUsed r).isUp r = true := by
  unfold State.wakeUsed
  split
  · exact s.wake_isUp r hactive
  next h => simpa [hkept] using h

theorem State.WakesTo.keepAwake {s t : State} (h : s.WakesTo t) {r : Nat} (hr : SYS_KA (r / 32) ≠ SYS_NAP_CNT) :
    t.keepAwake r = s.keepAwake r := by
  rw [State.keepAwake, State.keepAwake, State.bitOf, State.bitOf, h.rd _ hr]

/-- Resources whose keep-awake bits are set are up after each of them has been woken (R145). -/
theorem State.each_wakeUsed_isUp (f : Nat → Nat) (l : List Nat) (s : State) (hactive : s.dev.active = true) {i : Nat}
    (hkept : s.keepAwake (f i) = true) (hka : SYS_KA (f i / 32) ≠ SYS_NAP_CNT) (h : i ∈ l ∨ s.isUp (f i) = true) :
    (s.each l fun s i => s.wakeUsed (f i)).isUp (f i) = true := by
  induction l generalizing s with
  | nil => exact h.resolve_left List.not_mem_nil
  | cons j l ih =>
    have hwakes := s.wakeUsed_wakesTo (f j)
    refine ih (s.wakeUsed (f j)) (hwakes.dev ▸ hactive) ((hwakes.keepAwake hka).trans hkept) ?_
    obtain hin | hup := h
    · obtain rfl | hin := List.mem_cons.mp hin
      · exact .inr (State.wakeUsed_isUp hactive hkept)
      · exact .inl hin
    · exact .inr (s.wakeUsed_isUp_mono _ hup)

/-! ### The keep-awake registers -/

theorem locate_ka : ∀ k : Fin 4, locate (SYS_KA k) = some (.sys, 0, 0x40 + 4 * k.val) := by decide

/-- The fields of the keep-awake registers: the PLLs' but the first are the image's alone (R145). -/
def kaFields (k : Fin 4) : List FieldDesc :=
  if k.val = 3 then [⟨30, 5, .rwl, []⟩, ⟨4, 0, .rw, []⟩] else scriptEnFields

theorem regFields_ka : ∀ k : Fin 4, regFields (SYS_KA k) = kaFields k := by decide

/-- A word that agrees with another outside a mask takes its bits inside it. -/
theorem merge_of_agree {old v m : W32} (h : (v ^^^ old) &&& ~~~m = 0) : (old &&& ~~~m) ||| (v &&& m) = v := by
  apply BitVec.eq_of_getLsbD_eq
  intro i hi
  have hbit : ((v ^^^ old) &&& ~~~m).getLsbD i = false := by rw [h]; exact BitVec.getLsbD_zero
  simp only [BitVec.getLsbD_and, BitVec.getLsbD_or, BitVec.getLsbD_xor, BitVec.getLsbD_not, hi, decide_true,
    Bool.true_and] at hbit ⊢
  revert hbit
  cases v.getLsbD i <;> cases old.getLsbD i <;> cases m.getLsbD i <;> decide

theorem newWord_ka (k : Fin 4) {old v : W32} (h : k.val = 3 → (v ^^^ old) &&& 0xFFFFFFE0 = 0) :
    newWord false (kaFields k) old v 0xFFFFFFFF = v := by
  unfold kaFields
  split
  next h3 =>
    have hmask : (⟨4, 0, .rw, []⟩ : FieldDesc).mask &&& 0xFFFFFFFF = ~~~(0xFFFFFFE0 : W32) := by decide
    have hword : newWord false [⟨30, 5, .rwl, []⟩, ⟨4, 0, .rw, []⟩] old v 0xFFFFFFFF =
        (old &&& ~~~((⟨4, 0, .rw, []⟩ : FieldDesc).mask &&& 0xFFFFFFFF)) |||
          (v &&& ((⟨4, 0, .rw, []⟩ : FieldDesc).mask &&& 0xFFFFFFFF)) := rfl
    rw [hword, hmask]
    exact merge_of_agree (by rw [BitVec.not_not]; exact h h3)
  next => exact newWord_scriptEn old v

theorem accessRefuses_ka (k : Fin 4) {old v : W32} (h : k.val = 3 → (v ^^^ old) &&& 0xFFFFFFE0 = 0) :
    accessRefuses .observer (kaFields k) old v 0xFFFFFFFF = false := by
  unfold kaFields
  split
  next h3 =>
    have hmask : (⟨30, 5, .rwl, []⟩ : FieldDesc).mask &&& 0xFFFFFFFF = 0xFFFFFFE0 &&& 0x7FFFFFFF := by decide
    have hsame : (old ^^^ v) &&& (⟨30, 5, .rwl, []⟩ : FieldDesc).mask &&& 0xFFFFFFFF = 0 := by
      rw [BitVec.and_assoc, hmask, ← BitVec.and_assoc, BitVec.xor_comm, h h3]
      exact BitVec.zero_and
    simp [accessRefuses, Acc.fixed, Acc.isL, Writer.isCue]
    exact hsame
  next => exact accessRefuses_single (.inl rfl) _ _ _

theorem encodingRefuses_ka (k : Fin 4) (old v : W32) : encodingRefuses .observer (kaFields k) old v 0xFFFFFFFF = false := by
  unfold kaFields
  split
  · simp [encodingRefuses, FieldDesc.lists]
  · exact encodingRefuses_single rfl _ _ _ _

/-- What a write of a keep-awake register leaves: each bit that it sets wakes its resource (R145). -/
def State.kaWritten (s : State) (k : Nat) (v : W32) : State :=
  (s.wr (SYS_KA k) v).each ((bitList (v &&& ~~~s.rd (SYS_KA k))).filter fun i => decide (32 * k + i < 127))
    fun s i => s.wakeUsed (32 * k + i)

theorem State.writeReg_ka {s : State} (k : Fin 4) {v : W32}
    (h : k.val = 3 → (v ^^^ s.rd (SYS_KA k)) &&& 0xFFFFFFE0 = 0) :
    s.writeReg .observer (SYS_KA k) v 0xFFFFFFFF = (.ok, s.kaWritten k v) := by
  have hl := locate_ka k
  have hk : k.val < 4 := k.isLt
  have hoff : 0x40 ≤ 0x40 + 4 * k.val ∧ 0x40 + 4 * k.val < 0x50 := by omega
  have hindex : (0x40 + 4 * k.val - 0x40) / 4 = k.val := by omega
  rw [State.writeReg_plain s _ v (kaFields k) _ _ (regFields_ka k) (newWord_ka k h) rfl
    (by rw [State.gate_sys_open hl]) (accessRefuses_ka k h) ?_ ?_ (encodingRefuses_ka k _ _) ?_ ?_ ?_]
  · simp only [State.written, hl, State.sysWritten, hoff, hindex, and_self, if_true, State.rd_wr_same]
    rfl
  · have hne : 0x40 + 4 * k.val ≠ 0x00C := by omega
    simp [State.actionWrite, hl, hne]
  · simp [State.special, hl]
  · have hlow : ¬ (0x070 ≤ 0x40 + 4 * k.val ∧ 0x40 + 4 * k.val < 0x088) := by omega
    simp only [State.ruleRefuses, hl, hlow, if_false]
  · have hne : 0x40 + 4 * k.val ≠ 0x024 := by omega
    simp [State.namesRefuse, State.namesOf, hl, hne]
  · rw [hl]
    rfl

theorem State.kaWritten_wakesTo (s : State) (k : Nat) (v : W32) : (s.wr (SYS_KA k) v).WakesTo (s.kaWritten k v) :=
  State.each_wakesTo (fun s i => s.wakeUsed (32 * k + i)) (fun s _ => s.wakeUsed_wakesTo _) _ _

theorem State.kaWritten_isUp {s : State} {k : Nat} (hk : k < 4) {v : W32} (hactive : s.dev.active = true) {i : Nat}
    (hi : i < 32) (hr : 32 * k + i < 127) (hset : v.getLsbD i = true) (hclear : (s.rd (SYS_KA k)).getLsbD i = false) :
    (s.kaWritten k v).isUp (32 * k + i) = true := by
  have hreg : (32 * k + i) / 32 = k := by omega
  have hbit : (32 * k + i) % 32 = i := by omega
  have hka : SYS_KA ((32 * k + i) / 32) ≠ SYS_NAP_CNT := by
    simp only [SYS_KA, SYS_NAP_CNT]
    omega
  have hkept : (s.wr (SYS_KA k) v).keepAwake (32 * k + i) = true := by
    rw [State.keepAwake, hreg, hbit, State.bitOf, State.rd_wr_same]
    exact hset
  have hlisted : i ∈ (bitList (v &&& ~~~s.rd (SYS_KA k))).filter fun i => decide (32 * k + i < 127) := by
    simp only [bitList, List.mem_filter, List.mem_range, BitVec.getLsbD_and, BitVec.getLsbD_not, hi, hr, hset, hclear,
      decide_true, Bool.not_false, Bool.and_self, and_self]
  exact State.each_wakeUsed_isUp (fun i => 32 * k + i) _ (s.wr (SYS_KA k) v) hactive hkept hka (.inl hlisted)

theorem exec_keepAwakeWrite_of_active (at_ : TT) (k : Fin 4) (v : W32) (s : State)
    (hactive : (s.atTime at_).dev.active = true) (hreach : (s.atTime at_).reachable (SYS_KA k))
    (hlocked : k.val = 3 → (v ^^^ s.rd (SYS_KA k)) &&& 0xFFFFFFE0 = 0) :
    ∃ t, exec (.keepAwakeWrite at_ k v) s = .next t ∧ t.rd (SYS_KA k) = v ∧
      (∀ i < 32, 32 * k.val + i < 127 → v.getLsbD i = true → s.bitOf (SYS_KA k) i = false →
        t.isUp (32 * k.val + i) = true) ∧
      t.obs.answer = [0, 0] ∧ keepsRegs s t [SYS_KA k, SYS_NAP_CNT] ∧ keepsMemory s t := by
  obtain ⟨-, -, -, -, -, -, hrmt⟩ := id hreach
  have haddr : ∀ k : Fin 4, endsOn (SYS_KA k) = false ∧ SYS_KA k ≠ SYS_NAP_CNT := by decide
  obtain ⟨hends, hnap⟩ := haddr k
  have hold : (s.atTime at_).rd (SYS_KA k) = s.rd (SYS_KA k) := s.atTime_rd at_ _
  have hwakes := (s.atTime at_).kaWritten_wakesTo k v
  obtain ⟨o, hnext, hanswer⟩ := State.timedWrite at_ s _ v hreach _ _
    (State.writeReg_ka (s := s.atTime at_) k (by rw [hold]; exact hlocked))
    ((State.KeepsTime.of_wakesTo hwakes).rmt.trans hrmt)
  have hspares : (s.atTime at_).Spares (Outside [SYS_KA k, SYS_NAP_CNT])
      { (s.atTime at_).kaWritten k v with obs := o } :=
    (((State.Spares.refl _).wr (not_outside_of_mem (by simp)) v).trans
      (hwakes.spares (not_outside_of_mem (by simp)))).of_cells rfl rfl
  refine ⟨_, hnext, ?_, fun i hi hr hset hclear => ?_, ?_, keepsRegs_of_spares hspares, keepsMemory_of_spares hspares⟩
  · rw [State.ended_rd _ _ hends]
    exact (hwakes.rd _ hnap).trans (State.rd_wr_same _ _ _)
  · rw [State.isUp, State.ended_power]
    exact State.kaWritten_isUp k.isLt hactive hi hr hset (by rw [hold]; exact hclear)
  · rw [State.ended_obs]
    exact hanswer

/-! ### The 1 ms update -/

/-- An update is made at this instant (R143). -/
def State.updateNoted (s : State) : State :=
  { s with pwr := { s.pwr with lastUpdate := s.now, updates := s.pwr.updates + 1 } }

/-- The sleep-delay loops update (R144). -/
def State.delaysUpdated (s : State) : State := s.each (List.range 6) (fun s k => s.delayStep k)

/-- A resource past its delay falls asleep, a line port with its warm-start word written (R143, R199). -/
def State.tires (s : State) (r : Nat) : State := (s.when (decide (r < 32)) (fun s => s.saveAsleep r)).fallAsleep r

/-- Every resource past its delay falls asleep (R143). -/
def State.tiredSleep (s : State) : State := s.each ((List.range 127).filter s.fallsAsleep) (fun s r => s.tires r)

theorem State.sleepUpdate_of_due {s : State} (h : s.updateDue = true) :
    s.sleepUpdate = s.updateNoted.delaysUpdated.tiredSleep.sampleRails := by
  rw [State.sleepUpdate, h]
  rfl

theorem State.updateDue_of {s : State} (hactive : s.dev.active = true) (hnew : s.now / msNs ≠ s.pwr.lastUpdate / msNs) :
    s.updateDue = true := by
  rw [State.updateDue, hactive, bne_iff_ne.mpr hnew]
  rfl

/-! ### The sleep-delay loops -/

theorem State.pressed_frame (s : State) (stat cnt : Nat) (side : Option Bool) :
    ∃ c q, s.pressed stat cnt side = { s with cells := c, press := q } := by
  cases side with
  | none => exact ⟨_, _, rfl⟩
  | some b =>
    simp only [State.pressed]
    split_ifs
    all_goals exact ⟨_, _, rfl⟩

theorem State.loopDone_frame (s : State) (set : Fld) (v stat cnt : Nat) (side : Option Bool) :
    ∃ c q w, s.loopDone set v stat cnt side = { s with cells := c, press := q, undo := w } := by
  have hpressed (u : Tab LoopUndo) := State.pressed_frame (({ s with undo := u } : State).p set v) stat cnt side
  obtain ⟨c, q, h⟩ := hpressed (s.undo.set stat ⟨s.elapsed, s.g set, s.rd stat, s.rd cnt, s.press.get (0, false) stat⟩)
  exact ⟨c, q, _, h⟩

/-- Whether a nap of a class waits for the update (R144). -/
def State.napWaits (s : State) (k : Nat) : Bool := s.pwr.naps.any (fun x => x.1 == k && decide (x.2 < s.elapsed))

/-- The naps of a class before this instant are taken, and the updates since the last one counted (R144). -/
def State.napsTaken (s : State) (k : Nat) : State :=
  { s with pwr := { s.pwr with
    naps := s.pwr.naps.filter (fun x => !(x.1 == k && decide (x.2 < s.elapsed)))
    sinceNap := s.pwr.sinceNap.set k (if s.napWaits k then 0 else min (s.pwr.sinceNap.get 0 k + 1) 1024) } }

/-- The delay that the update of a loop works out, and the side of its bounds that it presses (R144). -/
def State.delayResult (s : State) (k : Nat) : Int × Option Bool :=
  let since := if s.napWaits k then 0 else min (s.pwr.sinceNap.get 0 k + 1) 1024
  let d : Int := s.sleepDelay k
  let computed := if s.napWaits k then d + 4 else if 1024 ≤ since then d - 1 else d
  let lo : Int := if s.g (SYS_SLEEP_CTL_mode k) = 1 then s.g (SYS_SLEEP_CTL_dly_min k) else 1
  let hi : Int := if s.g (SYS_SLEEP_CTL_mode k) = 1 then s.g (SYS_SLEEP_CTL_dly_max k) else 1023
  loopApply d computed lo hi

/-- The update of a loop that is made (R144). -/
def State.delayApplied (s : State) (k : Nat) : State :=
  (s.napsTaken k).loopDone (SYS_SLEEP_DLY_d k) (s.delayResult k).1.toNat (SYS_SLEEP_STAT k) (SYS_SLEEP_BOUND_CNT k)
    (s.delayResult k).2

theorem State.delayStep_eq (s : State) (k : Nat) : s.delayStep k =
    if s.g (SYS_SLEEP_CTL_mode k) = 2 ∨ s.loopBlocked (SYS_SLEEP_STAT k) = true then s else s.delayApplied k := rfl

/-- An update of a loop changes the loop's registers, its bookkeeping, and the naps of its class alone (R144). -/
theorem State.delayStep_frame (s : State) (k : Nat) : ∃ c n m q w,
    s.delayStep k = { s with cells := c, pwr := { s.pwr with naps := n, sinceNap := m }, press := q, undo := w } ∧
      ∀ j, j ≠ k → n.any (fun x => x.1 == j && decide (x.2 < s.elapsed)) = s.napWaits j := by
  rw [State.delayStep_eq]
  split
  · exact ⟨s.cells, s.pwr.naps, s.pwr.sinceNap, s.press, s.undo, rfl, fun _ _ => rfl⟩
  · obtain ⟨c, q, w, h⟩ := (s.napsTaken k).loopDone_frame (SYS_SLEEP_DLY_d k) (s.delayResult k).1.toNat
      (SYS_SLEEP_STAT k) (SYS_SLEEP_BOUND_CNT k) (s.delayResult k).2
    refine ⟨c, _, _, q, w, h, fun j hj => ?_⟩
    rw [List.any_filter, State.napWaits]
    refine List.any_congr rfl fun x => ?_
    by_cases hx : x.1 = j
    · have hk : (x.1 == k) = false := beq_false_of_ne (hx ▸ hj)
      simp [hk]
    · simp [hx]

/-- The registers of a sleep-delay loop that its update changes. -/
def delayRegs (k : Nat) : List Nat := [SYS_SLEEP_DLY k, SYS_SLEEP_STAT k, SYS_SLEEP_BOUND_CNT k]

theorem State.delayStep_spares (s : State) (k : Nat) : s.Spares (Outside (delayRegs k)) (s.delayStep k) := by
  rw [State.delayStep_eq]
  split
  · exact .refl s
  · exact ((Spares.refl s).of_cells (u := s.napsTaken k) rfl rfl).trans (State.loopDone_spares _ (SYS_SLEEP_DLY_d k) _ _ _ _)

/-- A class has napped for a short time: its loop is free to lengthen its delay at this update (R144). -/
structure State.Napped (s : State) (k : Nat) : Prop where
  mode : s.g (SYS_SLEEP_CTL_mode k) = 0
  made : s.loopBlocked (SYS_SLEEP_STAT k) = false
  nap : s.napWaits k = true
  delay : 1 ≤ s.sleepDelay k

theorem State.delayResult_of_napped {s : State} {k : Nat} (h : s.Napped k) :
    (s.delayResult k).1.toNat = min (s.sleepDelay k + 4) 1023 := by
  obtain ⟨hmode, -, hnap, hdelay⟩ := h
  have hfield : s.sleepDelay k < 1024 := s.g_lt (SYS_SLEEP_DLY_d k)
  have hplain : (0 : Nat) ≠ 1 := by decide
  simp only [State.delayResult, hmode, hnap, if_true, if_neg hplain, loopApply, clampInt]
  split_ifs
  all_goals omega

theorem State.delayStep_lengthens {s : State} {k : Nat} (hk : k < 6) (h : s.Napped k) :
    (s.delayStep k).g (SYS_SLEEP_DLY_d k) = min (s.sleepDelay k + 4) 1023 := by
  have hregs : ∀ k < 6, SYS_SLEEP_STAT k ≠ SYS_SLEEP_DLY k ∧ SYS_SLEEP_BOUND_CNT k ≠ SYS_SLEEP_DLY k := by decide
  obtain ⟨hstat, hcnt⟩ := hregs k hk
  have hmade : ¬ (s.g (SYS_SLEEP_CTL_mode k) = 2 ∨ s.loopBlocked (SYS_SLEEP_STAT k) = true) := by
    rw [h.mode, h.made]
    decide
  rw [State.delayStep_eq, if_neg hmade, State.delayApplied, State.delayResult_of_napped h]
  exact State.loopDone_g _ _ hstat hcnt (Nat.zero_le 9) (by show 9 < 32; decide) (by show _ < 1024; omega)

/-- The update of one class's loop leaves a nap of another class to that one's loop (R144). -/
theorem State.Napped.delayStep {s : State} {j k : Nat} (hj : j < 6) (hk : k < 6) (hne : k ≠ j) (h : s.Napped k) :
    (s.delayStep j).Napped k ∧ (s.delayStep j).sleepDelay k = s.sleepDelay k := by
  have hregs : ∀ j < 6, ∀ k < 6, k = j ∨
      endsOn (SYS_SLEEP_CTL k) = false ∧ SYS_SLEEP_CTL k ∉ delayRegs j ∧ endsOn (SYS_SLEEP_DLY k) = false ∧
        SYS_SLEEP_DLY k ∉ delayRegs j := by decide
  obtain ⟨hctl, hctl', hdly, hdly'⟩ := (hregs j hj k hk).resolve_left hne
  obtain ⟨c, n, m, q, w, hframe, hnaps⟩ := s.delayStep_frame j
  have hspares := s.delayStep_spares j
  have hdelay : (s.delayStep j).sleepDelay k = s.sleepDelay k :=
    State.g_of_rd (f := SYS_SLEEP_DLY_d k) (hspares.rd _ ⟨hdly, hdly'⟩)
  refine ⟨⟨?_, ?_, ?_, hdelay ▸ h.delay⟩, hdelay⟩
  · rw [State.g_of_rd (f := SYS_SLEEP_CTL_mode k) (hspares.rd _ ⟨hctl, hctl'⟩)]
    exact h.mode
  · rw [hframe]
    exact h.made
  · rw [hframe]
    exact (hnaps k hne).trans h.nap

/-- The updates of the loops lengthen the delay of every class that has napped (R144). -/
theorem State.each_delayStep_lengthens {l : List Nat} (hl : ∀ j ∈ l, j < 6) (hnodup : l.Nodup) {s : State} {k : Nat}
    (hk : k ∈ l) (h : s.Napped k) :
    (s.each l fun s k => s.delayStep k).g (SYS_SLEEP_DLY_d k) = min (s.sleepDelay k + 4) 1023 := by
  have hregs : ∀ j < 6, ∀ k < 6, k = j ∨ endsOn (SYS_SLEEP_DLY k) = false ∧ SYS_SLEEP_DLY k ∉ delayRegs j := by decide
  induction l generalizing s with
  | nil => exact absurd hk List.not_mem_nil
  | cons j l ih =>
    obtain ⟨hnotin, hnodup'⟩ := List.nodup_cons.mp hnodup
    have hj : j < 6 := hl j List.mem_cons_self
    have hl' : ∀ i ∈ l, i < 6 := fun i hi => hl i (List.mem_cons_of_mem j hi)
    by_cases hkj : k = j
    · subst hkj
      have hkept : (s.delayStep k).Spares (· = SYS_SLEEP_DLY k) ((s.delayStep k).each l fun s k => s.delayStep k) := by
        refine (Spares.refl _).each_mem fun i hi t => (t.delayStep_spares i).mono fun a ha => ?_
        rw [ha]
        exact (hregs i (hl' i hi) k hj).resolve_left fun hki => hnotin (hki ▸ hi)
      exact (State.g_of_rd (hkept.rd _ rfl)).trans (State.delayStep_lengthens hj h)
    · have hkl : k ∈ l := (List.mem_cons.mp hk).resolve_left hkj
      obtain ⟨hnapped, hdelay⟩ := h.delayStep hj (hl' k hkl) hkj
      refine (ih hl' hnodup' hkl hnapped).trans ?_
      rw [hdelay]

/-- Frozen loops make no update (R32). -/
theorem State.delaysUpdated_of_frozen {s : State} (h : ∀ k < 6, s.g (SYS_SLEEP_CTL_mode k) = 2) : s.delaysUpdated = s := by
  have heach (l : List Nat) (hl : ∀ k ∈ l, k < 6) : (s.each l fun s k => s.delayStep k) = s := by
    induction l with
    | nil => rfl
    | cons j l ih =>
      have hstep : s.delayStep j = s := by
        rw [State.delayStep_eq, if_pos (.inl (h j (hl j List.mem_cons_self)))]
      show ((s.delayStep j).each l fun s k => s.delayStep k) = s
      rw [hstep]
      exact ih fun k hk => hl k (List.mem_cons_of_mem j hk)
  exact heach _ fun k hk => List.mem_range.mp hk

theorem State.delaysUpdated_frame (s : State) : ∃ c n m q w,
    s.delaysUpdated = { s with cells := c, pwr := { s.pwr with naps := n, sinceNap := m }, press := q, undo := w } := by
  refine State.each_rel (fun s t => ∃ c n m q w, t = { s with
    cells := c, pwr := { s.pwr with naps := n, sinceNap := m }, press := q, undo := w }) _ _
    (fun s => ⟨_, _, _, _, _, rfl⟩) ?_ (fun s k => ?_) s
  · rintro s t u ⟨c, n, m, q, w, rfl⟩ ⟨c', n', m', q', w', rfl⟩
    exact ⟨c', n', m', q', w', rfl⟩
  · obtain ⟨c, n, m, q, w, h, -⟩ := s.delayStep_frame k
    exact ⟨c, n, m, q, w, h⟩

/-! ### Resources fall asleep -/

/-- The registers that hold the sleep delays. -/
abbrev InDelay (a : Nat) : Prop := 0x88 ≤ a ∧ a < 0xA0

theorem not_inDelay_add (b n : Nat) (h : 0xA0 ≤ b) : ¬ InDelay (b + n) := by omega

theorem endsOn_of_inDelay {a : Nat} (h : InDelay a) : endsOn a = false := by
  have hends : ∀ a < 0xA0, 0x88 ≤ a → endsOn a = false := by decide
  exact hends a h.2 h.1

/-- A line port that writes its warm-start word changes that word, with its error, and the port alone (R199). -/
theorem State.saveAsleep_keeps (s : State) (p : Nat) : s.Spares InDelay (s.saveAsleep p) ∧
    (s.saveAsleep p).clock = s.clock ∧ ∃ e, (s.saveAsleep p).pwr = { s.pwr with softErrs := e } := by
  have hout : ∀ a, InDelay a → Outside [LP_KEEP_EQ p] a := fun a ha =>
    ⟨endsOn_of_inDelay ha, by simp only [LP_KEEP_EQ, List.mem_singleton]; omega⟩
  have hword (t : State) (w : W32) : t.Spares (Outside [LP_KEEP_EQ p]) (t.saveWord p w) := by
    unfold State.saveWord
    split
    · exact .refl t
    · exact ((Spares.refl t).wr (not_outside_of_mem (List.mem_singleton_self _)) w).keepWritten _
  have hlocked := s.saveEq_spares (l := [LP_KEEP_EQ p]) (List.mem_singleton_self _)
  obtain ⟨c, e, hsaved⟩ := s.saveEq_frame p
  have hclock : (s.saveEq p).clock = s.clock := (congrArg State.clock hsaved :)
  have hpwr : (s.saveEq p).pwr = { s.pwr with softErrs := e } := (congrArg State.pwr hsaved :)
  unfold State.saveAsleep
  extract_lets saved
  split
  next w _ =>
    obtain ⟨c', e', hframe⟩ := saved.saveWord_frame p w
    refine ⟨((hlocked.trans (hword saved w)).mono hout).of_cells rfl rfl, (congrArg State.clock hframe :).trans hclock,
      e', (congrArg State.pwr hframe :).trans ?_⟩
    show { (s.saveEq p).pwr with softErrs := e' } = _
    rw [hpwr]
  next => exact ⟨hlocked.mono hout, hclock, e, hpwr⟩

/-- Beside the power of resources, what falls asleep leaves the sleep delays, the clock, and frame memory. -/
structure State.FallsQuiet (s t : State) : Prop extends State.Spares InDelay s t where
  clock : t.clock = s.clock
  pwr : ∃ r e, t.pwr = { s.pwr with res := r, softErrs := e }

theorem State.FallsQuiet.refl (s : State) : s.FallsQuiet s := ⟨.refl s, rfl, _, _, rfl⟩

theorem State.FallsQuiet.trans {s t u : State} (h : s.FallsQuiet t) (h' : t.FallsQuiet u) : s.FallsQuiet u := by
  refine ⟨h.toSpares.trans h'.toSpares, h'.clock.trans h.clock, ?_⟩
  obtain ⟨r, e, hst⟩ := h.pwr
  obtain ⟨r', e', htu⟩ := h'.pwr
  exact ⟨r', e', by rw [htu, hst]⟩

/-- A resource that falls asleep is switching off from this instant, and every other stays as it is (R143). -/
theorem State.tires_keeps (s : State) (r : Nat) : s.FallsQuiet (s.tires r) ∧
    ∀ i, ((s.tires r).res i).power = if i = r then .switching s.elapsed else (s.res i).power := by
  have hsaved : s.FallsQuiet (s.when (decide (r < 32)) fun s => s.saveAsleep r) ∧
      (s.when (decide (r < 32)) fun s => s.saveAsleep r).pwr.res = s.pwr.res := by
    unfold State.when
    split
    · obtain ⟨hspares, hclock, e, hpwr⟩ := s.saveAsleep_keeps r
      exact ⟨⟨hspares, hclock, s.pwr.res, e, hpwr⟩, (congrArg (fun x => x.res) hpwr :)⟩
    · exact ⟨.refl s, rfl⟩
  obtain ⟨hquiet, hres⟩ := hsaved
  unfold State.tires State.fallAsleep
  generalize (s.when (decide (r < 32)) fun s => s.saveAsleep r) = t at hquiet hres ⊢
  have hfalls : t.FallsQuiet ((t.setRes r { t.res r with
      power := .switching t.elapsed, idleFrom := none, fellAt := some t.elapsed }).inc (cnt16 SYS_SLEEP_CNT)) :=
    ⟨((Spares.refl t).of_cells (u := t.setRes r { t.res r with
      power := .switching t.elapsed, idleFrom := none, fellAt := some t.elapsed }) rfl rfl).inc
        (f := cnt16 SYS_SLEEP_CNT) (by decide), rfl, _, _, rfl⟩
  have helapsed : t.elapsed = s.elapsed := congrArg (fun c => c.elapsed) hquiet.clock
  refine ⟨hquiet.trans hfalls, fun i => ?_⟩
  show ((t.setRes r _).res i).power = _
  split
  next h =>
    rw [h, State.setRes_res, helapsed]
  next h =>
    rw [State.setRes_res_ne t h, State.res, hres]
    rfl

/-- Resources that fall asleep are switching off (R143). -/
theorem State.each_tires (l : List Nat) (s : State) : s.FallsQuiet (s.each l fun s r => s.tires r) ∧
    ∀ i, i ∈ l ∨ (s.res i).power = .switching s.elapsed →
      ((s.each l fun s r => s.tires r).res i).power = .switching s.elapsed := by
  induction l generalizing s with
  | nil => exact ⟨.refl s, fun i h => h.resolve_left List.not_mem_nil⟩
  | cons r l ih =>
    obtain ⟨hquiet, hpower⟩ := s.tires_keeps r
    obtain ⟨hquiet', hpower'⟩ := ih (s.tires r)
    have helapsed : (s.tires r).elapsed = s.elapsed := congrArg (fun c => c.elapsed) hquiet.clock
    refine ⟨hquiet.trans hquiet', fun i h => ?_⟩
    rw [helapsed] at hpower'
    refine hpower' i ?_
    rw [hpower i, List.mem_cons] at *
    split
    · exact .inr rfl
    next hne => exact h.imp_left fun h => h.resolve_left hne

/-! ### Measured quantities -/

/-- What is measured at the update leaves the sleep delays, the power states, and the bytes of frame memory. -/
structure State.Samples (s t : State) : Prop where
  rd : ∀ a, InDelay a → t.rd a = s.rd a
  pwr : t.pwr = s.pwr
  bytes : t.fm.bytes = s.fm.bytes

namespace State.Samples

variable {s t u : State}

theorem refl (s : State) : s.Samples s := ⟨fun _ _ => rfl, rfl, rfl⟩

theorem trans (h : s.Samples t) (h' : t.Samples u) : s.Samples u :=
  ⟨fun a ha => (h'.rd a ha).trans (h.rd a ha), h'.pwr.trans h.pwr, h'.bytes.trans h.bytes⟩

theorem of_parts (h : s.Samples t) (hc : u.cells = t.cells) (hp : u.pwr = t.pwr) (hf : u.fm.bytes = t.fm.bytes) :
    s.Samples u := ⟨fun a ha => by rw [State.rd, hc]; exact h.rd a ha, hp.trans h.pwr, hf.trans h.bytes⟩

theorem wr (h : s.Samples t) {a : Nat} (ha : ¬ InDelay a) (v : W32) : s.Samples (t.wr a v) :=
  ⟨fun b hb => (State.rd_wr_ne t (by rintro rfl; exact ha hb) v).trans (h.rd b hb), h.pwr, h.bytes⟩

theorem p (h : s.Samples t) {f : Fld} (hf : ¬ InDelay f.addr) (v : Nat) : s.Samples (t.p f v) := h.wr hf _

theorem each {α : Type} (h : s.Samples t) {f : State → α → State} (hf : ∀ s x, State.Samples s (f s x)) (l : List α) :
    s.Samples (t.each l f) := h.trans (State.each_rel State.Samples f l refl (fun _ _ _ => trans) hf t)

theorem when (h : s.Samples t) (b : Bool) {f : State → State} (hf : ∀ s, State.Samples s (f s)) : s.Samples (t.when b f) := by
  cases b with
  | false => exact h
  | true => exact h.trans (hf t)

theorem drawIn (s : State) (lo hi : Nat) : s.Samples (s.drawIn lo hi).2 := (refl s).of_parts rfl rfl rfl

theorem drawInt (s : State) (lo hi : Int) : s.Samples (s.drawInt lo hi).2 := (refl s).of_parts rfl rfl rfl

end State.Samples

theorem State.showTemp_samples (s : State) (t : Int) : s.Samples (s.showTemp t) := by
  have hmax (v : Nat) (s : State) : s.Samples (s.p (cnt16 VM_TEMP_MAX) v) := (Samples.refl s).p (by decide) v
  have hmin (v : Nat) (s : State) : s.Samples (s.p (cnt16 VM_TEMP_MIN) v) := (Samples.refl s).p (by decide) v
  unfold State.showTemp
  exact ((((Samples.refl s).wr (a := SYS_TEMP) (by decide) _).when _ fun s => hmax _ s)).when _ fun s => hmin _ s

theorem State.utils_samples (s : State) : s.Samples (s.seUtil.axUtil).fmUtil := by
  have hse : s.Samples s.seUtil := by
    unfold State.seUtil
    extract_lets shown
    have hshown : s.Samples shown :=
      (Samples.refl s).each (fun s e => (Samples.refl s).wr (a := SE_UTIL e) (not_inDelay_add _ _ (by decide)) _) _
    clear_value shown
    exact hshown.of_parts rfl rfl rfl
  have hport (t : State) (p : Nat) (x : PortSt) : t.Samples (t.setPort p x) := (Samples.refl t).of_parts rfl rfl rfl
  have hax (t : State) : t.Samples t.axUtil :=
    (Samples.refl t).each (fun s p => ((Samples.refl s).wr (a := AX_UTIL p) (not_inDelay_add _ _ (by decide)) _).trans
      (hport _ p _)) _
  have hfm (t : State) : t.Samples t.fmUtil := by
    unfold State.fmUtil
    extract_lets all shown total
    have hshown : t.Samples shown :=
      (Samples.refl t).each (fun s c => (Samples.refl s).p (f := FM_CH_STAT_util c) (not_inDelay_add _ _ (by decide)) _) _
    clear_value shown
    exact (hshown.wr (a := FM_UTIL) (by decide) _).of_parts rfl rfl rfl
  exact (hse.trans (hax _)).trans (hfm _)

theorem State.rails_sampled (s : State) (n : Nat) : s.Samples (let (v, s) := s.drawIn 0 65535
    s.wr (VM_RAIL_MV n) (BitVec.ofNat 32 v)) := by
  have hdraw := Samples.drawIn s 0 65535
  generalize s.drawIn 0 65535 = x at hdraw ⊢
  obtain ⟨v, t⟩ := x
  exact hdraw.wr (a := VM_RAIL_MV n) (not_inDelay_add _ _ (by decide)) _

theorem State.quads_sampled (s : State) (q : Nat) : s.Samples (let (v, s) := s.drawIn 0 65535
    s.p (AC_QUAD_STAT_temp (4 * q)) v) := by
  have hdraw := Samples.drawIn s 0 65535
  generalize s.drawIn 0 65535 = x at hdraw ⊢
  obtain ⟨v, t⟩ := x
  exact hdraw.p (f := AC_QUAD_STAT_temp (4 * q)) (not_inDelay_add _ _ (by decide)) v

theorem State.sampleRails_samples (s : State) : s.Samples s.sampleRails := by
  unfold State.sampleRails
  extract_lets hot
  have hdraw : s.Samples (if hot then s.drawInt (-32768) 32767 else s.drawInt (-880) 2000).2 := by
    split
    · exact .drawInt s _ _
    · exact .drawInt s _ _
  generalize (if hot then s.drawInt (-32768) 32767 else s.drawInt (-880) 2000) = x at hdraw ⊢
  obtain ⟨t, drawn⟩ := x
  exact (((hdraw.trans (drawn.showTemp_samples t)).each State.rails_sampled _).each State.quads_sampled _).trans
    (State.utils_samples _)

/-! ### What the update leaves -/

theorem State.updateNoted_napped {s : State} {k : Nat} (h : s.Napped k) : s.updateNoted.Napped k :=
  ⟨h.mode, h.made, h.nap, h.delay⟩

/-- What the 1 ms update leaves (R143, R144). -/
structure State.Updated (s t : State) : Prop where
  at_ : t.pwr.lastUpdate = s.now
  updates : t.pwr.updates = s.pwr.updates + 1
  lengthened : ∀ k < 6, s.Napped k → t.g (SYS_SLEEP_DLY_d k) = min (s.sleepDelay k + 4) 1023
  asleep : (∀ k < 6, s.g (SYS_SLEEP_CTL_mode k) = 2) → ∀ r < 127, s.fallsAsleep r = true →
    (t.res r).power = .switching s.elapsed
  bytes : t.fm.bytes = s.fm.bytes

theorem State.sleepUpdate_updated {s : State} (h : s.updateDue = true) : s.Updated s.sleepUpdate := by
  have hdelays : ∀ k < 6, InDelay (SYS_SLEEP_DLY k) := by decide
  obtain ⟨c, n, m, q, w, hframe⟩ := s.updateNoted.delaysUpdated_frame
  obtain ⟨hquiet, hpower⟩ := State.each_tires ((List.range 127).filter s.updateNoted.delaysUpdated.fallsAsleep)
    s.updateNoted.delaysUpdated
  change s.updateNoted.delaysUpdated.FallsQuiet s.updateNoted.delaysUpdated.tiredSleep at hquiet
  obtain ⟨r, e, hpwr⟩ := hquiet.pwr
  have hsamples := s.updateNoted.delaysUpdated.tiredSleep.sampleRails_samples
  rw [State.sleepUpdate_of_due h]
  refine ⟨?_, ?_, fun k hk hnapped => ?_, fun hfrozen i hi hfalls => ?_, ?_⟩
  · rw [hsamples.pwr, hpwr, hframe]
    rfl
  · rw [hsamples.pwr, hpwr, hframe]
    rfl
  · have hword := (hsamples.rd _ (hdelays k hk)).trans (hquiet.rd _ (hdelays k hk))
    rw [State.g_of_rd (f := SYS_SLEEP_DLY_d k) hword]
    exact State.each_delayStep_lengthens (fun j hj => List.mem_range.mp hj) List.nodup_range (List.mem_range.mpr hk)
      (State.updateNoted_napped hnapped)
  · have hsame : s.updateNoted.delaysUpdated = s.updateNoted := State.delaysUpdated_of_frozen hfrozen
    rw [hsame] at hpower hsamples
    have htired := hpower i (.inl (List.mem_filter.mpr ⟨List.mem_range.mpr hi, hfalls⟩))
    rw [hsame, State.res, hsamples.pwr]
    exact htired
  · rw [hsamples.bytes, hquiet.fm, hframe]
    rfl

theorem exec_autoSleepUpdate_of_due (at_ : TT) (s : State) (hactive : (s.atTime at_).dev.active = true)
    (hnew : (s.atTime at_).now / msNs ≠ (s.atTime at_).pwr.lastUpdate / msNs) :
    ∃ t, exec (.autoSleepUpdate at_) s = .next t ∧ t.pwr.lastUpdate = (s.atTime at_).now ∧
      t.pwr.updates = (s.atTime at_).pwr.updates + 1 ∧
      (∀ k < 6, (s.atTime at_).g (SYS_SLEEP_CTL_mode k) = 0 → (s.atTime at_).loopBlocked (SYS_SLEEP_STAT k) = false →
        (s.atTime at_).napWaits k = true → 1 ≤ (s.atTime at_).sleepDelay k →
        t.g (SYS_SLEEP_DLY_d k) = min ((s.atTime at_).sleepDelay k + 4) 1023) ∧
      ((∀ k < 6, (s.atTime at_).g (SYS_SLEEP_CTL_mode k) = 2) → ∀ r < 127, (s.atTime at_).fallsAsleep r = true →
        (t.res r).power = .switching (s.atTime at_).elapsed) ∧ keepsMemory s t := by
  have hexec : exec (.autoSleepUpdate at_) s = .next ((s.atTime at_).sleepUpdate.ended s) := rfl
  have hends : ∀ k < 6, endsOn (SYS_SLEEP_DLY k) = false := by decide
  obtain ⟨hat, hupdates, hlengthened, hasleep, hbytes⟩ := State.sleepUpdate_updated (State.updateDue_of hactive hnew)
  obtain ⟨d, e, r, hpwr⟩ := (s.atTime at_).sleepUpdate.ended_pwr s
  refine ⟨_, hexec, (congrArg (fun p => p.lastUpdate) hpwr :).trans hat, (congrArg (fun p => p.updates) hpwr :).trans hupdates,
    fun k hk hmode hmade hnap hdelay => ?_, fun hfrozen r hr hfalls => ?_, ?_⟩
  · rw [State.ended_g _ _ (hends k hk)]
    exact hlengthened k hk ⟨hmode, hmade, hnap, hdelay⟩
  · rw [State.ended_power]
    exact hasleep hfrozen r hr hfalls
  · exact keepsMemory_of_bytes (hbytes.trans (congrArg (fun m => m.bytes) (s.atTime_fm at_)))

end Sys2Proof.Machine

/-! ### The obligation -/

/-- Settles O32: the 1 ms update, the keep-awake bits, and the end of a switch-off. -/
theorem resourcesSleepAndStayAwake : Obligations.ResourcesSleepAndStayAwake :=
  ⟨exec_autoSleepUpdate_of_due, exec_keepAwakeWrite_of_active, exec_domainSwitchedOff_of_due⟩
end

section
/-! Fuses, the rollback counter, and the index of configuration readback (R176, R178, R419). -/

open Sys2Proof Sys2Proof.Machine

namespace Sys2Proof.Machine

/-! ### Registers of the configuration block -/

/-- Of the configuration block only CFG_RB_CTL is judged before its access codes (R419). -/
theorem State.gate_cfg_open {a i off : Nat} (hl : locate a = some (.cfg, i, off)) (hoff : off ≠ 0x0F0) (s : State)
    (old new v m act : W32) : s.gate .observer a old new v m act = (.ok, s) := by
  simp only [State.gate, hl, hoff, if_false, reduceCtorEq]

/-- A command that writes one register from the port leaves the configuration controller as the write does. -/
theorem timedWrite_cfg (at_ : TT) (s : State) (a : Nat) (v : W32) (hreach : (s.atTime at_).reachable a) {w : Why} {u : State}
    (hwrite : (s.atTime at_).writeReg .observer a v 0xFFFFFFFF = (w, u)) (hrmt : u.ax.rmt = none) :
    ∃ t, timed at_ (fun s => s.portWrite a v) s = .next t ∧ t.obs.answer = [BitVec.ofNat 8 w.status, 0] ∧ t.cfg = u.cfg ∧
      (∀ b, endsOn b = false → t.rd b = u.rd b) ∧
      (∀ l, (s.atTime at_).Spares (Outside l) u → keepsRegs s t l ∧ keepsMemory s t) := by
  obtain ⟨o, hexec, hanswer⟩ := State.timedWrite at_ s a v hreach w u hwrite hrmt
  refine ⟨_, hexec, ?_, State.ended_cfg _ s, fun b hb => State.ended_rd _ s hb, fun l h => ?_⟩
  · rw [State.ended_obs]
    exact hanswer
  · have hspares := h.of_cells (u := { u with obs := o }) rfl rfl
    exact ⟨keepsRegs_of_spares (at_ := at_) hspares, keepsMemory_of_spares (at_ := at_) hspares⟩

/-! ### Fuse commands -/

theorem locate_fuseCmd : locate CFG_FUSE_CMD = some (.cfg, 0, 0x050) := by decide

theorem regFields_fuseCmd : regFields CFG_FUSE_CMD = [⟨3, 0, .wo, [(1, 6)]⟩] := by decide

/-- Whether the field of a fuse command has not been programmed; fuse_lock is judged by itself (R176). -/
def FuseSt.fieldFree (f : FuseSt) (cmd : Nat) : Bool :=
  match cmd with
  | 1 => f.keyHash.isNone | 2 => f.aesKey.isNone | 3 => !f.requireSeal | 4 => !f.requireEncrypt
  | 5 => !f.privateJtagOff | _ => true

/-- The fuse commands are writes of CFG_FUSE_CMD (R176). -/
theorem exec_fuseInstr {at_ : TT} {cmd : Nat} {i : Instr} (h : fuseInstr at_ cmd = some i) (s : State) :
    0 < cmd ∧ cmd < 7 ∧ exec i s = timed at_ (fun s => s.portWrite CFG_FUSE_CMD (BitVec.ofNat 32 cmd)) s := by
  unfold fuseInstr at h
  split at h
  case h_7 => cases h
  all_goals
    cases h
    exact ⟨by decide, by decide, rfl⟩

theorem State.fuseMay_eq (s : State) {cmd : Nat} (hpos : 0 < cmd) (hcmd : cmd < 7) :
    s.fuseMay cmd = (s.dev == .inert && !s.cfg.fuses.fuseLock && s.cfg.fuses.fieldFree cmd) := by
  obtain rfl | rfl | rfl | rfl | rfl | rfl : cmd = 1 ∨ cmd = 2 ∨ cmd = 3 ∨ cmd = 4 ∨ cmd = 5 ∨ cmd = 6 := by omega
  all_goals rfl

/-- What a fuse command leaves: the fuses, cleared data registers, and its result (R176). -/
def State.fusesNoted (s : State) (f : FuseSt) (last : Nat) : State :=
  ({ s with cfg := { s.cfg with fuses := f, fuseData := [] } } : State).p CFG_FUSE_RESULT_last last

theorem State.fuseCommand_of_may {s : State} {cmd : Nat} (h : s.fuseMay cmd = true) :
    s.fuseCommand cmd = (true, s.fusesNoted (fusesAfter s cmd) 1) := by
  simp only [State.fuseCommand, h]
  rfl

theorem State.fuseCommand_of_refused {s : State} {cmd : Nat} (h : s.fuseMay cmd = false) :
    s.fuseCommand cmd = (false, s.fusesNoted s.cfg.fuses 2) := by
  simp only [State.fuseCommand, h]
  rfl

theorem State.writeReg_fuseCmd (s : State) {cmd : Nat} (hpos : 0 < cmd) (hcmd : cmd < 7) :
    s.writeReg .observer CFG_FUSE_CMD (BitVec.ofNat 32 cmd) 0xFFFFFFFF =
      (if (s.fuseCommand cmd).1 then .ok else .access, (s.fuseCommand cmd).2) := by
  have hact : ∀ cmd < 7, (actWord [⟨3, 0, .wo, [(1, 6)]⟩] (BitVec.ofNat 32 cmd) 0xFFFFFFFF).toNat % 16 = cmd := by decide
  have hlisted : ¬ (cmd = 0 ∨ 6 < cmd) := by omega
  refine State.writeReg_action (fun _ _ => State.gate_cfg_open locate_fuseCmd (by decide) s _ _ _ _ _) ?_ ?_
  · rw [regFields_fuseCmd]
    exact accessRefuses_single (.inr rfl) _ _ _
  · simp only [State.actionWrite, locate_fuseCmd, regFields_fuseCmd, hact cmd hcmd, hlisted, if_false]

theorem State.fusesNoted_spares (s : State) (f : FuseSt) (last : Nat) :
    s.Spares (Outside [CFG_FUSE_RESULT]) (s.fusesNoted f last) :=
  ((State.Spares.refl s).of_cells (u := { s with cfg := { s.cfg with fuses := f, fuseData := [] } }) rfl rfl).p
    (f := CFG_FUSE_RESULT_last) (not_outside_of_mem (by decide)) last

theorem State.fusesNoted_last (s : State) (f : FuseSt) {last : Nat} (h : last < 4) :
    (s.fusesNoted f last).g CFG_FUSE_RESULT_last = last :=
  (State.g_p_same _ _ _ (by decide) (by decide)).trans (Nat.mod_eq_of_lt h)

/-- CFG_FUSE_RESULT.kcv shows the check value of the AES key in the fuses (R176). -/
theorem State.valueOf_kcv {s : State} {k : List Byte} (h : s.cfg.fuses.aesKey = some k) :
    CFG_FUSE_RESULT_kcv.of (s.valueOf CFG_FUSE_RESULT) = keyCheckValue k % 65536 := by
  have hl : locate CFG_FUSE_RESULT = some (.cfg, 0, 0x054) := by decide
  have hvalue : s.valueOf CFG_FUSE_RESULT =
      CFG_FUSE_RESULT_kcv.put (s.rd (homeOf CFG_FUSE_RESULT)) (keyCheckValue k) := by
    generalize hn : keyCheckValue k = n
    simp only [State.valueOf, hl, State.readCfg, h, hn]
    rfl
  exact hvalue ▸ Fld.of_put CFG_FUSE_RESULT_kcv _ _ (by decide) (by decide)

/-- What the port sees of a fuse command, whatever it leaves of the fuses (R176). -/
theorem timed_fuseCmd (at_ : TT) {cmd : Nat} (hpos : 0 < cmd) (hcmd : cmd < 7) {s : State} {ok : Bool} {f : FuseSt} {last : Nat}
    (hreach : (s.atTime at_).reachable CFG_FUSE_CMD) (hlast : last < 4)
    (h : (s.atTime at_).fuseCommand cmd = (ok, (s.atTime at_).fusesNoted f last)) :
    ∃ t, timed at_ (fun s => s.portWrite CFG_FUSE_CMD (BitVec.ofNat 32 cmd)) s = .next t ∧ t.cfg.fuses = f ∧
      t.g CFG_FUSE_RESULT_last = last ∧ t.cfg.fuseData = [] ∧ t.obs.answer = [if ok then 0 else 5, 0] ∧
      keepsRegs s t [CFG_FUSE_RESULT] ∧ keepsMemory s t := by
  obtain ⟨-, -, -, -, -, -, hrmt⟩ := id hreach
  have hwrite := (s.atTime at_).writeReg_fuseCmd hpos hcmd
  rw [h] at hwrite
  obtain ⟨t, hexec, hanswer, hcfg, hrd, hkeeps⟩ := timedWrite_cfg at_ s _ _ hreach hwrite hrmt
  obtain ⟨hregs, hmem⟩ := hkeeps _ (State.fusesNoted_spares _ f last)
  refine ⟨t, hexec, congrArg CfgSt.fuses hcfg, ?_, congrArg CfgSt.fuseData hcfg, ?_, hregs, hmem⟩
  · exact (State.g_of_rd (hrd _ (by decide))).trans (State.fusesNoted_last _ f hlast)
  · rw [hanswer]
    cases ok <;> rfl

theorem exec_fuseInstr_of_free {at_ : TT} {cmd : Nat} {i : Instr} {s : State} (hinstr : fuseInstr at_ cmd = some i)
    (hreach : (s.atTime at_).reachable CFG_FUSE_CMD) (hdev : (s.atTime at_).dev = .inert)
    (hlock : (s.atTime at_).cfg.fuses.fuseLock = false) (hfree : (s.atTime at_).cfg.fuses.fieldFree cmd = true) :
    ∃ t, exec i s = .next t ∧ t.cfg.fuses = fusesAfter (s.atTime at_) cmd ∧ t.g CFG_FUSE_RESULT_last = 1 ∧
      t.cfg.fuseData = [] ∧
      (cmd = 2 → CFG_FUSE_RESULT_kcv.of (t.valueOf CFG_FUSE_RESULT) = keyCheckValue ((s.atTime at_).fuseBytes 8) % 65536) ∧
      t.obs.answer = [0, 0] ∧ keepsRegs s t [CFG_FUSE_RESULT] ∧ keepsMemory s t := by
  obtain ⟨hpos, hcmd, hexec⟩ := exec_fuseInstr hinstr s
  have hmay : (s.atTime at_).fuseMay cmd = true := by
    rw [State.fuseMay_eq _ hpos hcmd, hdev, hlock, hfree]
    rfl
  obtain ⟨t, ht, hfuses, hlast, hdata, hanswer, hkept⟩ :=
    timed_fuseCmd at_ hpos hcmd hreach (by decide) (State.fuseCommand_of_may hmay)
  refine ⟨t, hexec.trans ht, hfuses, hlast, hdata, fun h => State.valueOf_kcv ?_, hanswer, hkept⟩
  rw [hfuses, h]
  rfl

theorem exec_fuseInstr_of_refused {at_ : TT} {cmd : Nat} {i : Instr} {s : State} (hinstr : fuseInstr at_ cmd = some i)
    (hreach : (s.atTime at_).reachable CFG_FUSE_CMD)
    (h : (s.atTime at_).dev ≠ .inert ∨ (s.atTime at_).cfg.fuses.fuseLock = true ∨
      (s.atTime at_).cfg.fuses.fieldFree cmd = false) :
    ∃ t, exec i s = .next t ∧ t.cfg.fuses = (s.atTime at_).cfg.fuses ∧ t.g CFG_FUSE_RESULT_last = 2 ∧ t.cfg.fuseData = [] ∧
      t.obs.answer = [5, 0] ∧ keepsRegs s t [CFG_FUSE_RESULT] ∧ keepsMemory s t := by
  obtain ⟨hpos, hcmd, hexec⟩ := exec_fuseInstr hinstr s
  have hrefused : (s.atTime at_).fuseMay cmd = false := by
    rw [State.fuseMay_eq _ hpos hcmd]
    obtain hdev | hlock | hset := h
    · simp [hdev]
    · simp [hlock]
    · simp [hset]
  obtain ⟨t, ht, hkept⟩ := timed_fuseCmd at_ hpos hcmd hreach (by decide) (State.fuseCommand_of_refused hrefused)
  exact ⟨t, hexec.trans ht, hkept⟩

/-! ### The rollback counter -/

theorem locate_rollbackAdv : locate CFG_ROLLBACK_ADV = some (.cfg, 0, 0x058) := by decide

theorem regFields_rollbackAdv : regFields CFG_ROLLBACK_ADV = [⟨31, 0, .wo, []⟩] := by decide

/-- A register whose one field is WO acts on the written word. -/
theorem actWord_word (v : W32) : actWord [⟨31, 0, .wo, []⟩] v 0xFFFFFFFF = v := by
  have hmask : (FieldDesc.mask ⟨31, 0, .wo, []⟩) = BitVec.allOnes 32 := by decide
  have hall : (0xFFFFFFFF : W32) = BitVec.allOnes 32 := by decide
  simp only [actWord, List.foldl_cons, List.foldl_nil, hmask, hall, BitVec.and_allOnes]
  exact BitVec.zero_or

theorem State.writeReg_rollbackAdv (s : State) (v : W32) : s.writeReg .observer CFG_ROLLBACK_ADV v 0xFFFFFFFF =
    (if (s.rollbackGo v).1 then .ok else .access, (s.rollbackGo v).2) := by
  refine State.writeReg_action (fun _ _ => State.gate_cfg_open locate_rollbackAdv (by decide) s _ _ _ _ _) ?_ ?_
  · rw [regFields_rollbackAdv]
    exact accessRefuses_single (.inr rfl) _ _ _
  · simp only [State.actionWrite, locate_rollbackAdv, regFields_rollbackAdv, actWord_word]

/-- What the port sees of a write of CFG_ROLLBACK_ADV, which changes no register (R178). -/
theorem timed_rollbackAdv (at_ : TT) (v : W32) {s : State} {ok : Bool} {c : CfgSt}
    (hreach : (s.atTime at_).reachable CFG_ROLLBACK_ADV)
    (h : (s.atTime at_).rollbackGo v = (ok, { s.atTime at_ with cfg := c })) :
    ∃ t, exec (.rollbackAdvance at_ v) s = .next t ∧ t.cfg = c ∧ t.obs.answer = [if ok then 0 else 5, 0] ∧
      keepsRegs s t [] ∧ keepsMemory s t := by
  obtain ⟨-, -, -, -, -, -, hrmt⟩ := id hreach
  have hwrite := (s.atTime at_).writeReg_rollbackAdv v
  rw [h] at hwrite
  obtain ⟨t, hexec, hanswer, hcfg, -, hkeeps⟩ := timedWrite_cfg at_ s _ _ hreach hwrite hrmt
  refine ⟨t, hexec, hcfg, ?_, hkeeps [] ((State.Spares.refl _).of_cells rfl rfl)⟩
  rw [hanswer]
  cases ok <;> rfl

theorem exec_rollbackAdvance_of_allowed (at_ : TT) (v : W32) (s : State)
    (hreach : (s.atTime at_).reachable CFG_ROLLBACK_ADV) (hv : v = 0xA5) (hrun : (s.atTime at_).dev.running = true)
    (hallow : (s.atTime at_).cfg.allowAdvance = true)
    (habove : (s.atTime at_).cfg.fuses.rollback < (s.atTime at_).cfg.secVersion) :
    ∃ t, exec (.rollbackAdvance at_ v) s = .next t ∧
      t.cfg = { (s.atTime at_).cfg with advanceTo := some (s.atTime at_).cfg.secVersion } ∧ t.obs.answer = [0, 0] ∧
      keepsRegs s t [] ∧ keepsMemory s t := by
  refine timed_rollbackAdv (ok := true) at_ v hreach ?_
  rw [State.rollbackGo, if_pos]
  simp [hv, hrun, hallow, habove]

theorem exec_rollbackAdvance_of_refused (at_ : TT) (v : W32) (s : State)
    (hreach : (s.atTime at_).reachable CFG_ROLLBACK_ADV)
    (h : v ≠ 0xA5 ∨ (s.atTime at_).dev.running = false ∨ (s.atTime at_).cfg.allowAdvance = false ∨
      (s.atTime at_).cfg.secVersion ≤ (s.atTime at_).cfg.fuses.rollback) :
    ∃ t, exec (.rollbackAdvance at_ v) s = .next t ∧ t.cfg = (s.atTime at_).cfg ∧ t.obs.answer = [5, 0] ∧
      keepsRegs s t [] ∧ keepsMemory s t := by
  refine timed_rollbackAdv (ok := false) at_ v hreach ?_
  rw [State.rollbackGo, if_neg]
  intro hgo
  simp only [Bool.and_eq_true, beq_iff_eq, decide_eq_true_eq] at hgo
  obtain ⟨⟨⟨hv, hrun⟩, hallow⟩, habove⟩ := hgo
  obtain h | h | h | h := h
  · exact h hv
  · simp [hrun] at h
  · simp [hallow] at h
  · omega

/-- A step counts one towards the version that was asked for (R178). -/
theorem exec_rollbackStep_of_below (at_ : TT) (n : Nat) (s : State) (hto : (s.atTime at_).cfg.advanceTo = some n)
    (hmax : (s.atTime at_).cfg.fuses.rollback + 1 ≤ 64) :
    ∃ t, exec (.rollbackStep at_) s = .next t ∧
      t.cfg.fuses = { (s.atTime at_).cfg.fuses with rollback := (s.atTime at_).cfg.fuses.rollback + 1 } ∧
      t.cfg.advanceTo = (if (s.atTime at_).cfg.fuses.rollback + 1 < n then some n else none) ∧ keepsRegs s t [] ∧
      keepsMemory s t := by
  have hcount : min ((s.atTime at_).cfg.fuses.rollback + 1) 64 = (s.atTime at_).cfg.fuses.rollback + 1 := by omega
  have hexec : exec (.rollbackStep at_) s = .next ((s.atTime at_).rollbackNext.ended s) := rfl
  have hspares : (s.atTime at_).Spares (Outside []) (s.atTime at_).rollbackNext := by
    rw [State.rollbackNext, hto]
    exact (State.Spares.refl _).of_cells rfl rfl
  refine ⟨_, hexec, ?_, ?_, keepsRegs_of_spares hspares, keepsMemory_of_spares hspares⟩
  all_goals
    rw [State.ended_cfg, State.rollbackNext, hto]
    simp only [hcount]

/-! ### The index of readback -/

/-- The field of CFG_RB_CTL: index (R419). -/
def rbIndexField : FieldDesc := ⟨9, 0, .rw, [(0, 639)]⟩

theorem locate_rbCtl : locate CFG_RB_CTL = some (.cfg, 0, 0x0F0) := by decide

theorem regFields_rbCtl : regFields CFG_RB_CTL = [rbIndexField] := by decide

theorem State.gate_rbCtl (s : State) (old new v m act : W32) : s.gate .observer CFG_RB_CTL old new v m act =
    if s.sealed then (.sealed, s.inc (cnt16 CFG_CHAN_REFUSE_CNT))
    else if s.dev = .inspect ∧ s.bit CFG_CHAN_CTL_en then (.ok, s)
    else (.state, s.inc (cnt16 CFG_CHAN_REFUSE_CNT)) := by
  simp only [State.gate, locate_rbCtl, if_true, if_false, reduceCtorEq]

theorem getLsbD_newWord_rbCtl (old v : W32) {i : Nat} (hi : i < 10) :
    (newWord false [rbIndexField] old v 0xFFFFFFFF).getLsbD i = v.getLsbD i := by
  simp only [newWord, rbIndexField, List.foldl_cons, List.foldl_nil, FieldDesc.mask, BitVec.getLsbD_or, BitVec.getLsbD_and,
    BitVec.getLsbD_not]
  interval_cases i <;> simp

theorem index_newWord_rbCtl (old v : W32) :
    CFG_RB_CTL_index.of (newWord false [rbIndexField] old v 0xFFFFFFFF) = v.toNat % 1024 := by
  rw [Fld.of_congr (v := v) fun i _ (hi : i ≤ 9) => getLsbD_newWord_rbCtl old v (by omega)]
  simp [Fld.of]

theorem State.writeReg_rbCtl {s : State} {v : W32} (hsealed : s.sealed = false) (hdev : s.dev = .inspect)
    (hen : s.bit CFG_CHAN_CTL_en = true) (hv : v.toNat % 1024 < 640) : s.writeReg .observer CFG_RB_CTL v 0xFFFFFFFF =
      (.ok, s.wr CFG_RB_CTL (newWord false [rbIndexField] (s.rd CFG_RB_CTL) v 0xFFFFFFFF)) := by
  have hindex : rbIndexField.of v = v.toNat % 1024 := by simp [FieldDesc.of, bitsOf, rbIndexField]
  rw [State.writeReg_plain s _ v [rbIndexField] _ _ regFields_rbCtl rfl rfl (by rw [State.gate_rbCtl]; simp [hsealed, hdev, hen])
    (accessRefuses_single (.inl rfl) _ _ _)]
  · simp [State.written, locate_rbCtl]
  · simp [State.actionWrite, locate_rbCtl]
  · simp [State.special, locate_rbCtl]
  · simp only [encodingRefuses, List.any_cons, List.any_nil, masked_all, FieldDesc.lists, hindex]
    simp [rbIndexField]
    omega
  · simp [State.ruleRefuses, locate_rbCtl]
  · simp [State.namesRefuse, State.namesOf, locate_rbCtl]
  · simp [locate_rbCtl]

theorem exec_readbackSelect_of_inspect (at_ : TT) (v : W32) (s : State) (hreach : (s.atTime at_).reachable CFG_RB_CTL)
    (hdev : (s.atTime at_).dev = .inspect) (hen : (s.atTime at_).bit CFG_CHAN_CTL_en = true)
    (hsealed : (s.atTime at_).sealed = false) (hv : v.toNat % 1024 < 640) :
    ∃ t, exec (.readbackSelect at_ v) s = .next t ∧ t.g CFG_RB_CTL_index = v.toNat % 1024 ∧ t.obs.answer = [0, 0] ∧
      keepsRegs s t [CFG_RB_CTL] ∧ keepsMemory s t := by
  obtain ⟨-, -, -, -, -, -, hrmt⟩ := id hreach
  obtain ⟨t, hexec, hanswer, -, hrd, hkeeps⟩ :=
    timedWrite_cfg at_ s _ v hreach (State.writeReg_rbCtl hsealed hdev hen hv) hrmt
  refine ⟨t, hexec, ?_, hanswer, hkeeps _ ((State.Spares.refl _).wr (not_outside_of_mem (by decide)) _)⟩
  rw [State.g, hrd _ (by decide), State.rd_wr_same, index_newWord_rbCtl]

theorem exec_readbackSelect_of_refused (at_ : TT) (v : W32) (s : State) (hreach : (s.atTime at_).reachable CFG_RB_CTL)
    (h : (s.atTime at_).sealed = true ∨ (s.atTime at_).dev ≠ .inspect ∨ (s.atTime at_).bit CFG_CHAN_CTL_en = false) :
    ∃ t, exec (.readbackSelect at_ v) s = .next t ∧ t.obs.answer = [if (s.atTime at_).sealed then 7 else 9, 0] ∧
      t.g (cnt16 CFG_CHAN_REFUSE_CNT) = min (s.g (cnt16 CFG_CHAN_REFUSE_CNT) + 1) 65535 ∧
      keepsRegs s t [CFG_CHAN_REFUSE_CNT] ∧ keepsMemory s t := by
  obtain ⟨-, -, -, -, -, -, hrmt⟩ := id hreach
  have hgate (new act : W32) : (s.atTime at_).gate .observer CFG_RB_CTL ((s.atTime at_).rd CFG_RB_CTL) new v 0xFFFFFFFF act =
      (if (s.atTime at_).sealed then .sealed else .state, (s.atTime at_).inc (cnt16 CFG_CHAN_REFUSE_CNT)) := by
    rw [State.gate_rbCtl]
    split
    · rfl
    next hopen =>
      have hclosed : ¬ ((s.atTime at_).dev = .inspect ∧ (s.atTime at_).bit CFG_CHAN_CTL_en = true) := by
        rintro ⟨hdev, hen⟩
        obtain h | h | h := h
        · exact hopen h
        · exact h hdev
        · simp [hen] at h
      rw [if_neg hclosed]
  obtain ⟨t, hexec, hanswer, -, hrd, hkeeps⟩ :=
    timedWrite_cfg at_ s _ v hreach (State.writeReg_gated hgate (by split <;> decide)) hrmt
  refine ⟨t, hexec, ?_, ?_, hkeeps _ ((State.Spares.refl _).inc (f := cnt16 CFG_CHAN_REFUSE_CNT)
    (not_outside_of_mem (by decide)))⟩
  · rw [hanswer]
    split <;> rfl
  · rw [State.g_of_rd (hrd _ (by decide)), State.g_inc_cnt16, State.atTime_g]

end Sys2Proof.Machine

/-! ### The obligations -/

/-- Settles O35: a fuse command by whether it may program its field. -/
theorem fusesAreProgrammedOnce : Obligations.FusesAreProgrammedOnce :=
  fun _ _ _ _ hinstr hreach =>
    ⟨fun hdev hlock hfree => exec_fuseInstr_of_free hinstr hreach hdev hlock hfree, exec_fuseInstr_of_refused hinstr hreach⟩

/-- Settles O36: the rollback counter's write and step, and the write of the readback index. -/
theorem rollbackAndReadback : Obligations.RollbackAndReadback :=
  ⟨fun at_ v s hreach =>
      ⟨exec_rollbackAdvance_of_allowed at_ v s hreach, exec_rollbackAdvance_of_refused at_ v s hreach⟩,
    exec_rollbackStep_of_below,
    fun at_ v s hreach =>
      ⟨exec_readbackSelect_of_inspect at_ v s hreach, exec_readbackSelect_of_refused at_ v s hreach⟩⟩
end

section
/-! What cues, scripts, events, frames and windows may change of the state, whatever the device does (R88–R129, R268–R278):
the one frame from which a statement about any other part of the device follows. -/

open Sys2Proof Sys2Proof.Machine

namespace Sys2Proof.Machine

/-! ### The frame -/

/-- A register that the cue engine, its scripts, frames, windows and wakes may change: the count of naps, the cue engine's
block, and everything from the monitors' block on. -/
abbrev ServiceReg (a : Nat) : Prop := a = SYS_NAP_CNT ∨ (0x20000 ≤ a ∧ a < 0x30000) ∨ 0x340000 ≤ a

theorem serviceReg_add (b n : Nat) (h : 0x340000 ≤ b) : ServiceReg (b + n) := .inr (.inr (by omega))

theorem serviceReg_wmStat (m : Nat) : ServiceReg (WM_STAT m) := serviceReg_add _ _ (by decide)

theorem serviceReg_scriptEn {e : Nat} (h : e < 1024) : ServiceReg (CUE_SCRIPT_EN (e / 32)) :=
  .inr (.inl (by simp only [CUE_SCRIPT_EN]; omega))

theorem serviceReg_sourceCnt (src : CueSource) : ServiceReg (sourceCnt src) := by cases src <;> decide

/-- Nothing changes but the registers of the services, the event log, the cue engine, Axlink, the monitors, and the
resources that wake, with their naps. -/
structure State.Serves (s t : State) : Prop where
  rd : ∀ a, ¬ ServiceReg a → t.rd a = s.rd a
  frame : ∃ c g q x w r n, t = { s with
    cells := c, log := g, cue := q, ax := x, wm := w, pwr := { s.pwr with res := r, naps := n } }

namespace State.Serves

variable {s t u : State}

theorem refl (s : State) : s.Serves s := ⟨fun _ _ => rfl, _, _, _, _, _, _, _, rfl⟩

theorem trans (h : s.Serves t) (h' : t.Serves u) : s.Serves u := by
  refine ⟨fun a ha => (h'.rd a ha).trans (h.rd a ha), ?_⟩
  obtain ⟨-, _, _, _, _, _, _, _, rfl⟩ := h
  obtain ⟨-, c, g, q, x, w, r, n, rfl⟩ := h'
  exact ⟨c, g, q, x, w, r, n, rfl⟩

theorem wr (h : s.Serves t) {a : Nat} (ha : ServiceReg a) (v : W32) : s.Serves (t.wr a v) :=
  h.trans ⟨fun _ hb => State.rd_wr_ne t (by rintro rfl; exact hb ha) v, _, _, _, _, _, _, _, rfl⟩

theorem p (h : s.Serves t) {f : Fld} (hf : ServiceReg f.addr) (v : Nat) : s.Serves (t.p f v) := h.wr hf _

theorem pb (h : s.Serves t) {f : Fld} (hf : ServiceReg f.addr) (b : Bool) : s.Serves (t.pb f b) := h.p hf _

theorem inc (h : s.Serves t) {f : Fld} (hf : ServiceReg f.addr) : s.Serves (t.inc f) := h.p hf _

theorem incWrap (h : s.Serves t) {f : Fld} (hf : ServiceReg f.addr) : s.Serves (t.incWrap f) := h.p hf _

theorem raise (h : s.Serves t) {f : Fld} (hf : ServiceReg f.addr) (v : Nat) : s.Serves (t.raise f v) := h.p hf _

theorem setBitOf (h : s.Serves t) {a : Nat} (ha : ServiceReg a) (i : Nat) (b : Bool) : s.Serves (t.setBitOf a i b) :=
  h.pb (f := ⟨a, i, i⟩) ha b

theorem event (h : s.Serves t) {code : Nat} (hc : code < 64) (svc : Nat) (d : W32) (cause : Nat) :
    s.Serves (t.event code svc d cause) := by
  refine h.trans ⟨fun a ha => State.event_rd t code svc d cause ?_ hc, ?_⟩
  · unfold inLog
    omega
  · obtain ⟨c, l, he⟩ := State.event_eq t code svc d cause
    exact ⟨c, _, _, _, _, _, _, he⟩

theorem cue (h : s.Serves t) (q : CueSt) : s.Serves { t with cue := q } :=
  h.trans ⟨fun _ _ => rfl, _, _, q, _, _, _, _, rfl⟩

theorem ax (h : s.Serves t) (x : AxSt) : s.Serves { t with ax := x } :=
  h.trans ⟨fun _ _ => rfl, _, _, _, x, _, _, _, rfl⟩

theorem setEntries (h : s.Serves t) (l : List Entry) : s.Serves (t.setEntries l) := h.cue _

theorem updEntry (h : s.Serves t) (id : CueId) (f : Entry → Entry) : s.Serves (t.updEntry id f) := h.cue _

theorem setScript (h : s.Serves t) (e : Nat) (x : ScriptSt) : s.Serves (t.setScript e x) := h.cue _

theorem setPort (h : s.Serves t) (p : Nat) (x : PortSt) : s.Serves (t.setPort p x) := h.ax _

theorem setMon (h : s.Serves t) (m : Nat) (x : MonSt) : s.Serves (t.setMon m x) :=
  h.trans ⟨fun _ _ => rfl, _, _, _, _, _, _, _, rfl⟩

theorem of_wakesTo (h : s.WakesTo t) : s.Serves t := by
  refine ⟨fun a ha => h.rd a fun hnap => ha (.inl hnap), ?_⟩
  obtain ⟨c, r, n, hframe⟩ := h.frame
  exact ⟨c, _, _, _, _, r, n, hframe⟩

theorem each {α : Type} (h : s.Serves t) {f : State → α → State} (hf : ∀ s x, State.Serves s (f s x)) (l : List α) :
    s.Serves (t.each l f) :=
  h.trans (State.each_rel State.Serves f l refl (fun _ _ _ => trans) hf t)

theorem when (h : s.Serves t) (b : Bool) {f : State → State} (hf : ∀ s, State.Serves s (f s)) : s.Serves (t.when b f) := by
  cases b with
  | false => exact h
  | true => exact h.trans (hf t)

/-- What each step of a fold may change, the fold may change. -/
theorem foldl {α β : Type} (F : β → State) (f : β → α → β) (h : ∀ b a, (F b).Serves (F (f b a))) (l : List α) (b : β) :
    (F b).Serves (F (l.foldl f b)) := by
  induction l generalizing b with
  | nil => exact .refl _
  | cons a l ih => exact (h b a).trans (ih (f b a))

end State.Serves

/-! ### Wakes -/

theorem State.serves_wake (s : State) (r : Nat) : s.Serves (s.wake r) := .of_wakesTo (s.wake_wakesTo r)

theorem State.serves_wakeUsed (s : State) (r : Nat) : s.Serves (s.wakeUsed r) := by
  unfold State.wakeUsed
  split
  · exact s.serves_wake r
  · exact .refl s

theorem State.serves_wakeAllUsed (s : State) : s.Serves s.wakeAllUsed := (Serves.refl s).each State.serves_wakeUsed _

/-! ### The queue -/

theorem State.serves_countReject (s : State) (svc : Nat) (seq : W32) (why : Nat) : s.Serves (s.countReject svc seq why) := by
  have hcount : s.Serves (if why = whyQuota then (s.inc (cnt16 CUE_QUOTA_CNT)).inc (SV_CUE_CNT_quota svc)
      else s.inc (cnt16 CUE_REJECT_CNT)) := by
    split
    · exact ((Serves.refl s).inc (by decide)).inc (serviceReg_add _ _ (by decide))
    · exact (Serves.refl s).inc (by decide)
  exact (((hcount.wr (by decide) _).p (by decide) _).p (by decide) _).event (by decide) _ _ _

theorem State.serves_removeCue (s : State) (e : Entry) : s.Serves (s.removeCue e) := by
  obtain ⟨q, hq⟩ := s.removeEntry_eq e
  have hremoved : s.Serves (s.removeEntry e) := hq ▸ (Serves.refl s).cue q
  unfold State.removeCue
  obtain h | ⟨_, _, _, h⟩ := (s.removeEntry e).dropChain_cases e.id
  · rw [h]
    exact hremoved
  · rw [h]
    exact ((hremoved.setEntries _).inc (by decide)).event (by decide) _ _ _

theorem State.serves_finishCue (s : State) (e : Entry) : s.Serves (s.finishCue e) := by
  have hlogged : s.Serves (s.when (recNotify e.rec_) fun s => s.eventNow 0x14 (recSvc e.rec_) e.rec_.seq) :=
    (Serves.refl s).when _ fun s => (Serves.refl s).event (by decide) _ _ _
  obtain ⟨q, hq⟩ := State.removeEntry_eq (s.when (recNotify e.rec_) fun s => s.eventNow 0x14 (recSvc e.rec_) e.rec_.seq) e
  exact (hq ▸ hlogged.cue q).setEntries _

theorem State.serves_sceneDone (s : State) (e : Entry) : s.Serves (s.sceneDone e) := by
  unfold State.sceneDone
  split_ifs
  · exact .refl s
  · exact .refl s
  · split
    · exact s.serves_finishCue _
    · exact .refl s

theorem State.serves_wakeCue (s : State) (e : Entry) : s.Serves (s.wakeCue e) :=
  ((Serves.refl s).each State.serves_wake _).updEntry _ _

theorem State.serves_becomeLate (s : State) (e : Entry) : s.Serves (s.becomeLate e) := by
  have hlogged : s.Serves (((s.eventNow 0x11 (recSvc e.rec_) ((e.rec_.seq <<< 2) ||| BitVec.ofNat 32
      (recPolicy e.rec_))).inc (cnt16 CUE_LATE_CNT)).inc (SV_CUE_CNT_late (recSvc e.rec_))) :=
    (((Serves.refl s).event (by decide) _ _ _).inc (by decide)).inc (serviceReg_add _ _ (by decide))
  simp only [State.becomeLate]
  split_ifs
  · exact .refl s
  · exact (hlogged.inc (by decide)).trans (State.serves_removeCue _ e)
  · exact ((hlogged.inc (by decide)).setEntries _).trans (State.serves_sceneDone _ e)
  · exact (hlogged.trans (State.serves_wakeCue _ e)).updEntry _ _

theorem State.serves_goQueued (s : State) (id : CueId) (launch : Nat) : s.Serves (s.goQueued id launch) := by
  simp only [State.goQueued]
  split
  · exact (Serves.refl s).updEntry id _
  · split_ifs
    · exact ((Serves.refl s).updEntry id _).trans (State.serves_becomeLate _ _)
    · exact ((Serves.refl s).updEntry id _).trans (State.serves_wakeCue _ _)
    · exact (Serves.refl s).updEntry id _

/-! ### Acceptance -/

theorem State.serves_dedupe (s : State) (origin : MemberId) (seq : W32) : s.Serves (s.dedupe origin seq).2 := by
  have hput (l : List DedupSt) : s.Serves { s with cue := { s.cue with dedup := l } } := (Serves.refl s).cue _
  simp only [State.dedupe]
  split
  · exact hput _
  · split_ifs
    all_goals exact hput _

/-- An accepted cue is numbered and counted, and takes its place in the queue, armed with its preroll or queued. -/
theorem State.serves_addEntry (s : State) (src : CueSource) (r : CueRec) (script : Option Nat) (after : Option CueId) :
    s.Serves (s.addEntry src r script after).2 := by
  have hseq (b : Bool) (v : W32) : s.Serves (if b then s else s.wr CUE_SEQ v) := by
    cases b with
    | false => exact (Serves.refl s).wr (by decide) v
    | true => exact .refl s
  have hplaced (t : State) (h : s.Serves t) (armed queued : Bool) (e : Entry) (id : CueId) (n : Nat) :
      s.Serves (if armed then t.wakeCue e else if queued then t.goQueued id n else t) := by
    split
    · exact h.trans (t.serves_wakeCue e)
    · split
      · exact h.trans (t.serves_goQueued id n)
      · exact h
  exact hplaced _ ((((hseq _ _).cue _).incWrap (serviceReg_sourceCnt src)).raise (by decide) _) _ _ _ _ _

theorem State.serves_putOnWire (s : State) (p : Nat) (f : AxFrame) : s.Serves (s.putOnWire p f) := by
  have hsent (x y : PortSt) (w : AxSt) : s.Serves
      ((({ s.setPort p x with ax := w } : State).setPort p y).incWrap (word (AX_TX_FRAME_CNT p))) :=
    ((((Serves.refl s).setPort p x).ax w).setPort p y).incWrap (serviceReg_add _ _ (by decide))
  exact hsent _ _ _

theorem State.serves_sendFrame (s : State) (p : Nat) (f : AxFrame) : s.Serves (s.sendFrame p f) := by
  have hcredit : s.Serves (match creditOf p f.cls with | some c => s.p c (s.g c - f.cost) | none => s) := by
    unfold creditOf
    split_ifs
    case neg => exact .refl s
    all_goals exact (Serves.refl s).p (serviceReg_add _ _ (by decide)) _
  simp only [State.sendFrame]
  split_ifs
  · exact .refl s
  · exact hcredit.trans (State.serves_putOnWire _ _ _)
  · exact (Serves.refl s).setPort _ _

theorem State.serves_floodCue (s : State) (r : CueRec) (but : Option Nat) : s.Serves (s.floodCue r but) := by
  have hport (s : State) (p : Nat) : s.Serves (if s.treePort p && but != some p then
      s.sendFrame p { s.frame clCue 0 0 (cueWords r) with bcast := true, source := r.origin.truncate 12 } else s) := by
    split
    · exact s.serves_sendFrame p _
    · exact .refl s
  simp only [State.floodCue]
  split
  · exact .refl s
  · exact ((Serves.refl s).each hport _).ax _

theorem State.serves_acceptChain (s : State) (src : CueSource) (recs : List CueRec) (open_ : Bool)
    (script : Option Nat) : s.Serves (s.acceptChain src recs open_ script).2 := by
  unfold State.acceptChain
  split
  · exact (Serves.refl s).each (fun s _ => s.serves_countReject _ _ _) _
  · refine Serves.foldl (fun acc : List Taken × Option CueId × State => acc.2.2) _ (fun acc r => ?_) recs ([], none, s)
    refine ((State.serves_addEntry _ _ _ _ _).when _ fun t => ?_).when _ fun t => t.serves_dedupe _ _
    split
    · exact t.serves_floodCue _ _
    · exact t.serves_floodCue _ _

/-! ### Scripts and events -/

/-- A script entry is one of the 1,024 that an image may hold (R122). -/
theorem State.script_lt {s : State} {e : Nat} {x : ScriptSt} (h : s.script e = some x) : e < 1024 := by
  unfold State.script at h
  split at h
  next hlt => exact hlt
  next => cases h

theorem State.serves_lastInstance (s : State) (e : Nat) : s.Serves (s.lastInstance e) := by
  unfold State.lastInstance
  split
  next x hx => exact (Serves.refl s).when _ fun s => (Serves.refl s).setBitOf (serviceReg_scriptEn (State.script_lt hx)) _ _
  next => exact .refl s

theorem State.serves_insertScript (s : State) (e : Nat) : s.Serves (s.insertScript e) := by
  obtain h | ⟨x, hx, -, -, h⟩ | ⟨recs, open_, y, h⟩ := s.insertScript_cases e
  · rw [h]
    exact .refl s
  · rw [h]
    exact (Serves.refl s).setBitOf (serviceReg_scriptEn (State.script_lt hx)) _ _
  · rw [h]
    exact (s.serves_acceptChain _ _ _ _).setScript e y

theorem State.serves_enableScript (s : State) (e : Nat) : s.Serves (s.enableScript e) := by
  unfold State.enableScript
  split
  · exact .refl s
  · exact ((Serves.refl s).setScript e _).trans (State.serves_insertScript _ e)

theorem State.serves_dropInstances (s : State) : s.Serves s.dropInstances :=
  (Serves.refl s).each (fun s _ => ((Serves.refl s).setEntries _).cue _) _

theorem State.serves_enableScripts (s : State) : s.Serves s.enableScripts := by
  unfold State.enableScripts
  split
  · exact (Serves.refl s).each State.serves_enableScript _
  · exact .refl s

theorem State.serves_nextInstances (s : State) : s.Serves s.nextInstances := by
  refine ((Serves.refl s).cue _).each (fun s e => ?_) _
  split
  · exact s.serves_insertScript e
  · exact s.serves_lastInstance e

theorem State.serves_askNext (s : State) (e : Entry) : s.Serves (s.askNext e) := by
  unfold State.askNext
  split
  · exact (Serves.refl s).cue _
  · exact .refl s

theorem State.serves_fire (s : State) (src cause : Nat) : s.Serves (s.fire src cause) :=
  (((Serves.refl s).setEntries _).each (fun s e => (s.serves_askNext e).updEntry _ _) _).trans
    (State.serves_nextInstances _)

/-! ### Windows -/

theorem State.serves_monReport (s : State) (m : Nat) (before : Bool) (cause : Nat) :
    s.Serves (s.monReport m before cause) := by
  simp only [State.monReport]
  split_ifs
  · exact .refl s
  · exact ((Serves.refl s).inc (serviceReg_add _ _ (by decide))).trans (State.serves_fire _ _ _)
  · exact s.serves_fire _ _

theorem State.serves_setLive (s : State) (m : Nat) (v side : Bool) (cause : Nat) :
    s.Serves (s.setLive m v side cause) := by
  have hstat := serviceReg_wmStat m
  have hflags (t : State) (h : s.Serves t) : s.Serves (if t.bit (WM_CTL_mode m) then
      (if v then t.pb (WM_STAT_rise m) true else t.pb (WM_STAT_fall m) true)
      else t.when v (fun s => s.pb (WM_STAT_latched m) true)) := by
    split
    · split
      · exact h.pb (f := WM_STAT_rise m) hstat true
      · exact h.pb (f := WM_STAT_fall m) hstat true
    · exact h.when v fun s => (Serves.refl s).pb (f := WM_STAT_latched m) hstat true
  simp only [State.setLive]
  split
  · exact .refl s
  · refine (hflags _ ?_).trans (State.serves_monReport _ _ _ _)
    exact (((Serves.refl s).pb (f := WM_STAT_live m) hstat v).setMon m _).when v fun s =>
      (Serves.refl s).pb (f := WM_STAT_side m) hstat side

theorem State.serves_monBlank (s : State) (m : Nat) : s.Serves (s.monBlank m) := by
  have hput (b : Bool) := (Serves.refl s).pb (f := WM_STAT_blanked m) (serviceReg_wmStat m) b
  simp only [State.monBlank]
  split
  · exact .refl s
  · split
    · exact hput _
    · exact (hput _).trans (State.serves_setLive _ _ _ _ _)

theorem State.serves_blankAll (s : State) : s.Serves s.blankAll := (Serves.refl s).each State.serves_monBlank _

theorem State.serves_monStop (s : State) (m : Nat) : s.Serves (s.monStop m) := by
  have hstat := serviceReg_wmStat m
  exact ((((((Serves.refl s).pb (f := WM_STAT_live m) hstat false).pb (f := WM_STAT_latched m) hstat false).trans
    (State.serves_monReport _ m (s.reported m) s.now)).pb (f := WM_STAT_ready m) hstat false).pb
      (f := WM_STAT_blanked m) hstat false).setMon m _

theorem State.serves_monsRestart (s : State) : s.Serves s.monsRestart := by
  refine (Serves.refl s).each (fun s m => ?_) _
  dsimp only
  split
  · exact ((s.serves_monStop m).setMon m _).trans (State.serves_monBlank _ m)
  · exact s.serves_monStop m

/-- What starts with WIND (R125, R136, R268). -/
theorem State.serves_windStarts (s : State) : s.Serves s.monsRestart.dropInstances.enableScripts.wakeAllUsed :=
  ((s.serves_monsRestart.trans (State.serves_dropInstances _)).trans (State.serves_enableScripts _)).trans
    (State.serves_wakeAllUsed _)

end Sys2Proof.Machine
end

section
/-! The trial of the slots in LOAD: what discovery finds, slots refused, and a slot accepted (R160, R164–R167). -/

open Sys2Proof Sys2Proof.Machine

namespace Sys2Proof.Machine

/-! ### Results of slots -/

theorem State.result_frame (s : State) (slot cause detail : Nat) : s.CellsOnly (s.result slot cause detail) := ⟨_, rfl⟩

theorem State.result_rd_ne (s : State) (slot cause detail : Nat) {a : Nat} (h : a ≠ CFG_RESULT slot) :
    (s.result slot cause detail).rd a = s.rd a :=
  (State.rd_p_ne (f := CFG_RESULT_detail slot) _ (Ne.symm h) _).trans
    (State.rd_p_ne (f := CFG_RESULT_cause slot) s (Ne.symm h) _)

theorem State.result_cause (s : State) (slot detail : Nat) {cause : Nat} (h : cause < 256) :
    (s.result slot cause detail).g (CFG_RESULT_cause slot) = cause := by
  unfold State.result
  rw [State.g_p_ne _ _ _ _ (by simp) (by simp) (by simp)]
  exact (State.g_p_same _ _ _ (by simp) (by simp)).trans (Nat.mod_eq_of_lt h)

theorem State.result_detail (s : State) (slot cause : Nat) : (s.result slot cause 0).g (CFG_RESULT_detail slot) = 0 :=
  (State.g_p_same _ _ _ (by simp) (by simp)).trans rfl

/-- A refused slot is recorded and counted in these registers (R166, R177). -/
def refusalRegs (slot : Nat) : List Nat := [CFG_RESULT slot, CFG_REFUSE_CNT, CFG_ROLLBACK_REFUSE_CNT]

theorem State.refuseSlot_frame (s : State) (slot cause detail : Nat) : s.CellsOnly (s.refuseSlot slot cause detail) := by
  unfold State.refuseSlot State.when
  split <;> exact ⟨_, rfl⟩

theorem State.refuseSlot_rd_ne (s : State) (slot cause detail : Nat) {a : Nat} (h : a ∉ refusalRegs slot) :
    (s.refuseSlot slot cause detail).rd a = s.rd a := by
  simp only [refusalRegs, List.mem_cons, List.not_mem_nil, or_false, not_or] at h
  obtain ⟨hresult, hcount, hrollback⟩ := h
  have hlast := State.when_keeps (State.rd · a) (State.inc · (cnt16 CFG_ROLLBACK_REFUSE_CNT)) (cause == 0x0A)
    ((s.result slot cause detail).inc (cnt16 CFG_REFUSE_CNT)) (State.rd_inc_ne _ (Ne.symm hrollback))
  exact hlast.trans ((State.rd_inc_ne _ (Ne.symm hcount)).trans (s.result_rd_ne slot cause detail hresult))

/-- The result of a refused slot is what `result` records. -/
theorem State.refuseSlot_result (s : State) {slot : Nat} (cause detail : Nat) (h : slot < 3) :
    (s.refuseSlot slot cause detail).rd (CFG_RESULT slot) = (s.result slot cause detail).rd (CFG_RESULT slot) := by
  have hcount : CFG_REFUSE_CNT ≠ CFG_RESULT slot := by simp only [CFG_REFUSE_CNT, CFG_RESULT]; omega
  have hrollback : CFG_ROLLBACK_REFUSE_CNT ≠ CFG_RESULT slot := by
    simp only [CFG_ROLLBACK_REFUSE_CNT, CFG_RESULT]; omega
  exact (State.when_keeps (State.rd · (CFG_RESULT slot)) (State.inc · (cnt16 CFG_ROLLBACK_REFUSE_CNT)) (cause == 0x0A) _
    (State.rd_inc_ne _ hrollback)).trans (State.rd_inc_ne _ hcount)

theorem State.refuseSlot_cause (s : State) {slot cause : Nat} (detail : Nat) (h : slot < 3) (hc : cause < 256) :
    (s.refuseSlot slot cause detail).g (CFG_RESULT_cause slot) = cause :=
  (State.g_of_rd (s.refuseSlot_result cause detail h)).trans (s.result_cause slot detail hc)

theorem State.refuseSlot_detail (s : State) {slot : Nat} (cause : Nat) (h : slot < 3) :
    (s.refuseSlot slot cause 0).g (CFG_RESULT_detail slot) = 0 :=
  (State.g_of_rd (s.refuseSlot_result cause 0 h)).trans (s.result_detail slot cause)

theorem State.refuseSlot_count (s : State) {slot : Nat} (cause detail : Nat) (h : slot < 3) :
    (s.refuseSlot slot cause detail).g (cnt16 CFG_REFUSE_CNT) = min (s.g (cnt16 CFG_REFUSE_CNT) + 1) 65535 := by
  have hresult : CFG_REFUSE_CNT ≠ CFG_RESULT slot := by simp only [CFG_REFUSE_CNT, CFG_RESULT]; omega
  have hlast := State.when_keeps (State.rd · CFG_REFUSE_CNT) (State.inc · (cnt16 CFG_ROLLBACK_REFUSE_CNT)) (cause == 0x0A)
    ((s.result slot cause detail).inc (cnt16 CFG_REFUSE_CNT)) (State.rd_inc_ne _ (by decide))
  rw [← State.g_of_rd (f := cnt16 CFG_REFUSE_CNT) (s.result_rd_ne slot cause detail hresult)]
  exact (State.g_of_rd hlast).trans (State.g_inc_cnt16 _ CFG_REFUSE_CNT)

/-- Every slot is refused with one cause. -/
def State.refuseAll (s : State) (cause : Nat) : State := s.each (List.range 3) (fun s k => s.refuseSlot k cause 0)

theorem State.refuseAll_frame (s : State) (cause : Nat) : s.CellsOnly (s.refuseAll cause) :=
  State.each_rel State.CellsOnly _ _ .refl (fun _ _ _ => .trans) (fun s k => s.refuseSlot_frame k cause 0) s

theorem State.refuseAll_cause (s : State) {cause k : Nat} (hk : k < 3) (hc : cause < 256) :
    (s.refuseAll cause).g (CFG_RESULT_cause k) = cause := by
  have hkept (s : State) {i : Nat} (hi : i < 3) (hne : k ≠ i) :
      (s.refuseSlot i cause 0).g (CFG_RESULT_cause k) = s.g (CFG_RESULT_cause k) :=
    State.g_of_rd (s.refuseSlot_rd_ne i cause 0 (by
      simp only [refusalRegs, List.mem_cons, List.not_mem_nil, or_false, CFG_RESULT, CFG_REFUSE_CNT, CFG_ROLLBACK_REFUSE_CNT]
      omega))
  show (((s.refuseSlot 0 cause 0).refuseSlot 1 cause 0).refuseSlot 2 cause 0).g (CFG_RESULT_cause k) = cause
  obtain rfl | rfl | rfl : k = 0 ∨ k = 1 ∨ k = 2 := by omega
  · rw [hkept _ (by decide) (by decide), hkept _ (by decide) (by decide), State.refuseSlot_cause _ 0 (by decide) hc]
  · rw [hkept _ (by decide) (by decide), State.refuseSlot_cause _ 0 (by decide) hc]
  · rw [State.refuseSlot_cause _ 0 (by decide) hc]

/-! ### Entry to INERT -/

/-- A register of the configuration block. -/
abbrev InCfg (a : Nat) : Prop := 0x30000 ≤ a ∧ a < 0x40000

/-- The registers below the event log, but those that the shared ending may change. -/
abbrev BelowLog (a : Nat) : Prop := a < 0xA00000 ∧ endsOn a = false

theorem belowLog_of_inCfg {a : Nat} (h : InCfg a) : BelowLog a := by
  refine ⟨by omega, ?_⟩
  have hpins : ∀ b ∈ List.range 4, ¬ (a == GP_CONFLICT b || a == GP_CONFLICT_CNT b) = true := by
    intro b _
    simp only [Bool.or_eq_true, beq_iff_eq, GP_CONFLICT, GP_CONFLICT_CNT]
    omega
  rw [endsOn, List.any_eq_false.mpr hpins, decide_eq_false (by omega : ¬ 0xA00000 ≤ a)]
  simp only [List.contains_cons, List.contains_nil, Bool.or_false, Bool.false_and, Bool.or_eq_false_iff, beq_eq_false_iff_ne,
    SYS_STATE, SYS_STATE_TT_LO, SYS_STATE_CHANGE_CNT, BAT_KEEP_STAT]
  omega

theorem State.commitRec_belowLog (s : State) (r : LogRec) : s.Spares BelowLog (s.commitRec r) := by
  have hlost (b : Prop) [Decidable b] (v : W32) :
      s.Spares BelowLog (if b then (s.inc (cnt16 EL_LOST_CNT)).wr EL_TAIL v else s) := by
    split
    · exact ((Spares.refl s).inc (by decide)).wr (by decide) v
    · exact .refl s
  have hring (n i : Nat) : ¬ BelowLog (RING_W n i) := by simp only [RING_W]; omega
  have hsev : ¬ BelowLog (word (EL_SEV_CNT r.severity)).addr := by simp only [word, EL_SEV_CNT]; omega
  exact ((((((hlost _ _).wr (hring _ _) _).wr (hring _ _) _).wr (hring _ _) _).wr (hring _ _) _).wr (by decide) _).incWrap hsev

theorem State.commitRec_frame (s : State) (r : LogRec) : s.CellsOnly (s.commitRec r) := by
  have hwr {t : State} (h : s.CellsOnly t) (a : Nat) (v : W32) : s.CellsOnly (t.wr a v) := h.trans ⟨_, rfl⟩
  have hlost (b : Prop) [Decidable b] (v : W32) :
      s.CellsOnly (if b then (s.inc (cnt16 EL_LOST_CNT)).wr EL_TAIL v else s) := by
    split
    · exact hwr ⟨_, rfl⟩ _ _
    · exact .refl s
  exact hwr (hwr (hwr (hwr (hwr (hwr (hlost _ _) _ _) _ _) _ _) _ _) _ _) _ _

theorem State.commitAll_belowLog (s : State) : s.Spares BelowLog s.commitAll :=
  ((Spares.refl s).of_cells (u := { s with log := { s.log with stage := [] } }) rfl rfl).each State.commitRec_belowLog _

theorem State.commitAll_frame (s : State) : ∃ c, s.commitAll = { s with cells := c, log := { s.log with stage := [] } } :=
  State.each_rel State.CellsOnly _ _ .refl (fun _ _ _ => .trans) State.commitRec_frame
    ({ s with log := { s.log with stage := [] } } : State)

/-- What CFG and KEEP_IMG_SLOT show as INERT is entered (R167). -/
def State.inertNoted (s : State) : State := ((s.p KEEP_IMG_SLOT_slot 3).keepWritten 3).pb CFG_STAT_loading false

/-- The change to INERT, with every record committed and the failure of LOAD recorded (R447). -/
def State.inertLogged (s : State) : State := let t := (s.changeState .inert).commitAll; t.event 0x03 0 (t.loadDetail 3) 0

theorem State.enterInert_eq (s : State) : s.enterInert = s.inertNoted.loadTimed.inertLogged := rfl

theorem State.inertLogged_belowLog (s : State) : s.Spares BelowLog s.inertLogged := by
  have hlog (a : Nat) (h : BelowLog a) : ¬ inLog a := by unfold inLog; omega
  have hchange : s.Spares BelowLog (s.changeState .inert) := (s.changeState_spares (l := []) .inert).mono fun a h => ⟨h.2, by simp⟩
  exact (hchange.trans (State.commitAll_belowLog _)).event hlog (by decide) _ _ _

theorem State.inertLogged_frame (s : State) : s.inertLogged.dev = .inert ∧ s.inertLogged.cfg = s.cfg := by
  obtain ⟨c, l, hchange⟩ := s.changeState_eq .inert
  obtain ⟨c', hcommit⟩ := (s.changeState .inert).commitAll_frame
  have hlogged (t : State) : (t.event 0x03 0 (t.loadDetail 3) 0).dev = t.dev ∧ (t.event 0x03 0 (t.loadDetail 3) 0).cfg = t.cfg := by
    obtain ⟨c, l, hevent⟩ := t.event_eq 0x03 0 (t.loadDetail 3) 0
    rw [hevent]
    exact ⟨rfl, rfl⟩
  obtain ⟨hdev, hcfg⟩ := hlogged (s.changeState .inert).commitAll
  rw [hcommit, hchange] at hdev hcfg
  unfold State.inertLogged
  rw [hcommit, hchange]
  exact ⟨hdev, hcfg⟩

theorem State.loadTimed_spares (s : State) : s.Spares (· ≠ CFG_LOAD_TIME) s.loadTimed :=
  ((Spares.refl s).of_cells (u := (s.drawIn 0 0xFFFFF).2) rfl rfl).wr (by simp) _

theorem State.inertNoted_spares (s : State) : s.Spares (Outside [KEEP_IMG_SLOT, CFG_STAT]) s.inertNoted :=
  (((Spares.refl s).p (f := KEEP_IMG_SLOT_slot) (not_outside_of_mem (by decide)) 3).keepWritten 3).pb
    (f := CFG_STAT_loading) (not_outside_of_mem (by decide)) false

theorem State.inertNoted_shows (s : State) :
    s.inertNoted.g KEEP_IMG_SLOT_slot = 3 ∧ s.inertNoted.bit CFG_STAT_loading = false := by
  refine ⟨?_, State.bit_pb_same _ _ _ (by decide) (by decide)⟩
  unfold State.inertNoted State.pb
  rw [State.g_p_ne _ _ _ _ (by decide) (by decide) (by decide), State.g_of_rd (State.keepWritten_rd _ 3 (by decide))]
  exact State.g_p_same _ _ _ (by decide) (by decide)

theorem State.inertNoted_cfg (s : State) : s.inertNoted.cfg = s.cfg := by
  obtain ⟨c, e, h⟩ := State.keepWritten_frame (s.p KEEP_IMG_SLOT_slot 3) 3
  unfold State.inertNoted
  rw [h]
  rfl

/-- INERT is entered, no slot being left to try (R167). -/
structure State.InertFrom (s t : State) : Prop where
  dev : t.dev = .inert
  cfg : t.cfg = s.cfg
  slot : t.g KEEP_IMG_SLOT_slot = 3
  loading : t.bit CFG_STAT_loading = false
  rd : ∀ a, InCfg a → a ∉ [CFG_STAT, CFG_LOAD_TIME] → t.rd a = s.rd a
  fm : t.fm = s.fm

theorem State.enterInert_inertFrom (s : State) : s.InertFrom s.enterInert := by
  have hnoted := s.inertNoted_spares
  have htimed := s.inertNoted.loadTimed_spares
  have hlogged := s.inertNoted.loadTimed.inertLogged_belowLog
  obtain ⟨hdev, hcfg⟩ := s.inertNoted.loadTimed.inertLogged_frame
  obtain ⟨hslot, hloading⟩ := s.inertNoted_shows
  have hkept {a : Nat} (ha : BelowLog a) (hne : a ≠ CFG_LOAD_TIME) :
      s.inertNoted.loadTimed.inertLogged.rd a = s.inertNoted.rd a := (hlogged.rd a ha).trans (htimed.rd a hne)
  rw [State.enterInert_eq]
  refine ⟨hdev, hcfg.trans s.inertNoted_cfg, (State.g_of_rd (hkept (by decide) (by decide))).trans hslot, ?_,
    fun a ha hout => ?_, hlogged.fm.trans (htimed.fm.trans hnoted.fm)⟩
  · rw [State.bit, State.g_of_rd (hkept (a := CFG_STAT) (by decide) (by decide))]
    exact hloading
  · simp only [List.mem_cons, List.not_mem_nil, or_false, not_or] at hout
    obtain ⟨hstat, htime⟩ := hout
    have hbelow := belowLog_of_inCfg ha
    refine (hkept hbelow htime).trans (hnoted.rd a ⟨hbelow.2, ?_⟩)
    simp only [List.mem_cons, List.not_mem_nil, or_false, hstat, KEEP_IMG_SLOT]
    omega

theorem State.nextSlot_of_none {s : State} (h : s.cfg.slots = []) : s.nextSlot = s.enterInert := by
  simp [State.nextSlot, h]

theorem State.nextSlot_of_more {s : State} (h : s.cfg.slots ≠ []) : s.nextSlot = s := by
  simp [State.nextSlot, h]

/-! ### Discovery -/

/-- Discovery has happened in this LOAD. -/
def State.found (s : State) : State := { s with cfg := { s.cfg with found := true } }

/-- The flash that answers is shown: its size, its addressing and its read modes (R160). -/
def State.flashShown (s : State) (f : FlashFound) : State :=
  let t := (s.wr CFG_FLASH_SIZE (BitVec.ofNat 32 (f.sizeLog2 % 64))).p CFG_FLASH_STAT_addr_bytes
    (if decide (24 < f.sizeLog2) || f.fourByte then 2 else 1)
  { t with cfg := { t.cfg with modes := f.modes.map (fun (x : Fin 5 × Nat) => (x.1.val, x.2)) } }

theorem State.discovered_eq {s : State} (f : FlashFound) (hdev : s.dev = .load) (hfound : s.cfg.found = false) :
    s.discovered f =
      if f.sfdp = false then (s.found.refuseAll 0x0E).nextSlot
      else if dirValid f.dir0 then (((s.found.flashShown f).pb CFG_DIR_STAT_found true).readDirectory f f.dir0).nextSlot
      else if dirValid f.dir1 then
        ((((s.found.flashShown f).pb CFG_DIR_STAT_found true).pb CFG_DIR_STAT_copy true).readDirectory f f.dir1).nextSlot
      else ((s.found.flashShown f).refuseAll 0x03).nextSlot := by
  have hgo : (s.dev != .load || s.cfg.found) = false := by simp [hdev, hfound]
  cases hs : f.sfdp with
  | false => simp only [State.discovered, hgo, hs, Bool.false_eq_true, if_false, Bool.not_false, if_true]; rfl
  | true => simp only [State.discovered, hgo, hs, Bool.false_eq_true, if_false, Bool.not_true, Bool.true_eq_false]; rfl

/-- Discovery in which no slot can be tried: the flash does not answer, or neither copy of its directory is valid (R160,
R164). -/
theorem State.discovered_of_nothing {s : State} {f : FlashFound} (hdev : s.dev = .load) (hfound : s.cfg.found = false)
    (hslots : s.cfg.slots = []) (h : f.sfdp = false ∨ (dirValid f.dir0 = false ∧ dirValid f.dir1 = false)) :
    ∃ t : State, s.discovered f = (t.refuseAll (if f.sfdp then 0x03 else 0x0E)).enterInert ∧ t.cfg.found = true ∧
      t.fm = s.fm := by
  have hnext (t : State) (c : Nat) (ht : t.cfg.slots = []) : (t.refuseAll c).nextSlot = (t.refuseAll c).enterInert := by
    obtain ⟨w, hw⟩ := t.refuseAll_frame c
    exact State.nextSlot_of_none (by rw [hw]; exact ht)
  rw [State.discovered_eq f hdev hfound]
  cases hs : f.sfdp with
  | false => exact ⟨s.found, hnext s.found 0x0E hslots, rfl, rfl⟩
  | true =>
    obtain ⟨h0, h1⟩ := h.resolve_left (by simp [hs])
    simp only [h0, h1, Bool.true_eq_false, Bool.false_eq_true, if_false, if_true]
    exact ⟨s.found.flashShown f, hnext (s.found.flashShown f) 0x03 hslots, rfl, rfl⟩

theorem exec_flashDiscovery_of_nothing (at_ : TT) (f : FlashFound) (s : State) (hdev : (s.atTime at_).dev = .load)
    (hfound : (s.atTime at_).cfg.found = false) (hslots : (s.atTime at_).cfg.slots = [])
    (h : f.sfdp = false ∨ (dirValid f.dir0 = false ∧ dirValid f.dir1 = false)) :
    ∃ t, exec (.flashDiscovery at_ f) s = .next t ∧ t.dev = .inert ∧ t.cfg.found = true ∧
      (∀ k < 3, t.g (CFG_RESULT_cause k) = if f.sfdp then 0x03 else 0x0E) ∧ t.g KEEP_IMG_SLOT_slot = 3 ∧
      t.bit CFG_STAT_loading = false ∧ keepsMemory s t := by
  obtain ⟨u, hu, hufound, hufm⟩ := State.discovered_of_nothing hdev hfound hslots h
  have hcause : (if f.sfdp then 0x03 else 0x0E) < 256 := by split <;> decide
  generalize (if f.sfdp then 0x03 else 0x0E) = c at hu hcause ⊢
  obtain ⟨w, hw⟩ := u.refuseAll_frame c
  obtain ⟨hinert, hcfg, hslot, hloading, hrd, hfm⟩ := (u.refuseAll c).enterInert_inertFrom
  have hexec : exec (.flashDiscovery at_ f) s = .next ((u.refuseAll c).enterInert.ended s) :=
    congrArg (fun t : State => Host.Outcome.next (t.ended s)) hu
  refine ⟨_, hexec, ?_, ?_, fun k hk => ?_, (State.ended_g _ _ (by decide)).trans hslot, ?_, keepsMemory_ended ?_⟩
  · rw [State.ended_dev, hinert]
    rfl
  · rw [State.ended_cfg, hcfg, hw]
    exact hufound
  · have hin : InCfg (CFG_RESULT k) := by simp only [InCfg, CFG_RESULT]; omega
    have hout : CFG_RESULT k ∉ [CFG_STAT, CFG_LOAD_TIME] := by
      simp only [List.mem_cons, List.not_mem_nil, or_false, CFG_RESULT, CFG_STAT, CFG_LOAD_TIME]
      omega
    rw [State.ended_g _ _ (belowLog_of_inCfg hin).2, State.g_of_rd (hrd _ hin hout), State.refuseAll_cause _ hk hcause]
  · rw [State.bit, State.ended_g _ _ (by decide)]
    exact hloading
  · rw [hfm, hw]
    exact hufm.trans (s.atTime_fm at_)

/-- The slots are placed in the order of trial, with golden last (R165). -/
theorem State.orderAB_cases (s : State) (f : FlashFound) (a b : Bool) : s.orderAB f a b = [0, 1] ∨ s.orderAB f a b = [1, 0] := by
  simp only [State.orderAB]
  split_ifs
  all_goals simp

/-- Slots A and B are recorded as absent (R164). -/
def State.bothAbsent (s : State) : State := (s.result 0 0x02 0).result 1 0x02 0

theorem State.bothAbsent_cause (s : State) {k : Nat} (hk : k < 2) : s.bothAbsent.g (CFG_RESULT_cause k) = 0x02 := by
  unfold State.bothAbsent
  obtain rfl | rfl : k = 0 ∨ k = 1 := by omega
  · rw [State.g_of_rd (State.result_rd_ne _ 1 0x02 0 (by decide)), State.result_cause _ 0 0 (by decide)]
  · rw [State.result_cause _ 1 0 (by decide)]

/-- The slots to try and their size, as the directory gives them (R164, R165). -/
def State.slotsNamed (s : State) (slots : List Nat) (size : Nat) : State :=
  { s with cfg := { s.cfg with slots := slots, slotSize := size } }

theorem State.slotsNamed_g (s : State) (slots : List Nat) (size : Nat) (f : Fld) : (s.slotsNamed slots size).g f = s.g f :=
  rfl

/-- A directory that names golden alone: slots A and B are absent, and golden is to be tried (R164, R165). -/
def State.goldenAlone (s : State) (d : List Byte) : State :=
  (s.wr CFG_TRY_ORDER (BitVec.ofNat 32 (2 * 16 + 3 * 4 + 3))).bothAbsent.slotsNamed [2] (num d 20 4)

theorem State.readDirectory_of_golden (s : State) (f : FlashFound) {d : List Byte} (h0 : num d 8 4 = 0) (h1 : num d 12 4 = 0)
    (h2 : num d 16 4 ≠ 0) (haligned : num d 16 4 % 65536 = 0) : s.readDirectory f d = s.goldenAlone d := by
  obtain horder | horder := s.orderAB_cases f false false
  all_goals
    simp [State.readDirectory, State.goldenAlone, State.slotsNamed, State.bothAbsent, h0, h1, h2, haligned, horder,
      State.each, List.range_succ]

theorem State.goldenAlone_cause (s : State) (d : List Byte) {k : Nat} (hk : k < 2) :
    (s.goldenAlone d).g (CFG_RESULT_cause k) = 0x02 := by
  rw [State.goldenAlone, State.slotsNamed_g, State.bothAbsent_cause _ hk]

theorem State.goldenAlone_frame (s : State) (d : List Byte) :
    ∃ c, s.goldenAlone d = { s with cells := c, cfg := { s.cfg with slots := [2], slotSize := num d 20 4 } } := by
  have habsent (s : State) : s.CellsOnly s.bothAbsent := (s.result_frame 0 0x02 0).trans (State.result_frame _ 1 0x02 0)
  obtain ⟨c, hc⟩ := habsent (s.wr CFG_TRY_ORDER (BitVec.ofNat 32 (2 * 16 + 3 * 4 + 3)))
  exact ⟨c, by rw [State.goldenAlone, hc]; rfl⟩

theorem State.discovered_of_golden {s : State} {f : FlashFound} (hdev : s.dev = .load) (hfound : s.cfg.found = false)
    (hs : f.sfdp = true) (hvalid : dirValid f.dir0 = true) (h0 : num f.dir0 8 4 = 0) (h1 : num f.dir0 12 4 = 0)
    (h2 : num f.dir0 16 4 ≠ 0) (haligned : num f.dir0 16 4 % 65536 = 0) :
    ∃ t : State, s.discovered f = t.goldenAlone f.dir0 ∧ t.dev = .load ∧ t.cfg.found = true ∧ t.fm = s.fm := by
  obtain ⟨c, hc⟩ := (((s.found.flashShown f).pb CFG_DIR_STAT_found true)).goldenAlone_frame f.dir0
  refine ⟨(s.found.flashShown f).pb CFG_DIR_STAT_found true, ?_, hdev, rfl, rfl⟩
  rw [State.discovered_eq f hdev hfound, if_neg (by simp [hs]), if_pos hvalid,
    State.readDirectory_of_golden _ f h0 h1 h2 haligned]
  exact State.nextSlot_of_more (by rw [hc]; exact List.cons_ne_nil _ _)

theorem exec_flashDiscovery_of_golden (at_ : TT) (f : FlashFound) (s : State) (hdev : (s.atTime at_).dev = .load)
    (hfound : (s.atTime at_).cfg.found = false) (hs : f.sfdp = true) (hvalid : dirValid f.dir0 = true)
    (h0 : num f.dir0 8 4 = 0) (h1 : num f.dir0 12 4 = 0) (h2 : num f.dir0 16 4 ≠ 0)
    (haligned : num f.dir0 16 4 % 65536 = 0) :
    ∃ t, exec (.flashDiscovery at_ f) s = .next t ∧ t.dev = .load ∧ t.cfg.found = true ∧ t.cfg.slots = [2] ∧
      t.cfg.slotSize = num f.dir0 20 4 ∧ t.g (CFG_RESULT_cause 0) = 0x02 ∧ t.g (CFG_RESULT_cause 1) = 0x02 ∧
      keepsMemory s t := by
  obtain ⟨u, hu, hload, hufound, hufm⟩ := State.discovered_of_golden hdev hfound hs hvalid h0 h1 h2 haligned
  obtain ⟨c, hc⟩ := u.goldenAlone_frame f.dir0
  have hexec : exec (.flashDiscovery at_ f) s = .next ((u.goldenAlone f.dir0).ended s) :=
    congrArg (fun t : State => Host.Outcome.next (t.ended s)) hu
  have hcause {k : Nat} (hk : k < 2) (hends : endsOn (CFG_RESULT k) = false) :=
    (State.ended_g (f := CFG_RESULT_cause k) _ s hends).trans (u.goldenAlone_cause f.dir0 hk)
  have hdev' : (u.goldenAlone f.dir0).dev = .load := by rw [hc]; exact hload
  refine ⟨_, hexec, ?_, ?_, ?_, ?_, hcause (by decide) (by decide), hcause (by decide) (by decide),
    keepsMemory_ended (by rw [hc]; exact hufm.trans (s.atTime_fm at_))⟩
  · rw [State.ended_dev, hdev']
    rfl
  all_goals rw [State.ended_cfg, hc]
  · exact hufound

/-! ### A refused header -/

theorem headerCause_lt (b : List Byte) (slotSize : Nat) : headerCause b slotSize < 256 := by
  unfold headerCause
  split_ifs
  all_goals decide

/-- What no later check can mend: the cause of a header that breaks a rule is the cause of its slot (R174). -/
theorem FuseSt.admits_of_header {f : FuseSt} {slotSize : Nat} {b : List Byte} (h : headerCause b slotSize ≠ 1) :
    f.admits slotSize b = headerCause b slotSize := by
  simp [FuseSt.admits, h]

theorem State.checkSlot_of_header {s : State} {r : SlotRead} (h : headerCause r.bytes s.cfg.slotSize ≠ 1) :
    s.checkSlot r = .error (headerCause r.bytes s.cfg.slotSize, 0) := by
  simp [State.checkSlot, FuseSt.admits_of_header h, h]

/-- The slots that are left to try. -/
def State.slotsLeft (s : State) (rest : List Nat) : State := { s with cfg := { s.cfg with slots := rest } }

theorem State.trySlot_of_header {s : State} {r : SlotRead} {slot : Nat} {rest : List Nat} (hdev : s.dev = .load)
    (hslots : s.cfg.slots = slot :: rest) (haccepted : s.cfg.accepted = none)
    (h : headerCause r.bytes s.cfg.slotSize ≠ 1) :
    s.trySlot r = ((s.slotsLeft rest).refuseSlot slot (headerCause r.bytes s.cfg.slotSize) 0).nextSlot := by
  have hgo : (s.dev != .load || s.cfg.accepted.isSome) = false := by simp [hdev, haccepted]
  have hmode : (s.cfg.fuses.admits s.cfg.slotSize r.bytes == 1) = false := by simp [FuseSt.admits_of_header h, h]
  simp only [State.trySlot, hslots, hgo, hmode, State.when, Bool.false_eq_true, if_false, State.checkSlot_of_header h,
    State.slotsLeft]

/-- After a refusal the next slot waits, or INERT is entered: either way the slot's result and the count stay. -/
theorem State.nextSlot_keeps {s : State} (hdev : s.dev = .load) :
    s.nextSlot.dev = (if s.cfg.slots = [] then .inert else .load) ∧ s.nextSlot.cfg = s.cfg ∧ s.nextSlot.fm = s.fm ∧
      ∀ a, InCfg a → a ∉ [CFG_STAT, CFG_LOAD_TIME] → s.nextSlot.rd a = s.rd a := by
  by_cases h : s.cfg.slots = []
  · obtain ⟨hinert, hcfg, -, -, hrd, hfm⟩ := s.enterInert_inertFrom
    rw [State.nextSlot_of_none h, if_pos h]
    exact ⟨hinert, hcfg, hfm, hrd⟩
  · rw [State.nextSlot_of_more h, if_neg h]
    exact ⟨hdev, rfl, rfl, fun _ _ _ => rfl⟩

/-- The ending keeps the state of a device that is not running. -/
theorem State.ended_dev_of_stopped (s old : State) (h : s.dev.running = false) : (s.ended old).dev = s.dev := by
  rw [State.ended_dev, h, if_neg Bool.false_ne_true]

theorem exec_slotCheckComplete_of_header (at_ : TT) (r : SlotRead) (slot : Nat) (rest : List Nat) (s : State)
    (hdev : (s.atTime at_).dev = .load) (hslots : (s.atTime at_).cfg.slots = slot :: rest)
    (haccepted : (s.atTime at_).cfg.accepted = none) (hslot : slot < 3)
    (h : headerCause r.bytes (s.atTime at_).cfg.slotSize ≠ 1) :
    ∃ t, exec (.slotCheckComplete at_ r) s = .next t ∧ t.cfg.slots = rest ∧ t.cfg.accepted = none ∧
      t.g (CFG_RESULT_cause slot) = headerCause r.bytes (s.atTime at_).cfg.slotSize ∧ t.g (CFG_RESULT_detail slot) = 0 ∧
      t.g (cnt16 CFG_REFUSE_CNT) = min (s.g (cnt16 CFG_REFUSE_CNT) + 1) 65535 ∧
      t.dev = (if rest = [] then .inert else .load) ∧ keepsMemory s t := by
  have hexec : exec (.slotCheckComplete at_ r) s = .next (((s.atTime at_).trySlot r).ended s) := rfl
  have hlt := headerCause_lt r.bytes (s.atTime at_).cfg.slotSize
  rw [State.trySlot_of_header hdev hslots haccepted h] at hexec
  generalize headerCause r.bytes (s.atTime at_).cfg.slotSize = cause at hexec hlt ⊢
  have hcause := ((s.atTime at_).slotsLeft rest).refuseSlot_cause 0 hslot hlt
  have hdetail := ((s.atTime at_).slotsLeft rest).refuseSlot_detail cause hslot
  have hcount := ((s.atTime at_).slotsLeft rest).refuseSlot_count cause 0 hslot
  obtain ⟨c, hframe⟩ := ((s.atTime at_).slotsLeft rest).refuseSlot_frame slot cause 0
  generalize ((s.atTime at_).slotsLeft rest).refuseSlot slot cause 0 = u at hexec hcause hdetail hcount hframe
  have hload : u.dev = .load := by rw [hframe]; exact hdev
  have hcfg : u.cfg = ((s.atTime at_).slotsLeft rest).cfg := by rw [hframe]
  obtain ⟨hnext, hncfg, hnfm, hrd⟩ := State.nextSlot_keeps hload
  have hkept {f : Fld} (hin : InCfg f.addr) (hout : f.addr ∉ [CFG_STAT, CFG_LOAD_TIME]) :
      (u.nextSlot.ended s).g f = u.g f :=
    (State.ended_g _ _ (belowLog_of_inCfg hin).2).trans (State.g_of_rd (hrd _ hin hout))
  have hin : InCfg (CFG_RESULT slot) := by simp only [InCfg, CFG_RESULT]; omega
  have hout : CFG_RESULT slot ∉ [CFG_STAT, CFG_LOAD_TIME] := by
    simp only [List.mem_cons, List.not_mem_nil, or_false, CFG_RESULT, CFG_STAT, CFG_LOAD_TIME]
    omega
  have hslotsLeft : u.cfg.slots = rest := by rw [hcfg]; rfl
  rw [hslotsLeft] at hnext
  refine ⟨_, hexec, ?_, ?_, (hkept hin hout).trans hcause, (hkept hin hout).trans hdetail,
    (hkept (by decide) (by decide)).trans (hcount.trans ?_), ?_, keepsMemory_ended (hnfm.trans ?_)⟩
  · rw [State.ended_cfg, hncfg, hslotsLeft]
  · rw [State.ended_cfg, hncfg, hcfg]
    exact haccepted
  · exact congrArg (fun n => min (n + 1) 65535) (s.atTime_g at_ (cnt16 CFG_REFUSE_CNT))
  · rw [State.ended_dev_of_stopped, hnext]
    rw [hnext]
    split <;> rfl
  · rw [hframe]
    exact s.atTime_fm at_

end Sys2Proof.Machine
end

section
/-! A slot that passes every check: what CFG shows and what the image brings (R161, R167, R174). -/

open Sys2Proof Sys2Proof.Machine

namespace Sys2Proof.Machine

/-- CFG_STAT shows the header, and KEEP_IMG_SLOT names the slot (R167). -/
def State.headerShown (s : State) (slot : Nat) (b : List Byte) : State :=
  let t := ((((s.pb CFG_STAT_signed (hdrFlag b 0)).pb CFG_STAT_encrypted (hdrFlag b 1)).pb CFG_STAT_sealed (hdrFlag b 2)).p
    CFG_STAT_start_state (num b 15 1)).p CFG_STAT_security_version (num b 17 1)
  ((t.p CFG_STAT_slot slot).p KEEP_IMG_SLOT_slot slot).keepWritten 3

/-- The build, the length and the sections of the image are shown (R167). -/
def State.imageShown (s : State) (b : List Byte) : State :=
  ((s.wr CFG_BUILD (BitVec.ofNat 32 (num b 20 4))).wr CFG_IMG_LEN (BitVec.ofNat 32 (num b 8 4))).wr CFG_SECT_STAT
    (BitVec.ofNat 32 (((List.range 8).filter (fun i => hasSect b (i + 1))).map (fun i => 2 ^ (i + 1))).sum)

/-- The load is counted, and one of golden by itself (R167). -/
def State.loadCounted (s : State) (slot : Nat) : State :=
  (s.inc (cnt16 CFG_LOAD_CNT)).when (slot == 2) (fun s => s.inc (cnt16 CFG_GOLDEN_CNT))

/-- What the device takes over from an accepted image's header (R167). -/
def State.imageTaken (s : State) (slot : Nat) (b : List Byte) : State :=
  { s with cfg := { s.cfg with
    accepted := some slot, slots := [], startStandby := num b 15 1 == 1, allowAdvance := hdrFlag b 3,
    secVersion := num b 17 1 } }

theorem State.imageTaken_rd (s : State) (slot : Nat) (b : List Byte) (a : Nat) : (s.imageTaken slot b).rd a = s.rd a := rfl

/-- CFG and KEEP_IMG_SLOT show the accepted slot (R167). -/
def State.slotShown (s : State) (slot : Nat) (b : List Byte) : State :=
  (((s.headerShown slot b).imageShown b).loadCounted slot).result slot 0x01 0

theorem State.acceptSlot_eq (s : State) (slot : Nat) (b : List Byte) :
    s.acceptSlot slot b = (s.slotShown slot b).imageTaken slot b := rfl

/-- What acceptance of a slot changes. -/
def acceptRegs (slot : Nat) : List Nat :=
  [CFG_STAT, KEEP_IMG_SLOT, CFG_BUILD, CFG_IMG_LEN, CFG_SECT_STAT, CFG_LOAD_CNT, CFG_GOLDEN_CNT, CFG_RESULT slot]

theorem State.headerShown_spares (s : State) (slot : Nat) (b : List Byte) :
    s.Spares (Outside [CFG_STAT, KEEP_IMG_SLOT]) (s.headerShown slot b) := by
  have hstat : ¬ Outside [CFG_STAT, KEEP_IMG_SLOT] CFG_STAT := not_outside_of_mem (by decide)
  exact ((((((((Spares.refl s).pb (f := CFG_STAT_signed) hstat _).pb (f := CFG_STAT_encrypted) hstat _).pb
    (f := CFG_STAT_sealed) hstat _).p (f := CFG_STAT_start_state) hstat _).p (f := CFG_STAT_security_version) hstat _).p
    (f := CFG_STAT_slot) hstat _).p (f := KEEP_IMG_SLOT_slot) (not_outside_of_mem (by decide)) _).keepWritten 3

theorem State.headerShown_slots (s : State) {slot : Nat} (b : List Byte) (h : slot < 3) :
    (s.headerShown slot b).g CFG_STAT_slot = slot ∧ (s.headerShown slot b).g KEEP_IMG_SLOT_slot = slot := by
  have hmod : slot % 4 = slot := Nat.mod_eq_of_lt (by omega)
  unfold State.headerShown
  rw [State.g_of_rd (State.keepWritten_rd _ 3 (by decide)), State.g_of_rd (State.keepWritten_rd _ 3 (by decide)),
    State.g_p_ne _ _ CFG_STAT_slot _ (by decide) (by decide) (by decide), State.g_p_same _ _ _ (by decide) (by decide),
    State.g_p_same _ _ _ (by decide) (by decide)]
  exact ⟨hmod, hmod⟩

theorem State.imageShown_rd_ne (s : State) (b : List Byte) {a : Nat} (h : a ∉ [CFG_BUILD, CFG_IMG_LEN, CFG_SECT_STAT]) :
    (s.imageShown b).rd a = s.rd a := by
  simp only [List.mem_cons, List.not_mem_nil, or_false, not_or] at h
  obtain ⟨hbuild, hlen, hsect⟩ := h
  exact (State.rd_wr_ne _ (Ne.symm hsect) _).trans ((State.rd_wr_ne _ (Ne.symm hlen) _).trans
    (State.rd_wr_ne _ (Ne.symm hbuild) _))

theorem State.imageShown_build (s : State) (b : List Byte) :
    (s.imageShown b).rd CFG_BUILD = BitVec.ofNat 32 (num b 20 4) :=
  (State.rd_wr_ne _ (by decide) _).trans ((State.rd_wr_ne _ (by decide) _).trans (State.rd_wr_same _ _ _))

theorem State.loadCounted_rd_ne (s : State) (slot : Nat) {a : Nat} (h : a ∉ [CFG_LOAD_CNT, CFG_GOLDEN_CNT]) :
    (s.loadCounted slot).rd a = s.rd a := by
  simp only [List.mem_cons, List.not_mem_nil, or_false, not_or] at h
  obtain ⟨hload, hgolden⟩ := h
  exact (State.when_keeps (State.rd · a) _ (slot == 2) _ (State.rd_inc_ne _ (Ne.symm hgolden))).trans
    (State.rd_inc_ne _ (Ne.symm hload))

theorem State.loadCounted_count (s : State) (slot : Nat) :
    (s.loadCounted slot).g (cnt16 CFG_LOAD_CNT) = min (s.g (cnt16 CFG_LOAD_CNT) + 1) 65535 :=
  (State.g_of_rd (State.when_keeps (State.rd · CFG_LOAD_CNT) _ (slot == 2) _ (State.rd_inc_ne _ (by decide)))).trans
    (State.g_inc_cnt16 s CFG_LOAD_CNT)

theorem State.headerShown_frame (s : State) (slot : Nat) (b : List Byte) : s.KeepOnly (s.headerShown slot b) := by
  have hp {t : State} (h : s.KeepOnly t) (f : Fld) (v : Nat) : s.KeepOnly (t.p f v) := h.trans ⟨_, _, rfl⟩
  exact KeepOnly.trans (hp (hp (hp (hp (hp (hp (hp (.refl s) _ _) _ _) _ _) _ _) _ _) _ _) _ _)
    (State.keepWritten_frame _ 3)

theorem State.slotShown_frame (s : State) (slot : Nat) (b : List Byte) : s.KeepOnly (s.slotShown slot b) := by
  have himage (s : State) : s.KeepOnly (s.imageShown b) := ⟨_, _, rfl⟩
  have hcount (s : State) : s.KeepOnly (s.loadCounted slot) := by
    unfold State.loadCounted State.when
    split <;> exact ⟨_, _, rfl⟩
  have hresult (s : State) : s.KeepOnly (s.result slot 0x01 0) := ⟨_, _, rfl⟩
  exact (((s.headerShown_frame slot b).trans (himage _)).trans (hcount _)).trans (hresult _)

theorem State.slotShown_rd_ne (s : State) (slot : Nat) (b : List Byte) {a : Nat} (h : Outside (acceptRegs slot) a) :
    (s.slotShown slot b).rd a = s.rd a := by
  obtain ⟨hends, hout⟩ := h
  simp only [acceptRegs, List.mem_cons, List.not_mem_nil, or_false, not_or] at hout
  obtain ⟨hstat, hkeep, hbuild, hlen, hsect, hload, hgolden, hresult⟩ := hout
  unfold State.slotShown
  rw [State.result_rd_ne _ _ _ _ hresult, State.loadCounted_rd_ne _ _ (by simp [hload, hgolden]),
    State.imageShown_rd_ne _ _ (by simp [hbuild, hlen, hsect]),
    (s.headerShown_spares slot b).rd a ⟨hends, by simp [hstat, hkeep]⟩]

/-- A register that shows the header alone is as the header left it. -/
theorem State.slotShown_header (s : State) {slot : Nat} (b : List Byte) (hslot : slot < 3) {f : Fld}
    (h : f.addr ∈ [CFG_STAT, KEEP_IMG_SLOT]) : (s.slotShown slot b).g f = (s.headerShown slot b).g f := by
  refine State.g_of_rd ?_
  unfold State.slotShown
  have hne : f.addr ∉ CFG_RESULT slot :: [CFG_LOAD_CNT, CFG_GOLDEN_CNT, CFG_BUILD, CFG_IMG_LEN, CFG_SECT_STAT] := by
    simp only [List.mem_cons, List.not_mem_nil, or_false] at h ⊢
    simp only [CFG_STAT, KEEP_IMG_SLOT, CFG_RESULT, CFG_LOAD_CNT, CFG_GOLDEN_CNT, CFG_BUILD, CFG_IMG_LEN, CFG_SECT_STAT] at h ⊢
    omega
  simp only [List.mem_cons, List.not_mem_nil, or_false, not_or] at hne
  obtain ⟨hresult, hload, hgolden, hbuild, hlen, hsect⟩ := hne
  rw [State.result_rd_ne _ _ _ _ hresult, State.loadCounted_rd_ne _ _ (by simp [hload, hgolden]),
    State.imageShown_rd_ne _ _ (by simp [hbuild, hlen, hsect])]

theorem State.slotShown_build (s : State) {slot : Nat} (b : List Byte) (hslot : slot < 3) :
    (s.slotShown slot b).rd CFG_BUILD = BitVec.ofNat 32 (num b 20 4) := by
  have hresult : CFG_BUILD ≠ CFG_RESULT slot := by simp only [CFG_BUILD, CFG_RESULT]; omega
  unfold State.slotShown
  rw [State.result_rd_ne _ _ _ _ hresult, State.loadCounted_rd_ne _ _ (by decide), State.imageShown_build]

theorem State.slotShown_count (s : State) {slot : Nat} (b : List Byte) (hslot : slot < 3) :
    (s.slotShown slot b).g (cnt16 CFG_LOAD_CNT) = min (s.g (cnt16 CFG_LOAD_CNT) + 1) 65535 := by
  have hresult : CFG_LOAD_CNT ≠ CFG_RESULT slot := by simp only [CFG_LOAD_CNT, CFG_RESULT]; omega
  have hbefore : ((s.headerShown slot b).imageShown b).g (cnt16 CFG_LOAD_CNT) = s.g (cnt16 CFG_LOAD_CNT) :=
    (State.g_of_rd (State.imageShown_rd_ne _ b (by decide))).trans
      (State.g_of_rd ((s.headerShown_spares slot b).rd CFG_LOAD_CNT (by decide)))
  unfold State.slotShown
  rw [State.g_of_rd (State.result_rd_ne _ _ _ _ hresult), State.loadCounted_count, hbefore]

theorem State.trySlot_of_checked {s w : State} {r : SlotRead} {slot : Nat} {rest : List Nat} (hdev : s.dev = .load)
    (hslots : s.cfg.slots = slot :: rest) (haccepted : s.cfg.accepted = none)
    (hadmits : s.cfg.fuses.admits s.cfg.slotSize r.bytes = 1)
    (h : ((s.p CFG_FLASH_STAT_mhz (readMode s.cfg.modes r.bytes).2).p CFG_FLASH_STAT_mode
      (readMode s.cfg.modes r.bytes).1).checkSlot r = .ok w) : s.trySlot r = w.acceptSlot slot r.bytes := by
  have hgo : (s.dev != .load || s.cfg.accepted.isSome) = false := by simp [hdev, haccepted]
  simp only [State.trySlot, hslots, hgo, hadmits, State.when, beq_self_eq_true, Bool.false_eq_true, if_false, if_true, h]

theorem exec_slotCheckComplete_of_checked (at_ : TT) (r : SlotRead) (slot : Nat) (rest : List Nat) (w s : State)
    (hdev : (s.atTime at_).dev = .load) (hslots : (s.atTime at_).cfg.slots = slot :: rest)
    (haccepted : (s.atTime at_).cfg.accepted = none) (hslot : slot < 3)
    (hadmits : (s.atTime at_).cfg.fuses.admits (s.atTime at_).cfg.slotSize r.bytes = 1)
    (hchecked : (((s.atTime at_).p CFG_FLASH_STAT_mhz (readMode (s.atTime at_).cfg.modes r.bytes).2).p CFG_FLASH_STAT_mode
      (readMode (s.atTime at_).cfg.modes r.bytes).1).checkSlot r = .ok w) :
    ∃ t, exec (.slotCheckComplete at_ r) s = .next t ∧ t.cfg.accepted = some slot ∧ t.cfg.slots = [] ∧
      t.cfg.startStandby = (num r.bytes 15 1 == 1) ∧ t.cfg.secVersion = num r.bytes 17 1 ∧
      t.g (CFG_RESULT_cause slot) = 1 ∧ t.g CFG_STAT_slot = slot ∧ t.g KEEP_IMG_SLOT_slot = slot ∧
      t.rd CFG_BUILD = BitVec.ofNat 32 (num r.bytes 20 4) ∧
      t.g (cnt16 CFG_LOAD_CNT) = min (w.g (cnt16 CFG_LOAD_CNT) + 1) 65535 ∧ t.claims = w.claims ∧ t.se = w.se ∧
      t.fab = w.fab ∧ keepsRegs w t (acceptRegs slot) ∧ keepsMemory w t := by
  have hexec : exec (.slotCheckComplete at_ r) s = .next (((s.atTime at_).trySlot r).ended s) := rfl
  rw [State.trySlot_of_checked hdev hslots haccepted hadmits hchecked, State.acceptSlot_eq] at hexec
  obtain ⟨c, e, hframe⟩ := w.slotShown_frame slot r.bytes
  have hrd {a : Nat} (ha : endsOn a = false) :
      (((w.slotShown slot r.bytes).imageTaken slot r.bytes).ended s).rd a = (w.slotShown slot r.bytes).rd a :=
    (State.ended_rd _ s ha).trans (State.imageTaken_rd _ slot r.bytes a)
  have hresult : endsOn (CFG_RESULT slot) = false :=
    (belowLog_of_inCfg (a := CFG_RESULT slot) (by simp only [InCfg, CFG_RESULT]; omega)).2
  obtain ⟨hstat, hkeep⟩ := w.headerShown_slots r.bytes hslot
  refine ⟨_, hexec, ?_, ?_, ?_, ?_, (State.g_of_rd (hrd hresult)).trans (State.result_cause _ slot 0 (by decide)),
    (State.g_of_rd (hrd (by decide))).trans ((w.slotShown_header r.bytes hslot (by decide)).trans hstat),
    (State.g_of_rd (hrd (by decide))).trans ((w.slotShown_header r.bytes hslot (by decide)).trans hkeep),
    (hrd (by decide)).trans (w.slotShown_build r.bytes hslot),
    (State.g_of_rd (hrd (by decide))).trans (w.slotShown_count r.bytes hslot), ?_, ?_, ?_,
    fun a ha hout => (hrd ha).trans (w.slotShown_rd_ne slot r.bytes ⟨ha, hout⟩), fun a => ?_⟩
  all_goals simp only [State.ended_cfg, State.ended_claims, State.ended_se, State.ended_fab, State.ended_fm, State.fmByte, hframe,
    State.imageTaken]

end Sys2Proof.Machine
end

section
/-! Start-up calibration ends LOAD: what CFG shows, and the state that is entered (R179, R180). -/

open Sys2Proof Sys2Proof.Machine

namespace Sys2Proof.Machine

/-! ### What the start keeps -/

/-- The registers in which CFG shows the outcome of a start. -/
abbrev StartReg (a : Nat) : Prop := a = CFG_STAT ∨ a = CFG_CAL_STAT ∨ a = CFG_LINE_TRIM_STAT

theorem not_startReg_of_le {a : Nat} (h : 0x40000 ≤ a) : ¬ StartReg a := by
  simp only [StartReg, CFG_STAT, CFG_CAL_STAT, CFG_LINE_TRIM_STAT]
  omega

theorem not_startReg_add (b n : Nat) (h : 0x40000 ≤ b) : ¬ StartReg (b + n) := not_startReg_of_le (by omega)

theorem not_startReg_of_service {a : Nat} (h : ServiceReg a) : ¬ StartReg a := by
  simp only [StartReg, CFG_STAT, CFG_CAL_STAT, CFG_LINE_TRIM_STAT]
  simp only [ServiceReg, SYS_NAP_CNT] at h
  omega

/-- What the start leaves as it was: the outcome that CFG shows, frame memory, and what is known of the image. -/
structure State.KeepsStart (s t : State) : Prop extends State.Spares StartReg s t where
  standby : t.cfg.startStandby = s.cfg.startStandby
  accepted : t.cfg.accepted = s.cfg.accepted

namespace State.KeepsStart

variable {s t u : State}

theorem refl (s : State) : s.KeepsStart s := ⟨.refl s, rfl, rfl⟩

theorem trans (h : s.KeepsStart t) (h' : t.KeepsStart u) : s.KeepsStart u :=
  ⟨h.toSpares.trans h'.toSpares, h'.standby.trans h.standby, h'.accepted.trans h.accepted⟩

/-- An update of the state beside its words, frame memory and the configuration. -/
theorem of_cells (h : s.KeepsStart t) (hc : u.cells = t.cells) (hf : u.fm = t.fm) (hg : u.cfg = t.cfg) : s.KeepsStart u :=
  ⟨h.toSpares.of_cells hc hf, by rw [hg, h.standby], by rw [hg, h.accepted]⟩

theorem wr (h : s.KeepsStart t) {a : Nat} (ha : ¬ StartReg a) (v : W32) : s.KeepsStart (t.wr a v) :=
  ⟨h.toSpares.wr ha v, h.standby, h.accepted⟩

theorem p (h : s.KeepsStart t) {f : Fld} (hf : ¬ StartReg f.addr) (v : Nat) : s.KeepsStart (t.p f v) := h.wr hf _

theorem pb (h : s.KeepsStart t) {f : Fld} (hf : ¬ StartReg f.addr) (b : Bool) : s.KeepsStart (t.pb f b) := h.p hf _

theorem inc (h : s.KeepsStart t) {f : Fld} (hf : ¬ StartReg f.addr) : s.KeepsStart (t.inc f) := h.p hf _

theorem of_serves (h : s.Serves t) : s.KeepsStart t := by
  refine ⟨⟨fun a ha => h.rd a fun hs => not_startReg_of_service hs ha, ?_⟩, ?_, ?_⟩
  all_goals
    obtain ⟨-, _, _, _, _, _, _, _, rfl⟩ := h
    rfl

theorem serves (h : s.KeepsStart t) (h' : t.Serves u) : s.KeepsStart u := h.trans (of_serves h')

theorem each {α : Type} (h : s.KeepsStart t) {f : State → α → State} (hf : ∀ s x, State.KeepsStart s (f s x)) (l : List α) :
    s.KeepsStart (t.each l f) :=
  h.trans (State.each_rel State.KeepsStart f l refl (fun _ _ _ => trans) hf t)

theorem each_mem {α : Type} {f : State → α → State} {l : List α} (h : s.KeepsStart t)
    (hf : ∀ x ∈ l, ∀ s, State.KeepsStart s (f s x)) : s.KeepsStart (t.each l f) := by
  induction l generalizing t with
  | nil => exact h
  | cons x l ih => exact ih (h.trans (hf x (by simp) t)) fun y hy => hf y (by simp [hy])

end State.KeepsStart

/-! ### The trims -/

/-- CFG shows which quads and ports converged (R180). -/
def State.calShown (s : State) (quads : BitVec 12) (ports : W32) : State :=
  ((s.pb CFG_CAL_STAT_run true).p CFG_CAL_STAT_quads quads.toNat).wr CFG_LINE_TRIM_STAT ports

/-- The residuals and trims that calibration found, and its time. -/
def State.trimmed (s : State) (quads : BitVec 12) (ports : W32) : State :=
  let s := s.each ((List.range 12).filter (fun q => quads.getLsbD q)) (fun s q =>
    let (v, s) := s.drawIn 0 65535
    (s.wr (CFG_CAL_Q q) (BitVec.ofNat 32 v)).cellTrims q)
  let s := s.each ((List.range 32).filter (fun p => ports.getLsbD p)) (fun s p =>
    let (v, s) := s.draw
    { s with cfg := { s.cfg with driverTrims := s.cfg.driverTrims.set p (v.truncate 32) } })
  let s := s.each (List.range 96) (fun s m =>
    let (v, s) := s.draw
    { s with cfg := { s.cfg with thresholdTrims := s.cfg.thresholdTrims.set m (v.truncate 32) } })
  let (t, s) := s.drawIn 0 20000
  s.wr CFG_CAL_TIME (BitVec.ofNat 32 t)

theorem State.calibrated_eq (s : State) (quads : BitVec 12) (ports : W32) :
    s.calibrated quads ports = (s.calShown quads ports).trimmed quads ports := rfl

theorem State.draw_keepsStart (s : State) : s.KeepsStart s.draw.2 := (KeepsStart.refl s).of_cells rfl rfl rfl

theorem State.drawIn_keepsStart (s : State) (lo hi : Nat) : s.KeepsStart (s.drawIn lo hi).2 :=
  (KeepsStart.refl s).of_cells rfl rfl rfl

theorem State.cellTrims_keepsStart (s : State) (q : Nat) : s.KeepsStart (s.cellTrims q) :=
  (KeepsStart.refl s).each (fun s _ => ((s.draw_keepsStart.wr (not_startReg_add _ _ (by decide)) _).wr
    (not_startReg_add _ _ (by decide)) _).wr (not_startReg_add _ _ (by decide)) _) _

theorem not_startReg_calQ {q : Nat} (h : q < 12) : ¬ StartReg (CFG_CAL_Q q) := by
  simp only [StartReg, CFG_STAT, CFG_CAL_STAT, CFG_LINE_TRIM_STAT, CFG_CAL_Q]
  omega

theorem State.trimmed_keepsStart (s : State) (quads : BitVec 12) (ports : W32) : s.KeepsStart (s.trimmed quads ports) := by
  have hquads (s : State) : s.KeepsStart (s.each ((List.range 12).filter (fun q => quads.getLsbD q)) fun s q =>
      ((s.drawIn 0 65535).2.wr (CFG_CAL_Q q) (BitVec.ofNat 32 (s.drawIn 0 65535).1)).cellTrims q) := by
    refine (KeepsStart.refl s).each_mem fun q hq s => ?_
    have hlt : q < 12 := List.mem_range.mp (List.mem_of_mem_filter hq)
    exact ((s.drawIn_keepsStart 0 65535).wr (not_startReg_calQ hlt) _).trans (State.cellTrims_keepsStart _ q)
  have hports := (hquads s).each (f := fun s p => { s.draw.2 with cfg := { s.draw.2.cfg with
      driverTrims := s.draw.2.cfg.driverTrims.set p (s.draw.1.truncate 32) } })
    (fun s p => ⟨⟨fun _ _ => rfl, rfl⟩, rfl, rfl⟩) ((List.range 32).filter (fun p => ports.getLsbD p))
  have hmons := hports.each (f := fun s m => { s.draw.2 with cfg := { s.draw.2.cfg with
      thresholdTrims := s.draw.2.cfg.thresholdTrims.set m (s.draw.1.truncate 32) } })
    (fun s m => ⟨⟨fun _ _ => rfl, rfl⟩, rfl, rfl⟩) (List.range 96)
  exact (hmons.trans (State.drawIn_keepsStart _ 0 20000)).wr (by decide) _

theorem State.loadTimed_keepsStart (s : State) : s.KeepsStart s.loadTimed := (s.drawIn_keepsStart 0 0xFFFFF).wr (by decide) _

/-! ### The image's settings -/

theorem State.setQueue_keepsStart (s : State) (k : Nat) (l : List QSlice) : s.KeepsStart (s.setQueue k l) :=
  (KeepsStart.refl s).of_cells rfl rfl rfl

theorem State.setTask_keepsStart (s : State) (t : TaskId) (x : TaskSt) : s.KeepsStart (s.setTask t x) :=
  (KeepsStart.refl s).of_cells rfl rfl rfl

/-- A task's bits change the tasks, their queues and a stream that one reads; an engine may wake (R291). -/
theorem State.taskBits_keepsStart (s : State) (t : TaskDesc) : s.KeepsStart (s.taskBits t) := by
  unfold State.taskBits
  extract_lets x on bank r old fresh healed y initial begun cleared u
  have hcleared : s.KeepsStart cleared := (s.setTask_keepsStart _ _).each (fun s _ => s.setQueue_keepsStart _ _) _
  clear_value cleared
  have hu : s.KeepsStart u := by
    unfold u
    split
    · split
      · exact hcleared.of_cells rfl rfl rfl
      · exact hcleared
    · exact s.setTask_keepsStart _ _
  clear_value u
  split_ifs
  · exact .refl s
  · exact hu.serves (u.serves_wakeUsed _)
  · exact hu

theorem State.dsChanged_keepsStart (s : State) (d : Nat) : s.KeepsStart (s.dsChanged d) := by
  have hp (v : Nat) : s.KeepsStart (s.p (DS_STAT_state d) v) := (KeepsStart.refl s).p (not_startReg_add _ _ (by decide)) v
  unfold State.dsChanged
  split_ifs
  · exact (hp 1).serves (State.serves_wakeUsed _ _)
  · exact hp 0
  · exact .refl s

theorem State.axChanged_keepsStart (s : State) (p : Nat) : s.KeepsStart (s.axChanged p false) := by
  simp only [State.axChanged, Bool.not_false, Bool.and_true, Bool.and_false, Bool.false_eq_true, if_false]
  split
  · exact ((KeepsStart.of_serves (s.serves_wakeUsed _)).p (not_startReg_add _ _ (by decide)) _).of_cells rfl rfl rfl
  · exact .refl s

theorem State.blankAll_keepsStart (s : State) : s.KeepsStart s.blankAll := .of_serves s.serves_blankAll

/-- The settings of a cell and its chain come into force. -/
def State.cellStarts (s : State) (c : Nat) : State :=
  let s := (s.p (AC_STAT_dir c) (s.g (AC_CONV_CTL_dir c))).p (FC_STAT_interp c) (s.g (AC_CONV_CTL_dir c))
  let s := (s.p (FC_STAT_preset c) (s.g (FC_CTL_preset c))).p (FC_STAT_resp c) (s.g (FC_CTL_resp c))
  let s := s.setCell c { s.cellSt c with filt := s.rd (AC_FILT_CTL c) }
  s.setChain c { s.chain c with link := s.rd (FC_LINK c), phase := s.g (FC_PHASE_steps c) }

theorem State.setCell_keepsStart (s : State) (c : Nat) (x : CellSt) : s.KeepsStart (s.setCell c x) :=
  (KeepsStart.refl s).of_cells rfl rfl rfl

theorem State.setChain_keepsStart (s : State) (c : Nat) (x : ChainSt) : s.KeepsStart (s.setChain c x) :=
  (KeepsStart.refl s).of_cells rfl rfl rfl

theorem State.cellStarts_keepsStart (s : State) (c : Nat) : s.KeepsStart (s.cellStarts c) := by
  have hcell : ¬ StartReg (AC_STAT c) := not_startReg_add _ _ (by decide)
  have hchain : ¬ StartReg (FC_STAT c) := not_startReg_add _ _ (by decide)
  have hshown (dir interp preset resp : Nat) := ((((KeepsStart.refl s).p (f := AC_STAT_dir c) hcell dir).p
    (f := FC_STAT_interp c) hchain interp).p (f := FC_STAT_preset c) hchain preset).p (f := FC_STAT_resp c) hchain resp
  exact ((hshown _ _ _ _).trans (State.setCell_keepsStart _ _ _)).trans (State.setChain_keepsStart _ _ _)

/-- The settings that come into force before the image's own marks are taken away. -/
def State.settingsApplied (s : State) : State :=
  let s := s.each (List.range 48) State.cellStarts
  let s := s.each s.se.tasks (fun s t => s.taskBits t)
  let s := s.each s.streamsOn (fun s d => s.dsChanged d)
  let s := s.each ((List.range 4).filter (fun p => s.bit (AX_CTL_enable p))) (fun s p => s.axChanged p false)
  let s := s.blankAll
  let s := s.each (s.cfg.enables.filter (· < 1024)) (fun s e => s.setBitOf (CUE_SCRIPT_EN (e / 32)) (e % 32) true)
  s.draw.2

/-- The image's marks are taken away, its settings being in force (R122, R380). -/
def State.imageStarted (s : State) (nonce : BitVec 64) : State :=
  { s with ax := { s.ax with nonce := nonce }, cfg := { s.cfg with enables := [], accepted := none } }

theorem State.settingsStart_eq (s : State) : ∃ n, s.settingsStart = s.settingsApplied.imageStarted n := ⟨_, rfl⟩

theorem State.settingsApplied_keepsStart (s : State) : s.KeepsStart s.settingsApplied := by
  have hcells := (KeepsStart.refl s).each State.cellStarts_keepsStart (List.range 48)
  unfold State.settingsApplied
  extract_lets a b c d e f
  have ha : s.KeepsStart a := hcells
  have hb : s.KeepsStart b := ha.each State.taskBits_keepsStart _
  have hc : s.KeepsStart c := hb.each State.dsChanged_keepsStart _
  have hd : s.KeepsStart d := hc.each State.axChanged_keepsStart _
  have he : s.KeepsStart e := hd.trans d.blankAll_keepsStart
  have hf : s.KeepsStart f := he.each_mem fun n hn t => by
    have hlt : n < 1024 := of_decide_eq_true (List.mem_filter.mp hn).2
    exact .of_serves ((Serves.refl t).setBitOf (serviceReg_scriptEn hlt) _ _)
  exact hf.trans f.draw_keepsStart

/-! ### The end of LOAD -/

/-- The records of a start are logged. -/
theorem State.logStart_serves (s : State) (slot : Nat) (quads : BitVec 12) (ports : W32) :
    s.Serves (s.logStart slot quads ports) :=
  (((Serves.refl s).event (by decide) _ _ _).each (fun s _ => (Serves.refl s).event (by decide) _ _ _) _).each
    (fun s _ => (Serves.refl s).event (by decide) _ _ _) _

theorem State.Serves.dev_eq {s t : State} (h : s.Serves t) : t.dev = s.dev := by
  obtain ⟨-, _, _, _, _, _, _, _, rfl⟩ := h
  rfl

theorem State.changeState_keepsStart (s : State) (d : DevState) : s.KeepsStart (s.changeState d) := by
  have hends {a : Nat} (ha : StartReg a) : endsOn a = false := by
    obtain rfl | rfl | rfl := ha
    all_goals decide
  obtain ⟨c, l, h⟩ := s.changeState_eq d
  refine ⟨⟨fun a ha => s.changeState_rd d (hends ha), ?_⟩, ?_, ?_⟩
  all_goals rw [h]

theorem State.windNoted_keepsStart (s : State) : s.KeepsStart s.windNoted :=
  (s.changeState_keepsStart .wind).of_cells rfl rfl rfl

/-- The entry to STANDBY at the end of LOAD (R131, R147). -/
def State.standbyStarts (s : State) : State := ((s.changeState .standby).inc (cnt16 SYS_STANDBY_CNT)).latchQuiet

theorem State.standbyStarts_keepsStart (s : State) : s.KeepsStart s.standbyStarts :=
  ((s.changeState_keepsStart .standby).inc (by decide)).of_cells rfl rfl rfl

theorem State.standbyStarts_dev (s : State) : s.standbyStarts.dev = .standby := s.changeState_dev .standby

/-- The state in which LOAD ends, by the image's header. -/
def State.startEntered (s : State) : State := if s.cfg.startStandby then s.standbyStarts else s.enterWind

theorem State.startEntered_keepsStart (s : State) : s.KeepsStart s.startEntered := by
  unfold State.startEntered
  split
  · exact s.standbyStarts_keepsStart
  · rw [State.enterWind_eq]
    exact s.windNoted_keepsStart.serves s.windNoted.serves_windStarts

theorem State.startEntered_dev (s : State) : s.startEntered.dev = if s.cfg.startStandby then .standby else .wind := by
  unfold State.startEntered
  split
  · exact s.standbyStarts_dev
  · obtain ⟨hdev, -⟩ := s.windNoted_frame
    rw [State.enterWind_eq, s.windNoted.serves_windStarts.dev_eq, hdev]

/-- The settings in force, with calibration shown and LOAD over in CFG_STAT. -/
def State.loaded (s : State) (quads : BitVec 12) (ports : W32) : State :=
  (s.calibrated quads ports).loadTimed.pb CFG_STAT_loading false

theorem State.calibrationDone_eq {s : State} {slot : Nat} (quads : BitVec 12) (ports : W32) (hdev : s.dev = .load)
    (haccepted : s.cfg.accepted = some slot) :
    s.calibrationDone quads ports = (s.loaded quads ports).settingsStart.startEntered.logStart slot quads ports := by
  have hgo : (s.dev != .load) = false := by simp [hdev]
  simp only [State.calibrationDone, haccepted, hgo, Bool.false_eq_true, if_false]
  unfold State.startEntered State.loaded
  split_ifs
  · rfl
  · rfl

/-- CFG shows the outcome of calibration, and that LOAD is over. -/
theorem State.loaded_shows (s : State) (quads : BitVec 12) (ports : W32) :
    (s.loaded quads ports).g CFG_CAL_STAT_quads = quads.toNat ∧ (s.loaded quads ports).rd CFG_LINE_TRIM_STAT = ports ∧
      (s.loaded quads ports).bit CFG_STAT_loading = false := by
  have htrimmed := ((s.calShown quads ports).trimmed_keepsStart quads ports).trans (State.loadTimed_keepsStart _)
  have hkept {a : Nat} (ha : StartReg a) (hne : CFG_STAT ≠ a) :
      (s.loaded quads ports).rd a = (s.calShown quads ports).rd a :=
    (State.rd_p_ne (f := CFG_STAT_loading) _ hne _).trans (htrimmed.rd a ha)
  refine ⟨?_, (hkept (by decide) (by decide)).trans (State.rd_wr_same _ _ _),
    State.bit_pb_same _ _ _ (by decide) (by decide)⟩
  rw [State.g_of_rd (hkept (a := CFG_CAL_STAT) (by decide) (by decide)), State.calShown,
    State.g_of_rd (State.rd_wr_ne _ (by decide) _), State.g_p_same _ _ _ (by decide) (by decide)]
  exact Nat.mod_eq_of_lt quads.isLt

theorem State.CellsOnly.keeps {s t : State} (h : s.CellsOnly t) : t.cfg = s.cfg ∧ t.fm = s.fm := by
  obtain ⟨c, rfl⟩ := h
  exact ⟨rfl, rfl⟩

theorem State.calShown_frame (s : State) (quads : BitVec 12) (ports : W32) : s.CellsOnly (s.calShown quads ports) := ⟨_, rfl⟩

theorem State.loaded_keeps (s : State) (quads : BitVec 12) (ports : W32) :
    (s.loaded quads ports).cfg.startStandby = s.cfg.startStandby ∧ (s.loaded quads ports).fm = s.fm := by
  have htrimmed := ((s.calShown quads ports).trimmed_keepsStart quads ports).trans (State.loadTimed_keepsStart _)
  have hpb (t : State) : t.CellsOnly (t.pb CFG_STAT_loading false) := ⟨_, rfl⟩
  obtain ⟨hcfg, hfm⟩ := (s.calShown_frame quads ports).keeps
  obtain ⟨hcfg', hfm'⟩ := (hpb ((s.calibrated quads ports).loadTimed)).keeps
  unfold State.loaded
  rw [hcfg', hfm', State.calibrated_eq, htrimmed.standby, htrimmed.fm, hcfg, hfm]
  exact ⟨rfl, rfl⟩

/-- Start-up calibration ends LOAD (R179, R180). -/
structure State.StartedFrom (s : State) (quads : BitVec 12) (ports : W32) (t : State) : Prop where
  dev : t.dev = if s.cfg.startStandby then .standby else .wind
  quads : t.g CFG_CAL_STAT_quads = quads.toNat
  ports : t.rd CFG_LINE_TRIM_STAT = ports
  loading : t.bit CFG_STAT_loading = false
  accepted : t.cfg.accepted = none
  fm : t.fm = s.fm

theorem State.settingsStart_keeps (s : State) : s.settingsStart.cfg.startStandby = s.cfg.startStandby ∧
    s.settingsStart.cfg.accepted = none ∧ s.Spares StartReg s.settingsStart := by
  obtain ⟨n, h⟩ := s.settingsStart_eq
  have happlied := s.settingsApplied_keepsStart
  rw [h]
  exact ⟨happlied.standby, rfl, happlied.rd, happlied.fm⟩

theorem State.calibrationDone_startedFrom {s : State} {slot : Nat} (quads : BitVec 12) (ports : W32) (hdev : s.dev = .load)
    (haccepted : s.cfg.accepted = some slot) : s.StartedFrom quads ports (s.calibrationDone quads ports) := by
  rw [State.calibrationDone_eq quads ports hdev haccepted]
  obtain ⟨hquads, hports, hloading⟩ := s.loaded_shows quads ports
  obtain ⟨hstandby, hfm⟩ := s.loaded_keeps quads ports
  generalize s.loaded quads ports = u at *
  obtain ⟨hstandby', hnone, hspares⟩ := u.settingsStart_keeps
  generalize u.settingsStart = v at *
  have hlogged := v.startEntered.logStart_serves slot quads ports
  have hended := v.startEntered_keepsStart.serves hlogged
  have hrd := hspares.trans hended.toSpares
  exact ⟨by rw [hlogged.dev_eq, State.startEntered_dev, hstandby', hstandby], (hrd.g (by decide)).trans hquads,
    (hrd.rd _ (by decide)).trans hports, by rw [State.bit, hrd.g (f := CFG_STAT_loading) (by decide)]; exact hloading,
    hended.accepted.trans hnone, hrd.fm.trans hfm⟩

theorem exec_startCalibrationDone_of_accepted (at_ : TT) (quads : BitVec 12) (ports : W32) (slot : Nat) (s : State)
    (hdev : (s.atTime at_).dev = .load) (haccepted : (s.atTime at_).cfg.accepted = some slot) :
    ∃ t, exec (.startCalibrationDone at_ quads ports) s = .next t ∧
      t.dev = (if (s.atTime at_).cfg.startStandby then .standby else .wind) ∧ t.g CFG_CAL_STAT_quads = quads.toNat ∧
      t.rd CFG_LINE_TRIM_STAT = ports ∧ t.bit CFG_STAT_loading = false ∧ t.cfg.accepted = none ∧ keepsMemory s t := by
  have hexec : exec (.startCalibrationDone at_ quads ports) s =
      .next (((s.atTime at_).calibrationDone quads ports).ended s) := rfl
  obtain ⟨hstate, hquads, hports, hloading, hnone, hfm⟩ := State.calibrationDone_startedFrom quads ports hdev haccepted
  refine ⟨_, hexec, ?_, (State.ended_g _ _ (by decide)).trans hquads, (State.ended_rd _ _ (by decide)).trans hports, ?_, ?_,
    keepsMemory_ended (hfm.trans (s.atTime_fm at_))⟩
  · rw [State.ended_dev_of_stopped, hstate]
    rw [hstate]
    split <;> rfl
  · rw [State.bit, State.ended_g _ _ (by decide)]
    exact hloading
  · rw [State.ended_cfg, hnone]

end Sys2Proof.Machine

/-! ### The obligation -/

/-- Settles O34: discovery with nothing to try and with golden alone, a header that is refused, a slot that passes every
check, and the end of start-up calibration. -/
theorem imagesAreTried : Obligations.ImagesAreTried :=
  ⟨fun at_ f s hdev hfound hslots =>
      ⟨exec_flashDiscovery_of_nothing at_ f s hdev hfound hslots, exec_flashDiscovery_of_golden at_ f s hdev hfound⟩,
    exec_slotCheckComplete_of_header, exec_slotCheckComplete_of_checked, exec_startCalibrationDone_of_accepted⟩
end

section
/-! A write of a line port's mode where a port that is OFF shows a lock. -/

open Sys2Proof Sys2Proof.Machine

namespace Sys2Proof.Machine

/-- Line port 0 is OFF and yet shows a locked CDR and a frame in delivery to stream 0 of frame memory. Of the frame's 525
lines the last is missing, and the line received last is to be repeated for it. -/
def lockedWhileOff : State :=
  let s : State := { State.reset with pwr := { State.reset.pwr with state := .follow } }
  let s := (((s.pb (LP_STAT_cdr_locked 0) true).pb (LP_RX_CTL_fill 0) true).p (LP_RX_DEST_kind 0) 2).p (LP_RX_FMT_format 0) 1
  let s := s.setLp 0 { LpSt.initial with delivering := true, lastLine := 524, lastRx := [[⟨1, marksNone⟩]] }
  let s := ((s.p (DS_STAT_state 0) 2).p (DS_GEOM_lines 0) 525).p (DS_GEOM_stride 0) 1
  s.setStream 0 { StreamSt.initial with line := 524 }

/-- A write of mode RX to that port: the answer, and the state that it leaves. -/
def rxWhileOff : Why × State := (lockedWhileOff.atTime 0).writeReg .observer (LP_MODE_CTL 0) 1 0xFFFFFFFF

/-- Where line 525 of stream 0 is stored: its lines lie 64 bytes apart. -/
abbrev lastLineAt : Nat := 524 * 64

theorem rxWhileOff_accepted : rxWhileOff.1 = .ok := by decide +kernel

theorem rxWhileOff_rmt : rxWhileOff.2.ax.rmt = none := by decide +kernel

/-- The search that mode RX begins ends the lock that the port shows, and the missing line of its frame is stored
(R200, R206). -/
theorem rxWhileOff_stores : rxWhileOff.2.fmByte lastLineAt = 1 ∧ lockedWhileOff.fmByte lastLineAt = 0 := by
  decide +kernel

end Sys2Proof.Machine

/-! ### The obligation -/

/-- Refutes O37, which speaks of every state, in its first clause: where a port that does not receive shows a lock
(`lockedWhileOff`), the write of mode RX completes the frame that the port was delivering, and the line that fills it goes
into frame memory, which the statement says is kept. -/
theorem not_linePortsAcquire : ¬ Obligations.LinePortsAcquire := by
  rintro ⟨hmode, -⟩
  have hreach : (lockedWhileOff.atTime 0).reachable (LP_MODE_CTL 0) := by decide
  obtain ⟨t, hexec, -, -, hkept⟩ := hmode 0 0 1 lockedWhileOff hreach rxWhileOff_accepted
  obtain ⟨hstored, hempty⟩ := rxWhileOff_stores
  have hrmt := rxWhileOff_rmt
  rcases hwrite : rxWhileOff with ⟨why, u⟩
  rw [hwrite] at hstored hrmt
  obtain ⟨o, hends, -⟩ := State.timedWrite 0 lockedWhileOff (LP_MODE_CTL 0) 1 hreach why u hwrite hrmt
  obtain rfl := Host.Outcome.next.inj (hexec.symm.trans hends)
  have hbyte : u.fmByte lastLineAt = lockedWhileOff.fmByte lastLineAt := by
    have hsame := hkept lastLineAt
    rwa [State.fmByte, State.ended_fm] at hsame
  rw [hstored, hempty] at hbyte
  exact absurd hbyte (by decide)
end

section
/-! The receive path of a line port: lock and its loss, the flywheel, line errors and frame starts (R200–R208, R218). -/

open Sys2Proof Sys2Proof.Machine

namespace Sys2Proof.Machine

/-! ### Registers of the line ports -/

/-- The addresses of the line ports' block. -/
abbrev InLp (a : Nat) : Prop := 0x100000 ≤ a ∧ a < 0x120000

theorem endsOn_of_inLp {a : Nat} (h : InLp a) : endsOn a = false := by
  have hstate : [SYS_STATE, SYS_STATE_TT_LO, SYS_STATE_TT_LO + 4, SYS_STATE_CHANGE_CNT, BAT_KEEP_STAT].contains a = false := by
    simp only [List.contains_cons, List.contains_nil, Bool.or_eq_false_iff, beq_eq_false_iff_ne, SYS_STATE, SYS_STATE_TT_LO,
      SYS_STATE_CHANGE_CNT, BAT_KEEP_STAT]
    refine ⟨?_, ?_, ?_, ?_, ?_, trivial⟩ <;> omega
  have hpins : (List.range 4).any (fun b => a == GP_CONFLICT b || a == GP_CONFLICT_CNT b) = false := by
    simp only [List.any_eq_false, List.mem_range, Bool.or_eq_true, beq_iff_eq, GP_CONFLICT, GP_CONFLICT_CNT]
    omega
  have hlog : decide (0xA00000 ≤ a) = false := decide_eq_false (by omega)
  rw [endsOn, hstate, hpins, hlog, Bool.false_and]
  rfl

theorem not_inLog_of_inLp {a : Nat} (h : InLp a) : ¬ inLog a := by
  unfold inLog
  omega

theorem not_serviceReg_of_inLp {a : Nat} (h : InLp a) : ¬ ServiceReg a := by
  simp only [ServiceReg, SYS_NAP_CNT]
  omega

theorem outside_mono {l l' : List Nat} (h : l ⊆ l') (a : Nat) (ha : Outside l' a) : Outside l a :=
  ⟨ha.1, fun hmem => ha.2 (h hmem)⟩

theorem inLp_add (p : Fin 32) {b : Nat} (h1 : 0x100000 ≤ b) (h2 : b < 0x101000) : InLp (b + p * 0x1000) := by omega

theorem partner_ne (p : Nat) : partner p ≠ p := by
  unfold partner
  split <;> omega

/-- A whole word counts on by one (R20). -/
theorem State.rd_incWrap_word (s : State) (a : Nat) : (s.incWrap (word a)).rd a = s.rd a + 1 := by
  have hg : s.g (word a) = (s.rd a).toNat := by
    simp only [State.g, Fld.of, word]
    omega
  rw [State.incWrap, State.p, show (word a).addr = a from rfl, State.rd_wr_same, hg]
  apply BitVec.eq_of_toNat_eq
  simp [Fld.put, word, BitVec.toNat_add]

theorem State.Spares.bit {P : Nat → Prop} {s t : State} (h : s.Spares P t) {f : Fld} (hf : P f.addr) : t.bit f = s.bit f := by
  rw [State.bit, State.bit, h.g hf]

theorem State.ended_bit (s old : State) {f : Fld} (h : endsOn f.addr = false) : (s.ended old).bit f = s.bit f := by
  rw [State.bit, State.bit, State.ended_g s old h]

theorem State.ended_lpSt (s old : State) (p : Nat) : (s.ended old).lpSt p = s.lpSt p := by
  rw [State.lpSt, State.lpSt, State.ended_lp]

/-- A record in the event log leaves the state of the line ports. -/
theorem State.event_lpSt (s : State) (code svc : Nat) (d : W32) (cause p : Nat) :
    (s.event code svc d cause).lpSt p = s.lpSt p := by
  obtain ⟨c, l, h⟩ := State.event_eq s code svc d cause
  rw [h]
  rfl

theorem State.Serves.lpSt {s t : State} (h : s.Serves t) (p : Nat) : t.lpSt p = s.lpSt p := by
  obtain ⟨_, _, _, _, _, _, _, rfl⟩ := h.frame
  rfl

theorem State.Serves.fm {s t : State} (h : s.Serves t) : t.fm = s.fm := by
  obtain ⟨_, _, _, _, _, _, _, rfl⟩ := h.frame
  rfl

/-- What serves the cue engine and the log spares the line ports. -/
theorem State.Serves.spares {s t : State} (h : s.Serves t) : s.Spares InLp t :=
  ⟨fun a ha => h.rd a (not_serviceReg_of_inLp ha), h.fm⟩

theorem State.event_spares (s : State) {l : List Nat} {code : Nat} (hc : code < 64) (svc : Nat) (d : W32) (cause : Nat) :
    s.Spares (Outside l) (s.event code svc d cause) :=
  (State.Spares.refl s).event (fun _ ha => not_inLog_of_outside ha) hc svc d cause

theorem State.setLp_spares {P : Nat → Prop} (s : State) (p : Nat) (x : LpSt) : s.Spares P (s.setLp p x) :=
  (State.Spares.refl s).of_cells rfl rfl

@[simp] theorem State.setLp_g (s : State) (p : Nat) (x : LpSt) (f : Fld) : (s.setLp p x).g f = s.g f := rfl

@[simp] theorem State.setLp_bit (s : State) (p : Nat) (x : LpSt) (f : Fld) : (s.setLp p x).bit f = s.bit f := rfl

/-! ### Lock -/

/-- The CDR locks at the rate that it seeks, with its lock time (R200). -/
def State.lockTaken (s : State) (p : Nat) : State :=
  (((s.pb (LP_STAT_cdr_locked p) true).p (LP_STAT_rx_rate p) (s.lpRate p)).wr (LP_LOCK_TIME p)
    (BitVec.ofNat 32 (min (s.elapsed - (s.lpSt p).searchFrom) 262143))).setLp p { s.lpSt p with lockSince := some s.elapsed }

theorem State.lockCdr_of_searching {s : State} {p : Nat} (hruns : s.lpRunsRx p = true) (hsignal : s.bit (LP_STAT_signal p) = true)
    (hsearching : s.bit (LP_STAT_cdr_locked p) = false) (hrate : 0 < s.lpRate p) :
    s.lockCdr p = (s.lockTaken p).eventNow 0x19 (s.ownerOf kLpRx p).byte (BitVec.ofNat 32 (s.lpRate p * 256 + p)) := by
  have hseeks : s.lpRate p = if s.g (LP_RX_CTL_rate p) = 15 then (s.lpSt p).trialRate else s.g (LP_RX_CTL_rate p) := by
    rw [State.lpRate, hsearching]
    rfl
  have hne : s.lpRate p ≠ 0 := by omega
  rw [State.lpRunsRx] at hruns
  simp only [State.lockCdr, hruns, hsignal, hsearching, ← hseeks, hne]
  rfl

theorem State.lockTaken_spares (s : State) (p : Nat) : s.Spares (Outside [LP_STAT p, LP_LOCK_TIME p]) (s.lockTaken p) := by
  unfold State.lockTaken
  exact ((((State.Spares.refl s).pb (f := LP_STAT_cdr_locked p) (not_outside_of_mem (by simp)) _).p (f := LP_STAT_rx_rate p)
    (not_outside_of_mem (by simp)) _).wr (a := LP_LOCK_TIME p) (not_outside_of_mem (by simp)) _).trans
    (State.setLp_spares _ p _)

theorem State.lockTaken_shows (s : State) (p : Nat) (hrate : s.lpRate p < 16) :
    (s.lockTaken p).bit (LP_STAT_cdr_locked p) = true ∧ (s.lockTaken p).g (LP_STAT_rx_rate p) = s.lpRate p ∧
      ((s.lockTaken p).rd (LP_LOCK_TIME p)).toNat = min (s.elapsed - (s.lpSt p).searchFrom) 262143 := by
  have hne : LP_LOCK_TIME p ≠ LP_STAT p := by
    simp only [LP_LOCK_TIME, LP_STAT]
    omega
  have hstat : (s.lockTaken p).rd (LP_STAT p) =
      ((s.pb (LP_STAT_cdr_locked p) true).p (LP_STAT_rx_rate p) (s.lpRate p)).rd (LP_STAT p) := by
    rw [State.lockTaken, State.setLp_rd, State.rd_wr_ne _ hne]
  refine ⟨?_, ?_, ?_⟩
  · have hlocked : (s.lockTaken p).g (LP_STAT_cdr_locked p) = (s.pb (LP_STAT_cdr_locked p) true).g (LP_STAT_cdr_locked p) :=
      (State.g_of_rd hstat).trans (State.g_p_ne _ _ _ _ (by simp) (by simp) (by simp))
    rw [State.bit, hlocked]
    exact State.bit_pb_same s _ true (by simp) (by simp)
  · exact (State.g_of_rd hstat).trans ((State.g_p_same _ _ _ (by simp) (by simp)).trans (Nat.mod_eq_of_lt hrate))
  · rw [State.lockTaken, State.setLp_rd, State.rd_wr_same, BitVec.toNat_ofNat]
    omega

theorem exec_cdrLock_of_searching (at_ : TT) (p : Fin 32) (s : State) (hruns : (s.atTime at_).lpRunsRx p = true)
    (hsignal : (s.atTime at_).bit (LP_STAT_signal p) = true) (hsearching : (s.atTime at_).bit (LP_STAT_cdr_locked p) = false)
    (hrate : 0 < (s.atTime at_).lpRate p) (hlt : (s.atTime at_).lpRate p < 16) :
    ∃ t, exec (.cdrLock at_ p) s = .next t ∧ t.bit (LP_STAT_cdr_locked p) = true ∧
      t.g (LP_STAT_rx_rate p) = (s.atTime at_).lpRate p ∧
      (t.rd (LP_LOCK_TIME p)).toNat = min ((s.atTime at_).elapsed - ((s.atTime at_).lpSt p).searchFrom) 262143 ∧
      (t.lpSt p).lockSince = some (s.atTime at_).elapsed ∧ keepsRegs s t [LP_STAT p, LP_LOCK_TIME p] ∧ keepsMemory s t := by
  have hexec : exec (.cdrLock at_ p) s = _ := timed_of_eq (f := fun s => s.lockCdr p)
    (State.lockCdr_of_searching hruns hsignal hsearching hrate)
  have hlog {l : List Nat} := ((s.atTime at_).lockTaken p).event_spares (l := l) (show 0x19 < 64 by decide)
    ((s.atTime at_).ownerOf kLpRx p).byte (BitVec.ofNat 32 ((s.atTime at_).lpRate p * 256 + p)) ((s.atTime at_).lockTaken p).now
  have hspares := ((s.atTime at_).lockTaken_spares p).trans hlog
  have hkept {a : Nat} (ha : InLp a) :=
    (State.ended_rd _ s (endsOn_of_inLp ha)).trans (hlog.rd a ⟨endsOn_of_inLp ha, List.not_mem_nil⟩)
  have hstat := hkept (a := LP_STAT p) (inLp_add p (by decide) (by decide))
  obtain ⟨hlocked, hshown, htaken⟩ := (s.atTime at_).lockTaken_shows p hlt
  refine ⟨_, hexec, ?_, ?_, ?_, ?_, keepsRegs_of_spares hspares, keepsMemory_of_spares hspares⟩
  · exact (congrArg (· != 0) (State.g_of_rd (f := LP_STAT_cdr_locked p) hstat)).trans hlocked
  · exact (State.g_of_rd (f := LP_STAT_rx_rate p) hstat).trans hshown
  · exact (congrArg BitVec.toNat (hkept (a := LP_LOCK_TIME p) (inLp_add p (by decide) (by decide)))).trans htaken
  · rw [State.ended_lpSt, State.eventNow, State.event_lpSt, State.lockTaken, State.setLp_lpSt]

/-! ### Loss of lock -/

theorem State.completeFrame_of_idle {s : State} {p : Nat}
    (h : s.bit (LP_RX_CTL_sync p) = true ∨ (s.lpSt p).delivering = false) : s.completeFrame p = s := by
  rw [State.completeFrame, if_pos (by simpa using h)]

/-- The lock is gone, counted and flagged (R202). -/
def State.lockCleared (s : State) (p : Nat) : State :=
  ((((s.pb (LP_STAT_cdr_locked p) false).p (LP_STAT_rx_rate p) 0).pb (LP_STAT_trs_locked p) false).inc
    (cnt16 (LP_LOCK_LOSS_CNT p))).pb (LP_STICKY_lock_lost p) true

/-- The loss is logged, and its event source fires (R202). -/
def State.lossReported (s : State) (p cause : Nat) : State :=
  (s.event 0x18 (s.ownerOf kLpRx p).byte (BitVec.ofNat 32 p) cause).fire (0xD0 + p) cause

/-- The search for lock goes on, and a driver that carries the port's loop sits at common mode (R194, R200, R201). -/
def State.searchResumed (s : State) (p : Nat) : State :=
  let s := s.setLp p { s.lpSt p with lockSince := none, searchFrom := s.elapsed, posRun := 0, offRun := 0, sweep := none }
  let s := s.when (s.lpMode p == 4) (fun s => s.setLp (partner p) { s.lpSt (partner p) with sentKind := 0 })
  s.when (s.g (LP_RX_CTL_rate p) == 15) (fun s => s.startTrial p 0)

theorem State.loseLock_of_locked {s : State} {p : Nat} (h : s.bit (LP_STAT_cdr_locked p) = true) (cause : Nat) :
    s.loseLock p cause = (((s.lockCleared p).lossReported p cause).completeFrame p).searchResumed p := by
  rw [State.loseLock, if_neg (by simp [h])]
  rfl

theorem State.lossReported_serves (s : State) (p cause : Nat) : s.Serves (s.lossReported p cause) :=
  ((State.Serves.refl s).event (by decide) _ _ cause).trans (State.serves_fire _ _ cause)

theorem State.lockCleared_spares (s : State) (p : Nat) :
    s.Spares (Outside [LP_STAT p, LP_LOCK_LOSS_CNT p, LP_STICKY p]) (s.lockCleared p) :=
  (((((State.Spares.refl s).pb (f := LP_STAT_cdr_locked p) (not_outside_of_mem (by simp)) false).p (f := LP_STAT_rx_rate p)
    (not_outside_of_mem (by simp)) 0).pb (f := LP_STAT_trs_locked p) (not_outside_of_mem (by simp)) false).inc
    (f := cnt16 (LP_LOCK_LOSS_CNT p)) (not_outside_of_mem (by simp [cnt16]))).pb (f := LP_STICKY_lock_lost p)
    (not_outside_of_mem (by simp)) true

theorem State.lockCleared_shows (s : State) (p : Nat) :
    (s.lockCleared p).bit (LP_STAT_cdr_locked p) = false ∧ (s.lockCleared p).g (LP_STAT_rx_rate p) = 0 ∧
      (s.lockCleared p).bit (LP_STICKY_lock_lost p) = true ∧
      (s.lockCleared p).g (cnt16 (LP_LOCK_LOSS_CNT p)) = min (s.g (cnt16 (LP_LOCK_LOSS_CNT p)) + 1) 65535 := by
  have hcntStat : (cnt16 (LP_LOCK_LOSS_CNT p)).addr ≠ LP_STAT p := by simp [cnt16]
  have hstickyStat : LP_STICKY p ≠ LP_STAT p := by simp
  have hstickyCnt : LP_STICKY p ≠ LP_LOCK_LOSS_CNT p := by simp
  have hstat : (s.lockCleared p).rd (LP_STAT p) =
      (((s.pb (LP_STAT_cdr_locked p) false).p (LP_STAT_rx_rate p) 0).pb (LP_STAT_trs_locked p) false).rd (LP_STAT p) :=
    (State.rd_p_ne _ hstickyStat _).trans (State.rd_inc_ne _ hcntStat)
  have hcnt : (((s.pb (LP_STAT_cdr_locked p) false).p (LP_STAT_rx_rate p) 0).pb (LP_STAT_trs_locked p) false).rd
      (LP_LOCK_LOSS_CNT p) = s.rd (LP_LOCK_LOSS_CNT p) :=
    ((State.rd_p_ne _ (by simp) _).trans (State.rd_p_ne _ (by simp) _)).trans (State.rd_p_ne _ (by simp) _)
  refine ⟨?_, ?_, State.bit_pb_same _ _ true (by simp) (by simp), ?_⟩
  · have hlocked : (s.lockCleared p).g (LP_STAT_cdr_locked p) = (s.pb (LP_STAT_cdr_locked p) false).g (LP_STAT_cdr_locked p) :=
      (State.g_of_rd hstat).trans ((State.g_p_ne _ _ _ _ (by simp) (by simp) (by simp)).trans
        (State.g_p_ne _ _ _ _ (by simp) (by simp) (by simp)))
    rw [State.bit, hlocked]
    exact State.bit_pb_same s _ false (by simp) (by simp)
  · exact (State.g_of_rd hstat).trans ((State.g_p_ne _ _ _ _ (by simp) (by simp) (by simp)).trans
      (State.g_p_same _ _ _ (by simp) (by simp)))
  · refine (State.g_of_rd (State.rd_p_ne _ hstickyCnt _)).trans ((State.g_inc_cnt16 _ _).trans ?_)
    rw [State.g_of_rd (f := cnt16 (LP_LOCK_LOSS_CNT p)) hcnt]

/-- A trial keeps the lock's beginning as it is, and sets the equalizer or, in FROZEN, nothing else (R197, R201). -/
theorem State.startTrial_cases (s : State) (p i : Nat) : ∃ x : LpSt, x.lockSince = (s.lpSt p).lockSince ∧
    (s.startTrial p i = s.setLp p x ∨ ∃ v, s.startTrial p i = (s.setLp p x).p (LP_EQ_SET_code p) v) := by
  have hstart (t : State) (rate : Nat) (warm : Bool) :
      t.eqStart p rate warm = t ∨ ∃ v, t.eqStart p rate warm = t.p (LP_EQ_SET_code p) v := by
    unfold State.eqStart
    split
    · exact .inl rfl
    · exact .inr ⟨_, rfl⟩
  unfold State.startTrial
  extract_lets x
  split
  · exact ⟨_, by rfl, hstart _ _ _⟩
  · exact ⟨_, by rfl, hstart _ _ _⟩

theorem State.startTrial_spares (s : State) (p i : Nat) : s.Spares (Outside [LP_EQ_SET p]) (s.startTrial p i) := by
  obtain ⟨x, -, h | ⟨v, h⟩⟩ := s.startTrial_cases p i
  · rw [h]
    exact s.setLp_spares p x
  · rw [h]
    exact (s.setLp_spares p x).p (f := LP_EQ_SET_code p) (not_outside_of_mem (by simp)) v

theorem State.startTrial_lockSince (s : State) (p i : Nat) :
    ((s.startTrial p i).lpSt p).lockSince = (s.lpSt p).lockSince := by
  obtain ⟨x, hx, h | ⟨v, h⟩⟩ := s.startTrial_cases p i
  · rw [h, State.setLp_lpSt, hx]
  · rw [h, State.lpSt, State.p_lp]
    exact (congrArg LpSt.lockSince (s.setLp_lpSt p x)).trans hx

theorem State.searchResumed_spares (s : State) (p : Nat) : s.Spares (Outside [LP_EQ_SET p]) (s.searchResumed p) :=
  ((s.setLp_spares p _).when _ fun s => s.setLp_spares (partner p) _).when _ fun s => s.startTrial_spares p 0

theorem State.searchResumed_lockSince (s : State) (p : Nat) : ((s.searchResumed p).lpSt p).lockSince = none := by
  unfold State.searchResumed
  extract_lets old cleared looped
  have hlooped : looped.lpSt p = cleared.lpSt p := State.when_keeps (State.lpSt · p) _ _ _
    (State.setLp_lpSt_ne cleared (partner_ne p).symm _)
  refine (State.when_keeps (fun s => (s.lpSt p).lockSince) _ _ _ (looped.startTrial_lockSince p 0)).trans ?_
  rw [hlooped, State.setLp_lpSt]

/-- The report of a loss and the search after it leave the registers of the line ports, but for the equalizer's setting. -/
theorem State.searchResumed_rd (s : State) (p cause : Nat) {a : Nat} (ha : InLp a) (hset : a ≠ LP_EQ_SET p) :
    ((s.lossReported p cause).searchResumed p).rd a = s.rd a :=
  ((State.searchResumed_spares _ p).rd a ⟨endsOn_of_inLp ha, by simpa using hset⟩).trans
    ((s.lossReported_serves p cause).spares.rd a ha)

/-- A port that loses lock with no frame to complete reports the loss and searches again (R200, R202). -/
theorem State.loseLock_of_idle {s : State} {p : Fin 32} (hlocked : s.bit (LP_STAT_cdr_locked p) = true)
    (hidle : s.bit (LP_RX_CTL_sync p) = true ∨ (s.lpSt p).delivering = false) (cause : Nat) :
    s.loseLock p cause = ((s.lockCleared p).lossReported p cause).searchResumed p := by
  have hserves := (s.lockCleared p).lossReported_serves p cause
  have hctl : InLp (LP_RX_CTL p) := inLp_add p (by decide) (by decide)
  have hsync : ((s.lockCleared p).lossReported p cause).bit (LP_RX_CTL_sync p) = s.bit (LP_RX_CTL_sync p) :=
    (hserves.spares.bit hctl).trans ((s.lockCleared_spares p).bit ⟨endsOn_of_inLp hctl, by simp⟩)
  have hlp : ((s.lockCleared p).lossReported p cause).lpSt p = s.lpSt p := hserves.lpSt p
  rw [State.loseLock_of_locked hlocked, State.completeFrame_of_idle (by rwa [hsync, hlp])]

theorem exec_cdrLockLoss_of_idle (at_ : TT) (p : Fin 32) (cause : TT) (s : State)
    (hlocked : (s.atTime at_).bit (LP_STAT_cdr_locked p) = true)
    (hidle : (s.atTime at_).bit (LP_RX_CTL_sync p) = true ∨ ((s.atTime at_).lpSt p).delivering = false) :
    ∃ t, exec (.cdrLockLoss at_ p cause) s = .next t ∧ t.bit (LP_STAT_cdr_locked p) = false ∧
      t.g (LP_STAT_rx_rate p) = 0 ∧ t.bit (LP_STICKY_lock_lost p) = true ∧
      t.g (cnt16 (LP_LOCK_LOSS_CNT p)) = min (s.g (cnt16 (LP_LOCK_LOSS_CNT p)) + 1) 65535 ∧
      (t.lpSt p).lockSince = none ∧ keepsMemory s t := by
  have hexec : exec (.cdrLockLoss at_ p cause) s = _ := timed_of_eq (f := fun s => s.loseLock p cause.toNat)
    (State.loseLock_of_idle hlocked hidle cause.toNat)
  have hkept {f : Fld} (ha : InLp f.addr) (hset : f.addr ≠ LP_EQ_SET p) :=
    (State.ended_g _ s (endsOn_of_inLp ha)).trans
      (State.g_of_rd (State.searchResumed_rd ((s.atTime at_).lockCleared p) p cause.toNat ha hset))
  have hstat : InLp (LP_STAT p) := inLp_add p (by decide) (by decide)
  obtain ⟨hlock, hrate, hsticky, hcnt⟩ := (s.atTime at_).lockCleared_shows p
  refine ⟨_, hexec, ?_, ?_, ?_, ?_, ?_, keepsMemory_ended ?_⟩
  · rw [State.bit, hkept (f := LP_STAT_cdr_locked p) hstat (by simp)]
    exact hlock
  · exact (hkept (f := LP_STAT_rx_rate p) hstat (by simp)).trans hrate
  · rw [State.bit, hkept (f := LP_STICKY_lock_lost p) (inLp_add p (by decide) (by decide)) (by simp)]
    exact hsticky
  · rw [hkept (f := cnt16 (LP_LOCK_LOSS_CNT p)) (inLp_add p (by decide) (by decide)) (by simp [cnt16]), hcnt, State.atTime_g]
  · rw [State.ended_lpSt, State.searchResumed_lockSince]
  · rw [(State.searchResumed_spares _ p).fm, (State.lossReported_serves _ p cause.toNat).fm, (State.lockCleared_spares _ p).fm,
      State.atTime_fm]

/-! ### The flywheel -/

theorem State.eavSeen_inPlace {s : State} {p : Nat} (hlive : s.rxLive p = true) (hrun : 2 ≤ (s.lpSt p).posRun) :
    ∃ x, s.eavSeen p .inPlace = (s.setLp p x).pb (LP_STAT_trs_locked p) true := by
  have hthird : min ((s.lpSt p).posRun + 1) 3 = 3 := by omega
  refine ⟨{ s.lpSt p with posRun := 3, offRun := 0 }, ?_⟩
  simp only [State.eavSeen, hlive, hthird, State.when, Bool.not_true, Bool.false_eq_true, beq_self_eq_true, if_true, if_false]

theorem State.eavSeen_missing {s : State} {p : Nat} (hlive : s.rxLive p = true) (hlocked : s.bit (LP_STAT_trs_locked p) = true) :
    ∃ x, s.eavSeen p .missing = ((s.inc (cnt16 (LP_TRS_ERR_CNT p))).pb (LP_STICKY_trs_err p) true).setLp p x := by
  simp only [State.eavSeen, hlive, hlocked, State.when, Bool.not_true, Bool.false_eq_true, if_true, if_false]
  exact ⟨_, rfl⟩

/-- The third EAV in a row at one place aligns the flywheel (R204). -/
theorem exec_eavReceived_inPlace (at_ : TT) (p : Fin 32) (s : State) (hlive : (s.atTime at_).rxLive p = true)
    (hrun : 2 ≤ ((s.atTime at_).lpSt p).posRun) :
    ∃ t, exec (.eavReceived at_ p .inPlace) s = .next t ∧ t.bit (LP_STAT_trs_locked p) = true ∧
      keepsRegs s t [LP_STAT p] ∧ keepsMemory s t := by
  obtain ⟨x, hseen⟩ := State.eavSeen_inPlace hlive hrun
  have hexec : exec (.eavReceived at_ p .inPlace) s = _ := timed_of_eq (f := fun s => s.eavSeen p .inPlace) hseen
  have hspares : (s.atTime at_).Spares (Outside [LP_STAT p]) (((s.atTime at_).setLp p x).pb (LP_STAT_trs_locked p) true) :=
    ((s.atTime at_).setLp_spares p x).pb (f := LP_STAT_trs_locked p) (not_outside_of_mem (by simp)) true
  refine ⟨_, hexec, ?_, keepsRegs_of_spares hspares, keepsMemory_of_spares hspares⟩
  rw [State.ended_bit _ s (endsOn_of_inLp (inLp_add p (by decide) (by decide)))]
  exact State.bit_pb_same _ _ true (by simp) (by simp)

/-- An EAV that is missing while the flywheel runs is counted and flagged (R204). -/
theorem exec_eavReceived_missing (at_ : TT) (p : Fin 32) (s : State) (hlive : (s.atTime at_).rxLive p = true)
    (hlocked : (s.atTime at_).bit (LP_STAT_trs_locked p) = true) :
    ∃ t, exec (.eavReceived at_ p .missing) s = .next t ∧
      t.g (cnt16 (LP_TRS_ERR_CNT p)) = min (s.g (cnt16 (LP_TRS_ERR_CNT p)) + 1) 65535 ∧
      t.bit (LP_STICKY_trs_err p) = true ∧ keepsRegs s t [LP_TRS_ERR_CNT p, LP_STICKY p] ∧ keepsMemory s t := by
  obtain ⟨x, hseen⟩ := State.eavSeen_missing hlive hlocked
  have hexec : exec (.eavReceived at_ p .missing) s = _ := timed_of_eq (f := fun s => s.eavSeen p .missing) hseen
  have hspares : (s.atTime at_).Spares (Outside [LP_TRS_ERR_CNT p, LP_STICKY p])
      ((((s.atTime at_).inc (cnt16 (LP_TRS_ERR_CNT p))).pb (LP_STICKY_trs_err p) true).setLp p x) :=
    (((State.Spares.refl _).inc (f := cnt16 (LP_TRS_ERR_CNT p)) (not_outside_of_mem (by simp [cnt16]))).pb
      (f := LP_STICKY_trs_err p) (not_outside_of_mem (by simp)) true).trans (State.setLp_spares _ p x)
  refine ⟨_, hexec, ?_, ?_, keepsRegs_of_spares hspares, keepsMemory_of_spares hspares⟩
  · have hne : LP_STICKY p ≠ (cnt16 (LP_TRS_ERR_CNT p)).addr := by simp [cnt16]
    rw [State.ended_g _ s (endsOn_of_inLp (inLp_add p (by decide) (by decide))), State.setLp_g, ← State.atTime_g s at_]
    exact (State.g_of_rd (State.rd_p_ne _ hne _)).trans (State.g_inc_cnt16 _ _)
  · rw [State.ended_bit _ s (endsOn_of_inLp (inLp_add p (by decide) (by decide))), State.setLp_bit]
    exact State.bit_pb_same _ _ true (by simp) (by simp)

/-! ### Line errors -/

theorem State.errSecond_cases (s : State) (p line : Nat) : s.errSecond p line = s ∨ ∃ x svc d,
    x.aligned = (s.lpSt p).aligned ∧
      s.errSecond p line = ((s.setLp p x).inc (cnt16 (LP_ERR_SEC_CNT p))).eventNow 0x1A svc d := by
  unfold State.errSecond
  extract_lets sec x
  split
  · exact .inl rfl
  · exact .inr ⟨_, _, _, by rfl, rfl⟩

theorem State.errSecond_spares (s : State) (p line : Nat) : s.Spares (Outside [LP_ERR_SEC_CNT p]) (s.errSecond p line) := by
  obtain h | ⟨x, svc, d, -, h⟩ := s.errSecond_cases p line
  · rw [h]
    exact .refl s
  · rw [h]
    exact ((s.setLp_spares p x).inc (f := cnt16 (LP_ERR_SEC_CNT p)) (not_outside_of_mem (by simp [cnt16]))).trans
      (State.event_spares _ (by decide) svc d _)

theorem State.errSecond_aligned (s : State) (p line : Nat) : ((s.errSecond p line).lpSt p).aligned = (s.lpSt p).aligned := by
  obtain h | ⟨x, svc, d, hx, h⟩ := s.errSecond_cases p line
  · rw [h]
  · rw [h, State.eventNow, State.event_lpSt, ← hx]
    exact congrArg LpSt.aligned (s.setLp_lpSt p x)

/-- A line with a bad CRC is counted and flagged, a bad line number with it, and the line is noted (R205). -/
def State.lineErred (s : State) (p : Nat) (l : LineData) : State :=
  (((s.inc (cnt16 (LP_CRC_ERR_CNT p))).pb (LP_STICKY_crc_err p) true).when l.lnBad
    (fun s => s.inc (cnt16 (LP_LN_ERR_CNT p)))).wr (LP_ERR_LINE p) (BitVec.ofNat 32 l.number.toNat)

theorem State.lineErred_spares (s : State) (p : Nat) (l : LineData) :
    s.Spares (Outside [LP_CRC_ERR_CNT p, LP_LN_ERR_CNT p, LP_STICKY p, LP_ERR_LINE p]) (s.lineErred p l) :=
  ((((State.Spares.refl s).inc (f := cnt16 (LP_CRC_ERR_CNT p)) (not_outside_of_mem (by simp [cnt16]))).pb
    (f := LP_STICKY_crc_err p) (not_outside_of_mem (by simp)) true).when l.lnBad fun s => (State.Spares.refl s).inc
    (f := cnt16 (LP_LN_ERR_CNT p)) (not_outside_of_mem (by simp [cnt16]))).wr (not_outside_of_mem (by simp)) _

theorem State.lineErred_lpSt (s : State) (p : Nat) (l : LineData) (q : Nat) : (s.lineErred p l).lpSt q = s.lpSt q := by
  have hlp : (s.lineErred p l).lp = s.lp := by
    rw [State.lineErred, State.wr_lp, State.when]
    split <;> rfl
  rw [State.lpSt, State.lpSt, hlp]

theorem State.lineErred_shows (s : State) (p : Nat) (l : LineData) :
    (s.lineErred p l).g (cnt16 (LP_CRC_ERR_CNT p)) = min (s.g (cnt16 (LP_CRC_ERR_CNT p)) + 1) 65535 ∧
      (s.lineErred p l).bit (LP_STICKY_crc_err p) = true ∧ ((s.lineErred p l).rd (LP_ERR_LINE p)).toNat = l.number.toNat := by
  have hcounted {a : Nat} (hln : LP_LN_ERR_CNT p ≠ a) (hline : LP_ERR_LINE p ≠ a) :
      (s.lineErred p l).rd a = ((s.inc (cnt16 (LP_CRC_ERR_CNT p))).pb (LP_STICKY_crc_err p) true).rd a :=
    (State.rd_wr_ne _ hline _).trans (State.when_keeps (State.rd · a) _ l.lnBad _ (State.rd_inc_ne _ hln))
  refine ⟨?_, ?_, ?_⟩
  · have hne : LP_STICKY p ≠ LP_CRC_ERR_CNT p := by simp
    exact (State.g_of_rd ((hcounted (by simp [cnt16]) (by simp [cnt16])).trans (State.rd_p_ne _ hne _))).trans
      (State.g_inc_cnt16 s _)
  · rw [State.bit, State.g_of_rd (f := LP_STICKY_crc_err p) (hcounted (by simp) (by simp))]
    exact State.bit_pb_same _ _ true (by simp) (by simp)
  · rw [State.lineErred, State.rd_wr_same, BitVec.toNat_ofNat]
    exact Nat.mod_eq_of_lt (by have := l.number.isLt; omega)

/-- A line with a bad CRC that comes in while the port is not aligned is counted and not delivered (R205, R206). -/
theorem State.rxLine_of_unaligned {s : State} {p : Fin 32} {l : LineData} (hlive : s.rxLive p = true)
    (hrate : s.g (LP_STAT_rx_rate p) ≠ 1) (hcrc : l.crcBad = true) (hsync : s.bit (LP_RX_CTL_sync p) = true)
    (hunaligned : (s.lpSt p).aligned = false) :
    s.rxLine p l = (s.lineErred p l).errSecond p l.number.toNat := by
  have hctl : endsOn (LP_RX_CTL p) = false := endsOn_of_inLp (inLp_add p (by decide) (by decide))
  have hsync' : ((s.lineErred p l).errSecond p l.number.toNat).bit (LP_RX_CTL_sync p) = true :=
    ((State.errSecond_spares _ p _).bit ⟨hctl, by simp⟩).trans (((s.lineErred_spares p l).bit ⟨hctl, by simp⟩).trans hsync)
  have hunaligned' : (((s.lineErred p l).errSecond p l.number.toNat).lpSt p).aligned = false := by
    rw [State.errSecond_aligned, State.lineErred_lpSt, hunaligned]
  have hchecked : (s.g (LP_STAT_rx_rate p) != 1) = true := bne_iff_ne.mpr hrate
  have hplace : s.rxLine p l =
      if ((s.lineErred p l).errSecond p l.number.toNat).bit (LP_RX_CTL_sync p) &&
        !(((s.lineErred p l).errSecond p l.number.toNat).lpSt p).aligned then (s.lineErred p l).errSecond p l.number.toNat
      else ((s.lineErred p l).errSecond p l.number.toNat).rxPlace p l.number.toNat
        (((s.lineErred p l).errSecond p l.number.toNat).portSlices p l.slices) := by
    simp only [State.rxLine, State.lineErred, State.when, hlive, hchecked, hcrc, Bool.not_true, Bool.false_eq_true, if_false,
      Bool.true_and, Bool.true_or, if_true]
  rw [hplace, hsync', hunaligned']
  rfl

/-- A port that takes lines does not compare them with a pattern (R217). -/
theorem State.lineIn_of_live {s : State} {p : Nat} (hlive : s.rxLive p = true) (l : LineData) : s.lineIn p l = s.rxLine p l := by
  simp only [State.rxLive, Bool.and_eq_true, Bool.not_eq_true'] at hlive
  obtain ⟨-, hpattern⟩ := hlive
  rw [State.lineIn, if_neg]
  rw [Bool.and_assoc, hpattern, Bool.and_false]
  exact Bool.false_ne_true

/-- What a looping port carries changes its partner alone (R192). -/
theorem State.loopCarries_eq (s : State) (p : Nat) (l : LineData) :
    s.loopCarries p l = s ∨ ∃ x, s.loopCarries p l = s.setLp (partner p) x := by
  unfold State.loopCarries
  split
  · exact .inr ⟨_, rfl⟩
  · exact .inl rfl

theorem State.loopCarries_spares {P : Nat → Prop} (s : State) (p : Nat) (l : LineData) : s.Spares P (s.loopCarries p l) := by
  obtain h | ⟨x, h⟩ := s.loopCarries_eq p l
  · rw [h]
    exact .refl s
  · rw [h]
    exact s.setLp_spares _ x

theorem State.loopCarries_lpSt (s : State) (p : Nat) (l : LineData) : (s.loopCarries p l).lpSt p = s.lpSt p := by
  obtain h | ⟨x, h⟩ := s.loopCarries_eq p l
  · rw [h]
  · rw [h, State.setLp_lpSt_ne s (partner_ne p).symm]

theorem State.loopCarries_rxLive (s : State) (p : Nat) (l : LineData) : (s.loopCarries p l).rxLive p = s.rxLive p := by
  have hmode : (s.loopCarries p l).lpReceives p = s.lpReceives p := by
    rw [State.lpReceives, State.lpMode, State.loopCarries_lpSt]
    rfl
  rw [State.rxLive, hmode]
  obtain h | ⟨x, h⟩ := s.loopCarries_eq p l <;> rw [h] <;> rfl

theorem State.lineReceived_of_unaligned {s : State} {p : Fin 32} {l : LineData} (hlive : s.rxLive p = true)
    (hrate : s.g (LP_STAT_rx_rate p) ≠ 1) (hcrc : l.crcBad = true) (hsync : s.bit (LP_RX_CTL_sync p) = true)
    (hunaligned : (s.lpSt p).aligned = false) :
    (s.loopCarries p l).lineIn p l = ((s.loopCarries p l).lineErred p l).errSecond p l.number.toNat := by
  have hcarried : s.Spares (fun _ => True) (s.loopCarries p l) := s.loopCarries_spares p l
  have hlive' := (s.loopCarries_rxLive p l).trans hlive
  rw [State.lineIn_of_live hlive', State.rxLine_of_unaligned hlive' _ hcrc ((hcarried.bit trivial).trans hsync)]
  · rw [State.loopCarries_lpSt, hunaligned]
  · rw [hcarried.g trivial]
    exact hrate

theorem exec_lineReceived_of_unaligned (at_ : TT) (p : Fin 32) (l : LineData) (s : State)
    (hlive : (s.atTime at_).rxLive p = true) (hrate : (s.atTime at_).g (LP_STAT_rx_rate p) ≠ 1) (hcrc : l.crcBad = true)
    (hsync : (s.atTime at_).bit (LP_RX_CTL_sync p) = true) (hunaligned : ((s.atTime at_).lpSt p).aligned = false) :
    ∃ t, exec (.lineReceived at_ p l) s = .next t ∧
      t.g (cnt16 (LP_CRC_ERR_CNT p)) = min (s.g (cnt16 (LP_CRC_ERR_CNT p)) + 1) 65535 ∧
      t.bit (LP_STICKY_crc_err p) = true ∧ (t.rd (LP_ERR_LINE p)).toNat = l.number.toNat ∧
      keepsRegs s t [LP_CRC_ERR_CNT p, LP_LN_ERR_CNT p, LP_STICKY p, LP_ERR_LINE p, LP_ERR_SEC_CNT p] ∧ keepsMemory s t := by
  have hexec : exec (.lineReceived at_ p l) s = _ := timed_of_eq (f := fun s => (s.loopCarries p l).lineIn p l)
    (State.lineReceived_of_unaligned hlive hrate hcrc hsync hunaligned)
  have hcarried {P : Nat → Prop} : (s.atTime at_).Spares P ((s.atTime at_).loopCarries p l) :=
    (s.atTime at_).loopCarries_spares p l
  generalize (s.atTime at_).loopCarries p l = v at hexec hcarried
  have hkept {a : Nat} (ha : InLp a) (hne : a ≠ LP_ERR_SEC_CNT p) :=
    (State.ended_rd _ s (endsOn_of_inLp ha)).trans
      (((v.lineErred p l).errSecond_spares p l.number.toNat).rd a ⟨endsOn_of_inLp ha, by simpa using hne⟩)
  have hspares : (s.atTime at_).Spares
      (Outside [LP_CRC_ERR_CNT p, LP_LN_ERR_CNT p, LP_STICKY p, LP_ERR_LINE p, LP_ERR_SEC_CNT p]) _ :=
    hcarried.trans (((v.lineErred_spares p l).mono (outside_mono (by simp))).trans
      (((v.lineErred p l).errSecond_spares p l.number.toNat).mono (outside_mono (by simp))))
  obtain ⟨hcnt, hsticky, hnoted⟩ := v.lineErred_shows p l
  refine ⟨_, hexec, ?_, ?_, ?_, keepsRegs_of_spares hspares, keepsMemory_of_spares hspares⟩
  · rw [State.g_of_rd (f := cnt16 (LP_CRC_ERR_CNT p)) (hkept (inLp_add p (by decide) (by decide)) (by simp [cnt16])), hcnt,
      (hcarried (P := fun _ => True)).g trivial, State.atTime_g]
  · rw [State.bit, State.g_of_rd (f := LP_STICKY_crc_err p) (hkept (inLp_add p (by decide) (by decide)) (by simp))]
    exact hsticky
  · rw [hkept (a := LP_ERR_LINE p) (inLp_add p (by decide) (by decide)) (by simp), hnoted]

/-! ### Frame starts -/

/-- A frame start is counted, its rate and eye are measured, and its format is shown (R208, R218). -/
def State.frameMeasured (s : State) (p : Nat) (f : RxFrame) : State :=
  ((((s.incWrap (word (LP_RX_FRAME_CNT p))).wr (LP_RX_FREQ p) f.freq).wr (LP_EYE p) (f.eye.zeroExtend 32)).pb
    (LP_RX_FMT_level_b p) f.levelB).p (LP_RX_FMT_format p) (if (formatOf f.format.toNat).isSome then f.format.toNat else 0)

theorem State.frameSeen_of_live {s : State} {p : Nat} (hlive : s.rxLive p = true) (f : RxFrame) :
    s.frameSeen p f = ((s.frameMeasured p f).rxAlign p f.offsetNs.toInt).rxPid p f.pid := by
  rw [State.frameSeen, if_neg (by simp [hlive])]
  rfl

theorem State.frameMeasured_spares (s : State) (p : Nat) (f : RxFrame) :
    s.Spares (Outside [LP_RX_FRAME_CNT p, LP_RX_FREQ p, LP_EYE p, LP_RX_FMT p]) (s.frameMeasured p f) :=
  (((((State.Spares.refl s).incWrap (f := word (LP_RX_FRAME_CNT p)) (not_outside_of_mem (by simp [word]))).wr
    (a := LP_RX_FREQ p) (not_outside_of_mem (by simp)) _).wr (a := LP_EYE p) (not_outside_of_mem (by simp)) _).pb
    (f := LP_RX_FMT_level_b p) (not_outside_of_mem (by simp)) _).p (f := LP_RX_FMT_format p) (not_outside_of_mem (by simp)) _

theorem State.frameMeasured_shows (s : State) (p : Nat) (f : RxFrame) :
    (s.frameMeasured p f).rd (LP_RX_FRAME_CNT p) = s.rd (LP_RX_FRAME_CNT p) + 1 ∧
      (s.frameMeasured p f).rd (LP_RX_FREQ p) = f.freq ∧ (s.frameMeasured p f).rd (LP_EYE p) = f.eye.zeroExtend 32 ∧
      ((formatOf f.format.toNat).isSome = true → (s.frameMeasured p f).g (LP_RX_FMT_format p) = f.format.toNat) := by
  have hfmt {a : Nat} (hne : LP_RX_FMT p ≠ a) : (s.frameMeasured p f).rd a =
      (((s.incWrap (word (LP_RX_FRAME_CNT p))).wr (LP_RX_FREQ p) f.freq).wr (LP_EYE p) (f.eye.zeroExtend 32)).rd a :=
    (State.rd_p_ne _ hne _).trans (State.rd_p_ne _ hne _)
  refine ⟨?_, ?_, ?_, fun hknown => ?_⟩
  · rw [hfmt (by simp), State.rd_wr_ne _ (by simp), State.rd_wr_ne _ (by simp), State.rd_incWrap_word]
  · rw [hfmt (by simp), State.rd_wr_ne _ (by simp), State.rd_wr_same]
  · rw [hfmt (by simp), State.rd_wr_same]
  · rw [State.frameMeasured, if_pos hknown, State.g_p_same _ _ _ (by simp) (by simp)]
    exact Nat.mod_eq_of_lt f.format.isLt

/-- Where the port keeps to its raster the offset of a frame start is shown, and judged by flags and a count alone
(R207). -/
theorem State.rxAlign_spares_of_sync {s : State} {p : Nat} (hsync : s.bit (LP_RX_CTL_sync p) = true) (off : Int) :
    (s.wr (LP_RX_ALIGN p) (sword off)).Spares (Outside [LP_STAT p, LP_MISALIGN_CNT p, LP_STICKY p]) (s.rxAlign p off) := by
  rw [State.rxAlign, if_neg (by simp [hsync])]
  extract_lets shown x inside outside missed
  have hset {t : State} (h : shown.Spares (Outside [LP_STAT p, LP_MISALIGN_CNT p, LP_STICKY p]) t) (x : LpSt) :=
    h.trans (t.setLp_spares p x)
  have hshown := State.Spares.refl (P := Outside [LP_STAT p, LP_MISALIGN_CNT p, LP_STICKY p]) shown
  have hstat : ¬ Outside [LP_STAT p, LP_MISALIGN_CNT p, LP_STICKY p] (LP_STAT p) := not_outside_of_mem (by simp)
  split_ifs
  · exact hset hshown _
  · exact ((((hset hshown _).pb (f := LP_STAT_misaligned p) hstat true).inc (f := cnt16 (LP_MISALIGN_CNT p))
      (not_outside_of_mem (by simp [cnt16]))).pb (f := LP_STICKY_misalign p) (not_outside_of_mem (by simp)) true).trans
      (State.event_spares _ (by decide) _ _ _)
  · exact hshown
  · exact hset hshown _
  · exact (hset hshown _).pb (f := LP_STAT_misaligned p) hstat false

theorem State.rxAlign_spares (s : State) (p : Nat) (off : Int) :
    s.Spares (Outside [LP_RX_ALIGN p, LP_STAT p, LP_MISALIGN_CNT p, LP_STICKY p]) (s.rxAlign p off) := by
  cases hsync : s.bit (LP_RX_CTL_sync p) with
  | false =>
    rw [State.rxAlign, if_pos (by simp [hsync])]
    exact .refl s
  | true =>
    exact ((State.Spares.refl s).wr (not_outside_of_mem (by simp)) _).trans
      ((State.rxAlign_spares_of_sync hsync off).mono (outside_mono (by simp)))

/-- The payload ID changes its own registers and flags (R208). -/
theorem State.rxPid_spares (s : State) (p : Nat) (pid : Option W32) :
    s.Spares (Outside [LP_STAT p, LP_RX_PID p, LP_PID_CHANGE_CNT p, LP_STICKY p]) (s.rxPid p pid) := by
  have hstat : ¬ Outside [LP_STAT p, LP_RX_PID p, LP_PID_CHANGE_CNT p, LP_STICKY p] (LP_STAT p) :=
    not_outside_of_mem (by simp)
  cases pid with
  | none =>
    simp only [State.rxPid]
    split_ifs
    · exact (s.setLp_spares p _).pb (f := LP_STAT_pid_valid p) hstat false
    · exact s.setLp_spares p _
  | some v =>
    have hvalid (x : LpSt) := (s.setLp_spares p x).pb (f := LP_STAT_pid_valid p) hstat true
    simp only [State.rxPid]
    generalize (if (s.lpSt p).pidSeen = some v then min ((s.lpSt p).pidRun + 1) 2 else 1) = run
    split_ifs
    · exact s.setLp_spares p _
    · exact ((((hvalid _).wr (a := LP_RX_PID p) (not_outside_of_mem (by simp)) v).inc (f := cnt16 (LP_PID_CHANGE_CNT p))
        (not_outside_of_mem (by simp [cnt16]))).pb (f := LP_STICKY_pid_change p) (not_outside_of_mem (by simp)) true).trans
        (State.event_spares _ (by decide) _ _ _)
    · exact hvalid _

/-- A frame start of a port that takes lines is counted and measured, and under the port's raster its offset is shown
(R207, R208, R218). -/
theorem State.frameSeen_shows {s : State} {p : Fin 32} (hlive : s.rxLive p = true) (f : RxFrame) :
    (s.frameSeen p f).rd (LP_RX_FRAME_CNT p) = s.rd (LP_RX_FRAME_CNT p) + 1 ∧
      (s.frameSeen p f).rd (LP_RX_FREQ p) = f.freq ∧ (s.frameSeen p f).rd (LP_EYE p) = f.eye.zeroExtend 32 ∧
      ((formatOf f.format.toNat).isSome = true → (s.frameSeen p f).g (LP_RX_FMT_format p) = f.format.toNat) ∧
      (s.bit (LP_RX_CTL_sync p) = true → (s.frameSeen p f).rd (LP_RX_ALIGN p) = f.offsetNs) := by
  have hends {b : Nat} (h1 : 0x100000 ≤ b) (h2 : b < 0x101000) : endsOn (b + p * 0x1000) = false :=
    endsOn_of_inLp (inLp_add p h1 h2)
  have halign := (s.frameMeasured p f).rxAlign_spares p f.offsetNs.toInt
  have hpid := ((s.frameMeasured p f).rxAlign p f.offsetNs.toInt).rxPid_spares p f.pid
  have hkept {a : Nat} (h : Outside [LP_RX_ALIGN p, LP_STAT p, LP_MISALIGN_CNT p, LP_STICKY p, LP_RX_PID p, LP_PID_CHANGE_CNT p] a) :
      (s.frameSeen p f).rd a = (s.frameMeasured p f).rd a := by
    rw [State.frameSeen_of_live hlive, hpid.rd a (outside_mono (by simp) a h), halign.rd a (outside_mono (by simp) a h)]
  obtain ⟨hcnt, hfreq, heye, hformat⟩ := s.frameMeasured_shows p f
  refine ⟨?_, ?_, ?_, fun hknown => ?_, fun hsync => ?_⟩
  · rw [hkept ⟨hends (by decide) (by decide), by simp⟩, hcnt]
  · rw [hkept ⟨hends (by decide) (by decide), by simp⟩, hfreq]
  · rw [hkept ⟨hends (by decide) (by decide), by simp⟩, heye]
  · exact (State.g_of_rd (hkept ⟨hends (by decide) (by decide), by simp⟩)).trans (hformat hknown)
  · have hsync' : (s.frameMeasured p f).bit (LP_RX_CTL_sync p) = true :=
      ((s.frameMeasured_spares p f).bit ⟨hends (by decide) (by decide), by simp⟩).trans hsync
    rw [State.frameSeen_of_live hlive, hpid.rd _ ⟨hends (by decide) (by decide), by simp⟩,
      (State.rxAlign_spares_of_sync hsync' f.offsetNs.toInt).rd _ ⟨hends (by decide) (by decide), by simp⟩,
      State.rd_wr_same, sword, BitVec.ofInt_toInt]

theorem State.frameSeen_spares {s : State} {p : Nat} (hlive : s.rxLive p = true) (f : RxFrame) :
    s.Spares (Outside [LP_RX_FRAME_CNT p, LP_RX_FREQ p, LP_EYE p, LP_RX_FMT p, LP_RX_ALIGN p, LP_STAT p, LP_STICKY p,
      LP_MISALIGN_CNT p, LP_RX_PID p, LP_PID_CHANGE_CNT p]) (s.frameSeen p f) := by
  rw [State.frameSeen_of_live hlive]
  exact (((s.frameMeasured_spares p f).mono (outside_mono (by simp))).trans
    ((State.rxAlign_spares _ p _).mono (outside_mono (by simp)))).trans ((State.rxPid_spares _ p _).mono (outside_mono (by simp)))

theorem exec_rxFrameStart_of_live (at_ : TT) (p : Fin 32) (f : RxFrame) (s : State) (hlive : (s.atTime at_).rxLive p = true) :
    ∃ t, exec (.rxFrameStart at_ p f) s = .next t ∧ t.rd (LP_RX_FRAME_CNT p) = s.rd (LP_RX_FRAME_CNT p) + 1 ∧
      t.rd (LP_RX_FREQ p) = f.freq ∧ t.rd (LP_EYE p) = f.eye.zeroExtend 32 ∧
      ((formatOf f.format.toNat).isSome = true → t.g (LP_RX_FMT_format p) = f.format.toNat) ∧
      ((s.atTime at_).bit (LP_RX_CTL_sync p) = true → t.rd (LP_RX_ALIGN p) = f.offsetNs) ∧
      keepsRegs s t [LP_RX_FRAME_CNT p, LP_RX_FREQ p, LP_EYE p, LP_RX_FMT p, LP_RX_ALIGN p, LP_STAT p, LP_STICKY p,
        LP_MISALIGN_CNT p, LP_RX_PID p, LP_PID_CHANGE_CNT p] ∧ keepsMemory s t := by
  have hexec : exec (.rxFrameStart at_ p f) s = .next (((s.atTime at_).frameSeen p f).ended s) := rfl
  have hspares := State.frameSeen_spares hlive f
  have hkept {b : Nat} (h1 : 0x100000 ≤ b) (h2 : b < 0x101000) :=
    State.ended_rd ((s.atTime at_).frameSeen p f) s (endsOn_of_inLp (inLp_add p h1 h2))
  obtain ⟨hcnt, hfreq, heye, hformat, halign⟩ := State.frameSeen_shows hlive f
  refine ⟨_, hexec, ?_, ?_, ?_, fun hknown => ?_, fun hsync => ?_, keepsRegs_of_spares hspares, keepsMemory_of_spares hspares⟩
  · rw [hkept (by decide) (by decide), hcnt, State.atTime_rd]
  · rw [hkept (by decide) (by decide), hfreq]
  · rw [hkept (by decide) (by decide), heye]
  · exact (State.g_of_rd (hkept (by decide) (by decide))).trans (hformat hknown)
  · rw [hkept (by decide) (by decide), halign hsync]

end Sys2Proof.Machine

/-! ### The obligation -/

/-- Settles O38: lock and its loss, the third EAV in its place and one that is missing, a line with a bad CRC, and a frame
start. -/
theorem linePortsReceive : Obligations.LinePortsReceive :=
  ⟨exec_cdrLock_of_searching, exec_cdrLockLoss_of_idle,
    fun at_ p s hlive => ⟨exec_eavReceived_inPlace at_ p s hlive, exec_eavReceived_missing at_ p s hlive⟩,
    exec_lineReceived_of_unaligned, exec_rxFrameStart_of_live⟩
end

section
/-! Over-range episodes of the cells, the marks of their neighbours in the quad, and stale trims (R234, R236, R240). -/

open Sys2Proof Sys2Proof.Machine

namespace Sys2Proof.Machine

/-! ### Registers of the cells and chains -/

/-- A register outside a list. -/
abbrev Off (l : List Nat) (a : Nat) : Prop := a ∉ l

theorem not_off_of_mem {l : List Nat} {a : Nat} (h : a ∈ l) : ¬ Off l a := fun ho => ho h

theorem State.Spares.off_mono {s t : State} {l l' : List Nat} (h : s.Spares (Off l) t) (hl : l ⊆ l') : s.Spares (Off l') t :=
  h.mono fun _ ha hmem => ha (hl hmem)

theorem keepsRegs_of_off {s u : State} {at_ : TT} {l : List Nat} (h : (s.atTime at_).Spares (Off l) u) :
    keepsRegs s (u.ended s) l := keepsRegs_of_spares (h.mono fun _ ha => ha.2)

theorem State.Spares.raise {P : Nat → Prop} {s t : State} (h : s.Spares P t) {f : Fld} (hf : ¬ P f.addr) (v : Nat) :
    s.Spares P (t.raise f v) := h.p hf _

theorem State.Spares.setCell {P : Nat → Prop} {s t : State} (h : s.Spares P t) (c : Nat) (x : CellSt) :
    s.Spares P (t.setCell c x) := h.of_cells rfl rfl

theorem State.Spares.drawIn {P : Nat → Prop} {s t : State} (h : s.Spares P t) (lo hi : Nat) :
    s.Spares P (t.drawIn lo hi).2 := h.of_cells rfl rfl

/-- The ending of a command leaves the registers of the cells and chains. -/
theorem endsOn_of_analogue {a : Nat} (h1 : 0x200000 ≤ a) (h2 : a < 0x400000) : endsOn a = false := by
  have hstate : [SYS_STATE, SYS_STATE_TT_LO, SYS_STATE_TT_LO + 4, SYS_STATE_CHANGE_CNT, BAT_KEEP_STAT].contains a = false := by
    rw [List.contains_eq_mem, decide_eq_false_iff_not]
    simp only [List.mem_cons, List.not_mem_nil, or_false, SYS_STATE, SYS_STATE_TT_LO, SYS_STATE_CHANGE_CNT, BAT_KEEP_STAT]
    omega
  have hpins : (List.range 4).any (fun b => a == GP_CONFLICT b || a == GP_CONFLICT_CNT b) = false := by
    simp only [List.any_eq_false, List.mem_range, Bool.or_eq_true, beq_iff_eq, GP_CONFLICT, GP_CONFLICT_CNT]
    omega
  have hlog : decide (0xA00000 ≤ a) = false := decide_eq_false (by omega)
  rw [endsOn, hstate, hpins, hlog, Bool.false_and]
  rfl

/-- The ending of a command leaves a cell's registers, which lie 0x400 apart. -/
theorem endsOn_cellReg (c : Fin 48) {b : Nat} (h1 : 0x200000 ≤ b) (h2 : b < 0x200400) : endsOn (b + c * 0x400) = false :=
  endsOn_of_analogue (by omega) (by omega)

/-- The addresses of one cell's registers. -/
def InCell (c a : Nat) : Prop := 0x200000 + c * 0x400 ≤ a ∧ a < 0x200400 + c * 0x400

theorem inCell_add (c : Nat) {b : Nat} (h1 : 0x200000 ≤ b) (h2 : b < 0x200400) : InCell c (b + c * 0x400) := by
  unfold InCell
  omega

/-- No register of one cell is one of another. -/
theorem off_of_inCell {c d a : Nat} {l : List Nat} (hl : ∀ x ∈ l, InCell c x) (ha : InCell d a) (h : d ≠ c) : Off l a := by
  intro hmem
  have hc := hl a hmem
  unfold InCell at ha hc
  omega

theorem State.ended_cellSt (s old : State) (c : Nat) : (s.ended old).cellSt c = s.cellSt c := by
  rw [State.cellSt, State.cellSt, State.ended_cell]

theorem State.bit_of_rd {s t : State} {f : Fld} (h : t.rd f.addr = s.rd f.addr) : t.bit f = s.bit f := by
  rw [State.bit, State.bit, State.g_of_rd h]

/-! ### Marks -/

theorem mem_quadOthers {c d : Nat} : d ∈ quadOthers c ↔ d / 4 = c / 4 ∧ d ≠ c := by
  simp only [quadOthers, List.mem_filter, List.mem_map, List.mem_range, bne_iff_ne]
  constructor
  · rintro ⟨⟨i, hi, rfl⟩, hne⟩
    exact ⟨by omega, hne⟩
  · rintro ⟨hquad, hne⟩
    exact ⟨⟨d % 4, by omega, by omega⟩, hne⟩

/-- A mark that begins is noted for the clamp's line alone (R233). -/
theorem State.markBegins_cellSt (s : State) (c d : Nat) :
    ∃ m, (s.markBegins c).cellSt d = { s.cellSt d with lineMarked := m } := by
  unfold State.markBegins
  split
  · by_cases h : d = c
    · subst h
      exact ⟨true, s.setCell_cellSt d _⟩
    · exact ⟨_, s.setCell_cellSt_ne h _⟩
  · exact ⟨_, rfl⟩

theorem State.Spares.markBegins {P : Nat → Prop} {s t : State} (h : s.Spares P t) (c : Nat) : s.Spares P (t.markBegins c) := by
  unfold State.markBegins
  split
  · exact h.setCell c _
  · exact h

theorem State.suspectBegins_cellSt (s : State) (c d : Nat) :
    ∃ m, (s.suspectBegins c).cellSt d = { s.cellSt d with lineMarked := m } := by
  unfold State.suspectBegins
  split
  · exact ⟨_, rfl⟩
  · exact State.markBegins_cellSt _ c d

/-- The registers that a SUSPECT interval changes as it begins (R236). -/
abbrev suspectRegs (c : Nat) : List Nat := [AC_STAT c, AC_STICKY c, AC_SUSPECT_CNT c]

theorem suspectRegs_inCell (c : Nat) : ∀ x ∈ suspectRegs c, InCell c x := by
  intro x hx
  simp only [suspectRegs, List.mem_cons, List.not_mem_nil, or_false] at hx
  obtain rfl | rfl | rfl := hx <;> exact inCell_add c (by decide) (by decide)

theorem State.suspectBegins_spares (s : State) (c : Nat) : s.Spares (Off (suspectRegs c)) (s.suspectBegins c) := by
  unfold State.suspectBegins
  split
  · exact .refl s
  · exact ((((State.Spares.refl s).pb (f := AC_STAT_suspect_now c) (not_off_of_mem (by simp)) true).pb
      (f := AC_STICKY_suspect c) (not_off_of_mem (by simp)) true).inc (f := cnt16 (AC_SUSPECT_CNT c))
      (not_off_of_mem (by simp [cnt16]))).markBegins c

theorem State.suspectBegins_of_set {s : State} {c : Nat} (h : s.bit (AC_STAT_suspect_now c) = true) : s.suspectBegins c = s := by
  rw [State.suspectBegins, if_pos h]

/-- Of the cell's status the flag of the interval alone changes. -/
theorem State.suspectBegins_stat {s : State} {c : Nat} (h : s.bit (AC_STAT_suspect_now c) = false) :
    (s.suspectBegins c).rd (AC_STAT c) = (s.pb (AC_STAT_suspect_now c) true).rd (AC_STAT c) := by
  rw [State.suspectBegins, if_neg (by simp [h])]
  have hlater : (s.pb (AC_STAT_suspect_now c) true).Spares (· = AC_STAT c)
      ((((s.pb (AC_STAT_suspect_now c) true).pb (AC_STICKY_suspect c) true).inc (cnt16 (AC_SUSPECT_CNT c))).markBegins c) :=
    (((State.Spares.refl _).pb (f := AC_STICKY_suspect c) (by simp) true).inc (f := cnt16 (AC_SUSPECT_CNT c))
      (by simp [cnt16])).markBegins c
  exact hlater.rd _ rfl

theorem State.suspectBegins_bit (s : State) (c : Nat) : (s.suspectBegins c).bit (AC_STAT_suspect_now c) = true := by
  cases h : s.bit (AC_STAT_suspect_now c) with
  | true => rw [State.suspectBegins_of_set h, h]
  | false =>
    rw [State.bit, State.g_of_rd (State.suspectBegins_stat h)]
    exact State.bit_pb_same s _ true (by simp) (by simp)

/-- The other fields of the cell's status stay. -/
theorem State.suspectBegins_g (s : State) (c : Nat) {hi lo : Nat} (hlo : 2 < lo) (hhi : hi < 32) :
    (s.suspectBegins c).g ⟨AC_STAT c, hi, lo⟩ = s.g ⟨AC_STAT c, hi, lo⟩ := by
  cases h : s.bit (AC_STAT_suspect_now c) with
  | true => rw [State.suspectBegins_of_set h]
  | false =>
    rw [State.g_of_rd (State.suspectBegins_stat h)]
    exact State.g_p_ne s _ _ _ (by simp) hhi (.inr (.inr hlo))

/-- An interval that is running goes on. -/
theorem State.suspectBegins_bit_mono {s : State} (c : Nat) {d : Nat} (h : s.bit (AC_STAT_suspect_now d) = true) :
    (s.suspectBegins c).bit (AC_STAT_suspect_now d) = true := by
  by_cases hd : d = c
  · exact hd ▸ s.suspectBegins_bit d
  · exact ((s.suspectBegins_spares c).bit (f := AC_STAT_suspect_now d)
      (off_of_inCell (suspectRegs_inCell c) (inCell_add d (by decide) (by decide)) hd)).trans h

theorem not_mem_quadOthers (c : Nat) : c ∉ quadOthers c := fun h => (mem_quadOthers.mp h).2 rfl

/-- Each of the cells that a repetition marks shows its interval. -/
theorem State.each_suspectBegins_bit (l : List Nat) (s : State) {d : Nat}
    (h : d ∈ l ∨ s.bit (AC_STAT_suspect_now d) = true) :
    (s.each l fun s d => s.suspectBegins d).bit (AC_STAT_suspect_now d) = true := by
  induction l generalizing s with
  | nil => exact h.resolve_left (List.not_mem_nil)
  | cons e l ih =>
    refine ih (s.suspectBegins e) ?_
    obtain h | h := h
    · obtain rfl | h := List.mem_cons.mp h
      · exact .inr (s.suspectBegins_bit d)
      · exact .inl h
    · exact .inr (State.suspectBegins_bit_mono e h)

/-! ### Over-range episodes -/

/-- The episode of a cell is counted and shown, with its instant (R234). -/
def State.ovrFlagged (s : State) (c : Nat) : State :=
  let s := ((s.pb (AC_STICKY_ovr c) true).pb (AC_STAT_ovr_now c) true).inc (cnt16 (AC_OVR_CNT c))
  (s.wr64 (AC_OVR_TT_LO c) s.clock.ns).wr (AC_OVR_LEN c) 0

/-- What an episode shows at its own cell as it begins (R234). -/
def State.ovrShown (s : State) (c : Nat) : State :=
  (s.setCell c { s.cellSt c with ovrFrom := some s.now }).ovrFlagged c

/-- The peak of the episode is kept, and its mark spoils the clamp's line (R233, R234). -/
def State.peakShown (s : State) (c : Nat) : State :=
  ((s.drawIn 32768 65535).2.raise (cnt16 (AC_PEAK c)) (s.drawIn 32768 65535).1).markBegins c

/-- The neighbours that an episode marks (R236). -/
def State.neighbours (s : State) (c : Nat) : List Nat := (quadOthers c).filter (fun d => s.cellUp d && s.cellAdc d)

/-- The registers that an episode changes at its own cell as it begins. -/
abbrev ovrRegs (c : Nat) : List Nat :=
  [AC_STAT c, AC_STICKY c, AC_OVR_CNT c, AC_OVR_TT_LO c, AC_OVR_TT_LO c + 4, AC_OVR_LEN c, AC_PEAK c]

theorem ovrRegs_inCell (c : Nat) : ∀ x ∈ ovrRegs c, InCell c x := by
  intro x hx
  simp only [ovrRegs, List.mem_cons, List.not_mem_nil, or_false, AC_STAT, AC_STICKY, AC_OVR_CNT, AC_OVR_TT_LO, AC_OVR_LEN,
    AC_PEAK] at hx
  unfold InCell
  omega

theorem State.ovrShown_spares (s : State) (c : Nat) : s.Spares (Off (ovrRegs c)) (s.ovrShown c) :=
  ((((((State.Spares.refl s).setCell c _).pb (f := AC_STICKY_ovr c) (not_off_of_mem (by simp)) true).pb
    (f := AC_STAT_ovr_now c) (not_off_of_mem (by simp)) true).inc (f := cnt16 (AC_OVR_CNT c))
    (not_off_of_mem (by simp [cnt16]))).wr (a := AC_OVR_TT_LO c) (not_off_of_mem (by simp)) _).wr
    (a := AC_OVR_TT_LO c + 4) (not_off_of_mem (by simp)) _ |>.wr (a := AC_OVR_LEN c) (not_off_of_mem (by simp)) 0

theorem State.ovrFlagged_shows (s : State) (c : Nat) :
    (s.ovrFlagged c).bit (AC_STAT_ovr_now c) = true ∧ (s.ovrFlagged c).bit (AC_STICKY_ovr c) = true ∧
      (s.ovrFlagged c).rd64 (AC_OVR_TT_LO c) = s.clock.ns ∧
      (s.ovrFlagged c).g (cnt16 (AC_OVR_CNT c)) = min (s.g (cnt16 (AC_OVR_CNT c)) + 1) 65535 := by
  have hhigh : AC_OVR_TT_LO c + 4 = AC_OVR_TT_HI c := Nat.add_right_comm _ _ _
  have htimes (t : State) (v : BitVec 64) : t.Spares (Off [AC_OVR_TT_LO c, AC_OVR_TT_HI c, AC_OVR_LEN c])
      ((t.wr64 (AC_OVR_TT_LO c) v).wr (AC_OVR_LEN c) 0) :=
    (((State.Spares.refl t).wr (a := AC_OVR_TT_LO c) (not_off_of_mem (by simp)) _).wr
      (a := AC_OVR_TT_LO c + 4) (not_off_of_mem (by simp [hhigh])) _).wr (a := AC_OVR_LEN c) (not_off_of_mem (by simp)) 0
  have hcount (t : State) : t.Spares (Off [AC_OVR_CNT c]) (t.inc (cnt16 (AC_OVR_CNT c))) :=
    (State.Spares.refl t).inc (not_off_of_mem (by simp [cnt16]))
  have hnow (t : State) : t.Spares (Off [AC_STAT c]) (t.pb (AC_STAT_ovr_now c) true) :=
    (State.Spares.refl t).pb (not_off_of_mem (by simp)) true
  have hsticky : s.Spares (Off [AC_STICKY c]) (s.pb (AC_STICKY_ovr c) true) :=
    (State.Spares.refl s).pb (not_off_of_mem (by simp)) true
  refine ⟨?_, ?_, ?_, ?_⟩
  · rw [State.ovrFlagged, (htimes _ _).bit (by simp [Off]), (hcount _).bit (by simp [Off])]
    exact State.bit_pb_same _ _ true (by simp) (by simp)
  · rw [State.ovrFlagged, (htimes _ _).bit (by simp [Off]), (hcount _).bit (by simp [Off]), (hnow _).bit (by simp [Off])]
    exact State.bit_pb_same _ _ true (by simp) (by simp)
  · have hhigh' : AC_OVR_LEN c ≠ AC_OVR_TT_LO c + 4 := by simp [hhigh]
    refine (State.rd64_congr (State.rd_wr_ne _ (by simp) _) (State.rd_wr_ne _ hhigh' _)).trans ?_
    exact State.rd64_wr64 _ _ _
  · rw [State.ovrFlagged, (htimes _ _).g (by simp [Off, cnt16]), State.g_inc_cnt16, (hnow _).g (by simp [Off, cnt16]),
      hsticky.g (by simp [Off, cnt16])]

theorem State.ovrShown_shows (s : State) (c : Nat) :
    (s.ovrShown c).bit (AC_STAT_ovr_now c) = true ∧ (s.ovrShown c).bit (AC_STICKY_ovr c) = true ∧
      (s.ovrShown c).rd64 (AC_OVR_TT_LO c) = s.clock.ns ∧
      (s.ovrShown c).g (cnt16 (AC_OVR_CNT c)) = min (s.g (cnt16 (AC_OVR_CNT c)) + 1) 65535 :=
  State.ovrFlagged_shows _ c

theorem State.peakShown_spares (s : State) (c : Nat) : s.Spares (Off [AC_PEAK c]) (s.peakShown c) :=
  (((State.Spares.refl s).drawIn 32768 65535).raise (f := cnt16 (AC_PEAK c)) (not_off_of_mem (by simp [cnt16])) _).markBegins c

/-- The cell's own state after an episode began: the episode runs, and a mark may be noted. -/
theorem State.ovrMarked_cellSt (s : State) (c d : Nat) : ∃ m, (((s.ovrShown c).peakShown c).cellSt d) =
    { (s.setCell c { s.cellSt c with ovrFrom := some s.now }).cellSt d with lineMarked := m } :=
  State.markBegins_cellSt _ c d

/-- An episode that begins is shown, and begins the intervals of the neighbours that convert (R234, R236). -/
theorem State.ovrBegin_of_up {s : State} {c : Nat} (hup : s.cellUp c = true) (hadc : s.cellAdc c = true)
    (hnone : (s.cellSt c).ovrFrom = none) :
    s.ovrBegin c = ((s.ovrShown c).peakShown c).each (s.neighbours c) (fun s d => s.suspectBegins d) := by
  have hbegin : s.ovrBegin c = ((s.ovrShown c).peakShown c).each (((s.ovrShown c).peakShown c).neighbours c)
      (fun s d => s.suspectBegins d) := by
    rw [State.ovrBegin, hup, hadc, hnone]
    rfl
  have hspares : s.Spares (Off (ovrRegs c)) ((s.ovrShown c).peakShown c) :=
    (s.ovrShown_spares c).trans ((State.peakShown_spares _ c).off_mono (by simp))
  have hsame : ((s.ovrShown c).peakShown c).neighbours c = s.neighbours c := by
    refine List.filter_congr fun d hd => ?_
    obtain ⟨-, hne⟩ := mem_quadOthers.mp hd
    obtain ⟨m, hcell⟩ := s.ovrMarked_cellSt c d
    rw [State.setCell_cellSt_ne s hne] at hcell
    have hpwr : ((s.ovrShown c).peakShown c).pwr = s.pwr := by
      unfold State.peakShown State.markBegins
      split <;> rfl
    simp only [State.cellUp, State.cellAdc, State.isReady, State.res, State.dev, hpwr, hcell]
    have hreg {b : Nat} (h1 : 0x200000 ≤ b) (h2 : b < 0x200400) : Off (ovrRegs c) (b + d * 0x400) :=
      off_of_inCell (ovrRegs_inCell c) (inCell_add d h1 h2) hne
    rw [hspares.bit (f := AC_CTL_enable d) (hreg (by decide) (by decide)),
      hspares.bit (f := AC_STAT_dir d) (hreg (by decide) (by decide))]
  rw [hbegin, hsame]

/-- The intervals that begin leave the registers of the cell whose episode it is. -/
theorem cellReg_off_others (c : Nat) {b : Nat} (h1 : 0x200000 ≤ b) (h2 : b < 0x200400) :
    b + c * 0x400 ∉ (quadOthers c).flatMap suspectRegs := by
  simp only [List.mem_flatMap, not_exists, not_and]
  intro d hd
  obtain ⟨-, hne⟩ := mem_quadOthers.mp hd
  exact off_of_inCell (suspectRegs_inCell d) (inCell_add c h1 h2) (Ne.symm hne)

theorem exec_overRangeBegin_of_up (at_ : TT) (c : Fin 48) (s : State) (hup : (s.atTime at_).cellUp c = true)
    (hadc : (s.atTime at_).cellAdc c = true) (hnone : ((s.atTime at_).cellSt c).ovrFrom = none) :
    ∃ t, exec (.overRangeBegin at_ c) s = .next t ∧ (t.cellSt c).ovrFrom = some (s.atTime at_).now ∧
      t.bit (AC_STAT_ovr_now c) = true ∧ t.bit (AC_STICKY_ovr c) = true ∧
      t.rd64 (AC_OVR_TT_LO c) = (s.atTime at_).clock.ns ∧
      t.g (cnt16 (AC_OVR_CNT c)) = min (s.g (cnt16 (AC_OVR_CNT c)) + 1) 65535 ∧
      (∀ d < 48, d / 4 = c.val / 4 → d ≠ c.val → (s.atTime at_).cellUp d = true → (s.atTime at_).cellAdc d = true →
        t.bit (AC_STAT_suspect_now d) = true) ∧
      keepsRegs s t (ovrRegs c ++ (quadOthers c).flatMap suspectRegs) ∧ keepsMemory s t := by
  set u := s.atTime at_ with hu
  have hexec : exec (.overRangeBegin at_ c) s = .next ((u.ovrBegin c).ended s) := rfl
  rw [State.ovrBegin_of_up hup hadc hnone] at hexec
  set v := (u.ovrShown c).peakShown c with hv
  set w := v.each (u.neighbours c) fun s d => s.suspectBegins d with hw
  have hothers : v.Spares (Off ((quadOthers c).flatMap suspectRegs)) w := by
    refine State.Spares.each_mem (.refl v) fun d hd s => (s.suspectBegins_spares d).off_mono fun a ha => ?_
    exact List.mem_flatMap.mpr ⟨d, (List.mem_filter.mp hd).1, ha⟩
  have hpeak : (u.ovrShown c).Spares (Off [AC_PEAK c]) v := State.peakShown_spares _ c
  have hspares : u.Spares (Off (ovrRegs c ++ (quadOthers c).flatMap suspectRegs)) w :=
    (((u.ovrShown_spares c).off_mono (List.subset_append_left _ _)).trans (hpeak.off_mono (by simp))).trans
      (hothers.off_mono (List.subset_append_right _ _))
  obtain ⟨hnow, hsticky, htime, hcount⟩ := u.ovrShown_shows c
  have hrd {b : Nat} (h1 : 0x200000 ≤ b) (h2 : b < 0x200400) (hne : b ≠ 0x200054) :
      (w.ended s).rd (b + c * 0x400) = (u.ovrShown c).rd (b + c * 0x400) := by
    rw [State.ended_rd _ _ (endsOn_cellReg c h1 h2), hothers.rd _ (cellReg_off_others c h1 h2), hpeak.rd _ (by simp [Off, hne])]
  refine ⟨_, hexec, ?_, ?_, ?_, ?_, ?_, ?_, keepsRegs_of_off hspares, keepsMemory_of_spares hspares⟩
  · have hkept : (w.cellSt c).ovrFrom = (v.cellSt c).ovrFrom := by
      refine State.each_keeps (fun s => (s.cellSt c).ovrFrom) _ _ (fun s d _ => ?_) v
      obtain ⟨m, h⟩ := s.suspectBegins_cellSt d c
      rw [h]
    obtain ⟨m, hcell⟩ := u.ovrMarked_cellSt c c
    rw [State.ended_cellSt, hkept, hv, hcell, State.setCell_cellSt]
  · exact (State.bit_of_rd (hrd (by decide) (by decide) (by decide))).trans hnow
  · exact (State.bit_of_rd (hrd (by decide) (by decide) (by decide))).trans hsticky
  · have hhigh : AC_OVR_TT_LO c + 4 = 0x20004C + c * 0x400 := Nat.add_right_comm _ _ _
    refine (State.rd64_congr (hrd (by decide) (by decide) (by decide)) ?_).trans htime
    rw [hhigh]
    exact hrd (by decide) (by decide) (by decide)
  · rw [State.g_of_rd (hrd (by decide) (by decide) (by decide)), hcount, hu, State.atTime_g]
  · intro d hd hquad hne hupd hadcd
    rw [State.ended_bit _ _ (endsOn_cellReg ⟨d, hd⟩ (by simp) (by simp))]
    refine State.each_suspectBegins_bit _ _ (.inl (List.mem_filter.mpr ⟨mem_quadOthers.mpr ⟨hquad, hne⟩, ?_⟩))
    rw [hupd, hadcd]; rfl

/-! ### The end of an episode -/

/-- The end of an episode at its own cell: its marks run some ns on, and its length is shown (R234). -/
def State.ovrLengthShown (s : State) (c t tail : Nat) : State :=
  ((s.setCell c { s.cellSt c with ovrFrom := none, ovrTo := s.now + tail }).pb (AC_STAT_ovr_now c) false).wr (AC_OVR_LEN c)
    (BitVec.ofNat 32 (min (s.now - t) 0xFFFFFFFF))

/-- The marks of a neighbour run 24 ns on (R236). -/
def State.suspectRunsOn (s : State) (d : Nat) : State :=
  s.setCell d { s.cellSt d with suspTo := Nat.max (s.cellSt d).suspTo (s.now + 24) }

theorem State.ovrStops_of_running {s : State} {c t : Nat} (h : (s.cellSt c).ovrFrom = some t) (tail : Nat) :
    s.ovrStops c tail = (s.ovrLengthShown c t tail).each (quadOthers c) State.suspectRunsOn := by
  rw [State.ovrStops, h]
  rfl

theorem State.Spares.suspectRunsOn {P : Nat → Prop} {s t : State} (h : s.Spares P t) (l : List Nat) :
    s.Spares P (t.each l State.suspectRunsOn) := h.each (fun s d => (State.Spares.refl s).setCell d _) l

/-- A repetition that makes the marks of cells run on leaves the other cells. -/
theorem State.each_suspectRunsOn_cellSt {l : List Nat} {c : Nat} (h : c ∉ l) (s : State) :
    (s.each l State.suspectRunsOn).cellSt c = s.cellSt c :=
  State.each_keeps (fun s => s.cellSt c) _ _
    (fun s d hd => s.setCell_cellSt_ne (by rintro rfl; exact h hd) _) s

/-- The marks of each of the cells run on for at least 24 ns. -/
theorem State.each_suspectRunsOn_suspTo (l : List Nat) (s : State) {d : Nat}
    (h : d ∈ l ∨ s.now + 24 ≤ (s.cellSt d).suspTo) :
    s.now + 24 ≤ ((s.each l State.suspectRunsOn).cellSt d).suspTo := by
  induction l generalizing s with
  | nil => exact h.resolve_left (List.not_mem_nil)
  | cons e l ih =>
    refine ih (s.suspectRunsOn e) ?_
    by_cases he : d = e
    · refine .inr ?_
      rw [State.suspectRunsOn, he, State.setCell_cellSt]
      exact Nat.le_max_right _ _
    · refine h.imp (fun h => (List.mem_cons.mp h).resolve_left he) fun h => ?_
      rw [State.suspectRunsOn, State.setCell_cellSt_ne _ he]
      exact h

theorem State.ovrLengthShown_spares (s : State) (c t tail : Nat) :
    s.Spares (Off [AC_STAT c, AC_OVR_LEN c]) (s.ovrLengthShown c t tail) :=
  (((State.Spares.refl s).setCell c _).pb (f := AC_STAT_ovr_now c) (not_off_of_mem (by simp)) false).wr
    (a := AC_OVR_LEN c) (not_off_of_mem (by simp)) _

theorem State.ovrLengthShown_shows (s : State) (c t tail : Nat) :
    (s.ovrLengthShown c t tail).bit (AC_STAT_ovr_now c) = false ∧
      ((s.ovrLengthShown c t tail).rd (AC_OVR_LEN c)).toNat = min (s.now - t) 0xFFFFFFFF := by
  refine ⟨?_, ?_⟩
  · rw [State.bit, State.ovrLengthShown, State.g_of_rd (State.rd_wr_ne _ (by simp) _)]
    exact State.bit_pb_same _ _ false (by simp) (by simp)
  · rw [State.ovrLengthShown, State.rd_wr_same, BitVec.toNat_ofNat]
    omega

theorem exec_overRangeEnd_of_running (at_ : TT) (c : Fin 48) (from_ : Nat) (s : State)
    (h : ((s.atTime at_).cellSt c).ovrFrom = some from_) :
    ∃ t, exec (.overRangeEnd at_ c) s = .next t ∧ (t.cellSt c).ovrFrom = none ∧
      (t.cellSt c).ovrTo = (s.atTime at_).now + 8 ∧ t.bit (AC_STAT_ovr_now c) = false ∧
      (t.rd (AC_OVR_LEN c)).toNat = min ((s.atTime at_).now - from_) 0xFFFFFFFF ∧
      (∀ d < 48, d / 4 = c.val / 4 → d ≠ c.val → (s.atTime at_).now + 24 ≤ (t.cellSt d).suspTo) ∧
      keepsRegs s t [AC_STAT c, AC_OVR_LEN c] ∧ keepsMemory s t := by
  set u := s.atTime at_
  have hexec : exec (.overRangeEnd at_ c) s = .next ((u.ovrStops c 8).ended s) := rfl
  rw [State.ovrStops_of_running h] at hexec
  have hspares := (u.ovrLengthShown_spares c from_ 8).suspectRunsOn (quadOthers c)
  have hothers : (u.ovrLengthShown c from_ 8).Spares (fun _ => True) _ := (State.Spares.refl _).suspectRunsOn (quadOthers c)
  obtain ⟨hnow, hlen⟩ := u.ovrLengthShown_shows c from_ 8
  have hcell := State.each_suspectRunsOn_cellSt (not_mem_quadOthers c) (u.ovrLengthShown c from_ 8)
  have hown : (u.ovrLengthShown c from_ 8).cellSt c = { u.cellSt c with ovrFrom := none, ovrTo := u.now + 8 } :=
    u.setCell_cellSt c _
  refine ⟨_, hexec, ?_, ?_, ?_, ?_, fun d _ hquad hne => ?_, keepsRegs_of_off hspares, keepsMemory_of_spares hspares⟩
  · rw [State.ended_cellSt, hcell, hown]
  · rw [State.ended_cellSt, hcell, hown]
  · rw [State.ended_bit _ _ (endsOn_cellReg c (by simp) (by simp)), hothers.bit trivial, hnow]
  · rw [State.ended_rd _ _ (endsOn_cellReg c (by simp) (by simp)), hothers.rd _ trivial, hlen]
  · rw [State.ended_cellSt]
    exact State.each_suspectRunsOn_suspTo _ (u.ovrLengthShown c from_ 8) (.inl (mem_quadOthers.mpr ⟨hquad, hne⟩))

/-! ### The end of an interval, and stale trims -/

theorem State.quadEpisode_eq_false {s : State} {c : Nat} (h : ∀ d ∈ quadOthers c, (s.cellSt d).ovrFrom = none) :
    s.quadEpisode c = false := by
  rw [State.quadEpisode, List.any_eq_false]
  intro d hd
  simp [h d hd]

theorem exec_suspectIntervalEnd_of_over (at_ : TT) (c : Fin 48) (s : State)
    (hnow : (s.atTime at_).bit (AC_STAT_suspect_now c) = true) (hover : ((s.atTime at_).cellSt c).suspTo ≤ (s.atTime at_).now)
    (hquad : ∀ d < 48, d / 4 = c.val / 4 → d ≠ c.val → ((s.atTime at_).cellSt d).ovrFrom = none) :
    ∃ t, exec (.suspectIntervalEnd at_ c) s = .next t ∧ t.bit (AC_STAT_suspect_now c) = false ∧
      keepsRegs s t [AC_STAT c] ∧ keepsMemory s t := by
  set u := s.atTime at_
  have hepisode : u.quadEpisode c = false := State.quadEpisode_eq_false fun d hd => by
    obtain ⟨hq, hne⟩ := mem_quadOthers.mp hd
    exact hquad d (by omega) hq hne
  have hmarks : u.quadMarks c = false := by
    rw [State.quadMarks, hepisode, Bool.false_or, decide_eq_false (by omega)]
  have hends : u.suspectEnd c = u.pb (AC_STAT_suspect_now c) false := by
    rw [State.suspectEnd, hnow, hmarks]
    rfl
  have hexec : exec (.suspectIntervalEnd at_ c) s = .next ((u.suspectEnd c).ended s) := rfl
  rw [hends] at hexec
  have hspares : u.Spares (Off [AC_STAT c]) (u.pb (AC_STAT_suspect_now c) false) :=
    (State.Spares.refl u).pb (not_off_of_mem (by simp)) false
  refine ⟨_, hexec, ?_, keepsRegs_of_off hspares, keepsMemory_of_spares hspares⟩
  rw [State.ended_bit _ _ (endsOn_cellReg c (by simp) (by simp))]
  exact State.bit_pb_same _ _ false (by simp) (by simp)

/-- A cell that has taken no trims for 1 s shows it (R240). -/
theorem State.staleNow_of_due {s : State} {c : Nat} (hup : s.cellUp c = true) (hdue : (s.cellSt c).trimAt + secNs ≤ s.elapsed) :
    s.Spares (Off [AC_STAT c, AC_STICKY c]) (s.staleNow c) ∧ (s.staleNow c).bit (AC_STAT_cal_stale c) = true := by
  have hlate : decide (secNs ≤ s.elapsed - (s.cellSt c).trimAt) = true := decide_eq_true (by omega)
  rw [State.staleNow, hup, hlate]
  cases h : s.bit (AC_STAT_cal_stale c) with
  | true => exact ⟨.refl s, h⟩
  | false =>
    refine ⟨((State.Spares.refl s).pb (f := AC_STAT_cal_stale c) (not_off_of_mem (by simp)) true).pb
      (f := AC_STICKY_cal_stale c) (not_off_of_mem (by simp)) true, ?_⟩
    refine (congrArg (· != 0) (State.g_of_rd (State.rd_p_ne _ (by simp) _))).trans ?_
    exact State.bit_pb_same _ _ true (by simp) (by simp)

theorem exec_calStale_of_due (at_ : TT) (c : Fin 48) (s : State) (hup : (s.atTime at_).cellUp c = true)
    (hdue : ((s.atTime at_).cellSt c).trimAt + secNs ≤ (s.atTime at_).elapsed) :
    ∃ t, exec (.calStale at_ c) s = .next t ∧ t.bit (AC_STAT_cal_stale c) = true ∧
      keepsRegs s t [AC_STAT c, AC_STICKY c] ∧ keepsMemory s t := by
  have hexec : exec (.calStale at_ c) s = .next (((s.atTime at_).staleNow c).ended s) := rfl
  obtain ⟨hspares, hstale⟩ := State.staleNow_of_due hup hdue
  exact ⟨_, hexec, (State.ended_bit _ _ (endsOn_cellReg c (by simp) (by simp))).trans hstale, keepsRegs_of_off hspares,
    keepsMemory_of_spares hspares⟩

end Sys2Proof.Machine

/-! ### The obligation -/

/-- Settles O39: an episode that begins and that ends, the end of a neighbour's interval, and trims that are overdue. -/
theorem cellsMarkTheirSamples : Obligations.CellsMarkTheirSamples :=
  ⟨exec_overRangeBegin_of_up, exec_overRangeEnd_of_running, exec_suspectIntervalEnd_of_over, exec_calStale_of_due⟩
end

section
/-! The loops of a cell and its chain: the DC-restore clamp and the DC block (R232, R233, R262, R263). -/

open Sys2Proof Sys2Proof.Machine

namespace Sys2Proof.Machine

/-! ### An update whose setting is signed -/

theorem State.Spares.loopDone {P : Nat → Prop} {s t : State} (h : s.Spares P t) {set : Fld} {stat cnt : Nat}
    (hset : ¬ P set.addr) (hstat : ¬ P stat) (hcnt : ¬ P cnt) (v : Nat) (side : Option Bool) : s.Spares P (t.loopDone set v stat cnt side) := by
  have hundo (q : Tab LoopUndo) : s.Spares P { t with undo := q } := h.of_cells rfl rfl
  exact ((hundo _).p hset v).pressed hstat hcnt side

/-- A number in the range of a signed field stands there as itself. -/
theorem signedField_emod {w : Nat} (hw : 0 < w) {v : Int} (h1 : -2 ^ (w - 1) ≤ v) (h2 : v < 2 ^ (w - 1)) :
    signedField w (v % 2 ^ w).toNat = v := by
  obtain ⟨n, rfl⟩ := Nat.exists_eq_add_of_lt hw
  simp only [Nat.zero_add, Nat.add_sub_cancel] at h1 h2 ⊢
  have hpow : (2 : Int) ^ (n + 1) = 2 * 2 ^ n := by ring
  have hnat : ((2 ^ n : Nat) : Int) = 2 ^ n := by norm_cast
  unfold signedField
  rw [hpow, Nat.add_sub_cancel]
  rcases lt_or_ge v 0 with hv | hv
  · have hmod : v % (2 * 2 ^ n) = v + 2 * 2 ^ n := by
      rw [← Int.add_emod_right, Int.emod_eq_of_lt] <;> omega
    rw [hmod, if_neg (by omega)]
    omega
  · rw [Int.emod_eq_of_lt hv (by omega), if_pos (by omega)]
    omega

theorem signedField_range {w n : Nat} (hw : 0 < w) (h : n < 2 ^ w) :
    -2 ^ (w - 1) ≤ signedField w n ∧ signedField w n < 2 ^ (w - 1) := by
  obtain ⟨k, rfl⟩ := Nat.exists_eq_add_of_lt hw
  simp only [Nat.zero_add, Nat.add_sub_cancel] at h ⊢
  have hpow : (2 : Int) ^ (k + 1) = 2 * 2 ^ k := by ring
  have hpow' : 2 ^ (k + 1) = 2 * 2 ^ k := by ring
  have hnat : ((2 ^ k : Nat) : Int) = 2 ^ k := by norm_cast
  unfold signedField
  rw [hpow, Nat.add_sub_cancel]
  split <;> omega

/-- What an update applies to a setting that lies in the window: the value computed, moved to the nearest bound (R28). -/
theorem loopApply_of_within {cur lo hi : Int} (computed : Int) (h1 : lo ≤ cur) (h2 : cur ≤ hi) :
    (loopApply cur computed lo hi).1 = clampInt lo hi computed := by
  simp only [loopApply, if_neg (Int.not_lt.mpr h1), if_neg (Int.not_lt.mpr h2)]

/-- A signed setting takes the value that the update applied. -/
theorem State.loopDone_signed (s : State) {a hi stat cnt : Nat} {v : Int} (side : Option Bool) (hstat : stat ≠ a)
    (hcnt : cnt ≠ a) (hhi : hi < 32) (h1 : -2 ^ hi ≤ v) (h2 : v < 2 ^ hi) :
    signedField (hi + 1) ((s.loopDone ⟨a, hi, 0⟩ (v % 2 ^ (hi + 1)).toNat stat cnt side).g ⟨a, hi, 0⟩) = v := by
  have hpos : (0 : Int) < 2 ^ (hi + 1) := by positivity
  have hlt : (v % 2 ^ (hi + 1)).toNat < 2 ^ (hi + 1) := by
    have := Int.emod_lt_of_pos v hpos
    have hnat : ((2 ^ (hi + 1) : Nat) : Int) = 2 ^ (hi + 1) := by norm_cast
    omega
  rw [State.loopDone_g _ _ hstat hcnt (Nat.zero_le _) hhi hlt]
  exact signedField_emod (Nat.succ_pos hi) h1 h2

/-! ### The clamp -/

/-- The range of the clamp: its window while BOUNDED, else that of the hardware (R232). -/
theorem State.loopRange_dcr (s : State) (c : Fin 48) : s.loopRange (.dcr c) =
    (if s.g (AC_DCR_CTL_mode c) = 1 then signedField 10 (s.g (AC_DCR_CTL_dcr_min c)) else -512,
      if s.g (AC_DCR_CTL_mode c) = 1 then signedField 10 (s.g (AC_DCR_CTL_dcr_max c)) else 511) := by
  have hmode : s.loopMode (.dcr c) = s.g (AC_DCR_CTL_mode c) := rfl
  rw [State.loopRange, hmode]
  split <;> rfl

theorem State.loopRange_dcr_bounds (s : State) (c : Fin 48) :
    -512 ≤ (s.loopRange (.dcr c)).1 ∧ (s.loopRange (.dcr c)).2 < 512 := by
  have hmin := signedField_range (w := 10) (by decide) (s.g_lt (AC_DCR_CTL_dcr_min c))
  have hmax := signedField_range (w := 10) (by decide) (s.g_lt (AC_DCR_CTL_dcr_max c))
  rw [State.loopRange_dcr]
  dsimp only
  norm_num at hmin hmax
  constructor <;> split <;> omega

/-- The line's update is taken: none is due. -/
def State.lineServed (s : State) (c : Nat) : State := s.setCell c { s.cellSt c with lineDue := none }

/-- The setting that the clamp computes from a step of `d` towards the target (R232). -/
def State.dcrMoved (s : State) (c level : Nat) (d : Int) : Int :=
  let cur := signed10 (AC_DCR_SET_offset c) (s.rd (AC_DCR_SET c))
  if level < s.g (AC_DCR_TARGET_target c) then cur + d
  else if s.g (AC_DCR_TARGET_target c) < level then cur - d else cur

theorem State.dcrStep_of_marked {s : State} {c : Nat} (level : Nat) (h : (s.cellSt c).lineDue = some true) :
    s.dcrStep c level = s.lineServed c := by
  rw [State.dcrStep, h]
  simp [State.lineServed]

/-- The clamp's update of a line without marks (R232). -/
theorem State.dcrStep_of_due {s : State} {c : Fin 48} (level : Nat) (hdue : (s.cellSt c).lineDue = some false)
    (hup : s.cellUp c = true) (hadc : s.cellAdc c = true) (hmode : s.g (AC_DCR_CTL_mode c) ≠ 2)
    (hfree : s.loopBlocked (AC_DCR_STAT c) = false) :
    ∃ n : Nat, ∃ d side, s.dcrStep c level = ({ s.lineServed c with free := n } : State).loopDone (AC_DCR_SET_offset c)
      ((loopApply (signed10 (AC_DCR_SET_offset c) (s.rd (AC_DCR_SET c))) (s.dcrMoved c level ((d : Nat) : Int))
        (s.loopRange (.dcr c)).1 (s.loopRange (.dcr c)).2).1 % 1024).toNat (AC_DCR_STAT c) (AC_DCR_BOUND_CNT c) side := by
  have hadc' : (s.lineServed c).cellAdc c = true := by
    rw [← hadc, State.cellAdc, State.lineServed, State.setCell_cellSt]
    rfl
  have hgo : ¬ (!(s.lineServed c).cellUp c || !(s.lineServed c).cellAdc c || (s.lineServed c).g (AC_DCR_CTL_mode c) == 2 ||
      (s.lineServed c).loopBlocked (AC_DCR_STAT c) || false) = true := by
    have hup' : (s.lineServed c).cellUp c = true := hup
    have hmode' : (s.lineServed c).g (AC_DCR_CTL_mode c) ≠ 2 := hmode
    have hfree' : (s.lineServed c).loopBlocked (AC_DCR_STAT c) = false := hfree
    simp [hup', hadc', hmode', hfree']
  rw [State.dcrStep, hdue, State.loopRange_dcr]
  exact ⟨_, _, _, if_neg hgo⟩

theorem State.dcrStep_moves {s : State} {c : Fin 48} (level : Nat) (hdue : (s.cellSt c).lineDue = some false)
    (hup : s.cellUp c = true) (hadc : s.cellAdc c = true) (hmode : s.g (AC_DCR_CTL_mode c) ≠ 2)
    (hfree : s.loopBlocked (AC_DCR_STAT c) = false)
    (hlo : (s.loopRange (.dcr c)).1 ≤ signed10 (AC_DCR_SET_offset c) (s.rd (AC_DCR_SET c)))
    (hhi : signed10 (AC_DCR_SET_offset c) (s.rd (AC_DCR_SET c)) ≤ (s.loopRange (.dcr c)).2) :
    s.Spares (Off [AC_DCR_SET c, AC_DCR_STAT c, AC_DCR_BOUND_CNT c]) (s.dcrStep c level) ∧
      (s.dcrStep c level).cellSt c = { s.cellSt c with lineDue := none } ∧
      ∃ d, 0 ≤ d ∧ signed10 (AC_DCR_SET_offset c) ((s.dcrStep c level).rd (AC_DCR_SET c)) =
        clampInt (s.loopRange (.dcr c)).1 (s.loopRange (.dcr c)).2 (s.dcrMoved c level d) := by
  obtain ⟨n, d, side, hstep⟩ := State.dcrStep_of_due level hdue hup hadc hmode hfree
  have hserved : s.Spares (Off [AC_DCR_SET c, AC_DCR_STAT c, AC_DCR_BOUND_CNT c]) { s.lineServed c with free := n } :=
    (State.Spares.refl s).of_cells rfl rfl
  obtain ⟨hmin, hmax⟩ := s.loopRange_dcr_bounds c
  have hwithin := loopApply_within (signed10 (AC_DCR_SET_offset c) (s.rd (AC_DCR_SET c))) (s.dcrMoved c level d) (hlo.trans hhi)
  rw [hstep]
  refine ⟨hserved.loopDone (not_off_of_mem (by simp)) (not_off_of_mem (by simp)) (not_off_of_mem (by simp)) _ _, ?_, (d : Int),
    Int.natCast_nonneg d, ?_⟩
  · obtain ⟨_, _, _, hframe⟩ := State.loopDone_frame ({ s.lineServed c with free := n } : State) (AC_DCR_SET_offset c) _ _ _ side
    rw [hframe]
    exact s.setCell_cellSt c _
  · rw [← loopApply_of_within _ hlo hhi]
    exact State.loopDone_signed (hi := 9) _ side (by simp) (by simp) (by decide) (by norm_num; omega) (by norm_num; omega)

theorem exec_dcRestoreUpdate_of_due (at_ : TT) (c : Fin 48) (level : BitVec 12) (s : State) :
    let u := s.atTime at_; let w := u.loopRange (.dcr c); let cur := signed10 (AC_DCR_SET_offset c) (u.rd (AC_DCR_SET c))
    (u.cellSt c).lineDue = some false → u.cellUp c = true → u.cellAdc c = true → u.g (AC_DCR_CTL_mode c) ≠ 2 →
      u.loopBlocked (AC_DCR_STAT c) = false → w.1 ≤ cur → cur ≤ w.2 →
      ∃ t d, exec (.dcRestoreUpdate at_ c level) s = .next t ∧ 0 ≤ d ∧
        signed10 (AC_DCR_SET_offset c) (t.rd (AC_DCR_SET c)) = clampInt w.1 w.2 (u.dcrMoved c level.toNat d) ∧
        (t.cellSt c).lineDue = none ∧ keepsRegs s t [AC_DCR_SET c, AC_DCR_STAT c, AC_DCR_BOUND_CNT c] ∧ keepsMemory s t := by
  intro u w cur hdue hup hadc hmode hfree hlo hhi
  have hexec : exec (.dcRestoreUpdate at_ c level) s = .next ((u.dcrStep c level.toNat).ended s) := rfl
  obtain ⟨hspares, hcell, d, hd, hset⟩ := State.dcrStep_moves level.toNat hdue hup hadc hmode hfree hlo hhi
  refine ⟨_, d, hexec, hd, ?_, ?_, keepsRegs_of_off hspares, keepsMemory_of_spares hspares⟩
  · rw [State.ended_rd _ _ (endsOn_cellReg c (by decide) (by decide)), hset]
  · rw [State.ended_cellSt, hcell]

theorem exec_dcRestoreUpdate_of_marked (at_ : TT) (c : Fin 48) (level : BitVec 12) (s : State)
    (h : ((s.atTime at_).cellSt c).lineDue = some true) :
    ∃ t, exec (.dcRestoreUpdate at_ c level) s = .next t ∧ (t.cellSt c).lineDue = none ∧ keepsRegs s t [] ∧
      keepsMemory s t := by
  have hexec : exec (.dcRestoreUpdate at_ c level) s = .next (((s.atTime at_).dcrStep c level.toNat).ended s) := rfl
  rw [State.dcrStep_of_marked _ h] at hexec
  have hspares : (s.atTime at_).Spares (Off []) ((s.atTime at_).lineServed c) := (State.Spares.refl _).setCell c _
  refine ⟨_, hexec, ?_, keepsRegs_of_off hspares, keepsMemory_of_spares hspares⟩
  rw [State.ended_cellSt, State.lineServed, State.setCell_cellSt]

/-! ### The DC block -/

theorem State.Spares.setChain {P : Nat → Prop} {s t : State} (h : s.Spares P t) (c : Nat) (x : ChainSt) :
    s.Spares P (t.setChain c x) := h.of_cells rfl rfl

theorem State.ended_chain (s old : State) (c : Nat) : (s.ended old).chain c = s.chain c := by
  rw [State.chain, State.chain, State.ended_fc]

/-- The ending of a command leaves a chain's registers, which lie 0x40 apart. -/
theorem endsOn_chainReg (c : Fin 48) {b : Nat} (h1 : 0x380000 ≤ b) (h2 : b < 0x380040) : endsOn (b + c * 0x40) = false :=
  endsOn_of_analogue (by omega) (by omega)

/-- The range of the DC block: its window while BOUNDED, else that of the hardware (R262). -/
theorem State.loopRange_dcb (s : State) (c : Fin 48) : s.loopRange (.dcb c) =
    (if s.g (FC_DCB_CTL_mode c) = 1 then 256 * signedField 10 (s.g (FC_DCB_CTL_dcb_min c)) else -131072,
      if s.g (FC_DCB_CTL_mode c) = 1 then 256 * signedField 10 (s.g (FC_DCB_CTL_dcb_max c)) else 131071) := by
  have hmode : s.loopMode (.dcb c) = s.g (FC_DCB_CTL_mode c) := rfl
  rw [State.loopRange, hmode]
  split <;> rfl

theorem State.loopRange_dcb_bounds (s : State) (c : Fin 48) :
    -131072 ≤ (s.loopRange (.dcb c)).1 ∧ (s.loopRange (.dcb c)).2 < 131072 := by
  have hmin := signedField_range (w := 10) (by decide) (s.g_lt (FC_DCB_CTL_dcb_min c))
  have hmax := signedField_range (w := 10) (by decide) (s.g_lt (FC_DCB_CTL_dcb_max c))
  rw [State.loopRange_dcb]
  dsimp only
  norm_num at hmin hmax
  constructor <;> split <;> omega

/-- The 256 samples' update is taken: none is due. -/
def State.meanServed (s : State) (c : Nat) : State := s.setChain c { s.chain c with dcbDue := none }

/-- The estimate that the DC block computes from the sum of 256 samples, between two settings to either of them (R262). -/
def State.dcbMoved (s : State) (c : Nat) (up : Bool) (sum : Int) : Int :=
  let e := signedField 18 (s.g (FC_DCB_SET_e c))
  let num := sum - 16384 * e
  let q : Int := 16384 * 2 ^ s.g (FC_DCB_CTL_k c)
  e + num / q + (if num % q ≠ 0 && up then 1 else 0)

/-- The registers that an update of the DC block changes beside the chain's status (R262). -/
abbrev dcbRegs (c : Nat) : List Nat := [FC_DCB_SET c, FC_DCB_STAT c, FC_DCB_BOUND_CNT c]

/-- Nothing keeps the DC block of a cell that is up from its update (R262, R263). -/
theorem State.meanServed_goes {s : State} {c : Nat} (hup : s.cellUp c = true) (hon : s.bit (FC_CTL_dcb_en c) = true)
    (hmode : s.g (FC_DCB_CTL_mode c) ≠ 2) (hfree : s.loopBlocked (FC_DCB_STAT c) = false) :
    ¬ (!(s.meanServed c).cellUp c || !(s.meanServed c).bit (FC_CTL_dcb_en c) ||
      (s.meanServed c).g (FC_DCB_CTL_mode c) == 2 || (s.meanServed c).loopBlocked (FC_DCB_STAT c)) = true := by
  have hup' : (s.meanServed c).cellUp c = true := hup
  have hon' : (s.meanServed c).bit (FC_CTL_dcb_en c) = true := hon
  have hmode' : (s.meanServed c).g (FC_DCB_CTL_mode c) ≠ 2 := hmode
  have hfree' : (s.meanServed c).loopBlocked (FC_DCB_STAT c) = false := hfree
  simp [hup', hon', hmode', hfree']

section
variable {s : State} {c : Fin 48} (up : Bool) {sum : Int} (hup : s.cellUp c = true) (hon : s.bit (FC_CTL_dcb_en c) = true)
  (hmode : s.g (FC_DCB_CTL_mode c) ≠ 2) (hfree : s.loopBlocked (FC_DCB_STAT c) = false)

include hup hon hmode hfree

/-- An update that a marked sample spoils is not made, which the status shows (R263). -/
theorem State.dcbStep_of_marked (hdue : (s.chain c).dcbDue = some (sum, true)) :
    s.dcbStep c up = (s.meanServed c).pb (FC_STAT_dcb_suspended c) true := by
  rw [State.dcbStep, hdue]
  exact (if_neg (State.meanServed_goes hup hon hmode hfree)).trans (if_pos rfl)

/-- An update that no mark spoils is made (R262). -/
theorem State.dcbStep_of_unmarked (hdue : (s.chain c).dcbDue = some (sum, false)) :
    ∃ side, s.dcbStep c up = ((s.meanServed c).loopDone (FC_DCB_SET_e c)
      ((loopApply (signedField 18 (s.g (FC_DCB_SET_e c))) (s.dcbMoved c up sum) (s.loopRange (.dcb c)).1
        (s.loopRange (.dcb c)).2).1 % 262144).toNat (FC_DCB_STAT c) (FC_DCB_BOUND_CNT c) side).pb
      (FC_STAT_dcb_suspended c) false := by
  rw [State.dcbStep, hdue, State.loopRange_dcb]
  exact ⟨_, (if_neg (State.meanServed_goes hup hon hmode hfree)).trans (if_neg Bool.false_ne_true)⟩

/-- What an update of the DC block that is due leaves and shows, made or not. -/
theorem State.dcbStep_shows {marked : Bool} (hdue : (s.chain c).dcbDue = some (sum, marked)) :
    s.Spares (Off (FC_STAT c :: if marked then [] else dcbRegs c)) (s.dcbStep c up) ∧
      (s.dcbStep c up).chain c = { s.chain c with dcbDue := none } ∧
      (s.dcbStep c up).bit (FC_STAT_dcb_suspended c) = marked := by
  have hserved (l : List Nat) : s.Spares (Off l) (s.meanServed c) := (State.Spares.refl s).setChain c _
  cases marked with
  | true =>
    rw [State.dcbStep_of_marked up hup hon hmode hfree hdue]
    exact ⟨(hserved _).pb (not_off_of_mem (by simp)) true, s.setChain_chain c _,
      State.bit_pb_same _ _ true (by simp) (by simp)⟩
  | false =>
    obtain ⟨side, hstep⟩ := State.dcbStep_of_unmarked up hup hon hmode hfree hdue
    rw [hstep]
    refine ⟨((hserved _).loopDone (not_off_of_mem (by simp)) (not_off_of_mem (by simp)) (not_off_of_mem (by simp)) _ _).pb
      (not_off_of_mem (by simp)) false, ?_, State.bit_pb_same _ _ false (by simp) (by simp)⟩
    obtain ⟨_, _, _, hframe⟩ := State.loopDone_frame (s.meanServed c) (FC_DCB_SET_e c) _ _ _ side
    rw [hframe]
    exact s.setChain_chain c _

/-- The estimate follows the mean of the samples within its range (R262). -/
theorem State.dcbStep_follows (hdue : (s.chain c).dcbDue = some (sum, false))
    (hlo : (s.loopRange (.dcb c)).1 ≤ signedField 18 (s.g (FC_DCB_SET_e c)))
    (hhi : signedField 18 (s.g (FC_DCB_SET_e c)) ≤ (s.loopRange (.dcb c)).2) :
    signedField 18 ((s.dcbStep c up).g (FC_DCB_SET_e c)) =
      clampInt (s.loopRange (.dcb c)).1 (s.loopRange (.dcb c)).2 (s.dcbMoved c up sum) := by
  obtain ⟨side, hstep⟩ := State.dcbStep_of_unmarked up hup hon hmode hfree hdue
  obtain ⟨hmin, hmax⟩ := s.loopRange_dcb_bounds c
  have hwithin := loopApply_within (signedField 18 (s.g (FC_DCB_SET_e c))) (s.dcbMoved c up sum) (hlo.trans hhi)
  rw [hstep, ← loopApply_of_within _ hlo hhi, State.pb, State.g_of_rd (State.rd_p_ne _ (by simp) _)]
  exact State.loopDone_signed (hi := 17) _ side (by simp) (by simp) (by decide) (by norm_num; omega) (by norm_num; omega)

end

theorem exec_dcBlockUpdate_of_due (at_ : TT) (c : Fin 48) (up : Bool) (sum : Int) (marked : Bool) (s : State) :
    let u := s.atTime at_; let w := u.loopRange (.dcb c); let e := signedField 18 (u.g (FC_DCB_SET_e c))
    (u.chain c).dcbDue = some (sum, marked) → u.cellUp c = true → u.bit (FC_CTL_dcb_en c) = true →
    u.g (FC_DCB_CTL_mode c) ≠ 2 → u.loopBlocked (FC_DCB_STAT c) = false →
    ∃ t, exec (.dcBlockUpdate at_ c up) s = .next t ∧ (t.chain c).dcbDue = none ∧
      t.bit (FC_STAT_dcb_suspended c) = marked ∧
      (marked = false → w.1 ≤ e → e ≤ w.2 →
        let num := sum - 16384 * e; let q : Int := 16384 * 2 ^ u.g (FC_DCB_CTL_k c)
        signedField 18 (t.g (FC_DCB_SET_e c)) =
          clampInt w.1 w.2 (e + num / q + (if num % q ≠ 0 ∧ up = true then 1 else 0))) ∧
      keepsRegs s t (FC_STAT c :: if marked then [] else dcbRegs c) ∧ keepsMemory s t := by
  intro u w e hdue hup hon hmode hfree
  have hexec : exec (.dcBlockUpdate at_ c up) s = .next ((u.dcbStep c up).ended s) := rfl
  obtain ⟨hspares, hchain, hsuspended⟩ := State.dcbStep_shows up hup hon hmode hfree hdue
  refine ⟨_, hexec, ?_, ?_, ?_, keepsRegs_of_off hspares, keepsMemory_of_spares hspares⟩
  · rw [State.ended_chain, hchain]
  · rw [State.ended_bit _ _ (endsOn_chainReg c (by decide) (by decide)), hsuspended]
  · rintro rfl hlo hhi num q
    have hmoved : u.dcbMoved c up sum = e + num / q + (if num % q ≠ 0 ∧ up = true then 1 else 0) := by
      simp only [State.dcbMoved, Bool.and_eq_true, decide_eq_true_eq]
      rfl
    rw [State.ended_g _ _ (endsOn_chainReg c (by decide) (by decide)),
      State.dcbStep_follows up hup hon hmode hfree hdue hlo hhi, hmoved]

end Sys2Proof.Machine
end

section
/-! A cell that completes a change of its direction (R228, R258, R265). -/

open Sys2Proof Sys2Proof.Machine

namespace Sys2Proof.Machine

/-! ### A cell that begins to convert -/

/-- No register of a cell is one of a chain. -/
theorem cellReg_ne_chainReg (c d : Fin 48) {b e : Nat} (hb : b < 0x200400) (he : 0x380000 ≤ e) :
    b + c * 0x400 ≠ e + d * 0x40 := by
  omega

theorem State.cellUp_of_rd {s t : State} {c : Nat} (hpwr : t.pwr = s.pwr) (hctl : t.rd (AC_CTL c) = s.rd (AC_CTL c)) :
    t.cellUp c = s.cellUp c := by
  rw [State.cellUp, State.cellUp, State.bit_of_rd hctl, State.isReady, State.isReady, State.res, State.res, State.dev, State.dev,
    hpwr]

/-- A cell that begins to convert in ADC direction settles, and meets the marks that are running in its quad (R236,
R265). -/
def State.adcBegins (s : State) (c : Nat) : State := (s.chainSettles c).meetsMarks c

theorem State.chainSettles_spares (s : State) (c : Nat) : s.Spares (Off [FC_STAT c]) (s.chainSettles c) :=
  ((State.Spares.refl s).setChain c _).pb (f := FC_STAT_settling c) (not_off_of_mem (by simp)) true

theorem State.meetsMarks_spares (s : State) (c : Nat) : s.Spares (Off (suspectRegs c)) (s.meetsMarks c) :=
  (State.Spares.refl s).when _ fun s => s.suspectBegins_spares c

theorem State.adcBegins_spares (s : State) (c : Nat) : s.Spares (Off (FC_STAT c :: suspectRegs c)) (s.adcBegins c) :=
  ((s.chainSettles_spares c).off_mono (by simp)).trans ((State.meetsMarks_spares _ c).off_mono (by simp))

theorem State.adcBegins_changing (s : State) (c : Nat) : ((s.adcBegins c).cellSt c).changing = (s.cellSt c).changing :=
  State.when_keeps (fun s => (s.cellSt c).changing) (fun s => s.suspectBegins c) _ (s.chainSettles c) (by
    obtain ⟨m, h⟩ := (s.chainSettles c).suspectBegins_cellSt c c
    rw [h])

/-- Of the cell's status the flag of the interval alone changes. -/
theorem State.adcBegins_stat (s : State) (c : Fin 48) {hi lo : Nat} (hlo : 2 < lo) (hhi : hi < 32) :
    (s.adcBegins c).g ⟨AC_STAT c, hi, lo⟩ = s.g ⟨AC_STAT c, hi, lo⟩ := by
  have hmeets := State.when_keeps (fun s => s.g ⟨AC_STAT c, hi, lo⟩) (fun s => s.suspectBegins c)
    ((s.chainSettles c).quadMarks c) (s.chainSettles c) (State.suspectBegins_g _ c hlo hhi)
  refine hmeets.trans ((s.chainSettles_spares c).g (f := ⟨AC_STAT c, hi, lo⟩) ?_)
  simp [Off, cellReg_ne_chainReg]

theorem State.adcBegins_chainStat (s : State) (c : Fin 48) :
    (s.adcBegins c).rd (FC_STAT c) = (s.pb (FC_STAT_settling c) true).rd (FC_STAT c) :=
  (State.meetsMarks_spares _ c).rd _ (by simp [Off, suspectRegs, (cellReg_ne_chainReg _ _ _ _).symm])

/-! ### A change that completes -/

/-- The registers that show the new direction and its change (R228). -/
def State.dirShown (s : State) (c dir ns : Nat) : State :=
  ((((s.p (AC_STAT_dir c) dir).pb (AC_STAT_changing c) false).p (FC_STAT_interp c) dir).inc (cnt16 (AC_DIR_CNT c))).wr
    (AC_DIR_TIME c) (BitVec.ofNat 32 ns)

/-- The chain that stands in a new direction has no history (R258). -/
def State.chainCleared (s : State) (c : Nat) : State :=
  ((s.setChain c (s.chain c).cleared).setQueue (chainKey c) []).takeLink c

/-- A cell in a new direction: the change is shown, and no longer under way. -/
def State.stood (s : State) (c dir ns : Nat) : State :=
  let s := s.dirShown c dir ns
  ((s.setCell c { s.cellSt c with changing := none, heldOut := none, lineDue := none }).chainCleared c).pb
    (FC_STAT_settling c) false

theorem State.stands_eq (s : State) (c dir ns : Nat) :
    s.stands c dir ns = (s.when (dir == 1) (fun s => s.chainFlush c true)).stood c dir ns := rfl

/-- A change completes in its time: the cell stands, and one that is up converts where it is in ADC direction (R228). -/
theorem State.turned_of_changing {s : State} {c from_ dir : Nat} (h : (s.cellSt c).changing = some (from_, dir))
    (hnow : s.now ≤ from_ + 2000) : s.turned c = (s.stands c dir (s.now - from_)).when
      (dir == 0 && (s.stands c dir (s.now - from_)).cellUp c) (fun s => s.adcBegins c) := by
  rw [State.turned, h]
  exact if_neg (by omega)

/-- The registers that a completed change of direction changes (R228). -/
abbrev dirRegs (c : Nat) : List Nat := [AC_STAT c, FC_STAT c, AC_DIR_CNT c, AC_DIR_TIME c]

theorem State.dirShown_spares (s : State) (c dir ns : Nat) : s.Spares (Off (dirRegs c)) (s.dirShown c dir ns) :=
  (((((State.Spares.refl s).p (f := AC_STAT_dir c) (not_off_of_mem (by simp)) dir).pb (f := AC_STAT_changing c)
    (not_off_of_mem (by simp)) false).p (f := FC_STAT_interp c) (not_off_of_mem (by simp)) dir).inc (f := cnt16 (AC_DIR_CNT c))
    (not_off_of_mem (by simp [cnt16]))).wr (a := AC_DIR_TIME c) (not_off_of_mem (by simp)) _

theorem State.Spares.setQueue {P : Nat → Prop} {s t : State} (h : s.Spares P t) (k : Nat) (l : List QSlice) :
    s.Spares P (t.setQueue k l) := h.of_cells rfl rfl

theorem State.takeLink_spares {P : Nat → Prop} (s : State) (c : Nat) : s.Spares P (s.takeLink c) := by
  unfold State.takeLink
  split
  · exact .refl s
  · exact ((State.Spares.refl s).setChain c _).setQueue _ _

theorem State.chainCleared_spares {P : Nat → Prop} (s : State) (c : Nat) : s.Spares P (s.chainCleared c) :=
  (((State.Spares.refl s).setChain c _).setQueue _ _).trans (State.takeLink_spares _ c)

theorem State.takeLink_parts (s : State) (c : Nat) : (s.takeLink c).cell = s.cell ∧ (s.takeLink c).pwr = s.pwr := by
  unfold State.takeLink
  split <;> exact ⟨rfl, rfl⟩

theorem State.chainCleared_parts (s : State) (c : Nat) : (s.chainCleared c).cell = s.cell ∧ (s.chainCleared c).pwr = s.pwr :=
  State.takeLink_parts _ c

/-- The direction that is shown, on the cell and on its chain, and the change's time and count (R228). -/
theorem State.dirShown_shows (s : State) (c : Fin 48) {dir ns : Nat} (hdir : dir ≤ 1) (hns : ns < 2 ^ 32) :
    (s.dirShown c dir ns).g (AC_STAT_dir c) = dir ∧ (s.dirShown c dir ns).bit (AC_STAT_changing c) = false ∧
      (s.dirShown c dir ns).g (FC_STAT_interp c) = dir ∧ ((s.dirShown c dir ns).rd (AC_DIR_TIME c)).toNat = ns ∧
      (s.dirShown c dir ns).g (cnt16 (AC_DIR_CNT c)) = min (s.g (cnt16 (AC_DIR_CNT c)) + 1) 65535 := by
  have htime (t : State) (v : W32) : t.Spares (Off [AC_DIR_TIME c]) (t.wr (AC_DIR_TIME c) v) :=
    (State.Spares.refl t).wr (not_off_of_mem (by simp)) v
  have hcount (t : State) : t.Spares (Off [AC_DIR_CNT c]) (t.inc (cnt16 (AC_DIR_CNT c))) :=
    (State.Spares.refl t).inc (not_off_of_mem (by simp [cnt16]))
  have hinterp (t : State) : t.Spares (Off [FC_STAT c]) (t.p (FC_STAT_interp c) dir) :=
    (State.Spares.refl t).p (not_off_of_mem (by simp)) dir
  have hcell : s.Spares (Off [AC_STAT c]) ((s.p (AC_STAT_dir c) dir).pb (AC_STAT_changing c) false) :=
    ((State.Spares.refl s).p (f := AC_STAT_dir c) (not_off_of_mem (by simp)) dir).pb (f := AC_STAT_changing c)
      (not_off_of_mem (by simp)) false
  have hchainStat : ∀ c : Fin 48, Off [AC_DIR_TIME c] (FC_STAT c) ∧ Off [AC_DIR_CNT c] (FC_STAT c) := by decide
  have hstat : ∀ c : Fin 48, Off [FC_STAT c] (AC_STAT c) ∧ Off [FC_STAT c] (AC_DIR_CNT c) := by decide
  have hbit : dir % 2 ^ 1 = dir := Nat.mod_eq_of_lt (by omega)
  refine ⟨?_, ?_, ?_, ?_, ?_⟩
  · rw [State.dirShown, (htime _ _).g (by simp [Off]), (hcount _).g (by simp [Off]), (hinterp _).g (hstat c).1, State.pb,
      State.g_p_ne _ _ _ _ (by simp) (by simp) (.inr (.inl (by simp))), State.g_p_same _ _ _ (by simp) (by simp)]
    exact hbit
  · rw [State.dirShown, (htime _ _).bit (by simp [Off]), (hcount _).bit (by simp [Off]), (hinterp _).bit (hstat c).1]
    exact State.bit_pb_same _ _ false (by simp) (by simp)
  · rw [State.dirShown, (htime _ _).g (hchainStat c).1, (hcount _).g (hchainStat c).2,
      State.g_p_same _ _ _ (by simp) (by simp)]
    exact hbit
  · rw [State.dirShown, State.rd_wr_same, BitVec.toNat_ofNat, Nat.mod_eq_of_lt hns]
  · rw [State.dirShown, (htime _ _).g (by simp [Off, cnt16]), State.g_inc_cnt16, (hinterp _).g (hstat c).2,
      hcell.g (by simp [Off, cnt16])]

/-- The parts of `stood` behind the registers of the direction: they leave every register but the chain's status. -/
theorem State.stood_spares_shown (s : State) (c dir ns : Nat) :
    (s.dirShown c dir ns).Spares (Off [FC_STAT c]) (s.stood c dir ns) :=
  (((State.Spares.refl _).setCell c _).trans (State.chainCleared_spares _ c)).pb (f := FC_STAT_settling c)
    (not_off_of_mem (by simp)) false

theorem State.stood_spares (s : State) (c dir ns : Nat) : s.Spares (Off (dirRegs c)) (s.stood c dir ns) :=
  (s.dirShown_spares c dir ns).trans ((s.stood_spares_shown c dir ns).off_mono (by simp))

theorem State.stood_changing (s : State) (c dir ns : Nat) : ((s.stood c dir ns).cellSt c).changing = none := by
  have hcell : (s.stood c dir ns).cell = ((s.dirShown c dir ns).setCell c { (s.dirShown c dir ns).cellSt c with
      changing := none, heldOut := none, lineDue := none }).cell := (State.chainCleared_parts _ c).1
  rw [State.cellSt, hcell]
  exact congrArg CellSt.changing (State.setCell_cellSt _ c _)

theorem State.stood_cellUp (s : State) (c : Fin 48) (dir ns : Nat) : (s.stood c dir ns).cellUp c = s.cellUp c :=
  State.cellUp_of_rd ((State.chainCleared_parts _ c).2)
    ((s.stood_spares c dir ns).rd _ (by simp [Off, dirRegs, cellReg_ne_chainReg]))

/-- What a cell shows that stands in a new direction. -/
theorem State.stood_shows (s : State) (c : Fin 48) {dir ns : Nat} (hdir : dir ≤ 1) (hns : ns < 2 ^ 32) :
    (s.stood c dir ns).g (AC_STAT_dir c) = dir ∧ (s.stood c dir ns).bit (AC_STAT_changing c) = false ∧
      (s.stood c dir ns).g (FC_STAT_interp c) = dir ∧ ((s.stood c dir ns).rd (AC_DIR_TIME c)).toNat = ns ∧
      (s.stood c dir ns).g (cnt16 (AC_DIR_CNT c)) = min (s.g (cnt16 (AC_DIR_CNT c)) + 1) 65535 ∧
      (s.stood c dir ns).bit (FC_STAT_settling c) = false := by
  have hlater := s.stood_spares_shown c dir ns
  have hoff : ∀ c : Fin 48, Off [FC_STAT c] (AC_STAT c) ∧ Off [FC_STAT c] (AC_DIR_TIME c) ∧
    Off [FC_STAT c] (AC_DIR_CNT c) := by decide
  obtain ⟨hstat, htimeReg, hcountReg⟩ := hoff c
  obtain ⟨hdirection, hchanging, hinterp, htime, hcount⟩ := s.dirShown_shows c hdir hns
  refine ⟨(hlater.g hstat).trans hdirection, (hlater.bit hstat).trans hchanging, ?_, ?_, (hlater.g hcountReg).trans hcount,
    State.bit_pb_same _ _ false (by simp) (by simp)⟩
  · refine (State.g_p_ne _ _ _ _ (by simp) (by simp) (.inr (.inr (by simp)))).trans ?_
    refine Eq.trans ?_ hinterp
    exact State.Spares.g (P := fun _ => True) (((State.Spares.refl _).setCell c _).trans (State.chainCleared_spares _ c)) trivial
  · rw [hlater.rd _ htimeReg, htime]

theorem State.when_true (s : State) (f : State → State) : s.when true f = f s := rfl

theorem State.when_false (s : State) (f : State → State) : s.when false f = s := rfl

/-- What a cell shows that stands in a new direction, whether or not it begins to convert. -/
theorem State.stood_when_shows (s : State) (c : Fin 48) (b : Bool) {dir ns : Nat} (hdir : dir ≤ 1) (hns : ns < 2 ^ 32) :
    let t := (s.stood c dir ns).when b (fun s => s.adcBegins c)
    (t.cellSt c).changing = none ∧ t.g (AC_STAT_dir c) = dir ∧ t.bit (AC_STAT_changing c) = false ∧
      t.g (FC_STAT_interp c) = dir ∧ (t.rd (AC_DIR_TIME c)).toNat = ns ∧
      t.g (cnt16 (AC_DIR_CNT c)) = min (s.g (cnt16 (AC_DIR_CNT c)) + 1) 65535 ∧ t.bit (FC_STAT_settling c) = b := by
  obtain ⟨hdirection, hchanging, hinterp, htime, hcount, hsettling⟩ := s.stood_shows c hdir hns
  cases b with
  | false =>
    rw [State.when_false]
    exact ⟨s.stood_changing c dir ns, hdirection, hchanging, hinterp, htime, hcount, hsettling⟩
  | true =>
    rw [State.when_true]
    have hspares := (s.stood c dir ns).adcBegins_spares c
    have hstat := (s.stood c dir ns).adcBegins_chainStat c
    have hoff : ∀ c : Fin 48, Off (FC_STAT c :: suspectRegs c) (AC_DIR_TIME c) ∧
      Off (FC_STAT c :: suspectRegs c) (AC_DIR_CNT c) := by decide
    refine ⟨(State.adcBegins_changing _ c).trans (s.stood_changing c dir ns), ?_, ?_, ?_, ?_, ?_, ?_⟩
    · exact (State.adcBegins_stat _ c (by decide) (by decide)).trans hdirection
    · exact (congrArg (· != 0) (State.adcBegins_stat _ c (by decide) (by decide))).trans hchanging
    · exact (State.g_of_rd hstat).trans
        ((State.g_p_ne _ _ _ _ (by simp) (by simp) (.inr (.inr (by simp)))).trans hinterp)
    · exact (congrArg BitVec.toNat (hspares.rd _ (hoff c).1)).trans htime
    · exact (hspares.g (hoff c).2).trans hcount
    · exact (State.bit_of_rd hstat).trans (State.bit_pb_same _ _ true (by simp) (by simp))

theorem State.chainFlush_of_empty {s : State} {c : Nat} (h : (s.chain c).acc = []) (last : Bool) : s.chainFlush c last = s := by
  rw [State.chainFlush, h]
  rfl

/-- A chain that leaves DAC direction, or that has gathered nothing, delivers nothing as its cell turns. -/
theorem State.flushed_of_none {s : State} {c dir : Nat} (h : dir = 0 ∨ (s.chain c).acc = []) :
    s.when (dir == 1) (fun s => s.chainFlush c true) = s := by
  obtain rfl | h := h
  · rfl
  · rw [State.when, State.chainFlush_of_empty h, ite_self]

theorem exec_directionChangeComplete_of_changing (at_ : TT) (c : Fin 48) (from_ dir : Nat) (s : State) :
    let u := s.atTime at_
    (u.cellSt c).changing = some (from_, dir) → dir ≤ 1 → u.now ≤ from_ + 2000 →
    ∃ t, exec (.directionChangeComplete at_ c) s = .next t ∧ (t.cellSt c).changing = none ∧ t.g (AC_STAT_dir c) = dir ∧
      t.bit (AC_STAT_changing c) = false ∧ t.g (FC_STAT_interp c) = dir ∧
      (t.rd (AC_DIR_TIME c)).toNat = u.now - from_ ∧
      (dir = 0 ∨ (u.chain c).acc = [] →
        t.g (cnt16 (AC_DIR_CNT c)) = min (s.g (cnt16 (AC_DIR_CNT c)) + 1) 65535 ∧
        t.bit (FC_STAT_settling c) = (dir == 0 && u.cellUp c) ∧
        keepsRegs s t [AC_STAT c, FC_STAT c, AC_DIR_CNT c, AC_DIR_TIME c, AC_STICKY c, AC_SUSPECT_CNT c] ∧
        keepsMemory s t) := by
  intro u hcell hdir hnow
  have hexec : exec (.directionChangeComplete at_ c) s = .next ((u.turned c).ended s) := rfl
  rw [State.turned_of_changing hcell hnow, State.stands_eq, State.stood_cellUp] at hexec
  obtain ⟨hchanging, hdirection, hstat, hinterp, htime, hcount, hsettling⟩ :=
    (u.when (dir == 1) (fun s => s.chainFlush c true)).stood_when_shows c
      (dir == 0 && (u.when (dir == 1) (fun s => s.chainFlush c true)).cellUp c) hdir (ns := u.now - from_) (by omega)
  refine ⟨_, hexec, ?_, ?_, ?_, ?_, ?_, fun hnone => ?_⟩
  · rw [State.ended_cellSt, hchanging]
  · rw [State.ended_g _ _ (endsOn_cellReg c (by decide) (by decide)), hdirection]
  · rw [State.ended_bit _ _ (endsOn_cellReg c (by decide) (by decide)), hstat]
  · rw [State.ended_g _ _ (endsOn_chainReg c (by decide) (by decide)), hinterp]
  · rw [State.ended_rd _ _ (endsOn_cellReg c (by decide) (by decide)), htime]
  · rw [State.flushed_of_none hnone] at hcount hsettling ⊢
    have hspares : u.Spares (Off [AC_STAT c, FC_STAT c, AC_DIR_CNT c, AC_DIR_TIME c, AC_STICKY c, AC_SUSPECT_CNT c])
        ((u.stood c dir (u.now - from_)).when (dir == 0 && u.cellUp c) (fun s => s.adcBegins c)) :=
      ((u.stood_spares c dir _).off_mono (by simp)).when _ fun s => (s.adcBegins_spares c).off_mono (by simp)
    refine ⟨?_, ?_, keepsRegs_of_off hspares, keepsMemory_of_spares hspares⟩
    · rw [State.ended_g _ _ (endsOn_cellReg c (by decide) (by decide)), hcount, State.atTime_g]
    · rw [State.ended_bit _ _ (endsOn_chainReg c (by decide) (by decide)), hsettling]

end Sys2Proof.Machine
end

section
/-! The stages of a chain: the settings that come into force at a sample, the DC block on its way, the codes of the DAC, and
what they leave (R250–R265). -/

open Sys2Proof Sys2Proof.Machine

namespace Sys2Proof.Machine

/-! ### Settings that come into force -/

/-- What settings that come into force change of a chain: the response shown, and in the chain its link, its phase delay and
the marks that they bring; slices that wait go where nothing of one is in use (R254, R256, R258). -/
structure State.Applies (c : Nat) (s t : State) : Prop where
  spares : s.Spares (Off [FC_STAT c, FC_RESP_CHG_CNT c]) t
  preset : t.g (FC_STAT_preset c) = s.g (FC_STAT_preset c)
  chain : ∃ l p m, t.chain c = { s.chain c with link := l, phase := p, suspLeft := m }
  cell : t.cell = s.cell
  tb : t.tb = s.tb
  queue : t.queue (chainKey c) = s.queue (chainKey c) ∨ t.queue (chainKey c) = [] ∧ (s.chain c).input.data = []

theorem State.Applies.refl (c : Nat) (s : State) : s.Applies c s :=
  ⟨.refl s, rfl, ⟨_, _, _, rfl⟩, rfl, rfl, .inl rfl⟩

theorem State.Applies.trans {c : Nat} {s t u : State} (h : s.Applies c t) (h' : t.Applies c u) : s.Applies c u := by
  obtain ⟨l, p, m, hchain⟩ := h.chain
  obtain ⟨l', p', m', hchain'⟩ := h'.chain
  refine ⟨h.spares.trans h'.spares, h'.preset.trans h.preset, ⟨l', p', m', by rw [hchain', hchain]⟩, h'.cell.trans h.cell,
    h'.tb.trans h.tb, ?_⟩
  obtain hq' | ⟨hq', hdata⟩ := h'.queue
  · rw [hq']
    exact h.queue
  · rw [hchain] at hdata
    exact .inr ⟨hq', hdata⟩

/-- A chain's phase delay and the marks that a setting brings are set. -/
theorem State.applies_setChain (s : State) (c p m : Nat) :
    s.Applies c (s.setChain c { s.chain c with phase := p, suspLeft := m }) :=
  ⟨(State.Spares.refl s).setChain c _, rfl, ⟨_, p, m, s.setChain_chain c _⟩, rfl, rfl, .inl rfl⟩

theorem State.queue_setQueue_same (s : State) (k : Nat) (l : List QSlice) : (s.setQueue k l).queue k = l :=
  Tab.get_set_same _ _ _ _

/-- A new link drops the slices that wait (R258). -/
theorem State.applies_takeLink {s : State} {c : Nat} (h : (s.chain c).input.data = []) : s.Applies c (s.takeLink c) := by
  unfold State.takeLink
  split
  · exact .refl c s
  · exact ⟨((State.Spares.refl s).setChain c _).setQueue _ _, rfl, ⟨_, _, _, s.setChain_chain c _⟩, rfl, rfl,
      .inr ⟨State.queue_setQueue_same _ _ _, h⟩⟩

/-- A response comes into force (R254). -/
theorem State.applies_resp (s : State) (c r : Nat) :
    s.Applies c ((s.p (FC_STAT_resp c) r).inc (cnt16 (FC_RESP_CHG_CNT c))) := by
  have hcount (t : State) : t.Spares (Off [FC_RESP_CHG_CNT c]) (t.inc (cnt16 (FC_RESP_CHG_CNT c))) :=
    (State.Spares.refl t).inc (not_off_of_mem (by simp [cnt16]))
  refine ⟨((State.Spares.refl s).p (f := FC_STAT_resp c) (not_off_of_mem (by simp)) r).inc (f := cnt16 (FC_RESP_CHG_CNT c))
    (not_off_of_mem (by simp [cnt16])), ?_, ⟨_, _, _, rfl⟩, rfl, rfl, .inl rfl⟩
  rw [(hcount _).g (by simp [Off])]
  exact State.g_p_ne s _ _ _ (by simp) (by simp) (.inr (.inl (by simp)))

theorem State.chainApply_applies (s : State) (c : Nat) : s.Applies c (s.chainApply c) := by
  unfold State.chainApply
  extract_lets adc r resp u ph old v
  have hu : s.Applies c u := by
    dsimp only [u]
    split
    · refine (s.applies_resp c r).trans ?_
      unfold State.when
      split
      · exact State.applies_setChain _ c _ _
      · exact .refl c _
    · exact .refl c s
  clear_value u
  have hv : s.Applies c v := by
    dsimp only [v]
    split
    · exact hu
    · exact hu.trans (u.applies_setChain c _ _)
  clear_value v
  split
  next h =>
    rw [Bool.and_eq_true, List.isEmpty_iff, List.isEmpty_iff] at h
    exact hv.trans (State.applies_takeLink h.2)
  next => exact hv

/-! ### The DC block on a sample's way -/

theorem State.dcbStep_cases (s : State) (c : Nat) (up : Bool) :
    s.Spares (Off (FC_STAT c :: dcbRegs c)) (s.dcbStep c up) ∧
      ∃ d, (s.dcbStep c up).chain c = { s.chain c with dcbDue := d } := by
  unfold State.dcbStep
  split
  · exact ⟨.refl s, _, rfl⟩
  · extract_lets old t mode e q num r lo hi
    have hserved : s.Spares (Off (FC_STAT c :: dcbRegs c)) t := (State.Spares.refl s).setChain c _
    have hchain : t.chain c = { s.chain c with dcbDue := none } := s.setChain_chain c _
    clear_value t
    split
    · exact ⟨hserved, none, hchain⟩
    · split
      · exact ⟨hserved.pb (f := FC_STAT_dcb_suspended c) (not_off_of_mem (by simp)) true, none, hchain⟩
      · refine ⟨(hserved.loopDone (set := FC_DCB_SET_e c) (not_off_of_mem (by simp)) (not_off_of_mem (by simp))
          (not_off_of_mem (by simp)) _ _).pb (f := FC_STAT_dcb_suspended c) (not_off_of_mem (by simp)) false, none, ?_⟩
        rw [← hchain]
        obtain ⟨_, _, _, hframe⟩ := State.loopDone_frame t (FC_DCB_SET_e c)
          ((loopApply e (e + num / q + r) lo hi).1 % 262144).toNat (FC_DCB_STAT c) (FC_DCB_BOUND_CNT c)
          (loopApply e (e + num / q + r) lo hi).2
        exact (congrArg (fun u : State => u.chain c) hframe).trans rfl

/-- A sample that passes the DC block changes of its chain what the block has gathered, and may make its update (R262). -/
theorem State.dcbTake_cases (s : State) (c : Nat) (v : Int) (m : Marks) :
    s.Spares (Off (FC_STAT c :: dcbRegs c)) (s.dcbTake c v m) ∧ ∃ n sum marked due, (s.dcbTake c v m).chain c =
      { s.chain c with dcbCount := n, dcbSum := sum, dcbMarked := marked, dcbDue := due } := by
  unfold State.dcbTake
  split
  · exact ⟨.refl s, _, _, _, _, rfl⟩
  · extract_lets f sum marked made kept
    split
    · exact ⟨(State.Spares.refl s).setChain c _, _, _, _, _, s.setChain_chain c _⟩
    · have hmade : s.Spares (Off (FC_STAT c :: dcbRegs c)) made ∧ ∃ d, made.chain c = { s.chain c with dcbDue := d } := by
        dsimp only [made]
        split
        · exact ⟨.refl s, _, rfl⟩
        · obtain ⟨hspares, d, hchain⟩ := (s.drawIn 0 1).2.dcbStep_cases c ((s.drawIn 0 1).1 == 1)
          exact ⟨((State.Spares.refl s).drawIn 0 1).trans hspares, d, hchain⟩
      clear_value made
      obtain ⟨hspares, d, hchain⟩ := hmade
      refine ⟨hspares.setChain c _, 0, 0, false, some (sum, marked), ?_⟩
      dsimp only [kept]
      rw [State.setChain_chain, hchain]

/-! ### Codes for the DAC -/

/-- The registers that the stages of a chain in DAC direction change behind its format stage (R238, R262). -/
abbrev stageRegs (c : Nat) : List Nat := FC_STAT c :: dcbRegs c ++ [AC_STICKY c, AC_DAC_CLAMP_CNT c]

theorem State.dacCode_cases (s : State) (c : Nat) (v : Int) : s.Spares (Off (stageRegs c)) (s.dacCode c v) ∧
    ∃ run out, (s.dacCode c v).chain c = { s.chain c with dacRun := run, dacOut := out } := by
  unfold State.dacCode
  extract_lets past counted flagged kept
  have hcounted : s.Spares (Off (stageRegs c)) counted := (State.Spares.refl s).when _ fun s =>
    (State.Spares.refl s).inc (f := cnt16 (AC_DAC_CLAMP_CNT c)) (not_off_of_mem (by simp [cnt16]))
  have hflagged : s.Spares (Off (stageRegs c)) flagged := hcounted.when _ fun s =>
    (State.Spares.refl s).pb (f := AC_STICKY_dac_clamp c) (not_off_of_mem (by simp)) true
  have hfc : flagged.fc = s.fc :=
    (State.when_keeps State.fc _ _ counted rfl).trans (State.when_keeps State.fc _ _ s rfl)
  have hchain : flagged.chain c = s.chain c := by rw [State.chain, State.chain, hfc]
  refine ⟨hflagged.setChain c _, past, clampInt (-8192) 8191 v, ?_⟩
  dsimp only [kept]
  rw [State.setChain_chain, hchain]

theorem State.dacStages_spares (s : State) (c : Nat) (v : Int) (m : Marks) : s.Spares (Off (stageRegs c)) (s.dacStages c v m) := by
  unfold State.dacStages
  extract_lets f past y hist t resp
  have ht : s.Spares (Off (stageRegs c)) t :=
    ((State.Spares.refl s).setChain c _).trans ((State.dcbTake_cases _ c y m).1.off_mono (by simp))
  exact ht.each (fun s k => (s.dacCode_cases c _).1) _

theorem State.dcbTake_underRun (s : State) (c : Nat) (v : Int) (m : Marks) :
    ((s.dcbTake c v m).chain c).underRun = (s.chain c).underRun := by
  obtain ⟨-, _, _, _, _, hchain⟩ := s.dcbTake_cases c v m
  rw [hchain]

theorem State.dacCode_underRun (s : State) (c : Nat) (v : Int) :
    ((s.dacCode c v).chain c).underRun = (s.chain c).underRun := by
  obtain ⟨-, _, _, hchain⟩ := s.dacCode_cases c v
  rw [hchain]

/-- The stages leave whether a run of substituted samples is under way. -/
theorem State.dacStages_underRun (s : State) (c : Nat) (v : Int) (m : Marks) :
    ((s.dacStages c v m).chain c).underRun = (s.chain c).underRun := by
  unfold State.dacStages
  extract_lets f past y hist t resp
  have ht : (t.chain c).underRun = (s.chain c).underRun := by
    dsimp only [t]
    rw [State.dcbTake_underRun, State.setChain_chain]
  exact (State.each_keeps (fun s => (s.chain c).underRun) _ _ (fun s _ _ => s.dacCode_underRun c _) t).trans ht

/-! ### Input samples -/

/-- The input sample that a chain in DAC direction comes to, with the slices behind it (R260). -/
def dacTaken (video : Bool) (r : RasterSt) (pos : Nat) (input : DacIn) (wait : List QSlice) : DacIn × List QSlice :=
  let lines := match formatOf r.format with | some x => x.lines | none => 1
  if video && r.running then DacIn.seek r.lineNo lines pos input wait else DacIn.fill (if video then 1 else 2) input wait

/-- Whether that sample is the one for a place of the present line (R260). -/
def dacFits (video : Bool) (r : RasterSt) (pos : Nat) (w : DacIn) : Bool :=
  if video && r.running then w.line == r.lineNo && w.pos == pos && !w.data.isEmpty
  else decide ((if video then 1 else 2) ≤ w.data.length)

/-- What a chain comes to at its input. -/
def State.dacTaken (s : State) (c : Nat) : DacIn × List QSlice :=
  Machine.dacTaken (isVideo (s.g (FC_STAT_preset c))) (s.rg (s.keyRg c)) (s.chain c).pos (s.chain c).input (s.queue (chainKey c))

/-- Whether the input sample that a chain needs has arrived. -/
def State.dacFits (s : State) (c : Nat) : Bool :=
  Machine.dacFits (isVideo (s.g (FC_STAT_preset c))) (s.rg (s.keyRg c)) (s.chain c).pos (s.dacTaken c).1

/-- Input is taken from what waits at the chain, and kept in the chain. -/
theorem State.dacInput_cases (s : State) (c : Nat) : ∃ i x, s.dacInput c =
    (i, (s.setQueue (chainKey c) (s.dacTaken c).2).setChain c { s.chain c with input := x }) ∧ i.isNone = !s.dacFits c := by
  have heq : s.dacInput c = if s.dacFits c then
      (some ((s.dacTaken c).1.data.take (if isVideo (s.g (FC_STAT_preset c)) then 1 else 2)),
        (s.setQueue (chainKey c) (s.dacTaken c).2).setChain c { s.chain c with input := { (s.dacTaken c).1 with
          data := (s.dacTaken c).1.data.drop (if isVideo (s.g (FC_STAT_preset c)) then 1 else 2),
          pos := (s.dacTaken c).1.pos + 1 } })
      else (none, (s.setQueue (chainKey c) (s.dacTaken c).2).setChain c { s.chain c with input := (s.dacTaken c).1 }) := rfl
  rw [heq]
  split
  next h => exact ⟨_, _, rfl, by rw [h]; rfl⟩
  next h => exact ⟨_, _, rfl, by rw [Bool.eq_false_iff.mpr h]; rfl⟩

/-- Whether the sample has arrived rests on the preset, the raster, the chain's input and what waits at it. -/
theorem State.dacFits_congr {s t : State} {c : Nat} (hpreset : t.g (FC_STAT_preset c) = s.g (FC_STAT_preset c))
    (htb : t.tb = s.tb) (hkey : t.g (AC_CTL_key_bt c) = s.g (AC_CTL_key_bt c)) (hpos : (t.chain c).pos = (s.chain c).pos)
    (hinput : (t.chain c).input = (s.chain c).input) (hqueue : t.queue (chainKey c) = s.queue (chainKey c)) :
    t.dacFits c = s.dacFits c := by
  have hrg : t.rg (t.keyRg c) = s.rg (s.keyRg c) := by
    rw [State.rg, State.rg, State.keyRg, State.keyRg, State.bt, State.bt, htb, hkey]
  rw [State.dacFits, State.dacFits, State.dacTaken, State.dacTaken, hpreset, hrg, hpos, hinput, hqueue]

/-- Where nothing waits no sample has arrived. -/
theorem State.dacFits_of_empty {s : State} {c : Nat} (hinput : (s.chain c).input.data = [])
    (hqueue : s.queue (chainKey c) = []) : s.dacFits c = false := by
  rw [State.dacFits, State.dacTaken, hqueue, Machine.dacFits, Machine.dacTaken]
  split
  · have hskip (line lines pos : Nat) : (((s.chain c).input.skip line lines pos).data).isEmpty = true := by
      unfold DacIn.skip
      split_ifs <;> simp [hinput]
    simp [DacIn.seek, hskip]
  · rw [DacIn.fill, hinput]
    split <;> rfl

/-! ### Samples in DAC direction -/

theorem State.newLine_congr {s t : State} {c : Nat} (htb : t.tb = s.tb) (hkey : t.g (AC_CTL_key_bt c) = s.g (AC_CTL_key_bt c))
    (prev : Nat) : t.newLine c prev = s.newLine c prev := by
  have hkeyRg : t.keyRg c = s.keyRg c := by rw [State.keyRg, State.keyRg, State.bt, State.bt, htb, hkey]
  rw [State.newLine, State.newLine, State.rgRuns, State.rgRuns, hkeyRg, State.rg, State.rg, htb]

/-- A chain in DAC direction comes to a sample: settings come into force, and the place in the line goes on (R254, R260). -/
def State.sampleComes (s : State) (c prev : Nat) : State :=
  let s := s.chainApply c
  s.setChain c { s.chain c with pos := if s.newLine c prev then 0 else (s.chain c).pos + 1 }

section
variable {s t : State} {c prev : Nat} {i : Option (List Sample)} (h : (s.sampleComes c prev).dacInput c = (i, t))

include h

theorem State.dacSample_of_none (hnone : i = none) (hstill : (t.cellSt c).changing = none) :
    s.dacSample c prev = t.dacUnderrun c := by
  subst hnone
  unfold State.dacSample
  extract_lets applied oldChain placed
  rw [show placed.dacInput c = (none, t) from h]
  simp [hstill]

/-- What follows the look at the input: nothing in a change of direction, the input sample with its count, or one in its
place (R258–R260). -/
theorem State.dacSample_cases : s.dacSample c prev = t ∨ s.dacSample c prev = t.dacUnderrun c ∨
    s.dacSample c prev = t.incWrap (word (FC_SAMPLE_CNT c)) ∨
    ∃ l, s.dacSample c prev = (t.incWrap (word (FC_SAMPLE_CNT c))).dacTake c l := by
  unfold State.dacSample
  extract_lets applied oldChain placed
  rw [show placed.dacInput c = (i, t) from h]
  cases i with
  | none =>
    dsimp only
    split
    · exact .inl rfl
    · exact .inr (.inl rfl)
  | some l =>
    dsimp only
    split
    · exact .inr (.inr (.inl rfl))
    · exact .inr (.inr (.inr ⟨l, rfl⟩))

end

theorem State.sampleComes_spares (s : State) (c prev : Nat) :
    s.Spares (Off [FC_STAT c, FC_RESP_CHG_CNT c]) (s.sampleComes c prev) := (s.chainApply_applies c).spares.setChain c _

theorem State.sampleComes_cell (s : State) (c prev : Nat) : (s.sampleComes c prev).cell = s.cell :=
  (s.chainApply_applies c).cell

/-- An input sample that is missing is still missing when settings have come into force (R258, R260). -/
theorem State.sampleComes_fits {s : State} {c : Fin 48} {prev : Nat}
    (h : State.dacFits (s.setChain c { s.chain c with pos := if s.newLine c prev then 0 else (s.chain c).pos + 1 }) c = false) :
    (s.sampleComes c prev).dacFits c = false := by
  have happly := s.chainApply_applies c
  have hkey : (s.chainApply c).g (AC_CTL_key_bt c) = s.g (AC_CTL_key_bt c) :=
    happly.spares.g (by simp [Off, cellReg_ne_chainReg])
  obtain ⟨l, p, m, hchain⟩ := happly.chain
  have hinput : ((s.sampleComes c prev).chain c).input = (s.chain c).input := by
    rw [State.sampleComes, State.setChain_chain, hchain]
  obtain hqueue | ⟨hqueue, hdata⟩ := happly.queue
  · refine (State.dacFits_congr (t := s.sampleComes c prev) (s := s.setChain c _) happly.preset happly.tb hkey ?_ ?_ hqueue).trans h
    · rw [State.sampleComes, State.setChain_chain, State.setChain_chain, hchain, State.newLine_congr happly.tb hkey]
    · rw [hinput, State.setChain_chain]
  · exact State.dacFits_of_empty (hinput ▸ hdata) hqueue

/-- A sample that is substituted is counted once in its run, and flagged (R260). -/
def State.underrunNoted (s : State) (c : Nat) : State :=
  ((s.when (!(s.chain c).underRun) (fun s => s.inc (cnt16 (FC_UNDERRUN_CNT c)))).pb (FC_STICKY_underrun c) true).setChain c
    { s.chain c with underRun := true }

theorem State.dacUnderrun_eq (s : State) (c : Nat) : ∃ v m, s.dacUnderrun c = (s.underrunNoted c).dacStages c v m := by
  unfold State.dacUnderrun
  extract_lets f counted noted
  split <;> exact ⟨_, _, rfl⟩

theorem State.underrunNoted_spares (s : State) (c : Nat) :
    s.Spares (Off [FC_UNDERRUN_CNT c, FC_STICKY c]) (s.underrunNoted c) :=
  (((State.Spares.refl s).when _ fun s => (State.Spares.refl s).inc (f := cnt16 (FC_UNDERRUN_CNT c))
    (not_off_of_mem (by simp [cnt16]))).pb (f := FC_STICKY_underrun c) (not_off_of_mem (by simp)) true).setChain c _

theorem State.underrunNoted_shows (s : State) (c : Nat) : ((s.underrunNoted c).chain c).underRun = true ∧
    (s.underrunNoted c).bit (FC_STICKY_underrun c) = true ∧ (s.underrunNoted c).g (cnt16 (FC_UNDERRUN_CNT c)) =
      min (s.g (cnt16 (FC_UNDERRUN_CNT c)) + (if (s.chain c).underRun then 0 else 1)) 65535 := by
  refine ⟨?_, State.bit_pb_same _ _ true (by simp) (by simp), ?_⟩
  · rw [State.underrunNoted, State.setChain_chain]
  · refine (State.g_of_rd (State.rd_p_ne _ (by simp [cnt16]) _)).trans ?_
    cases (s.chain c).underRun with
    | true =>
      have hlt := s.g_lt (cnt16 (FC_UNDERRUN_CNT c))
      simp only [cnt16] at hlt ⊢
      simp only [Bool.not_true, State.when_false, if_true]
      omega
    | false => exact s.g_inc_cnt16 _

theorem State.dacUnderrun_spares (s : State) (c : Nat) :
    s.Spares (Off ([FC_UNDERRUN_CNT c, FC_STICKY c] ++ stageRegs c)) (s.dacUnderrun c) := by
  obtain ⟨v, m, h⟩ := s.dacUnderrun_eq c
  rw [h]
  exact ((s.underrunNoted_spares c).off_mono (List.subset_append_left _ _)).trans
    ((State.dacStages_spares _ c v m).off_mono (List.subset_append_right _ _))

theorem State.dacUnderrun_shows (s : State) (c : Fin 48) : ((s.dacUnderrun c).chain c).underRun = true ∧
    (s.dacUnderrun c).bit (FC_STICKY_underrun c) = true ∧ (s.dacUnderrun c).g (cnt16 (FC_UNDERRUN_CNT c)) =
      min (s.g (cnt16 (FC_UNDERRUN_CNT c)) + (if (s.chain c).underRun then 0 else 1)) 65535 := by
  obtain ⟨v, m, h⟩ := s.dacUnderrun_eq c
  obtain ⟨hrun, hsticky, hcount⟩ := s.underrunNoted_shows c
  have hoff : ∀ c : Fin 48, Off (stageRegs c) (FC_STICKY c) ∧ Off (stageRegs c) (FC_UNDERRUN_CNT c) := by decide
  have hstages := State.dacStages_spares (s.underrunNoted c) c v m
  rw [h]
  exact ⟨(State.dacStages_underRun _ c v m).trans hrun, (hstages.bit (hoff c).1).trans hsticky,
    (hstages.g (hoff c).2).trans hcount⟩

/-- An input sample that has arrived is clamped to its legal range, its marks noted, and converted (R259). -/
theorem State.dacTake_spares (s : State) (c : Nat) (l : List Sample) : s.Spares
    (Off ([FC_STICKY c, AC_CLAMP_CNT c, AC_STICKY c] ++ stageRegs c)) (s.dacTake c l) := by
  unfold State.dacTake
  extract_lets m filled saturated v past counted flagged oldChain noted
  have hfilled : s.Spares (Off [FC_STICKY c, AC_CLAMP_CNT c, AC_STICKY c]) filled := (State.Spares.refl s).when _ fun s =>
    (State.Spares.refl s).pb (f := FC_STICKY_in_fill c) (not_off_of_mem (by simp)) true
  have hsaturated : s.Spares (Off [FC_STICKY c, AC_CLAMP_CNT c, AC_STICKY c]) saturated := hfilled.when _ fun s =>
    (State.Spares.refl s).pb (f := FC_STICKY_in_sat c) (not_off_of_mem (by simp)) true
  have hcounted : s.Spares (Off [FC_STICKY c, AC_CLAMP_CNT c, AC_STICKY c]) counted := hsaturated.when _ fun s =>
    (State.Spares.refl s).inc (f := cnt16 (AC_CLAMP_CNT c)) (not_off_of_mem (by simp [cnt16]))
  have hflagged : s.Spares (Off [FC_STICKY c, AC_CLAMP_CNT c, AC_STICKY c]) flagged := hcounted.when _ fun s =>
    (State.Spares.refl s).pb (f := AC_STICKY_clamp c) (not_off_of_mem (by simp)) true
  have hnoted : s.Spares (Off [FC_STICKY c, AC_CLAMP_CNT c, AC_STICKY c]) noted := hflagged.setChain c _
  exact (hnoted.off_mono (List.subset_append_left _ _)).trans
    ((State.dacStages_spares _ c _ m).off_mono (List.subset_append_right _ _))

/-- A sample in DAC direction leaves every register but those of the chain (R259, R260). -/
theorem State.dacSample_spares (s : State) (c prev : Nat) : s.Spares (Off (chainRegs c)) (s.dacSample c prev) := by
  obtain ⟨i, x, hinput, -⟩ := (s.sampleComes c prev).dacInput_cases c
  set t := ((s.sampleComes c prev).setQueue (chainKey c) ((s.sampleComes c prev).dacTaken c).2).setChain c
    { (s.sampleComes c prev).chain c with input := x }
  have ht : s.Spares (Off (chainRegs c)) t :=
    (((s.sampleComes_spares c prev).off_mono (by simp [chainRegs])).setQueue _ _).setChain c _
  have hcount : s.Spares (Off (chainRegs c)) (t.incWrap (word (FC_SAMPLE_CNT c))) :=
    ht.incWrap (not_off_of_mem (by simp [word, chainRegs]))
  obtain h | h | h | ⟨l, h⟩ := State.dacSample_cases hinput
  · rw [h]
    exact ht
  · rw [h]
    exact ht.trans ((t.dacUnderrun_spares c).off_mono (by simp [chainRegs]))
  · rw [h]
    exact hcount
  · rw [h]
    exact hcount.trans ((State.dacTake_spares _ c l).off_mono (by simp [chainRegs]))

/-- Where the input that a chain needs is missing, a sample is substituted (R260). -/
theorem State.dacSample_of_missing {s : State} {c : Fin 48} {prev : Nat} (hstill : (s.cellSt c).changing = none)
    (h : State.dacFits (s.setChain c { s.chain c with pos := if s.newLine c prev then 0 else (s.chain c).pos + 1 }) c = false) :
    ∃ t, s.dacSample c prev = t.dacUnderrun c ∧ s.Spares (Off [FC_STAT c, FC_RESP_CHG_CNT c]) t ∧
      (t.chain c).underRun = (s.chain c).underRun := by
  obtain ⟨i, x, hinput, hnone⟩ := (s.sampleComes c prev).dacInput_cases c
  rw [State.sampleComes_fits h, Bool.not_false, Option.isNone_iff_eq_none] at hnone
  obtain ⟨_, _, _, hchain⟩ := (s.chainApply_applies c).chain
  refine ⟨_, State.dacSample_of_none hinput hnone ?_, ((s.sampleComes_spares c prev).setQueue _ _).setChain c _, ?_⟩
  · have hcell : (s.sampleComes c prev).cellSt c = s.cellSt c := by rw [State.cellSt, State.cellSt, State.sampleComes_cell]
    exact (congrArg CellSt.changing hcell).trans hstill
  · rw [State.setChain_chain, State.sampleComes, State.setChain_chain, hchain]

end Sys2Proof.Machine
end

section
/-! The samples of a chain on its grid, in both directions (R255, R260, R264, R265). -/

open Sys2Proof Sys2Proof.Machine

namespace Sys2Proof.Machine

/-! ### Samples in ADC direction -/

theorem State.codeOf_spares {P : Nat → Prop} (s : State) (c : Nat) (v : Int) : s.Spares P (s.codeOf c v).2 := by
  unfold State.codeOf
  extract_lets q u
  split
  · split
    · exact .refl s
    · exact (State.Spares.refl s).drawIn 0 1
  · exact .refl s

theorem State.codeWords_ne_nil (s : State) (c : Nat) (v : Int) (m : Marks) : s.codeWords c v m ≠ [] := by
  unfold State.codeWords pcmWords
  split <;> exact List.cons_ne_nil _ _

/-- A sample in ADC direction as far as its code: a full slice goes, settings come into force, and the stages compute
(R250, R258, R261). -/
def State.adcStaged (s : State) (c : Nat) (value : Int) (prev : Nat) : State :=
  let ends := isVideo (s.g (FC_STAT_preset c)) && s.newLine c prev
  let s := (if ends || decide (s.sliceFull c ≤ (s.chain c).acc.length) then s.chainFlush c ends else s).chainApply c
  let r := s.adcStages c (if (s.cellSt c).changing.isSome then (s.chain c).hist.headD 0 else value)
  (r.2.2.codeOf c r.1).2

/-- The marks of a sample in ADC direction and its peak are shown (R234). -/
def State.adcShown (s : State) (c : Nat) (counts clamps marks : Bool) : State :=
  let s := s.when counts (fun s => s.inc (cnt16 (AC_CLAMP_CNT c)))
  let s := s.when clamps (fun s => s.pb (AC_STICKY_clamp c) true)
  let s := s.when marks (fun s => s.markBegins c)
  (s.drawIn 0 32767).2.raise (cnt16 (AC_PEAK c)) (s.drawIn 0 32767).1

/-- A sample in ADC direction is gathered into the slice, passes the DC block, and is counted. -/
theorem State.adcSample_eq (s : State) (c : Nat) (value : Int) (prev : Nat) : ∃ counts clamps marks settled x v m,
    s.adcSample c value prev = (((((s.adcStaged c value prev).adcShown c counts clamps marks).setChain c x).when settled
      (fun s => s.pb (FC_STAT_settling c) false)).dcbTake c v m).incWrap (word (FC_SAMPLE_CNT c)) ∧ x.acc ≠ [] :=
  ⟨_, _, _, _, _, _, _, rfl, List.append_ne_nil_of_right_ne_nil _ (State.codeWords_ne_nil _ c _ _)⟩

/-- The registers that a sample in ADC direction changes beside its count. -/
abbrev adcRegs (c : Nat) : List Nat :=
  [FC_STAT c, FC_RESP_CHG_CNT c, AC_CLAMP_CNT c, AC_STICKY c, AC_PEAK c, FC_DCB_SET c, FC_DCB_STAT c, FC_DCB_BOUND_CNT c]

theorem State.adcStaged_spares {s : State} {c : Nat} (hacc : (s.chain c).acc = []) (value : Int) (prev : Nat) :
    s.Spares (Off [FC_STAT c, FC_RESP_CHG_CNT c]) (s.adcStaged c value prev) := by
  unfold State.adcStaged
  extract_lets ends applied staged
  have happlied : s.Spares (Off [FC_STAT c, FC_RESP_CHG_CNT c]) applied := by
    dsimp only [applied]
    rw [State.chainFlush_of_empty hacc, ite_self]
    exact (s.chainApply_applies c).spares
  have hstaged : s.Spares (Off [FC_STAT c, FC_RESP_CHG_CNT c]) staged.2.2 := happlied.setChain c _
  exact hstaged.trans (State.codeOf_spares _ c _)

theorem State.adcShown_spares (s : State) (c : Nat) (counts clamps marks : Bool) :
    s.Spares (Off (adcRegs c)) (s.adcShown c counts clamps marks) := by
  unfold State.adcShown
  extract_lets counted clamped noted
  have hcounted : s.Spares (Off (adcRegs c)) counted := (State.Spares.refl s).when _ fun s =>
    (State.Spares.refl s).inc (f := cnt16 (AC_CLAMP_CNT c)) (not_off_of_mem (by simp [cnt16]))
  have hclamped : s.Spares (Off (adcRegs c)) clamped := hcounted.when _ fun s =>
    (State.Spares.refl s).pb (f := AC_STICKY_clamp c) (not_off_of_mem (by simp)) true
  have hnoted : s.Spares (Off (adcRegs c)) noted := hclamped.when _ fun s => (State.Spares.refl s).markBegins c
  exact (hnoted.drawIn 0 32767).raise (not_off_of_mem (by simp [cnt16])) _

theorem State.incWrap_chain (s : State) (f : Fld) (c : Nat) : (s.incWrap f).chain c = s.chain c := rfl

theorem State.pb_chain (s : State) (f : Fld) (b : Bool) (c : Nat) : (s.pb f b).chain c = s.chain c := rfl

theorem State.dcbTake_acc (s : State) (c : Nat) (v : Int) (m : Marks) : ((s.dcbTake c v m).chain c).acc = (s.chain c).acc := by
  obtain ⟨-, _, _, _, _, hchain⟩ := s.dcbTake_cases c v m
  rw [hchain]

/-- A sample in ADC direction that opens a slice: it is counted, and the slice holds it (R258, R264). -/
theorem State.adcSample_of_empty {s : State} {c : Fin 48} (hacc : (s.chain c).acc = []) (value : Int) (prev : Nat) :
    s.Spares (Off (FC_SAMPLE_CNT c :: adcRegs c)) (s.adcSample c value prev) ∧
      (s.adcSample c value prev).rd (FC_SAMPLE_CNT c) = s.rd (FC_SAMPLE_CNT c) + 1 ∧
      ((s.adcSample c value prev).chain c).acc ≠ [] := by
  obtain ⟨counts, clamps, marks, settled, x, v, m, hsample, hx⟩ := s.adcSample_eq c value prev
  set gathered := (((s.adcStaged c value prev).adcShown c counts clamps marks).setChain c x).when settled
    (fun s => s.pb (FC_STAT_settling c) false) with hgathered
  have hspares : s.Spares (Off (adcRegs c)) gathered :=
    ((((State.adcStaged_spares hacc value prev).off_mono (by simp)).trans
      (State.adcShown_spares _ c counts clamps marks)).setChain c x).when settled fun s =>
        (State.Spares.refl s).pb (f := FC_STAT_settling c) (not_off_of_mem (by simp)) false
  have htaken : s.Spares (Off (adcRegs c)) (gathered.dcbTake c v m) :=
    hspares.trans ((gathered.dcbTake_cases c v m).1.off_mono (by simp))
  have hchain : gathered.chain c = x :=
    (State.when_keeps (fun s => s.chain c) _ settled _ (State.pb_chain _ _ false c)).trans (State.setChain_chain _ c x)
  have hoff : ∀ c : Fin 48, Off (adcRegs c) (FC_SAMPLE_CNT c) := by decide
  rw [hsample]
  refine ⟨(htaken.off_mono (by simp)).incWrap (f := word (FC_SAMPLE_CNT c)) (not_off_of_mem (by simp [word])), ?_, ?_⟩
  · rw [State.rd_incWrap_word, htaken.rd _ (hoff c)]
  · rw [State.incWrap_chain, State.dcbTake_acc, hchain]
    exact hx

/-! ### Samples on the grid -/

/-- Ramps that step change the codes of the gains alone (R221). -/
theorem State.rampStep_spares (s : State) (c : Nat) : s.Spares (Off [AC_GAIN c]) (s.rampStep c) := by
  unfold State.rampStep
  extract_lets x t
  have ht : s.Spares (Off [AC_GAIN c]) t := by
    dsimp only [t]
    split
    · exact .refl s
    · exact ((State.Spares.refl s).p (f := AC_GAIN_gain_a c) (not_off_of_mem (by simp)) _).setCell c _
  clear_value t
  split
  · exact ht
  · exact (ht.p (f := AC_GAIN_gain_b c) (not_off_of_mem (by simp)) _).setCell c _

theorem State.rampStep_chain (s : State) (c : Nat) : (s.rampStep c).chain c = s.chain c := by
  unfold State.rampStep
  extract_lets x t
  have ht : t.chain c = s.chain c := by
    dsimp only [t]
    split <;> rfl
  clear_value t
  split
  · exact ht
  · exact ht

/-- The sample of a chain in its direction (R255). -/
def State.sampleMade (s : State) (c : Nat) (value : Int) : State :=
  let prev := (s.sampleAt.lookup c).getD 0
  if s.bit (AC_STAT_dir c) then s.dacSample c prev else s.adcSample c value prev

theorem State.setSampleAt_rd (s : State) (q : Tab Nat) (a : Nat) : ({ s with sampleAt := q } : State).rd a = s.rd a := rfl

theorem State.setSampleAt_chain (s : State) (q : Tab Nat) (c : Nat) :
    ({ s with sampleAt := q } : State).chain c = s.chain c := rfl

/-- A sample that is due falls at the grid's instant (R255). -/
theorem State.chainSample_of_due {s : State} {c : Nat} (hup : s.cellUp c = true) (hdue : s.sampleDue c = true)
    (value : Int) :
    ∃ q, q.get 0 c = s.gridAt c ∧ s.chainSample c value = { (s.sampleMade c value).rampStep c with sampleAt := q } := by
  refine ⟨(s.sampleMade c value).sampleAt.set c (s.gridAt c), Tab.get_set_same _ 0 _ c, ?_⟩
  rw [State.chainSample, hup, hdue]
  rfl

theorem State.sampleMade_spares {s : State} {c : Fin 48} (value : Int)
    (h : s.bit (AC_STAT_dir c) = true ∨ (s.chain c).acc = []) : s.Spares (Off (chainRegs c)) ((s.sampleMade c value).rampStep c) := by
  have hmade : s.Spares (Off (chainRegs c)) (s.sampleMade c value) := by
    unfold State.sampleMade
    split
    next => exact s.dacSample_spares c _
    next hdir =>
      obtain ⟨hspares, -, -⟩ := State.adcSample_of_empty (h.resolve_left hdir) value ((s.sampleAt.lookup c.val).getD 0)
      exact hspares.off_mono (by simp [chainRegs])
  exact hmade.trans ((State.rampStep_spares _ c).off_mono (by simp [chainRegs]))

theorem exec_chainOutputSample_of_due (at_ : TT) (c : Fin 48) (value : Int) (s : State) :
    let u := s.atTime at_
    u.cellUp c = true → u.sampleDue c = true →
    ∃ t, exec (.chainOutputSample at_ c value) s = .next t ∧ t.sampleAt.get 0 c = u.gridAt c ∧
      (u.bit (AC_STAT_dir c) = false → (u.chain c).acc = [] →
        t.rd (FC_SAMPLE_CNT c) = s.rd (FC_SAMPLE_CNT c) + 1 ∧ (t.chain c).acc ≠ []) ∧
      (u.bit (AC_STAT_dir c) = true ∨ (u.chain c).acc = [] → keepsRegs s t (chainRegs c) ∧ keepsMemory s t) := by
  intro u hup hdue
  have hexec : exec (.chainOutputSample at_ c value) s = .next ((u.chainSample c value).ended s) := rfl
  obtain ⟨q, hq, hsample⟩ := State.chainSample_of_due hup hdue value
  rw [hsample] at hexec
  refine ⟨_, hexec, ?_, fun hdir hacc => ?_, fun h => ?_⟩
  · rw [State.ended_sampleAt, ← hq]
  · obtain ⟨-, hcount, hgathered⟩ := State.adcSample_of_empty hacc value ((u.sampleAt.lookup c.val).getD 0)
    have hmade : u.sampleMade c value = u.adcSample c value ((u.sampleAt.lookup c.val).getD 0) := by
      rw [State.sampleMade, hdir]
      rfl
    have hoff : ∀ c : Fin 48, Off [AC_GAIN c] (FC_SAMPLE_CNT c) := by decide
    constructor
    · rw [State.ended_rd _ _ (endsOn_chainReg c (by decide) (by decide)), State.setSampleAt_rd, hmade,
        (State.rampStep_spares _ c).rd _ (hoff c), hcount, State.atTime_rd]
    · rw [State.ended_chain, State.setSampleAt_chain, hmade, State.rampStep_chain]
      exact hgathered
  · have hspares : u.Spares (Off (chainRegs c)) { (u.sampleMade c value).rampStep c with sampleAt := q } :=
      (State.sampleMade_spares value h).of_cells rfl rfl
    exact ⟨keepsRegs_of_off hspares, keepsMemory_of_spares hspares⟩

/-- What a chain that misses its input is: up in DAC direction, not on the change, at a sample that is due and that has not
arrived (R260). -/
theorem State.of_dacMissing {s : State} {c : Nat} (h : s.dacMissing c = true) : s.cellUp c = true ∧
    s.bit (AC_STAT_dir c) = true ∧ (s.cellSt c).changing = none ∧ s.sampleDue c = true ∧
    State.dacFits (s.setChain c { s.chain c with
      pos := if s.newLine c ((s.sampleAt.lookup c).getD 0) then 0 else (s.chain c).pos + 1 }) c = false := by
  unfold State.dacMissing at h
  extract_lets f placed at h
  obtain ⟨i, x, hinput, hnone⟩ := placed.dacInput_cases c
  simp only [Bool.and_eq_true, Option.isNone_iff_eq_none] at h
  obtain ⟨⟨⟨⟨hup, hdir⟩, hstill⟩, hdue⟩, hmissing⟩ := h
  rw [hinput] at hmissing
  refine ⟨hup, hdir, hstill, hdue, ?_⟩
  simpa [show i = none from hmissing] using hnone

theorem exec_dacInputUnderrun_of_missing (at_ : TT) (c : Fin 48) (s : State) :
    let u := s.atTime at_
    u.dacMissing c = true →
    ∃ t, exec (.dacInputUnderrun at_ c) s = .next t ∧ (t.chain c).underRun = true ∧
      t.bit (FC_STICKY_underrun c) = true ∧ t.sampleAt.get 0 c = u.gridAt c ∧
      t.g (cnt16 (FC_UNDERRUN_CNT c)) =
        min (s.g (cnt16 (FC_UNDERRUN_CNT c)) + (if (u.chain c).underRun then 0 else 1)) 65535 ∧
      keepsRegs s t (chainRegs c) ∧ keepsMemory s t := by
  intro u hmissing
  obtain ⟨hup, hdir, hstill, hdue, hfits⟩ := State.of_dacMissing hmissing
  have hexec : exec (.dacInputUnderrun at_ c) s = .next ((if u.dacMissing c then u.chainSample c 0 else u).ended s) := rfl
  obtain ⟨q, hq, hsample⟩ := State.chainSample_of_due hup hdue 0
  rw [if_pos hmissing, hsample] at hexec
  obtain ⟨v, hv, hvspares, hvrun⟩ := State.dacSample_of_missing hstill hfits
  have hmade : u.sampleMade c 0 = v.dacUnderrun c := by
    rw [State.sampleMade, hdir, ← hv]
    rfl
  obtain ⟨hrun, hsticky, hcount⟩ := v.dacUnderrun_shows c
  have hspares : u.Spares (Off (chainRegs c)) { (u.sampleMade c 0).rampStep c with sampleAt := q } :=
    (State.sampleMade_spares 0 (.inl hdir)).of_cells rfl rfl
  have hramp := (v.dacUnderrun c).rampStep_spares c
  have hoff : ∀ c : Fin 48, Off [AC_GAIN c] (FC_STICKY c) ∧ Off [AC_GAIN c] (FC_UNDERRUN_CNT c) ∧
    Off [FC_STAT c, FC_RESP_CHG_CNT c] (FC_UNDERRUN_CNT c) := by decide
  obtain ⟨hstickyOff, hcountOff, hcountOff'⟩ := hoff c
  refine ⟨_, hexec, ?_, ?_, ?_, ?_, keepsRegs_of_off hspares, keepsMemory_of_spares hspares⟩
  · rw [State.ended_chain, State.setSampleAt_chain, hmade, State.rampStep_chain, hrun]
  · rw [State.ended_bit _ _ (endsOn_chainReg c (by decide) (by decide)), State.bit_of_rd (State.setSampleAt_rd _ q _),
      hmade, hramp.bit hstickyOff, hsticky]
  · rw [State.ended_sampleAt, ← hq]
  · rw [State.ended_g _ _ (endsOn_chainReg c (by decide) (by decide)), State.g_of_rd (State.setSampleAt_rd _ q _),
      hmade, hramp.g hcountOff, hcount, hvspares.g hcountOff', hvrun, State.atTime_g]

end Sys2Proof.Machine

/-! ### The obligation -/

/-- Settles O40: a direction change that completes, the updates of the clamp and of the DC block, made or skipped, a
substituted sample, and a sample on the grid. -/
theorem cellsTurnAndFollow : Obligations.CellsTurnAndFollow :=
  ⟨exec_directionChangeComplete_of_changing,
    fun at_ c level s => ⟨exec_dcRestoreUpdate_of_due at_ c level s, exec_dcRestoreUpdate_of_marked at_ c level s⟩,
    exec_dcBlockUpdate_of_due, exec_dacInputUnderrun_of_missing, exec_chainOutputSample_of_due⟩
end
